-- ==== Sys2Proof/Word.lean ====
section
/-! DEFINITION. Word.lean: the word types of the model and nothing else. Arithmetic on them, bit fields, byte
order and checks stand in Machine/Bits.lean, where a repair may reach them. -/

namespace Sys2Proof

/-- One byte. -/
abbrev Byte := BitVec 8
/-- A run of bytes, lowest address first (00:R5). -/
abbrev Bytes := List (BitVec 8)
abbrev W16 := BitVec 16
abbrev W32 := BitVec 32
abbrev W64 := BitVec 64
/-- A coordinate word without its reserved bits (05:R151). -/
abbrev Coord := BitVec 17
/-- A 128-byte submission entry read as one little-endian number (04:R123). -/
abbrev Entry := BitVec 1024

end Sys2Proof
end

