-- ==== Sys2Proof/Syntax.lean ====
section
/-! DEFINITION. Syntax.lean: the commands of the block, one constructor of `Instr` per row of
spec/opcode_table.json, and the plain data their operands are made of. The table gives no row any bits; the
operands are the fields that the rules of each row name. -/

namespace Sys2Proof

/-- What starts a cold reset (03 Table 3-1). -/
inductive ColdSource where
  | pwrgoodRise | crstLow
deriving DecidableEq, Repr

/-- What starts a warm reset (03 Table 3-1, 03:R62). -/
inductive WarmSource where
  | octozInternal | stagingPoison | secondStagingFault | resetCtl | bootWatchdog | treeNoStandby | recovery
deriving DecidableEq, Repr

/-- What starts a host-link reset (03 Table 3-1). -/
inductive HostLinkSource where
  | perst | hotReset | linkDown | functionLevel
deriving DecidableEq, Repr

/-- The path of a register access (02:R31). -/
inductive Path where
  | bar0 | sideband
deriving DecidableEq, Repr

/-- The 64-bit registers with latched halves (19:R530). -/
inductive Reg64 where
  | timestamp | alarm | dieId | tmDone | tmNext
deriving DecidableEq, Repr

/-- Which part of a 64-bit register a write carries (19:R531). -/
inductive Half where
  | low | high | both
deriving DecidableEq, Repr

/-- The five timer registers of the keeper block (19:R532). -/
inductive TimerField where
  | dozeAfter | napAfter | deepAfter | heraldHold | floor
deriving DecidableEq, Repr

/-- A PCI Express configuration request (18:R502, 04:R90, 15:R409). -/
inductive CfgReq where
  | read (dword : BitVec 10)
  | write (dword : BitVec 10) (value : W32)
  | setBusMaster (on : Bool)
  | setRelaxedOrdering (on : Bool)
  | setMaxPayload (log2 : BitVec 4)
  | setMaxReadRequest (log2 : BitVec 4)
  | readCaps
  | setL1 (on : Bool)
  | setMsix (enable functionMask : Bool)
  | resizeBar2 (log2 : BitVec 6)
deriving DecidableEq, Repr

/-- A host access to a memory BAR. -/
inductive HostAccess where
  | read (offset : W64) (len : Nat)
  | write (offset : W64) (data : Bytes)
deriving DecidableEq, Repr

/-- What a PCI Express completion of an engine read delivers (04:R122). -/
inductive ReadResult where
  | ok | error | poisoned
deriving DecidableEq, Repr

/-- A lane thread: physical lane and thread context (13:R348). -/
structure Tid where
  lane : Byte
  thr : BitVec 3
deriving DecidableEq, Repr

/-- The fields of an instruction word below OPC (13:R367). -/
structure InsFields where
  d : BitVec 5
  a : BitVec 5
  b : BitVec 5
  c : BitVec 5
  md : BitVec 4
  imm : W32
deriving DecidableEq, Repr

/-- A fabric packet: header (08:R229), payload, trailer (08:R231). LENGTH is the payload's length. -/
structure Packet where
  kind : BitVec 4
  vc : BitVec 2
  epoch : Bool
  flag : Bool
  mark : Bool
  echo : Bool
  job : BitVec 4
  mcast : Bool
  rerouted : Bool
  sync : Bool
  dest : Coord
  seq : BitVec 15
  src : Coord
  prior : BitVec 6
  tag : W32
  payload : Bytes
  crc : W32
  tflags : Byte
deriving DecidableEq, Repr

/-- A flit group and its trailer (07 Table 7-4): four flits, flit 0 in the low 512 bits. -/
structure FlitGroup where
  data : BitVec 2048
  groupSeq : W16
  ackSeq : W16
  crc : W32
deriving DecidableEq, Repr

/-- What a GROUP row brings: on a native port the group itself; on a bridge port the symbols that the near GB2 has taken from
its eight long-reach lanes, and the bit of their message at which the group begins (07:R188). -/
inductive GroupInput where
  | frame (g : FlitGroup)
  | coded (lanes : List (List (BitVec 10))) (start : Nat)
deriving DecidableEq, Repr

/-- A control flit (07 Table 7-5). -/
structure CtrlFlit where
  type : Byte
  ackSeq : W16
  retrySeq : W16
  body : BitVec 416
  crc : W32
deriving DecidableEq, Repr

/-- Where a packet head to be routed stands: an input channel of a port, or the NI's injection queue. -/
inductive ForwardSource where
  | input (port : BitVec 4) (vc : BitVec 2)
  | inject
deriving DecidableEq, Repr

/-- A congestion class: VC1 or VC2 with a first-hop direction, 0 to 5 for +X to -Z (08:R220). -/
structure RateClass where
  vc2 : Bool
  dir : BitVec 3
deriving DecidableEq, Repr

/-- An ECC error that a Tannery unit met (15 Table 15-10). `cause` is that table's CAUSE. -/
structure TmError where
  pc : BitVec 5
  bank : BitVec 4
  row : BitVec 17
  col : BitVec 10
  cause : Byte
  uncorrectable : Bool
deriving DecidableEq, Repr

/-- Kinds of lane error (16 Table 16-1). -/
inductive LaneErrorKind where
  | datapath | memCorrectable | memUncorrectable
deriving DecidableEq, Repr

/-- The units that a targeted self-test tests (16:R444, Table 16-2). -/
inductive TestUnit where
  | lane (physical : Byte)
  | link (port : BitVec 4)
  | tannery (module : BitVec 3) (pc : BitVec 5) (bank : BitVec 4)
  | treePair (pair : BitVec 1)
  | staging (physical : BitVec 5)
deriving DecidableEq, Repr

/-- What COMMAND_TIMEOUT ends: a command of a queue that waits at its head, a started command, a bound context,
or a saved one (04:R108, 10:R282). -/
inductive TimeoutTarget where
  | waiting (q : BitVec 6)
  | started (id : Nat)
  | context (ctx : BitVec 9)
  | saved (record : BitVec 9)
deriving DecidableEq, Repr

/-- The commands of the block: one constructor per row of spec/opcode_table.json. -/
inductive Instr where
  /-- COLD_RESET (R81). -/
  | coldReset (src : ColdSource) (saddr : BitVec 2) (fuseOk : Bool)
  /-- POWER_LOSS (R496). -/
  | powerLoss
  /-- WARM_RESET (R62). -/
  | warmReset (src : WarmSource)
  /-- HOST_LINK_RESET (R63). -/
  | hostLinkReset (src : HostLinkSource)
  /-- POWERUP_SELFTEST (R68). -/
  | powerupSelftest (lanesPass : BitVec 168) (treePass : BitVec 2) (stagingPass : BitVec 17)
  /-- AUTHENTICATION (R72). -/
  | authentication
  /-- OCTOZ_READY (R89). -/
  | octozReady (tmTrained : BitVec 8) (gbTrained : BitVec 3)
  /-- BOOT_WATCHDOG (R67). -/
  | bootWatchdog
  /-- DOZE_ENTRY (R33). -/
  | dozeEntry
  /-- NAP_ENTRY (R34). -/
  | napEntry
  /-- DEEP_ENTRY (R34). -/
  | deepEntry
  /-- DEEP_ENTRY_DONE (R34). -/
  | deepEntryDone
  /-- WAKE_DONE (R37). -/
  | wakeDone
  /-- WAKE_PIN (R504). -/
  | wakePin
  /-- ALARM_FIRE (R533). -/
  | alarmFire
  /-- HERALD_HOLD_EXPIRY (R43). -/
  | heraldHoldExpiry
  /-- SIDEBAND_WRITE (R509). -/
  | sidebandWrite (offset : W16) (words : List W32)
  /-- SIDEBAND_READ (R51). -/
  | sidebandRead (offset : W16) (count : Nat)
  /-- SIDEBAND_TIMEOUT (R510). -/
  | sidebandTimeout
  /-- LOW_HALF_READ (R530). -/
  | lowHalfRead (path : Path) (reg : Reg64)
  /-- REGISTER_WRITE (R17). -/
  | registerWrite (offset : W32) (size : Nat) (value : W64)
  /-- POWER_TIMER_WRITE (R532). -/
  | powerTimerWrite (path : Path) (field : TimerField) (value : W32)
  /-- ALARM_WRITE (R533). -/
  | alarmWrite (path : Path) (half : Half) (value : W64)
  /-- ALARM_ARM (R533). -/
  | alarmArm (path : Path) (value : W32)
  /-- WAKE_GO (R534). -/
  | wakeGo (path : Path) (value : W32)
  /-- RESET_CTL (R535). -/
  | resetCtl (path : Path) (value : W32)
  /-- RECOVERY_GO (R74). -/
  | recoveryGo (path : Path) (value : W32)
  /-- LAG_CTL_CLEAR (R537). -/
  | lagCtlClear (value : W32)
  /-- TANNERY_APERTURE_WRITE (R539). -/
  | tanneryApertureWrite (aperture : BitVec 3) (half : Half) (value : W64)
  /-- PCIE_CONFIG_REQUEST (R502). -/
  | pcieConfigRequest (req : CfgReq)
  /-- BAR2_ACCESS (R409). -/
  | bar2Access (acc : HostAccess)
  /-- BAR4_ACCESS (R156). -/
  | bar4Access (acc : HostAccess)
  /-- SQ_TAIL_WRITE (R99). -/
  | sqTailWrite (q : BitVec 6) (value : W32)
  /-- CQ_HEAD_WRITE (R102). -/
  | cqHeadWrite (page : BitVec 7) (value : W32)
  /-- QUEUE_ENABLE (R95). -/
  | queueEnable (page : BitVec 7) (qctrl : W32)
  /-- QUEUE_DISABLE (R96). -/
  | queueDisable (page : BitVec 7) (qctrl : W32)
  /-- FETCH (R103). -/
  | fetch (q : BitVec 6)
  /-- IMOD_TIMER (R114). -/
  | imodTimer (page : BitVec 7)
  /-- IDENT (R133). -/
  | ident (q : BitVec 6) (e : Entry)
  /-- CONFIG_SET (R134). -/
  | configSet (q : BitVec 6) (e : Entry)
  /-- POWER_POLICY (R135). -/
  | powerPolicy (q : BitVec 6) (e : Entry)
  /-- PREWARM (R46). -/
  | prewarm (q : BitVec 6) (e : Entry)
  /-- WINDOW_MAP (R137). -/
  | windowMap (q : BitVec 6) (e : Entry)
  /-- WINDOW_UNMAP (R138). -/
  | windowUnmap (q : BitVec 6) (e : Entry)
  /-- RANKMAP_LOAD (R139). -/
  | rankmapLoad (q : BitVec 6) (e : Entry)
  /-- RANKMAP_PATCH (R140). -/
  | rankmapPatch (q : BitVec 6) (e : Entry)
  /-- COMM_CREATE (R242). -/
  | commCreate (q : BitVec 6) (e : Entry)
  /-- COMM_DESTROY (R141). -/
  | commDestroy (q : BitVec 6) (e : Entry)
  /-- DRAIN (R142). -/
  | drain (q : BitVec 6) (e : Entry)
  /-- DRAIN_RELEASE (R142). -/
  | drainRelease (q : BitVec 6) (e : Entry)
  /-- ROUTE_UPDATE (R143). -/
  | routeUpdate (q : BitVec 6) (e : Entry)
  /-- SELFTEST (R144). -/
  | selftest (q : BitVec 6) (e : Entry)
  /-- LOG_READ (R145). -/
  | logRead (q : BitVec 6) (e : Entry)
  /-- FW_UPDATE_WRITE (R79). -/
  | fwUpdateWrite (q : BitVec 6) (e : Entry)
  /-- FW_UPDATE_ACTIVATE (R79). -/
  | fwUpdateActivate (q : BitVec 6) (e : Entry)
  /-- FW_UPDATE_COMMIT (R79). -/
  | fwUpdateCommit (q : BitVec 6) (e : Entry)
  /-- PROG_LOAD (R147). -/
  | progLoad (q : BitVec 6) (e : Entry)
  /-- COLL_SUBMIT (R262). -/
  | collSubmit (q : BitVec 6) (e : Entry)
  /-- COLLECTIVE_COMPLETE (R352). -/
  | collectiveComplete (ctx : BitVec 9)
  /-- COMMAND_TIMEOUT (R108). -/
  | commandTimeout (target : TimeoutTarget)
  /-- PUT (R283). -/
  | put (q : BitVec 6) (e : Entry)
  /-- GET (R283). -/
  | get (q : BitVec 6) (e : Entry)
  /-- ATOMIC (R285). -/
  | atomic (q : BitVec 6) (e : Entry)
  /-- TM_OP (R411). -/
  | tmOp (q : BitVec 6) (e : Entry)
  /-- ACCUM_ARM (R426). -/
  | accumArm (q : BitVec 6) (e : Entry)
  /-- ACCUM_DISARM (R426). -/
  | accumDisarm (q : BitVec 6) (e : Entry)
  /-- TM_FENCE (R416). -/
  | tmFence (q : BitVec 6) (e : Entry)
  /-- STATE_PARK (R422). -/
  | statePark (q : BitVec 6) (e : Entry)
  /-- STATE_UNPARK (R422). -/
  | stateUnpark (q : BitVec 6) (e : Entry)
  /-- STATE_FORK (R423). -/
  | stateFork (q : BitVec 6) (e : Entry)
  /-- STATE_DROP (R424). -/
  | stateDrop (q : BitVec 6) (e : Entry)
  /-- ROUTE_DISPATCH (R376). -/
  | routeDispatch (q : BitVec 6) (e : Entry)
  /-- COMBINE_ALLREDUCE (R396). -/
  | combineAllreduce (q : BitVec 6) (e : Entry)
  /-- CONTEXT_SAVE (R281). -/
  | contextSave
  /-- CONTEXT_SAVED (R362). -/
  | contextSaved (ctx : BitVec 9)
  /-- CONTEXT_RESTORE (R282). -/
  | contextRestore (record : BitVec 9)
  /-- ADD (R368). -/
  | add (t : Tid) (w : InsFields)
  /-- SUB (R368). -/
  | sub (t : Tid) (w : InsFields)
  /-- AND (R368). -/
  | and (t : Tid) (w : InsFields)
  /-- OR (R368). -/
  | or (t : Tid) (w : InsFields)
  /-- XOR (R368). -/
  | xor (t : Tid) (w : InsFields)
  /-- MUL (R368). -/
  | mul (t : Tid) (w : InsFields)
  /-- SHL (R368). -/
  | shl (t : Tid) (w : InsFields)
  /-- SHR (R368). -/
  | shr (t : Tid) (w : InsFields)
  /-- SAR (R368). -/
  | sar (t : Tid) (w : InsFields)
  /-- CMP (R368). -/
  | cmp (t : Tid) (w : InsFields)
  /-- MOVI (R368). -/
  | movi (t : Tid) (w : InsFields)
  /-- BR (R368). -/
  | br (t : Tid) (w : InsFields)
  /-- YIELD (R368). -/
  | yield (t : Tid) (w : InsFields)
  /-- END (R352). -/
  | endThread (t : Tid) (w : InsFields)
  /-- SPAWN (R351). -/
  | spawn (t : Tid) (w : InsFields)
  /-- SYNC (R368). -/
  | sync (t : Tid) (w : InsFields)
  /-- TIME (R368). -/
  | time (t : Tid) (w : InsFields)
  /-- SETRES (R368). -/
  | setres (t : Tid) (w : InsFields)
  /-- TRAP (R368). -/
  | trap (t : Tid) (w : InsFields)
  /-- LD (R353). -/
  | ld (t : Tid) (w : InsFields)
  /-- ST (R353). -/
  | st (t : Tid) (w : InsFields)
  /-- VLD (R353). -/
  | vld (t : Tid) (w : InsFields)
  /-- VST (R353). -/
  | vst (t : Tid) (w : InsFields)
  /-- FENCE (R349). -/
  | fence (t : Tid) (w : InsFields)
  /-- SLD (R354). -/
  | sld (t : Tid) (w : InsFields)
  /-- SST (R354). -/
  | sst (t : Tid) (w : InsFields)
  /-- VADDF (R368). -/
  | vaddf (t : Tid) (w : InsFields)
  /-- VMM (R368). -/
  | vmm (t : Tid) (w : InsFields)
  /-- VCVT (R368). -/
  | vcvt (t : Tid) (w : InsFields)
  /-- VBIT (R368). -/
  | vbit (t : Tid) (w : InsFields)
  /-- VBCAST (R368). -/
  | vbcast (t : Tid) (w : InsFields)
  /-- ACCX (R355). -/
  | accx (t : Tid) (w : InsFields)
  /-- ACCP (R355). -/
  | accp (t : Tid) (w : InsFields)
  /-- ACCLP (R355). -/
  | acclp (t : Tid) (w : InsFields)
  /-- ACCESC (R355). -/
  | accesc (t : Tid) (w : InsFields)
  /-- ACC_DRAIN (R355). -/
  | accDrain (t : Tid) (w : InsFields)
  /-- TOLP (R355). -/
  | tolp (t : Tid) (w : InsFields)
  /-- SLOTCLR (R334). -/
  | slotclr (t : Tid) (w : InsFields)
  /-- CSEND (R368). -/
  | csend (t : Tid) (w : InsFields)
  /-- CRECV (R368). -/
  | crecv (t : Tid) (w : InsFields)
  /-- CDONE (R276). -/
  | cdone (t : Tid) (w : InsFields)
  /-- CHUNK (R276). -/
  | chunk (p : Packet)
  /-- CHUNK_GRANT (R275). -/
  | chunkGrant (p : Packet)
  /-- COUNT_CHUNK (R268). -/
  | countChunk (p : Packet)
  /-- CHUNK_REREQ (R460). -/
  | chunkRereq (p : Packet)
  /-- CHUNK_TIMEOUT (R279). -/
  | chunkTimeout (ctx : BitVec 9) (sender : BitVec 17) (phase step : Byte) (elemOffset : W64) (elemCount : W32)
  /-- CINCH_UP (R299). -/
  | cinchUp (p : Packet)
  /-- CINCH_DOWN (R300). -/
  | cinchDown (p : Packet)
  /-- CINCH_REREQ (R304). -/
  | cinchRereq (p : Packet)
  /-- CINCH_SET_TIMEOUT (R304). -/
  | cinchSetTimeout (ctx : BitVec 9) (ctype : BitVec 4) (axis : BitVec 2) (sender : Coord)
  /-- VOTE_UP (R306). -/
  | voteUp (p : Packet)
  /-- VOTE_DOWN (R306). -/
  | voteDown (p : Packet)
  /-- ABORT_NOTICE (R305). -/
  | abortNotice (port : BitVec 4) (p : Packet)
  /-- HERALD (R42). -/
  | herald (port : BitVec 4) (p : Packet) (emitter : BitVec 18)
  /-- HERALD_FRAME (R44). -/
  | heraldFrame (port : BitVec 4) (p : Packet) (emitter : BitVec 18)
  /-- CREDIT_FRAME (R194). -/
  | creditFrame (port : BitVec 4)
  /-- BUSY_FRAME (R194). -/
  | busyFrame (port : BitVec 4)
  /-- HERALD_FRAME_TIMEOUT (R194). -/
  | heraldFrameTimeout (port : BitVec 4)
  /-- WAKE_FRAME (R192). -/
  | wakeFrame (port : BitVec 4)
  /-- DEEP_FRAME (R193). -/
  | deepFrame (port : BitVec 4)
  /-- RESUME_FRAME (R547). -/
  | resumeFrame (port : BitVec 4)
  /-- GROUP (R183). -/
  | group (port : BitVec 4) (g : GroupInput)
  /-- RETRY_REQ (R184). -/
  | retryReq (port : BitVec 4) (f : CtrlFlit)
  /-- ACK (R184). -/
  | ack (port : BitVec 4) (f : CtrlFlit)
  /-- ACK_TIMEOUT (R185). -/
  | ackTimeout (port : BitVec 4)
  /-- CREDIT (R205). -/
  | credit (port : BitVec 4) (f : CtrlFlit)
  /-- IDENTITY (R181). -/
  | identity (port : BitVec 4) (f : CtrlFlit)
  /-- LPI_REQ (R192). -/
  | lpiReq (port : BitVec 4) (f : CtrlFlit)
  /-- LPI_ACK (R192). -/
  | lpiAck (port : BitVec 4) (f : CtrlFlit)
  /-- SIGNAL_DETECT (R180). -/
  | signalDetect (port : BitVec 4)
  /-- TRAINING_DONE (R180). -/
  | trainingDone (port : BitVec 4) (lanesLocked : Byte)
  /-- TRAINING_STEP_TIMEOUT (R180). -/
  | trainingStepTimeout (port : BitVec 4)
  /-- TRAINING_RETRY (R180). -/
  | trainingRetry (port : BitVec 4)
  /-- LOCK_LOSS (R182). -/
  | lockLoss (port : BitVec 4) (lanesLost : Byte)
  /-- FAR_GONE (R195). -/
  | farGone (port : BitVec 4)
  /-- GB2_FAULT (R191). -/
  | gb2Fault (unit : BitVec 2)
  /-- ARBITRATION_WINDOW (R211). -/
  | arbitrationWindow (port : BitVec 4)
  /-- PACKET_START (R213). -/
  | packetStart (port : BitVec 4)
  /-- PACKET_FORWARD (R223). -/
  | packetForward (from_ : ForwardSource)
  /-- PUT_PACKET (R284). -/
  | putPacket (p : Packet)
  /-- GET_REQ (R202). -/
  | getReq (p : Packet)
  /-- LANE_STORE (R202). -/
  | laneStore (p : Packet)
  /-- LANE_LOAD (R202). -/
  | laneLoad (p : Packet)
  /-- ATOMIC_REQ (R465). -/
  | atomicReq (p : Packet)
  /-- READ_RESP (R283). -/
  | readResp (p : Packet)
  /-- ATOMIC_RESP (R466). -/
  | atomicResp (p : Packet)
  /-- MISS_ACK (R161). -/
  | missAck (p : Packet)
  /-- DRAIN_MARKER (R227). -/
  | drainMarker (p : Packet)
  /-- E2E_ACK (R217). -/
  | e2eAck (p : Packet)
  /-- E2E_ACK_SEND (R217). -/
  | e2eAckSend (source : Coord)
  /-- E2E_BUSY (R210). -/
  | e2eBusy (p : Packet)
  /-- BUSY_RESEND (R210). -/
  | busyResend (request : W32)
  /-- E2E_REREQ (R463). -/
  | e2eRereq (p : Packet)
  /-- REREQ_TIMEOUT (R463). -/
  | rereqTimeout (source : Coord)
  /-- REISSUE_TIMEOUT (R464). -/
  | reissueTimeout (request : W32)
  /-- FLAG_RELEASE (R218). -/
  | flagRelease (source : Coord)
  /-- RATE_RISE (R220). -/
  | rateRise (cls : RateClass)
  /-- RATE_RESET (R220). -/
  | rateReset (cls : RateClass)
  /-- PROBE (R467). -/
  | probe (p : Packet)
  /-- PROBE_ANSWER (R467). -/
  | probeAnswer (p : Packet)
  /-- PROBE_TIMEOUT (R467). -/
  | probeTimeout (coord : Coord)
  /-- LOSS_NOTICE (R468). -/
  | lossNotice (port : BitVec 4) (p : Packet)
  /-- REJOIN_NOTICE (R470). -/
  | rejoinNotice (port : BitVec 4) (p : Packet)
  /-- DEGRADED_ROUTING_END (R472). -/
  | degradedRoutingEnd
  /-- TM_OP_EXECUTE (R415). -/
  | tmOpExecute (module : BitVec 3) (found : List TmError)
  /-- MODULE_DOWN (R430). -/
  | moduleDown (module : BitVec 3) (baseDie : Bool)
  /-- PATROL_SCRUB (R432). -/
  | patrolScrub (module : BitVec 3) (found : List TmError)
  /-- LANE_ERROR (R364). -/
  | laneError (lane : Byte) (kind : LaneErrorKind)
  /-- STAGING_ERROR (R450). -/
  | stagingError (bank : BitVec 4) (word : W32) (uncorrectable : Bool)
  /-- TANNERY_ERROR (R453). -/
  | tanneryError (module : BitVec 3) (e : TmError)
  /-- LOCKSTEP_MISMATCH (R452). -/
  | lockstepMismatch
  /-- TREE_WATCHDOG (R452). -/
  | treeWatchdog
  /-- TARGETED_SELFTEST_END (R444). -/
  | targetedSelftestEnd (unit : TestUnit) (pass : Bool)
  /-- THERMAL_WARNING (R515). -/
  | thermalWarning (sensor : BitVec 3) (temp : W16)
  /-- THROTTLE (R515). -/
  | throttle (sensor : BitVec 3) (temp : W16)
  /-- THERMAL_CLEAR (R515). -/
  | thermalClear (sensor : BitVec 3) (temp : W16)
  /-- THERMAL_TRIP (R515). -/
  | thermalTrip (sensor : BitVec 3) (temp : W16)
  /-- TM_TEMP_REPORT (R517). -/
  | tmTempReport (module : BitVec 3) (temp : W16)
  /-- GB2_TEMPERATURE (R520). -/
  | gb2Temperature (unit : BitVec 2) (temp : W16)
  /-- EXTEST (R78). -/
  | extest
  /-- IDCODE (R512). -/
  | idcode
  /-- SAMPLE_PRELOAD (R525). -/
  | samplePreload (pins preload : List Bool)
  /-- BYPASS (R525). -/
  | bypass (code : Byte)
  /-- SCAN_CHAIN (R77). -/
  | scanChain
  /-- MEM_ACCESS (R77). -/
  | memAccess
  /-- TREE_HALT (R77). -/
  | treeHalt
  /-- FUSE_READ (R77). -/
  | fuseRead
  /-- KEEPER_TICK (R30). -/
  | keeperTick
  /-- WAKE_N_RISE (R504). -/
  | wakeNRise
  /-- PERST_N_RISE (R502). -/
  | perstNRise
  /-- REFCLK_STOP (R500). -/
  | refclkStop
  /-- BAR0_READ (R36). -/
  | bar0Read (offset : W32) (size : Nat)
  /-- PCIE_READ_COMPLETION (R122). -/
  | pcieReadCompletion (tag : BitVec 10) (res : ReadResult) (data : Bytes)
  /-- FLASH_WRITE_DONE (R80). -/
  | flashWriteDone (ok : Bool)
deriving DecidableEq, Repr

end Sys2Proof
end

