-- ==== Sys2Proof/Machine/Bits.lean ====
section
/-! DEFINITION. Machine/Bits.lean: byte order (00:R5), bit fields, CRC-32C, list updates and coordinate words. -/

namespace Sys2Proof.Machine

/-- The number that bytes spell, lowest address least significant (00:R5). -/
def leNat : Bytes → Nat
  | [] => 0
  | b :: r => b.toNat + 256 * leNat r

/-- The `n` bytes of a number, least significant first (00:R5). -/
def leBytes : Nat → Nat → Bytes
  | 0, _ => []
  | n + 1, x => BitVec.ofNat 8 x :: leBytes n (x / 256)

/-- The bytes of a bit vector of `8 * n` bits. -/
def bvBytes {w : Nat} (n : Nat) (x : BitVec w) : Bytes := leBytes n x.toNat

/-- `n` bytes of a byte string from offset `o`, zero beyond its end. -/
def slice (o n : Nat) (b : Bytes) : Bytes :=
  let r := (b.drop o).take n
  r ++ List.replicate (n - r.length) 0

/-- The little-endian field of `n` bytes at byte offset `o`. -/
def fieldAt (o n : Nat) (b : Bytes) : Nat := leNat (slice o n b)

/-- Bits `lo .. lo + n - 1` of a number. -/
def natBits (lo n x : Nat) : Nat := (x >>> lo) % 2 ^ n

/-- Bit `i` of a number. -/
def natBit (i x : Nat) : Bool := x.testBit i

/-- One step of the reflected CRC-32C shift register. -/
def crcBit (c : Nat) : Nat := if c % 2 = 1 then (c / 2) ^^^ 0x82F63B78 else c / 2

/-- CRC-32C over one more byte. -/
def crcByte (c : Nat) (b : Byte) : Nat :=
  crcBit (crcBit (crcBit (crcBit (crcBit (crcBit (crcBit (crcBit (c ^^^ b.toNat))))))))

/-- CRC-32C (Castagnoli, 00:R18) of a byte string (log 14: initial value and final inversion). -/
def crc32c (bs : Bytes) : W32 := BitVec.ofNat 32 (bs.foldl crcByte 0xFFFFFFFF ^^^ 0xFFFFFFFF)

/-- Element `i` of a list replaced through `f`; the list unchanged when there is none. -/
def modAt {α : Type} (f : α → α) : Nat → List α → List α
  | _, [] => []
  | 0, x :: r => f x :: r
  | n + 1, x :: r => x :: modAt f n r

/-- Element `i` of a list replaced by `x`. -/
def setAt {α : Type} (i : Nat) (x : α) (l : List α) : List α := modAt (fun _ => x) i l

/-- The elements that satisfy `p`, replaced through `f`. -/
def updWhere {α : Type} (p : α → Bool) (f : α → α) (l : List α) : List α :=
  l.map fun x => if p x then f x else x

/-- A 32-bit counter one higher, saturating (07:R197). -/
def satInc (c : W32) : W32 := if c = 0xFFFFFFFF then c else c + 1

/-- A 32-bit counter `n` higher, saturating. -/
def satAdd (c : W32) (n : Nat) : W32 := BitVec.ofNat 32 (min (c.toNat + n) 0xFFFFFFFF)

/-- A Bool as a number. -/
def b2n (b : Bool) : Nat := if b then 1 else 0

/-- X of a coordinate word (05:R151). -/
def cx (c : Nat) : Nat := natBits 0 6 c
/-- Y of a coordinate word. -/
def cy (c : Nat) : Nat := natBits 6 6 c
/-- Z of a coordinate word. -/
def cz (c : Nat) : Nat := natBits 12 5 c

/-- The coordinate word of (x, y, z). -/
def mkCoord (x y z : Nat) : Coord := BitVec.ofNat 17 (x % 64 + 64 * (y % 64) + 4096 * (z % 32))

/-- Coordinate `a` of a coordinate word, axis 0 X, 1 Y, 2 Z. -/
def axisOf (a : Nat) (c : Coord) : Nat :=
  match a with
  | 0 => cx c.toNat
  | 1 => cy c.toNat
  | _ => cz c.toNat

/-- The coordinate word with axis `a` replaced. -/
def withAxis (a v : Nat) (c : Coord) : Coord :=
  match a with
  | 0 => mkCoord v (cy c.toNat) (cz c.toNat)
  | 1 => mkCoord (cx c.toNat) v (cz c.toNat)
  | _ => mkCoord (cx c.toNat) (cy c.toNat) v

/-- The torus size on axis `a` when TORUS_DIMS holds `dims` (05:R152: size minus one). -/
def torusSize (dims : W32) (a : Nat) : Nat :=
  match a with
  | 0 => cx dims.toNat + 1
  | 1 => cy dims.toNat + 1
  | _ => cz dims.toNat + 1

/-- The least power of two exponent with `2 ^ k >= n`. -/
def log2ceil (n : Nat) : Nat := if n ≤ 1 then 0 else Nat.log2 (n - 1) + 1

/-- Division rounded up. -/
def ceilDiv (a b : Nat) : Nat := if b = 0 then 0 else (a + b - 1) / b

/-- Zero-extended sign extension of the low `n` bits of `x` to an integer. -/
def sext (n x : Nat) : Int :=
  let y := x % 2 ^ n
  if y < 2 ^ (n - 1) then (y : Int) else (y : Int) - (2 ^ n : Nat)

/-- Two's complement of an integer in `n` bits. -/
def twos (n : Nat) (v : Int) : Nat := (v % ((2 ^ n : Nat) : Int)).toNat

/-- A bit vector as a list of bits, bit 0 first. -/
def bitList {w : Nat} (x : BitVec w) : List Bool := (List.range w).map fun i => x.getLsbD i

/-- The bit vector that a list of bits spells, bit 0 first. -/
def bitsNat : List Bool → Nat
  | [] => 0
  | b :: r => b2n b + 2 * bitsNat r

end Sys2Proof.Machine
end

