-- ==== Sys2Proof/Machine/Arith.lean ====
section
/-! DEFINITION. Machine/Arith.lean: the float formats and their exact decoding (12:R316), rounding to nearest even
(12:R317, R326), the long accumulator and LP128 (12:R321 to R325), and the correctly rounded functions of 12:R336,
14:R382 and 14:R390. Values are exact dyadic numbers; only `roundRat` rounds. -/

namespace Sys2Proof.Machine

/-- A float format (12 Table 12-6). -/
structure Fmt where
  mbits : Nat
  ebits : Nat
  bias : Nat
  maxFinite : Nat
  inf : Option Nat
  nan : Nat
deriving DecidableEq, Repr

/-- Binary32. -/
def fp32 : Fmt := { mbits := 23, ebits := 8, bias := 127, maxFinite := 0x7F7FFFFF, inf := some 0x7F800000,
                    nan := 0x7FC00000 }
/-- Bfloat16. -/
def bf16 : Fmt := { mbits := 7, ebits := 8, bias := 127, maxFinite := 0x7F7F, inf := some 0x7F80, nan := 0x7FC0 }
/-- Binary16. -/
def fp16 : Fmt := { mbits := 10, ebits := 5, bias := 15, maxFinite := 0x7BFF, inf := some 0x7C00, nan := 0x7E00 }
/-- 8-bit E4M3: no infinity, NaN only at all ones (12:R316). -/
def e4m3 : Fmt := { mbits := 3, ebits := 4, bias := 7, maxFinite := 0x7E, inf := none, nan := 0x7F }
/-- 8-bit E5M2. -/
def e5m2 : Fmt := { mbits := 2, ebits := 5, bias := 15, maxFinite := 0x7B, inf := some 0x7C, nan := 0x7E }

/-- The float format of a data type code (10:R295). -/
def fmtOf (dtype : Nat) : Option Fmt :=
  match dtype with
  | 0x1 => some bf16
  | 0x2 => some fp16
  | 0x3 => some fp32
  | 0x4 => some e4m3
  | 0x5 => some e5m2
  | _ => none

/-- The size in bytes of a data type code (10:R295). -/
def dtypeSize (dtype : Nat) : Nat :=
  match dtype with
  | 0x1 => 2
  | 0x2 => 2
  | 0x3 => 4
  | 0x4 => 1
  | 0x5 => 1
  | 0x8 => 1
  | 0x9 => 4
  | 0xA => 8
  | _ => 0

/-- INT8, INT32 or INT64. -/
def isIntType (dtype : Nat) : Bool := dtype = 0x8 || dtype = 0x9 || dtype = 0xA

/-- A float type. -/
def isFloatType (dtype : Nat) : Bool := (fmtOf dtype).isSome

/-- The width in bits of a format. -/
def fmtWidth (f : Fmt) : Nat := f.mbits + f.ebits + 1

/-- A float value: NaN, an infinity, or `m * 2^e` with a sign. -/
inductive FVal where
  | nan
  | inf (neg : Bool)
  | fin (neg : Bool) (m : Nat) (e : Int)
deriving DecidableEq, Repr

/-- The exact value of a code (12:R316). -/
def fdecode (f : Fmt) (x : Nat) : FVal :=
  let neg := natBit (f.mbits + f.ebits) x
  let ex := natBits f.mbits f.ebits x
  let man := natBits 0 f.mbits x
  let mag := natBits 0 (f.mbits + f.ebits) x
  match f.inf with
  | some i => if mag = i then .inf neg else if mag > i then .nan
              else if ex = 0 then .fin neg man (1 - f.bias - f.mbits)
              else .fin neg (2 ^ f.mbits + man) ((ex : Int) - f.bias - f.mbits)
  | none => if mag = f.nan then .nan
            else if ex = 0 then .fin neg man (1 - f.bias - f.mbits)
            else .fin neg (2 ^ f.mbits + man) ((ex : Int) - f.bias - f.mbits)

/-- `a / b` rounded to the nearest integer, ties to even. -/
def divRne (a b : Nat) : Nat :=
  let q := a / b
  let r := a % b
  if 2 * r < b then q else if b < 2 * r then q + 1 else if q % 2 = 0 then q else q + 1

/-- Numerator and denominator of `(num / den) / 2^q`. -/
def scaleRat (num den : Nat) (q : Int) : Nat × Nat :=
  if 0 ≤ q then (num, den * 2 ^ q.toNat) else (num * 2 ^ (-q).toNat, den)

/-- The exponent `k` with `2^k <= num / den < 2^(k+1)`, for positive numbers. -/
def ratLog2 (num den : Nat) : Int :=
  let k : Int := (Nat.log2 num : Int) - (Nat.log2 den : Int)
  let (a, b) := scaleRat num den k
  if a < b then k - 1 else k

/-- The magnitude code of the positive rational `num / den` rounded to nearest even, with no upper bound. -/
def roundMag (f : Fmt) (num den : Nat) : Nat :=
  let emin : Int := 1 - (f.bias : Int)
  let e := max (ratLog2 num den) emin
  let (a, b) := scaleRat num den (e - f.mbits)
  (e - emin).toNat * 2 ^ f.mbits + divRne a b

/-- A magnitude code with a sign. -/
def signed (f : Fmt) (neg : Bool) (mag : Nat) : Nat := mag + b2n neg * 2 ^ (f.mbits + f.ebits)

/-- The rational `num / den` (12:R326): its code, and whether the overflow state is set. `sat` saturates a value
beyond the largest finite one; E4M3 saturates always. -/
def roundRat (f : Fmt) (sat neg : Bool) (num den : Nat) : Nat × Bool :=
  if num = 0 then (signed f neg 0, false)
  else
    let mag := roundMag f num den
    if mag ≤ f.maxFinite then (signed f neg mag, false)
    else
      match sat, f.inf with
      | false, some i => (signed f neg i, true)
      | _, _ => (signed f neg f.maxFinite, true)

/-- Conversion of a value into a format (12:R326). -/
def fencode (f : Fmt) (sat : Bool) (v : FVal) : Nat × Bool :=
  match v with
  | .nan => (f.nan, false)
  | .inf neg =>
    match f.inf with
    | some i => (signed f neg i, false)
    | none => (signed f neg f.maxFinite, true)
  | .fin neg m e => if 0 ≤ e then roundRat f sat neg (m * 2 ^ e.toNat) 1 else roundRat f sat neg m (2 ^ (-e).toNat)

/-- The value of a binary32 code. -/
def f32val (x : W32) : FVal := fdecode fp32 x.toNat

/-- A value rounded to binary32 without saturation (12:R317). -/
def f32of (v : FVal) : W32 × Bool :=
  let r := fencode fp32 false v
  (BitVec.ofNat 32 r.1, r.2)

/-- The signed mantissa of `(-1)^neg * m * 2^e` at exponent `e0 <= e`. -/
def alignTo (e0 : Int) (neg : Bool) (m : Nat) (e : Int) : Int :=
  let a : Int := (m * 2 ^ (e - e0).toNat : Nat)
  if neg then -a else a

/-- A finite value from a signed mantissa. -/
def ofMant (v e : Int) : FVal := .fin (decide (v < 0)) v.natAbs e

/-- The exact sum of two values, with IEEE 754's zeros, infinities and NaNs (12:R317). -/
def fadd (a b : FVal) : FVal :=
  match a, b with
  | .nan, _ => .nan
  | _, .nan => .nan
  | .inf s, .inf t => if s = t then .inf s else .nan
  | .inf s, _ => .inf s
  | _, .inf t => .inf t
  | .fin s m e, .fin t n g =>
    if m = 0 ∧ n = 0 then .fin (s && t) 0 0
    else
      let e0 := min e g
      ofMant (alignTo e0 s m e + alignTo e0 t n g) e0

/-- The exact product of two values. -/
def fmul (a b : FVal) : FVal :=
  match a, b with
  | .nan, _ => .nan
  | _, .nan => .nan
  | .inf s, .inf t => .inf (s != t)
  | .inf s, .fin t n _ => if n = 0 then .nan else .inf (s != t)
  | .fin s m _, .inf t => if m = 0 then .nan else .inf (s != t)
  | .fin s m e, .fin t n g => .fin (s != t) (m * n) (e + g)

/-- The rounded binary32 sum fl(a + b), and whether it overflowed from finite values (12:R317). -/
def fl32add (a b : W32) : W32 × Bool := f32of (fadd (f32val a) (f32val b))

/-- The rounded binary32 product. -/
def fl32mul (a b : W32) : W32 × Bool := f32of (fmul (f32val a) (f32val b))

/-- The quotient of two values rounded into a format. -/
def fdivTo (f : Fmt) (sat : Bool) (a b : FVal) : Nat × Bool :=
  match a, b with
  | .nan, _ => (f.nan, false)
  | _, .nan => (f.nan, false)
  | .inf _, .inf _ => (f.nan, false)
  | .inf s, .fin t _ _ => fencode f sat (.inf (s != t))
  | .fin s _ _, .inf t => (signed f (s != t) 0, false)
  | .fin s m e, .fin t n g =>
    if n = 0 then (if m = 0 then (f.nan, false) else fencode f sat (.inf (s != t)))
    else
      let k := e - g
      if 0 ≤ k then roundRat f sat (s != t) (m * 2 ^ k.toNat) n else roundRat f sat (s != t) m (n * 2 ^ (-k).toNat)

/-- The correctly rounded binary32 quotient. -/
def fl32div (a b : W32) : W32 := BitVec.ofNat 32 (fdivTo fp32 false (f32val a) (f32val b)).1

/-- Integer square root by `fuel` bits of a binary search from the top. -/
def isqrtGo (n : Nat) : Nat → Nat → Nat
  | 0, r => r
  | k + 1, r =>
    let t := r + 2 ^ k
    if t * t ≤ n then isqrtGo n k t else isqrtGo n k r

/-- The integer square root. -/
def isqrt (n : Nat) : Nat := isqrtGo n (Nat.log2 n / 2 + 1) 0

/-- The correctly rounded binary32 square root of a value. A sticky bit below 40 fraction bits keeps the rounding
exact. -/
def fl32sqrt (x : W32) : W32 :=
  match f32val x with
  | .nan => 0x7FC00000
  | .inf false => 0x7F800000
  | .inf true => 0x7FC00000
  | .fin neg m e =>
    if m = 0 then x else if neg then 0x7FC00000
    else
      let (m', e') := if e % 2 = 0 then (m, e) else (2 * m, e - 1)
      let n := m' * 2 ^ 80
      let r := isqrt n
      let s := 2 * r + (if r * r = n then 0 else 1)
      (f32of (.fin false s (e' / 2 - 41))).1

/-- Bounds of `e^(-num/den)` times `2^p`: a Taylor sum of `e^(-x/2^k)`, squared `k` times, with the error kept. -/
def expTaylor (p : Nat) (x : Nat) : Nat → Nat → Nat → Nat → Nat
  | 0, _, _, acc => acc
  | fuel + 1, i, t, acc =>
    let t' := t * x / 2 ^ p / i
    expTaylor p x fuel (i + 1) t' (acc + t')

/-- `k` squarings of a fixed-point number with `p` fraction bits, rounded down or up. -/
def sqTimes (p : Nat) (up : Bool) : Nat → Nat → Nat
  | 0, v => v
  | k + 1, v => sqTimes p up k ((v * v + (if up then 2 ^ p - 1 else 0)) / 2 ^ p)

/-- Lower and upper bounds of `e^(num/den)` for `0 <= num/den`, at `p` fraction bits. -/
def expBounds (p num den : Nat) : Nat × Nat :=
  let k := Nat.log2 (num / den + 1) + 6
  let x := num * 2 ^ p / (den * 2 ^ k)
  let lo := 2 ^ p + expTaylor p x (p / 4 + 8) 1 (2 ^ p) 0
  let hi := lo + (p / 4 + 16)
  (sqTimes p false k lo, sqTimes p true k hi)

/-- The correctly rounded binary32 of `e^(-num/den)`: precision is raised until both bounds round alike. -/
def expNegGo (num den : Nat) : Nat → Nat → W32
  | 0, p => BitVec.ofNat 32 (roundRat fp32 false false (2 ^ p) (expBounds p num den).1).1
  | fuel + 1, p =>
    let (lo, hi) := expBounds p num den
    let a := (roundRat fp32 false false (2 ^ p) lo).1
    let b := (roundRat fp32 false false (2 ^ p) hi).1
    if a = b then BitVec.ofNat 32 a else expNegGo num den fuel (p + 256)

/-- `e^(a - b)` for values with `a <= b`, correctly rounded to binary32 (12:R336, 14:R390). -/
def fexpDiff (a b : FVal) : W32 :=
  match a, b with
  | .fin s m e, .fin t n g =>
    let e0 := min e g
    let d := alignTo e0 t n g - alignTo e0 s m e
    if d ≤ 0 then 0x3F800000
    else
      let num := d.natAbs * 2 ^ e0.toNat
      let den := 2 ^ (-e0).toNat
      if num / den ≥ 128 then 0 else expNegGo num den 6 256
  | .inf true, .fin _ _ _ => 0
  | .inf true, .inf true => 0
  | .nan, _ => 0x7FC00000
  | _, .nan => 0x7FC00000
  | _, _ => 0x7FC00000

/-- Order of two values for MAX and MIN: `a` below `b`; zeros with -0 below +0 (12:R330). -/
def fltLt (a b : FVal) : Bool :=
  match a, b with
  | .nan, _ => false
  | _, .nan => false
  | .inf s, .inf t => s && !t
  | .inf s, .fin _ _ _ => s
  | .fin _ _ _, .inf t => !t
  | .fin s m e, .fin t n g =>
    if m = 0 ∧ n = 0 then s && !t
    else
      let e0 := min e g
      decide (alignTo e0 s m e < alignTo e0 t n g)

/-- Order of two values by number alone: zeros are equal (12:R331, 14:R385). -/
def numLt (a b : FVal) : Bool :=
  match a, b with
  | .fin s m e, .fin t n g =>
    let e0 := min e g
    decide (alignTo e0 s m e < alignTo e0 t n g)
  | _, _ => fltLt a b

/-- Maximum or minimum of two values (12:R330). -/
def fmaxmin (isMax : Bool) (a b : FVal) : FVal :=
  match a, b with
  | .nan, _ => .nan
  | _, .nan => .nan
  | _, _ => if isMax then (if fltLt a b then b else a) else (if fltLt b a then b else a)

/-- Flags of a LAC entry, as FLAGS_e holds them (12 Table 12-4): NAN, PINF, NINF, NEGZERO, OVF. -/
def lacNegZero : BitVec 5 := 8

/-- The LAC after adding one exact term (12:R321, R327). -/
def lacAdd (a : BitVec 640) (fl : BitVec 5) (v : FVal) : BitVec 640 × BitVec 5 :=
  match v with
  | .nan => (a, (fl ||| 1) &&& ~~~ lacNegZero)
  | .inf false => (a, (fl ||| 2) &&& ~~~ lacNegZero)
  | .inf true => (a, (fl ||| 4) &&& ~~~ lacNegZero)
  | .fin neg m e =>
    if m = 0 then (a, if neg then fl else fl &&& ~~~ lacNegZero)
    else (a + BitVec.ofInt 640 (alignTo (-300) neg m e), fl &&& ~~~ lacNegZero)

/-- The value that a LAC and its flags stand for (12 Table 12-7). -/
def lacVal (a : BitVec 640) (fl : BitVec 5) : FVal :=
  if fl.getLsbD 0 then .nan
  else if fl.getLsbD 1 && fl.getLsbD 2 then .nan
  else if fl.getLsbD 1 then .inf false
  else if fl.getLsbD 2 then .inf true
  else if fl.getLsbD 3 then .fin true 0 0
  else ofMant a.toInt (-300)

/-- Two LAC partials added (12:R320): values add, specials gather, NEGZERO only when both hold it. -/
def lacMerge (a : BitVec 640) (fa : BitVec 5) (b : BitVec 640) (fb : BitVec 5) : BitVec 640 × BitVec 5 :=
  (a + b, ((fa ||| fb) &&& ~~~ lacNegZero) ||| (fa &&& fb &&& lacNegZero))

/-- The index of the lowest set bit of a positive number, by `fuel`. -/
def lowBit : Nat → Nat → Nat
  | 0, _ => 0
  | fuel + 1, n => if n % 2 = 1 then 0 else 1 + lowBit fuel (n / 2)

/-- The canonical LP128 form of a LAC entry, or `none` when it travels as an escape (12:R323, R324). -/
def toLp128 (a : BitVec 640) (fl : BitVec 5) : Option Bytes :=
  let sp := fl &&& 0xF
  if sp ≠ 0 then some (leBytes 2 0x7FFF ++ leBytes 14 sp.toNat)
  else
    let v := a.toInt
    if v = 0 then some (List.replicate 16 0)
    else
      let k := lowBit 640 v.natAbs
      let w := v / ((2 ^ k : Nat) : Int)
      if -((2 ^ 111 : Nat) : Int) ≤ w ∧ w < ((2 ^ 111 : Nat) : Int)
      then some (leBytes 2 (twos 16 ((k : Int) - 300)) ++ leBytes 14 (twos 112 w))
      else none

/-- The LAC entry of an LP128 entry, or `none` when a lane rejects it (12:R325). -/
def ofLp128 (b : Bytes) : Option (BitVec 640 × BitVec 5) :=
  let ex := fieldAt 0 2 b
  let w := fieldAt 2 14 b
  if ex = 0x7FFF then (if w < 16 then some (0, BitVec.ofNat 5 w) else none)
  else
    let e := sext 16 ex
    let v := sext 112 w
    if e < -300 ∨ 338 < e then none
    else
      let a := v * ((2 ^ (e + 300).toNat : Nat) : Int)
      if -((2 ^ 639 : Nat) : Int) ≤ a ∧ a < ((2 ^ 639 : Nat) : Int) then some (BitVec.ofInt 640 a, 0) else none

/-- An integer of a type's range nearest to `v`, and whether it saturated (12:R328). -/
def satInt (bytes : Nat) (v : Int) : Int × Bool :=
  let hi : Int := ((2 ^ (8 * bytes - 1) : Nat) : Int) - 1
  let lo : Int := -((2 ^ (8 * bytes - 1) : Nat) : Int)
  if v > hi then (hi, true) else if v < lo then (lo, true) else (v, false)

end Sys2Proof.Machine
end

