-- ==== Sys2Proof/Machine/Crypto.lean ====
section
/-! DEFINITION. Machine/Crypto.lean: SHA-384 and ECDSA over P-384, the published standards that image authentication
uses (03:R72, 00:R18). Their constants are those of FIPS 180-4 and of curve P-384 (log 14). -/

namespace Sys2Proof.Machine

/-- Round constants of SHA-384: fraction bits of the cube roots of the first 80 primes. -/
def shaK : List Nat :=
    [0x428A2F98D728AE22, 0x7137449123EF65CD, 0xB5C0FBCFEC4D3B2F, 0xE9B5DBA58189DBBC, 0x3956C25BF348B538, 0x59F111F1B605D019, 0x923F82A4AF194F9B, 0xAB1C5ED5DA6D8118, 0xD807AA98A3030242, 0x12835B0145706FBE, 0x243185BE4EE4B28C, 0x550C7DC3D5FFB4E2, 0x72BE5D74F27B896F, 0x80DEB1FE3B1696B1, 0x9BDC06A725C71235, 0xC19BF174CF692694] ++
    [0xE49B69C19EF14AD2, 0xEFBE4786384F25E3, 0x0FC19DC68B8CD5B5, 0x240CA1CC77AC9C65, 0x2DE92C6F592B0275, 0x4A7484AA6EA6E483, 0x5CB0A9DCBD41FBD4, 0x76F988DA831153B5, 0x983E5152EE66DFAB, 0xA831C66D2DB43210, 0xB00327C898FB213F, 0xBF597FC7BEEF0EE4, 0xC6E00BF33DA88FC2, 0xD5A79147930AA725, 0x06CA6351E003826F, 0x142929670A0E6E70] ++
    [0x27B70A8546D22FFC, 0x2E1B21385C26C926, 0x4D2C6DFC5AC42AED, 0x53380D139D95B3DF, 0x650A73548BAF63DE, 0x766A0ABB3C77B2A8, 0x81C2C92E47EDAEE6, 0x92722C851482353B, 0xA2BFE8A14CF10364, 0xA81A664BBC423001, 0xC24B8B70D0F89791, 0xC76C51A30654BE30, 0xD192E819D6EF5218, 0xD69906245565A910, 0xF40E35855771202A, 0x106AA07032BBD1B8] ++
    [0x19A4C116B8D2D0C8, 0x1E376C085141AB53, 0x2748774CDF8EEB99, 0x34B0BCB5E19B48A8, 0x391C0CB3C5C95A63, 0x4ED8AA4AE3418ACB, 0x5B9CCA4F7763E373, 0x682E6FF3D6B2B8A3, 0x748F82EE5DEFB2FC, 0x78A5636F43172F60, 0x84C87814A1F0AB72, 0x8CC702081A6439EC, 0x90BEFFFA23631E28, 0xA4506CEBDE82BDE9, 0xBEF9A3F7B2C67915, 0xC67178F2E372532B] ++
    [0xCA273ECEEA26619C, 0xD186B8C721C0C207, 0xEADA7DD6CDE0EB1E, 0xF57D4F7FEE6ED178, 0x06F067AA72176FBA, 0x0A637DC5A2C898A6, 0x113F9804BEF90DAE, 0x1B710B35131C471B, 0x28DB77F523047D84, 0x32CAAB7B40C72493, 0x3C9EBE0A15C9BEBC, 0x431D67C49C100D4C, 0x4CC5D4BECB3E42B6, 0x597F299CFC657E2A, 0x5FCB6FAB3AD6FAEC, 0x6C44198C4A475817]

/-- Initial hash value of SHA-384: fraction bits of the square roots of the 9th to 16th primes. -/
def shaH : List Nat :=
    [0xCBBB9D5DC1059ED8, 0x629A292A367CD507, 0x9159015A3070DD17, 0x152FECD8F70E5939, 0x67332667FFC00B31, 0x8EB44A8768581511, 0xDB0C2E0D64F98FA7, 0x47B5481DBEFA4FA4]

/-- 64-bit rotation right. -/
def rotr (n x : Nat) : Nat := (x >>> n ||| x <<< (64 - n)) % 2 ^ 64

/-- The message schedule, newest word first, extended by `fuel` words. -/
def shaExtend : Nat → List Nat → List Nat
  | 0, w => w
  | k + 1, w =>
    let w2 := w.getD 1 0
    let w15 := w.getD 14 0
    let s0 := rotr 1 w15 ^^^ rotr 8 w15 ^^^ (w15 >>> 7)
    let s1 := rotr 19 w2 ^^^ rotr 61 w2 ^^^ (w2 >>> 6)
    shaExtend k ((w.getD 15 0 + s0 + w.getD 6 0 + s1) % 2 ^ 64 :: w)

/-- One round on the eight working variables. -/
def shaRound (h : List Nat) (kw : Nat × Nat) : List Nat :=
  let a := h.getD 0 0
  let e := h.getD 4 0
  let ch := (e &&& h.getD 5 0) ^^^ ((e ^^^ (2 ^ 64 - 1)) &&& h.getD 6 0)
  let t1 := h.getD 7 0 + (rotr 14 e ^^^ rotr 18 e ^^^ rotr 41 e) + ch + kw.1 + kw.2
  let mj := (a &&& h.getD 1 0) ^^^ (a &&& h.getD 2 0) ^^^ (h.getD 1 0 &&& h.getD 2 0)
  let t2 := (rotr 28 a ^^^ rotr 34 a ^^^ rotr 39 a) + mj
  [(t1 + t2) % 2 ^ 64, a, h.getD 1 0, h.getD 2 0, (h.getD 3 0 + t1) % 2 ^ 64, e, h.getD 5 0, h.getD 6 0]

/-- The number that bytes spell, most significant first. -/
def beNat (b : Bytes) : Nat := b.foldl (fun n x => n * 256 + x.toNat) 0

/-- The `n` bytes of a number, most significant first. -/
def beBytes (n x : Nat) : Bytes := (leBytes n x).reverse

/-- One 128-byte block. -/
def shaBlock (h : List Nat) (b : Bytes) : List Nat :=
  let w := (List.range 16).map fun i => beNat (slice (8 * i) 8 b)
  let ws := (shaExtend 64 w.reverse).reverse
  let r := (shaK.zip ws).foldl shaRound h
  (h.zip r).map fun x => (x.1 + x.2) % 2 ^ 64

/-- The blocks of a padded message, by fuel. -/
def shaBlocks : Nat → List Nat → Bytes → List Nat
  | 0, h, _ => h
  | k + 1, h, b => shaBlocks k (shaBlock h (b.take 128)) (b.drop 128)

/-- SHA-384 of a byte string: 48 bytes, most significant first. -/
def sha384 (m : Bytes) : Bytes :=
  let z := (240 - (m.length + 1) % 128) % 128
  let p := m ++ [0x80] ++ List.replicate z 0 ++ beBytes 16 (8 * m.length)
  ((shaBlocks (p.length / 128) shaH p).take 6).flatMap (beBytes 8)

/-- The field prime of P-384. -/
def p384 : Nat := 0xFFFFFFFFFFFFFFFFFFFFFFFFFFFFFFFFFFFFFFFFFFFFFFFFFFFFFFFFFFFFFFFEFFFFFFFF0000000000000000FFFFFFFF
/-- Coefficient b of P-384 (a is -3). -/
def p384b : Nat := 0xB3312FA7E23EE7E4988E056BE3F82D19181D9C6EFE8141120314088F5013875AC656398D8A2ED19D2A85C8EDD3EC2AEF
/-- The group order. -/
def n384 : Nat := 0xFFFFFFFFFFFFFFFFFFFFFFFFFFFFFFFFFFFFFFFFFFFFFFFFC7634D81F4372DDF581A0DB248B0A77AECEC196ACCC52973
/-- The base point. -/
def g384 : Nat × Nat := (0xAA87CA22BE8B05378EB1C71EF320AD746E1D3B628BA79B9859F741E082542A385502F25DBF55296C3A545E3872760AB7, 0x3617DE4A96262C6F5D9E98BF9292DC29F8F41DBD289A147CE9DA3113B5F0B8C00A60B1CE1D7E819D7A431D7C90EA0E5F)

/-- Power modulo `m` over the low `fuel` bits of the exponent. -/
def powMod (m : Nat) : Nat → Nat → Nat → Nat
  | 0, _, _ => 1
  | k + 1, b, e => ((if e % 2 = 1 then b else 1) * powMod m k (b * b % m) (e / 2)) % m

/-- The inverse modulo a 384-bit prime, by Fermat. -/
def invMod (m x : Nat) : Nat := powMod m 384 (x % m) (m - 2)

/-- Difference and product modulo the field prime. -/
def subP (a b : Nat) : Nat := (a + (p384 - b % p384)) % p384
def mulP (a b : Nat) : Nat := a * b % p384

/-- A point (X / Z^2, Y / Z^3) of P-384; with Z = 0 the point at infinity. -/
structure EcPoint where
  x : Nat
  y : Nat
  z : Nat
deriving DecidableEq, Repr

/-- Twice a point; a is -3. -/
def ecDouble (p : EcPoint) : EcPoint :=
  let d := mulP p.z p.z
  let g := mulP p.y p.y
  let b := mulP p.x g
  let a := 3 * mulP (subP p.x d) (p.x + d) % p384
  let x := subP (mulP a a) (8 * b)
  { x := x, y := subP (mulP a (subP (4 * b) x)) (8 * mulP g g), z := mulP (2 * p.y) p.z }

/-- A point plus the point `q` given by its coordinates. -/
def ecAdd (p : EcPoint) (q : Nat × Nat) : EcPoint :=
  if p.z = 0 then { x := q.1, y := q.2, z := 1 }
  else
    let zz := mulP p.z p.z
    let h := subP (mulP q.1 zz) p.x
    let r := subP (mulP q.2 (mulP zz p.z)) p.y
    if h = 0 then (if r = 0 then ecDouble p else { x := 1, y := 1, z := 0 })
    else
      let hh := mulP h h
      let hhh := mulP hh h
      let v := mulP p.x hh
      let x := subP (mulP r r) (hhh + 2 * v)
      { x := x, y := subP (mulP r (subP v x)) (mulP p.y hhh), z := mulP p.z h }

/-- Scalar multiplication over the low `fuel` bits. -/
def ecMul : Nat → Nat → Nat × Nat → EcPoint
  | 0, _, _ => { x := 1, y := 1, z := 0 }
  | f + 1, k, q =>
    let d := ecDouble (ecMul f (k / 2) q)
    if k % 2 = 1 then ecAdd d q else d

/-- The coordinates of a point; `none` at infinity. -/
def ecCoords (p : EcPoint) : Option (Nat × Nat) :=
  if p.z = 0 then none
  else
    let i := invMod p384 p.z
    some (mulP p.x (mulP i i), mulP p.y (mulP i (mulP i i)))

/-- A point of the curve with coordinates in range. -/
def onCurve (q : Nat × Nat) : Bool :=
  q.1 < p384 && q.2 < p384 && (q.2 * q.2) % p384 = (q.1 * q.1 * q.1 + (p384 - 3) * q.1 + p384b) % p384

/-- ECDSA P-384 verification of a 48-byte digest: `pub` is X then Y, `sig` is r then s (03:R75). -/
def ecdsaOk (pub digest sig : Bytes) : Bool :=
  let q := (beNat (slice 0 48 pub), beNat (slice 48 48 pub))
  let r := beNat (slice 0 48 sig)
  let s := beNat (slice 48 48 sig)
  if onCurve q && 0 < r && r < n384 && 0 < s && s < n384 then
    let w := invMod n384 s
    let u1 := beNat digest * w % n384
    let u2 := r * w % n384
    let a := ecMul 384 u1 g384
    let sum := match ecCoords (ecMul 384 u2 q) with
      | none => a
      | some c => ecAdd a c
    match ecCoords sum with
    | none => false
    | some c => c.1 % n384 = r
  else false

end Sys2Proof.Machine
end

