-- ==== Sys2Proof/Machine/State.lean ====
section
/-! DEFINITION. Machine/State.lean: the state of one Vargetia node as plain data, the reasons a command can stop,
and the state right after a cold reset. INVENTORY.md, heading State, lists every field with its rule. -/

namespace Sys2Proof.Machine

/-- Why a command stops with a fault. -/
inductive Fault where
  /-- Raised by every command but a cold reset, a power loss and the rows of the test port once EXTEST is loaded (03:R78) or
  REFCLK has stopped (18 Edges): the manual calls the node's operation and state undefined until a cold reset, and gives these
  commands no effect there. Safe: the model stops. -/
  | operationUndefined
deriving DecidableEq, Repr

/-- Why a command is refused. -/
inductive Refusal where
  /-- Raised only by an arm of `exec` whose command has no meaning yet. Safe. -/
  | notModelled (mnemonic : String)
deriving DecidableEq, Repr

/-- The contents of a memory, in the canonical form of Memory.wf. -/
abbrev Memory := List Host.Cell

/-- Power states (02 Table 2-5). -/
inductive PState where
  | active | doze | nap | deep | off
deriving DecidableEq, Repr

/-- A transition of the power state in progress (02:R34, R36, R52). -/
inductive Trans where
  | none
  | wake (cause : BitVec 4) (at_ : Nat)
  | deepEntry
deriving DecidableEq, Repr

/-- Keys of the herald filter (02:R42, 11:R305). -/
inductive HeraldKey where
  | collective (handle seq : W32)
  | prewarm (handle origin count : W32)
  | abort (handle seq : W32)
deriving DecidableEq, Repr

/-- A filter entry: the key, and for a collective herald the signature it carried, who emitted it where that is known, and the
node that sent this hop of it. -/
structure FilterEntry where
  key : HeraldKey
  sig : W64
  emitter : Option (BitVec 18)
  src : Coord
deriving DecidableEq, Repr

/-- What a hold of the DOZE floor belongs to (02:R43, R46). -/
inductive HoldKey where
  | herald (handle seq : W32)
  | prewarm (handle : W32)
deriving DecidableEq, Repr

/-- A hold and the timestamp at which it expires. -/
structure Hold where
  key : HoldKey
  until_ : Nat
deriving DecidableEq, Repr

/-- How the herald buffer filled (02 Table 2-8). -/
structure BufferFull where
  state : PState
  port : BitVec 4
  handle : W32
  at_ : Nat
deriving DecidableEq, Repr

/-- One engine sensor: TEMP and LEVEL of THERM_n (19 Table 19-2). -/
structure Sensor where
  temp : W16
  level : BitVec 3
deriving DecidableEq, Repr

/-- A power policy: timers and floor (02 Table 2-3). -/
structure Policy where
  dozeAfter : W32
  napAfter : W32
  deepAfter : W32
  heraldHold : W32
  floor : BitVec 2
deriving DecidableEq, Repr

/-- The keeper (02, 19 Table 19-2). `policy` holds the registers of the power policy, and `acting` the values that apply: the
registers as of the last tick (05:R135). -/
structure Keeper where
  timestamp : W64
  power : PState
  trans : Trans
  stateSince : Nat
  idleSince : Nat
  lastWake : BitVec 4
  policy : Policy
  acting : Policy
  alarm : W64
  alarmLow : Option W32
  armed : Bool
  filter : List FilterEntry
  buffer : List (BitVec 4 × Packet)
  fullAt : Option BufferFull
  busySent : W32
  holds : List Hold
  latch0 : Option (Reg64 × W32)
  latchSb : Option (Reg64 × W32)
  therm : List Sensor
  throttled : Bool
  tripped : Bool
  gbTemp : List W16
  gbWarn : List Bool
  gbStop : List Bool
  bootWd : Option Nat
  sbBusy : Bool
deriving DecidableEq, Repr

/-- Boot status, the running image and the unit maps (03, 16:R446). -/
structure Boot where
  phase : BitVec 4
  fault : Byte
  runSlot : Bool
  warm : Bool
  failed : List Bool
  fwVersion : W32
  imageVersion : W32
  imageSvn : W32
  imageKey : Bool
  laneMap : List Byte
  spares : List Byte
  lanesRetired : BitVec 168
  treeRetired : BitVec 2
  stagingRetired : BitVec 17
  linksRetired : BitVec 12
  bootCount : W16
  nextRecord : W32
  runTpMask : Byte
  runRails : BitVec 2
  baseLanes : BitVec 168
  baseTree : BitVec 2
  baseStaging : BitVec 17
deriving DecidableEq, Repr

/-- Assembly variants, in the order of their codes (05 Table 5-3). -/
inductive Variant where
  | vn2s | vn4s | vn8s | vn4d | vn8d
deriving DecidableEq, Repr

/-- Input pins and module resets (18 Table 18-3). PSTAT, READY, ALERT_N and THERMTRIP_N are functions of state. -/
structure Pins where
  pwrgood : Bool
  perstN : Bool
  wakeN : Bool
  saddr : BitVec 2
  tmRstN : Byte
  gbRstN : BitVec 3
deriving DecidableEq, Repr

/-- What a PCI Express read of the engine is for. -/
inductive ReadKind where
  | sqFetch (q : BitVec 6) (first : BitVec 12) (count : Nat)
  | data
deriving DecidableEq, Repr

/-- A PCI Express read that the engine has issued (04:R122). -/
structure PcieRead where
  tag : BitVec 10
  kind : ReadKind
  addr : Nat
  len : Nat
  stale : Bool
deriving DecidableEq, Repr

/-- A host access that waits for a wake (02:R38, 04 Edges). -/
inductive HostWait where
  | bell (page : BitVec 7) (completion : Bool) (value : W32)
  | read (offset : W32) (size : Nat)
  | write (offset : W32) (size : Nat) (value : W64)
  | sbRead (offset : W16) (count : Nat)
deriving DecidableEq, Repr

/-- One MSI-X table entry. -/
structure MsixEntry where
  addr : W64
  data : W32
  masked : Bool
deriving DecidableEq, Repr

/-- The host port (04:R90 to R93): configuration, outstanding reads, waiting accesses, and whether its link is in L1
(02:R39). `payload` and `readReq` are the Device Control settings, as log2 of bytes. -/
structure HostPort where
  cfg : List (BitVec 10 × W32)
  busMaster : Bool
  relaxed : Bool
  payload : BitVec 4
  readReq : BitVec 4
  l1 : Bool
  inL1 : Bool
  msixOn : Bool
  msixMask : Bool
  bar2Log : BitVec 6
  msix : List MsixEntry
  pba : BitVec 128
  reads : List PcieRead
  got : List (Nat × Nat)
  nextTag : BitVec 10
  waits : List HostWait
  inReset : Bool
deriving DecidableEq, Repr

/-- Error summary (19 Table 19-3). -/
structure ErrSum where
  status : BitVec 11
  mask : BitVec 11
  first : BitVec 4
  firstTime : W32
deriving DecidableEq, Repr

/-- Laggard statistics: the node's counters (19:R538) and a communicator's record (09 Table 9-5). -/
structure LagStats where
  completed : W32
  namedSelf : W32
  lastRank : W32
  maxLate : W32
  bins : List W32
  lastSeq : W32
deriving DecidableEq, Repr

/-- An entry that the Tree has fetched, and whether it is marked to complete with QUEUE_FULL (04:R107). -/
structure Fetched where
  entry : Entry
  marked : Bool
deriving DecidableEq, Repr

/-- A completion that waits to be written, all but SQ_HEAD, TIMESTAMP_LO and PHASE (04 Table 4-6). -/
structure Completion where
  tag : W32
  status : Byte
  flags : Byte
  result : W64
  lagRank : BitVec 18
  lateness : W32
  noIrq : Bool
deriving DecidableEq, Repr

/-- A queue page, or the event ring page (04 Table 4-4), with the Tree's own record of the queue. -/
structure QPage where
  sqTail : BitVec 12
  cqHead : BitVec 12
  sqHead : BitVec 12
  cqTail : BitVec 12
  phase : Bool
  sqBase : W64
  cqBase : W64
  sqEntries : W16
  cqEntries : W16
  enable : Bool
  irqEn : Bool
  burst : BitVec 4
  vector : BitVec 7
  imodCount : Byte
  imodTime : W16
  qerr : BitVec 4
  stopped : Bool
  defTimeout : W32
  fetched : List Fetched
  reading : Nat
  started : Nat
  marks : List (BitVec 12)
  unsig : Nat
  unsigAt : Option Nat
  headSince : Nat
deriving DecidableEq, Repr

/-- An event as its source raises it (04 Table 4-7). -/
structure Event where
  source : W16
  seq : W16
  code : W16
  time : W64
  detail : BitVec 256
deriving DecidableEq, Repr

/-- The event record of one source (04:R116, R118). -/
structure EvSource where
  source : W16
  seq : W16
  held : List Event
  missed : W32
  last : Option Event
deriving DecidableEq, Repr

/-- What started a targeted self-test (16 Table 16-4), or the SELFTEST commands that wait for it. -/
structure UnitTest where
  unit : TestUnit
  byError : Bool
  threshold : Bool
  row : W32
  since : Nat
  waiters : List Nat
deriving DecidableEq, Repr

/-- The Saddle Tree (16:R452) and what Octoz keeps about tests, logs and firmware updates. -/
structure Tree where
  active : BitVec 1
  standby : Bool
  halted : Bool
  wdAt : Nat
  tests : List UnitTest
  transients : List (TestUnit × Nat)
  heldLog : List Bytes
  lostLog : W32
  errRow : List (TestUnit × W32)
  rr : BitVec 6
  nextCmd : Nat
  resetReq : Option (WarmSource × Nat)
deriving DecidableEq, Repr

/-- Configuration items (05 Table 5-5). -/
structure NodeCfg where
  coord : W32
  dims : W32
  w1 : BitVec 6
  w2 : BitVec 6
  w3 : BitVec 6
  chunkTimeout : W32
  saveAfter : W32
deriving DecidableEq, Repr

/-- A registered window (05:R137). -/
structure Window where
  id : BitVec 10
  offset : Nat
  bus : Nat
  len : Nat
  perm : BitVec 4
  closing : Bool
deriving DecidableEq, Repr

/-- An abort notice held or acted on (09:R250, 11 Table 11-4). -/
structure Notice where
  seq : W32
  rank : BitVec 18
  cause : Byte
  namedSig : W16
  detSig : W16
  value : W64
deriving DecidableEq, Repr

/-- A communicator (09). -/
structure Comm where
  handle : W32
  map : BitVec 4
  lo : Coord
  hi : Coord
  base : W32
  sx : W32
  sy : W32
  sz : W32
  stats : W64
  key : W32
  seq : W32
  prewarms : W32
  drained : Bool
  patched : Bool
  notices : List Notice
  lag : LagStats
deriving DecidableEq, Repr

/-- A one-sided transfer under way (10:R283 to R286); `coord` is fixed when its first packet is injected (06:R164). -/
structure Xfer where
  handle : W32
  job : BitVec 4
  rank : BitVec 18
  coord : Option Coord
  src : W64
  dst : W64
  len : Nat
  next : Nat
  flag : Bool
  signal : Option W64
  sigSent : Bool
  sigFail : Bool
  miss : Option Byte
  poison : Bool
  degraded : Bool
deriving DecidableEq, Repr

/-- What a started command still does. -/
inductive CmdKind where
  | put (x : Xfer)
  | get (x : Xfer)
  | atomic (handle : W32) (rank : BitVec 18) (coord : Coord)
  | windowUnmap (offset len : Nat)
  | drain (handle : W32) (round : Option W32)
  | commDestroy (handle : W32)
  | prewarm (handle count : W32)
  | tmFence (ticket : W64)
  | tmState (op : Nat)
  | selftest (unit : TestUnit)
  | fwWrite (slot : Bool) (header : Bytes) (silent : Bool)
deriving DecidableEq, Repr

/-- A command that has started and not completed. -/
structure Cmd where
  id : Nat
  q : BitVec 6
  tag : W32
  noIrq : Bool
  deadline : Option Nat
  degraded : Bool
  kind : CmdKind
deriving DecidableEq, Repr

/-- A partial value of one element (12): LAC with flags (NAN, PINF, NINF, NEGZERO, OVF), binary32, integer,
raw bits, or an ARG record. -/
inductive Val where
  | lac (a : BitVec 640) (fl : BitVec 5)
  | f32 (b : W32) (ovf : Bool)
  | int (v : Int) (ovf : Bool)
  | raw (b : W64) (ovf : Bool)
  | arg (v : W64) (rank : W32) (index : W32) (ovf : Bool)
deriving DecidableEq, Repr

/-- An accepted chunk (10 Table 10-5). -/
structure Chunk where
  sender : BitVec 17
  phase : Byte
  step : Byte
  cflags : Byte
  wire : Byte
  lagRank : BitVec 18
  lateness : W32
  count : Nat
  off : Nat
  data : Bytes
  ovf : Bool
  tick : Int
  taken : Bool
deriving DecidableEq, Repr

/-- The steps of an Octoz program's plan for a collective (10 Algorithms): `reduce` with raw inputs or partials, ring
steps, the final segments to ROOT, the return or the gathering of results (`spread`), a BROADCAST relay, the two
phases of an ALLTOALL, and the changes of pass of LSE. -/
inductive PlanStep where
  | reduce (axis : Nat) (raw : Bool)
  | ringReduce (axis step : Nat)
  | convert
  | toRoot
  | spread (axis : Nat)
  | ringSpread (axis step : Nat)
  | relay (axis : Nat)
  | counts
  | exchange
  | lseSums
deriving DecidableEq, Repr

/-- A chunk that this member has to send, or has sent and not had confirmed (10:R275, R278): the communicator ranks
that receive it, and for an axis multicast the direction and the far end (08:R221). -/
structure OutChunk where
  rcvs : List (BitVec 17)
  mcast : Option (BitVec 3 × Coord)
  phase : Byte
  step : Byte
  cflags : Byte
  wire : Byte
  count : Nat
  off : Nat
  data : Bytes
  ovf : Bool
  poison : Bool
  lag : BitVec 18 × W32
  src : Option (W64 × Nat)
  leg : Option PlanStep
deriving DecidableEq, Repr

/-- One Cinch packet set under way (11:R302): who sends it, its fragments by index, when its first fragment arrived, its
failed copies, and when a REREQ last asked for it (11:R304). -/
structure CinchSet where
  ctype : BitVec 4
  axis : BitVec 2
  src : Coord
  frags : List (Byte × Bytes)
  count : Byte
  wire : Byte
  lag : BitVec 18 × W32
  ovf : Bool
  tick : Nat
  copies : Nat
  bad : Bool
  asked : Option Nat
deriving DecidableEq, Repr

/-- A Cinch set that this member has sent and keeps (11:R304): its receivers. -/
structure CinchSent where
  ctype : BitVec 4
  axis : BitVec 2
  rcvs : List Coord
  wire : Byte
  stream : Bytes
  lag : BitVec 18 × W32
  ovf : Bool
deriving DecidableEq, Repr

/-- The combine record of a Cinch collective or vote (11:R297): the sets, the next axis of the up phase, the partial that
this member holds with its laggard pair, its tick and its overflow state, and whether the phases are over. -/
structure CinchRec where
  sets : List CinchSet
  sent : List CinchSent
  axisNow : Nat
  own : List Val
  lag : BitVec 18 × W32
  lagAt : Int
  ovf : Bool
  upDone : Bool
  downDone : Bool
deriving DecidableEq, Repr

/-- A bound collective context (10, 13:R350). Plan, values and chunks belong to an Octoz program; a loaded program keeps
its data in its threads and slots. -/
structure Ctx where
  idx : BitVec 9
  q : BitVec 6
  tag : W32
  noIrq : Bool
  opcode : Byte
  body : BitVec 896
  rein : BitVec 896
  handle : W32
  seq : W32
  sig : W64
  chunkTimeout : W32
  saveAfter : W32
  alg : Byte
  count : Nat
  tokens : Nat
  rows : Nat
  lanes : Nat
  startTick : Nat
  deadline : Option Nat
  serving : Option W16
  plan : List PlanStep
  sentStep : Bool
  pass : Nat
  finished : Bool
  held : List (Nat × Val)
  done : List (Nat × Val)
  chunks : List Chunk
  fails : List (BitVec 17 × Byte × Byte × Nat × Nat)
  grants : List (BitVec 17 × Nat)
  given : List (BitVec 17 × Nat)
  conf : List (BitVec 17 × Nat)
  outq : List OutChunk
  sent : List OutChunk
  scounts : List W64
  counts : List (BitVec 17 × W64)
  cinch : CinchRec
  vote : CinchRec
  lag : BitVec 18 × W32
  lagAt : Int
  hasResult : Bool
  result : W64
  agreed : Bool
  degraded : Bool
  overflow : Bool
  dropped : Bool
  retried : Bool
  wasSaved : Bool
  blockedSince : Nat
  waitSince : Nat
  savedTicks : Nat
  tainted : Bool
deriving DecidableEq, Repr

/-- The state of a lane thread (13:R348, Table 13-8). -/
inductive TState where
  | running | stalled | ended | inCrecv | inSync | inFence | inLoad | inEnd
deriving DecidableEq, Repr

/-- A lane thread that is not free (13). `pend` are its local stores since its last FENCE, oldest first (13:R349); `source`
the bytes of a remote CSEND source that have come, and whether they came poisoned. -/
structure Thread where
  id : Tid
  ctx : BitVec 9
  logical : Byte
  prog : W16
  gen : Nat
  pc : W32
  s : List W64
  v : List (BitVec 512)
  st : TState
  waitArg : W32
  slotBase : Nat
  slots : Nat
  stores : Nat
  missed : Bool
  handles : List (W16 × Chunk)
  pend : List (W64 × Bytes)
  source : Option (Bytes × Bool)
deriving DecidableEq, Repr

/-- The issue classes of a lane (13, "The lane"). -/
inductive IssueClass where
  | scalar | memory | accumulate
deriving DecidableEq, Repr

/-- The thread that a lane last served in an issue class (13:R348). -/
structure LaneTurn where
  lane : Byte
  cls : IssueClass
  thr : BitVec 3
deriving DecidableEq, Repr

/-- A program of the bench libraries (13:R356, R357). -/
structure Program where
  id : W16
  benches : BitVec 12
  gen : Nat
  words : List W64
deriving DecidableEq, Repr

/-- A saved context (13:R361, Table 13-7; its record lies in the save area, 15:R429). -/
structure Saved where
  record : BitVec 9
  ctx : Ctx
  threads : List Thread
  slots : List (Tid × Bytes)
  at_ : Nat
  total : Nat
  writing : Bool
  marked : Bool
  ending : Option (Byte × W64)
  image : Bytes
deriving DecidableEq, Repr

/-- A stream from this node (08:R215). -/
structure TxStream where
  dst : Coord
  next : BitVec 15
  fresh : Bool
  unacked : List Packet
  waiting : List Packet
deriving DecidableEq, Repr

/-- The stream record of one source (08:R216), with what the NI holds for it. -/
structure RxStream where
  src : Coord
  next : Option (BitVec 15)
  bitmap : W64
  lastSync : Option (BitVec 15)
  held : List Packet
  accepted : Nat
  echo : BitVec 3
  missed : List (BitVec 15 × BitVec 15)
  stuckAt : Nat
deriving DecidableEq, Repr

/-- Who waits for a one-sided request. -/
inductive ReqOwner where
  | cmd (id : Nat)
  | signal (id : Nat)
  | load (t : Tid) (d : BitVec 5) (size : Nat)
  | vload (t : Tid) (d : BitVec 5)
  | source (t : Tid)
  | store (t : Tid)
deriving DecidableEq, Repr

/-- An outstanding one-sided request (10:R283, 16:R464). -/
structure Req where
  num : W32
  owner : ReqOwner
  pkt : Packet
  rank : BitVec 18
  localAddr : W64
  sentAt : Nat
  reissued : Bool
deriving DecidableEq, Repr

/-- A drain marker round (08:R227). -/
structure Round where
  num : W32
  epoch : Bool
  dests : List Coord
  all : List Coord
deriving DecidableEq, Repr

/-- The rate of one congestion class: num / 2^sh of full rate (08:R220), when it was cut, echoed and raised last, and from
when on it admits the next packet (in byte times of full rate, log 79). -/
structure Rate where
  num : Nat
  sh : Nat
  lastCut : Nat
  lastEcho : Nat
  lastRise : Nat
  nextAt : Nat
deriving DecidableEq, Repr

/-- The network interface. -/
structure NI where
  tx : List TxStream
  rx : List RxStream
  reqs : List Req
  nextReq : W32
  serving : List Packet
  early : List (Nat × Packet)
  journal : List (Coord × List (W32 × W64))
  rates : List Rate
  lost : List Coord
  epoch : Bool
  sentTo : List Coord
  rounds : List Round
  nextRound : BitVec 30
  degradedAt : Option Nat
  probes : List (Coord × W32 × Nat)
  nextProbe : BitVec 24
  busy : List (W32 × Nat)
  missEvents : List (Coord × W32)
deriving DecidableEq, Repr

/-- Router: exception banks (08:R224) and the NI's injection queue. -/
structure Router where
  bank0 : List W64
  bank1 : List W64
  inject : List (Option (BitVec 3) × Packet)
deriving DecidableEq, Repr

/-- Link states, in the order of their codes (07 Table 7-9). -/
inductive LinkState where
  | off | down | training | held | up | lpi | sleep | dark | miswired
deriving DecidableEq, Repr

/-- A training under way (07:R180, R182). -/
structure Training where
  saved : Bool
  attempt : Nat
  fromUp : Bool
  half : Bool
deriving DecidableEq, Repr

/-- A transmitted group kept for replay (07:R184), with the packets whose flits it holds. -/
structure TxGroup where
  seq : W16
  data : BitVec 2048
  pkts : List Nat
  insertion : Bool
deriving DecidableEq, Repr

/-- A packet on its way out of a port: the free slots that its move needs (08:R209), and the input slot that it holds
until its tail leaves, by port and VC (08:R208). -/
structure OutPkt where
  need : Nat
  pkt : Packet
  from_ : Option (Nat × Nat)
deriving DecidableEq, Repr

/-- A packet that has started on a link, by its number in the retry buffer, with the flits that have not left, and whether its
head is among them (08:R204, R208). -/
structure TxFlight where
  num : Nat
  vc : BitVec 2
  head : Bool
  flits : List (BitVec 512)
deriving DecidableEq, Repr

/-- Link and error counters of a port (07 Table 7-8, 19 Table 19-4). -/
structure PortCnt where
  crcErr : W32
  replays : W32
  replayed : W32
  fecCorr : W32
  fecUncorr : W32
  retrains : W32
  downs : W32
  halfUs : W32
  detour : W32
deriving DecidableEq, Repr

/-- A fabric port (07, 08). Of the transmit side: `txStream` holds the flits of the packets that have started, in order,
`txIns` the VC0 packets that wait to preempt (08:R207), `txBase` the INSERT_BASE of the last CREDIT flit, and `txMarks` the
marks, final, of the groups from `txNext` on (08:R205). `rxHeld` counts the occupied slots of each input VC (08:R208), and
`txFec` is the frame content that the near GB2 has not coded yet: bits and their number (07:R188). -/
structure Port where
  st : LinkState
  width : Nat
  cause : Byte
  retired : Bool
  dead : Bool
  farCoord : W32
  farDims : W32
  farPort : Byte
  farRail : Bool
  farSeen : Bool
  cnt : PortCnt
  winStart : Nat
  winErr : Nat
  winRaised : Bool
  savedEq : Byte
  lanesLost : Byte
  training : Option Training
  wasUp : Bool
  ident : LinkState
  txNext : W16
  txAcked : W16
  txGroups : List TxGroup
  retry : List (Nat × OutPkt)
  txPkt : Nat
  txStream : List TxFlight
  txIns : List TxFlight
  txBase : Option W16
  txMarks : List Bool
  txFec : Nat × Nat
  replayFrom : W16
  replaySame : Nat
  ackTimeouts : Nat
  rxNext : W16
  rxWaitReplay : Bool
  rxFlits : List (BitVec 512)
  rxCover : Option (W16 × Byte)
  rxHeld : List Nat
  rxFreed : List W16
  txUsed : List W16
  txFreed : List W16
  inq : List (List Packet)
  outq : List (List OutPkt)
  credit : List Int
  lastVc : BitVec 2
  window : Nat
  heraldCredit : Bool
  heldFrame : Option Packet
  frameTries : Nat
  busy : Bool
  lpiSent : Bool
  lpiWanted : Bool
  lpiAsked : Bool
deriving DecidableEq, Repr

/-- A resident gate set (14:R383). -/
structure GateSet where
  id : BitVec 3
  src : W64
  h : Nat
  e : Nat
  type : Byte
  data : Bytes
  lastUse : Nat
deriving DecidableEq, Repr

/-- A route record entry (14 Table 14-8). -/
structure RouteEntry where
  row0 : W32
  row1 : W32
  w0 : W32
  w1 : W32
deriving DecidableEq, Repr

/-- A route slot's record (14:R392). -/
structure RouteRec where
  slot : BitVec 6
  tokens : Nat
  totalRows : Nat
  hidden : Nat
  entries : List RouteEntry
deriving DecidableEq, Repr

/-- Rein: resident gate sets and route slots. -/
structure Rein where
  gates : List GateSet
  slots : List RouteRec
  uses : Nat
deriving DecidableEq, Repr

/-- A line of the Tannery cache: one granule by bank-view granule number (15:R410). -/
structure CacheLine where
  granule : Nat
  data : Bytes
  dirty : Bool
deriving DecidableEq, Repr

/-- A Tannery operation in the module queues (15:R414, R415, R425). -/
structure TmQueued where
  op : Nat
  ticket : Option W64
  top : Byte
  bankView : Bool
  dtype : Byte
  bXor : Byte
  dXor : Byte
  dst : Nat
  srcA : Nat
  srcB : Nat
  len : Nat
  imm : W64
  moduleMask : Byte
  pcMask : W32
  bankMask : W16
  todo : Byte
  failed : Bool
  disturbed : Bool
deriving DecidableEq, Repr

/-- An armed range (15:R426). -/
structure Armed where
  dst : Nat
  len : Nat
  dtype : Byte
  op : Byte
  armed : Bool
  disarm : Bool
deriving DecidableEq, Repr

/-- A BAR2 aperture register (15:R409, 19 Table 19-5). -/
structure Aperture where
  bank : Bool
  base : W64
  low : Option W32
deriving DecidableEq, Repr

/-- Rows of a subarray that use spares (16:R453): the row, and whether for good. -/
structure Spared where
  module : BitVec 3
  pc : BitVec 5
  bank : BitVec 4
  row : Nat
  forGood : Bool
deriving DecidableEq, Repr

/-- The Tannery memory tier (15). -/
structure Tannery where
  mem : Memory
  poison : List Nat
  cache : List CacheLine
  queue : List TmQueued
  nextOp : Nat
  next : W64
  failedTickets : List W64
  armed : List Armed
  apertures : List Aperture
  down : Byte
  temp : List W16
  doubled : Byte
  selfRefresh : Byte
  savedEq : Byte
  spared : List Spared
  corrections : List Nat
  corrAt : List (Option Nat)
  stale : List (Nat × Bytes × W64)
deriving DecidableEq, Repr

/-- Staging memory (16:R450): bytes by physical bank, the logical map, the spare, poisoned words. -/
structure Staging where
  mem : Memory
  map : List (BitVec 5)
  spare : Option (BitVec 5)
  poison : List Nat
  waiting : List (BitVec 4)
deriving DecidableEq, Repr

/-- The IEEE 1149.1 test port (18:R525). -/
structure Jtag where
  ir : Byte
  boundary : List Bool
  dr : List Bool
deriving DecidableEq, Repr

/-- Types of sleep signalling frame (07 Table 7-7). -/
inductive Frame where
  | herald (p : Packet) | credit | busy | wake | deep | resume
deriving DecidableEq, Repr

/-- What configuration space advertises of the endpoint (04:R90, R91; 02:R39): lanes, 10-bit tags, MSI-X vectors, the L1 exit
latency in ns, and for each of BAR0, BAR2 and BAR4 its size as log2 of bytes, 64-bit and prefetchable. -/
structure PcieCaps where
  lanes : Nat
  tagBits : Nat
  msixVectors : Nat
  aspmL0s : Bool
  aspmL1 : Bool
  l1ExitNs : Nat
  maxPayload : Nat
  maxReadReq : Nat
  bars : List (Nat × Bool × Bool)
deriving DecidableEq, Repr

/-- What the node has sent to the outside, newest first (log 3). -/
inductive Output where
  | msix (vector : BitVec 7) (addr : W64) (data : W32)
  | pins (levels : List Bool)
  | write (addr : Nat) (data : Bytes) (relaxed poisoned : Bool)
  | packet (port : BitVec 4) (p : Packet)
  | group (port : BitVec 4) (g : FlitGroup)
  | codeword (port : BitVec 4) (lanes : List (List (BitVec 10)))
  | ctrl (port : BitVec 4) (f : CtrlFlit)
  | frame (port : BitVec 4) (f : Frame)
  | sideband (words : List W32)
  | readData (data : Bytes) (poisoned : Bool)
  | cfgData (value : W32)
  | cfgCaps (c : PcieCaps)
  | test (bits : List Bool)
deriving DecidableEq, Repr

/-- The state of the node, and the queue of commands that wait. -/
structure State where
  kp : Keeper
  boot : Boot
  fuses : BitVec 1024
  board : Variant
  pins : Pins
  host : HostPort
  err : ErrSum
  lag : LagStats
  qs : List QPage
  evq : QPage
  evs : List EvSource
  tree : Tree
  cfg : NodeCfg
  wins : List Window
  maps : List (Option (List Coord))
  comms : List Comm
  cmds : List Cmd
  ctxs : List Ctx
  saved : List Saved
  threads : List Thread
  turns : List LaneTurn
  slots : Memory
  progs : List Program
  ni : NI
  rt : Router
  ports : List Port
  rein : Rein
  tm : Tannery
  stg : Staging
  bus : Memory
  busPoison : List (Nat × Nat)
  flash : Memory
  jtag : Jtag
  out : List Output
  free : Nat
  undef : Bool
  pending : List Instr
deriving DecidableEq, Repr

/-- What a command answers. -/
abbrev Out := Host.Outcome State Fault Refusal

/-- The policy after a reset (02:R54). -/
def Policy.reset : Policy := { dozeAfter := 50, napAfter := 12500, deepAfter := 1250000, heraldHold := 25000, floor := 3 }

/-- The keeper after a cold reset (02:R54, 19 Table 19-2). Sensors: log 12. -/
def Keeper.reset : Keeper :=
  { timestamp := 0, power := .active, trans := .none, stateSince := 0, idleSince := 0, lastWake := 0,
    policy := Policy.reset, acting := Policy.reset, alarm := 0, alarmLow := none, armed := false, filter := [], buffer := [], fullAt := none, busySent := 0,
    holds := [], latch0 := none, latchSb := none, therm := List.replicate 8 { temp := 0, level := 0 },
    throttled := false, tripped := false, gbTemp := [0, 0, 0], gbWarn := [false, false, false],
    gbStop := [false, false, false], bootWd := none, sbBusy := false }

/-- Boot state after a cold reset: phase KEEPER (03:R88). -/
def Boot.reset : Boot :=
  { phase := 0, fault := 0, runSlot := false, warm := false, failed := [false, false], fwVersion := 0,
    imageVersion := 0, imageSvn := 0, imageKey := false, laneMap := [], spares := [], lanesRetired := 0,
    treeRetired := 0, stagingRetired := 0, linksRetired := 0, bootCount := 0, nextRecord := 0, runTpMask := 0,
    runRails := 0, baseLanes := 0, baseTree := 0, baseStaging := 0 }

/-- The host port after a cold reset (log 7, log 8). -/
def HostPort.reset : HostPort :=
  { cfg := [], busMaster := false, relaxed := false, payload := 7, readReq := 9, l1 := false,
    inL1 := false, msixOn := false, msixMask := false,
    bar2Log := 30, msix := List.replicate 128 { addr := 0, data := 0, masked := true }, pba := 0, reads := [], got := [],
    nextTag := 0, waits := [], inReset := false }

/-- A queue page after reset (04 Table 4-4). -/
def QPage.reset : QPage :=
  { sqTail := 0, cqHead := 0, sqHead := 0, cqTail := 0, phase := true, sqBase := 0, cqBase := 0, sqEntries := 16,
    cqEntries := 16, enable := false, irqEn := false, burst := 8, vector := 0, imodCount := 1, imodTime := 0,
    qerr := 0, stopped := false, defTimeout := 25000000, fetched := [], reading := 0, started := 0, marks := [],
    unsig := 0, unsigAt := none, headSince := 0 }

/-- Laggard counters and an empty statistics record. -/
def LagStats.reset : LagStats :=
  { completed := 0, namedSelf := 0, lastRank := 0, maxLate := 0, bins := List.replicate 8 0, lastSeq := 0 }

/-- The Tree after a cold reset (03, 16:R475). -/
def Tree.reset : Tree :=
  { active := 0, standby := true, halted := false, wdAt := 0, tests := [], transients := [], heldLog := [],
    lostLog := 0, errRow := [], rr := 0, nextCmd := 0, resetReq := none }

/-- Configuration defaults (05 Table 5-5). -/
def NodeCfg.reset : NodeCfg :=
  { coord := 0, dims := 0, w1 := 40, w2 := 16, w3 := 8, chunkTimeout := 2500, saveAfter := 25000 }

/-- Default rates: full for VC1, half for VC2 (03:R89, 08:R237). -/
def Rate.reset (vc2 : Bool) : Rate :=
  { num := 1, sh := if vc2 then 1 else 0, lastCut := 0, lastEcho := 0, lastRise := 0, nextAt := 0 }

/-- The NI after a reset that clears staging memory. -/
def NI.reset : NI :=
  { tx := [], rx := [], reqs := [], nextReq := 0, serving := [], early := [], journal := [],
    rates := List.replicate 6 (Rate.reset false) ++ List.replicate 6 (Rate.reset true), lost := [], epoch := false,
    sentTo := [], rounds := [], nextRound := 0, degradedAt := none, probes := [], nextProbe := 0, busy := [],
    missEvents := [] }

/-- Counters at zero (07:R197). -/
def PortCnt.reset : PortCnt :=
  { crcErr := 0, replays := 0, replayed := 0, fecCorr := 0, fecUncorr := 0, retrains := 0, downs := 0,
    halfUs := 0, detour := 0 }

/-- A fabric port after a cold reset: OFF, no coefficients saved (02:R48, 19 Table 19-4). -/
def Port.reset : Port :=
  { st := .off, width := 0, cause := 0, retired := false, dead := false, farCoord := 0, farDims := 0,
    farPort := 0xFF, farRail := false, farSeen := false, cnt := PortCnt.reset, winStart := 0, winErr := 0,
    winRaised := false, savedEq := 0, lanesLost := 0, training := none, wasUp := false, ident := .held,
    txNext := 0, txAcked := 0, txGroups := [], retry := [], txPkt := 0, txStream := [], txIns := [],
    txBase := none, txMarks := [], txFec := (0, 0), replayFrom := 0, replaySame := 0,
    ackTimeouts := 0, rxNext := 0, rxWaitReplay := false, rxFlits := [], rxCover := none,
    rxHeld := [0, 0, 0, 0], rxFreed := [0, 0, 0, 0], txUsed := [0, 0, 0, 0], txFreed := [0, 0, 0, 0], inq := [[], [], [], []],
    outq := [[], [], [], []], credit := [0, 0, 0, 0], lastVc := 3, window := 0, heraldCredit := true,
    heldFrame := none, frameTries := 0, busy := false, lpiSent := false, lpiWanted := false, lpiAsked := false }

/-- Aperture `a` at its default for a BAR2 of `2^log2` bytes (15:R409). -/
def Aperture.reset (log2 a : Nat) : Aperture :=
  { bank := false, base := BitVec.ofNat 64 (a * (2 ^ log2 / 8)), low := none }

/-- The Tannery tier after a cold reset (15 Edges, 19 Table 19-5). -/
def Tannery.reset : Tannery :=
  { mem := [], poison := [], cache := [], queue := [], nextOp := 0, next := 1, failedTickets := [],
    armed := [], apertures := (List.range 8).map (Aperture.reset 30), down := 0,
    temp := List.replicate 8 0x8000, doubled := 0, selfRefresh := 0, savedEq := 0, spared := [],
    corrections := List.replicate 8 0, corrAt := List.replicate 8 none, stale := [] }

/-- Staging memory after a cold reset: zero, bank 16 the spare (16:R450). -/
def Staging.reset : Staging :=
  { mem := [], map := (List.range 16).map (BitVec.ofNat 5), spare := some 16, poison := [], waiting := [] }

/-- The machine right after a cold reset (03:R81, R88). The fuses are as shipped: DEBUG_OFF blown, the digests and
identities zero (log 5); the board is a VN-8D (log 6). -/
def State.reset : State :=
  { kp := Keeper.reset, boot := Boot.reset, fuses := (1 : BitVec 1024) <<< 834, board := .vn8d,
    pins := { pwrgood := true, perstN := true, wakeN := true, saddr := 0, tmRstN := 0, gbRstN := 0 },
    host := HostPort.reset, err := { status := 0, mask := 0, first := 0xF, firstTime := 0 },
    lag := LagStats.reset, qs := List.replicate 64 QPage.reset, evq := QPage.reset, evs := [],
    tree := Tree.reset, cfg := NodeCfg.reset, wins := [], maps := List.replicate 16 none, comms := [],
    cmds := [], ctxs := [], saved := [], threads := [], turns := [], slots := [], progs := [], ni := NI.reset,
    rt := { bank0 := [], bank1 := [], inject := [] }, ports := List.replicate 12 Port.reset,
    rein := { gates := [], slots := [], uses := 0 }, tm := Tannery.reset, stg := Staging.reset, bus := [],
    busPoison := [], flash := [], jtag := { ir := 0xFF, boundary := [], dr := [] }, out := [], free := 0,
    undef := false, pending := [] }

end Sys2Proof.Machine
end

