-- ==== Sys2Proof/Machine/Flags.lean ====
section
/-! DEFINITION. Machine/Flags.lean: status codes and flags of a completion (04:R124, R128), the precedence of the OK
statuses (12:R332, 14:R393, 16:R459), the access codes of registers (00:R17), and the ERR_STATUS bits (19:R543). -/

namespace Sys2Proof.Machine

/-- Status codes (04 Table 4-10). -/
def stOK : Byte := 0x00
def stDegraded : Byte := 0x01
def stOverflow : Byte := 0x02
def stDropped : Byte := 0x03
def stQueueFull : Byte := 0x10
def stBadDesc : Byte := 0x11
def stNoComm : Byte := 0x12
def stNoWindow : Byte := 0x13
def stLimit : Byte := 0x14
def stMismatch : Byte := 0x20
def stMemberLost : Byte := 0x21
def stTimeout : Byte := 0x22
def stCheckFail : Byte := 0x23
def stUnknown : Byte := 0x24
def stAborted : Byte := 0x25
def stInternal : Byte := 0x30

/-- The OK status that applies: OK_OVERFLOW before OK_DROPPED before OK_DEGRADED (12:R332, 14:R393, 16:R459). -/
def okStatus (overflow dropped degraded : Bool) : Byte :=
  if overflow then stOverflow else if dropped then stDropped else if degraded then stDegraded else stOK

/-- FLAGS of a completion (04 Table 4-6). -/
def complFlags (resultValid lagValid retried saved : Bool) : Byte :=
  BitVec.ofBool saved ++ BitVec.ofBool retried ++ BitVec.ofBool lagValid ++ BitVec.ofBool resultValid
    |>.setWidth 8

/-- Write-one-to-clear (00:R17). -/
def w1c {w : Nat} (old written : BitVec w) : BitVec w := old &&& ~~~ written

/-- A read-write field: a reserved value leaves it unchanged (00:R8). -/
def rwField {w : Nat} (valid : Bool) (old written : BitVec w) : BitVec w := if valid then written else old

/-- Bits of ERR_STATUS (19 Table 19-3). -/
def errLane : Nat := 0
def errTree : Nat := 1
def errStaging : Nat := 2
def errLink : Nat := 3
def errTannery : Nat := 4
def errThermal : Nat := 5
def errQueue : Nat := 6
def errPopulation : Nat := 7
def errRetired : Nat := 8
def errOverrun : Nat := 9
def errNodeLost : Nat := 10

/-- Bits of QERR (04 Table 4-4). -/
def qerrDoorbell : Nat := 0
def qerrSqFetch : Nat := 1
def qerrCqWrite : Nat := 2
def qerrBusy : Nat := 3

/-- Power-state codes (02 Table 2-5). -/
def pstateCode : PState → BitVec 4
  | .active => 0
  | .doze => 1
  | .nap => 2
  | .deep => 3
  | .off => 0

/-- Link-state codes (07 Table 7-9). -/
def linkCode : LinkState → Byte
  | .off => 0
  | .down => 1
  | .training => 2
  | .held => 3
  | .up => 4
  | .lpi => 5
  | .sleep => 6
  | .dark => 7
  | .miswired => 8

/-- Phase codes (03 Table 3-7). -/
def phKeeper : BitVec 4 := 0
def phFuses : BitVec 4 := 1
def phRom : BitVec 4 := 2
def phImage : BitVec 4 := 3
def phInit : BitVec 4 := 4
def phTrain : BitVec 4 := 5
def phReady : BitVec 4 := 6
def phRecovery : BitVec 4 := 7
def phFault : BitVec 4 := 8

end Sys2Proof.Machine
end

