-- ==== Sys2Proof/Machine/Memory.lean ====
section
/-! DEFINITION. Machine/Memory.lean: byte-addressed stores as sorted lists of cells. `d` is what an unlisted address
reads as; no cell holds `d`, so equal contents are equal lists. -/

namespace Sys2Proof.Machine

/-- The byte at `a`. -/
def memGet (d : Byte) : Memory → Nat → Byte
  | [], _ => d
  | (k, b) :: r, a => if a = k then b else if a < k then d else memGet d r a

/-- Memory with byte `b` at `a`; writing `d` removes the cell. -/
def memPut (d : Byte) : Memory → Nat → Byte → Memory
  | [], a, b => if b = d then [] else [(a, b)]
  | (k, c) :: r, a, b =>
    if a = k then (if b = d then r else (k, b) :: r)
    else if a < k then (if b = d then (k, c) :: r else (a, b) :: (k, c) :: r)
    else (k, c) :: memPut d r a b

/-- `n` bytes from `a`. -/
def memRead (d : Byte) (m : Memory) (a : Nat) : Nat → Bytes
  | 0 => []
  | n + 1 => memGet d m a :: memRead d m (a + 1) n

/-- Memory with the bytes `bs` from `a` on. -/
def memWrite (d : Byte) (m : Memory) (a : Nat) : Bytes → Memory
  | [] => m
  | b :: r => memWrite d (memPut d m a b) (a + 1) r

/-- Memory with every address of `[a, a + n)` back at `d`. -/
def memErase (m : Memory) (a n : Nat) : Memory := m.filter fun c => !(a ≤ c.1 && c.1 < a + n)

/-- The canonical form: addresses strictly rising, above `lo` where one is given, and no cell holding `d`. -/
def memWfFrom (d : Byte) : Option Nat → Memory → Bool
  | _, [] => true
  | lo, (k, b) :: r =>
    (match lo with | none => true | some l => decide (l < k)) && decide (b ≠ d) && memWfFrom d (some k) r

/-- The canonical form of a memory whose unlisted addresses read as `d`. -/
def Memory.wf (d : Byte) (m : Memory) : Bool := memWfFrom d none m

end Sys2Proof.Machine
end

