-- ==== Sys2Proof/Config.lean ====
section
/-! DEFINITION. Config.lean: the values that the manual leaves open, as constants without a body, so that nothing can
be proved of them, and the fixed limits of 10:R296. -/

namespace Sys2Proof.Config

/-- A byte that the manual calls undefined (00:R11), one per index of the state's free counter (log 10). -/
opaque freeByte : Nat → BitVec 8

/-- A choice that the manual leaves open, such as old or new content before a TM_FENCE (15:R416; log 10). -/
opaque freeBool : Nat → Bool

/-- The data that SCAN_CHAIN and MEM_ACCESS shift out, which the manual does not describe (18:R525; log 10). -/
opaque freeScan : Nat → List Bool

/-- Queue pairs (10 Table 10-9). -/
def queuePairs : Nat := 64
/-- Engine-wide backlog. -/
def backlogMax : Nat := 65536
/-- Collective contexts that can be bound, and contexts that can be saved. -/
def contextMax : Nat := 512
/-- Registered communicators. -/
def commMax : Nat := 4096
/-- Registered windows. -/
def windowMax : Nat := 1024
/-- Outstanding PCI Express reads of the engine (17:R488). -/
def readMax : Nat := 768
/-- Outstanding one-sided requests. -/
def requestMax : Nat := 16384
/-- Unacknowledged packets of a stream. -/
def streamMax : Nat := 64
/-- Chunks of the first grant. -/
def grantFirst : Nat := 4
/-- ROUTE_DISPATCH and COMBINE_ALLREDUCE commands bound at once. -/
def reinMax : Nat := 8
/-- Entries of a module's operation queue. -/
def tmQueueMax : Nat := 256
/-- Heralds buffered. -/
def heraldBufMax : Nat := 16
/-- Keys of the herald filter. -/
def heraldFilterMax : Nat := 64
/-- Abort notices held per communicator. -/
def noticeMax : Nat := 8
/-- Armed ranges (15:R426). -/
def armedMax : Nat := 16
/-- Events a source holds (04:R118). -/
def eventHeldMax : Nat := 8
/-- Coordinates of the lost set (16:R470). -/
def lostMax : Nat := 1024
/-- Bytes of ejection space (08:R210). -/
def ejectMax : Nat := 16777216
/-- The open staging area (06:R156). -/
def stagingOpen : Nat := 0x04000000
/-- Bytes of one staging bank (16:R450). -/
def stagingBank : Nat := 6291456
/-- Bytes of one TM48 (15:R432). -/
def moduleBytes : Nat := 51539607552
/-- Lines of the Tannery cache (15:R410). -/
def cacheLines : Nat := 65536
/-- Ticks of 1 us, 1 ms, 200 us and 600 s. -/
def tick1us : Nat := 25
def tick1ms : Nat := 25000
def tick200us : Nat := 5000
def tick600s : Nat := 15000000000

end Sys2Proof.Config
end

