-- ==== Sys2Proof/Machine/Operands.lean ====
section
/-! DEFINITION. Machine/Operands.lean: the operand forms: fields of submission entries and BODY layouts (04:R123,
05:R149), fabric addresses (06:R172), packet payload fields, and the operands of lane instructions (13:R367, R368). -/

namespace Sys2Proof.Machine

/-- The `n`-byte field of an entry at byte offset `o`. -/
def entField (e : Entry) (o n : Nat) : Nat := natBits (8 * o) (8 * n) e.toNat

/-- The `n`-byte field of an entry's BODY at BODY offset `o` (05:R129). -/
def bodyField (e : Entry) (o n : Nat) : Nat := entField e (16 + o) n

/-- The BODY of an entry. -/
def entBody (e : Entry) : BitVec 896 := e.extractLsb' 128 896

/-- The `n`-byte field of a stored BODY at offset `o`. -/
def bodyOf (b : BitVec 896) (o n : Nat) : Nat := natBits (8 * o) (8 * n) b.toNat

/-- OPCODE, TAG, TIMEOUT, FENCE and NO_IRQ of an entry. -/
def entOpcode (e : Entry) : Nat := entField e 0 1
def entTag (e : Entry) : W32 := BitVec.ofNat 32 (entField e 4 4)
def entTimeout (e : Entry) : Nat := entField e 8 4
def entFence (e : Entry) : Bool := natBit 8 e.toNat
def entNoIrq (e : Entry) : Bool := natBit 9 e.toNat

/-- The bits that a list of (BODY offset, size, used bits) covers. A field whose high bits are reserved gives
`used` below `8 * size`. -/
def usedMask : List (Nat × Nat) → Nat
  | [] => 0
  | (o, bits) :: r => usedMask r ||| ((2 ^ bits - 1) <<< (8 * o))

/-- No reserved bit of the common entry fields or of the BODY is set (00:R7). The list gives the BODY's fields as
(byte offset, used bits). -/
def noReserved (fields : List (Nat × Nat)) (e : Entry) : Bool :=
  natBits 10 6 e.toNat = 0 && natBits 16 16 e.toNat = 0 && natBits 96 32 e.toNat = 0 &&
  (entBody e).toNat &&& ((2 ^ 896 - 1) ^^^ usedMask fields) = 0

/-- RANK, SPACE and OFFSET of a fabric address (06 Table 6-1). -/
def faRank (a : W64) : BitVec 18 := a.extractLsb' 46 18
def faSpace (a : W64) : BitVec 2 := a.extractLsb' 44 2
def faOffset (a : W64) : Nat := natBits 0 44 a.toNat

/-- The RANK that names this node. -/
def rankSelf : BitVec 18 := 0x3FFFF

/-- A fabric address of this node. -/
def localAddr (space off : Nat) : W64 := BitVec.ofNat 64 (0x3FFFF * 2 ^ 46 + space * 2 ^ 44 + off)

/-- The address `n` bytes further on. -/
def faAdd (a : W64) (n : Nat) : W64 := a + BitVec.ofNat 64 n

/-- Scalar register `i` of a thread. -/
def sreg (t : Thread) (i : BitVec 5) : W64 := t.s.getD i.toNat 0

/-- Vector register `i` of a thread; only V0 to V7 exist (13:R367). -/
def vreg (t : Thread) (i : Nat) : BitVec 512 := t.v.getD i 0

/-- A thread with a scalar register written. -/
def Thread.setS (t : Thread) (i : BitVec 5) (x : W64) : Thread := { t with s := setAt i.toNat x t.s }

/-- A thread with a vector register written. -/
def Thread.setV (t : Thread) (i : Nat) (x : BitVec 512) : Thread := { t with v := setAt i x t.v }

/-- The sign-extended immediate (13:R367). -/
def simm (w : InsFields) : W64 := w.imm.signExtend 64

/-- The second operand of opcodes 0x01 to 0x09: S[B], or IMM when MOD[0] is 1 (13:R368). -/
def operandB (t : Thread) (w : InsFields) : W64 := if w.md.getLsbD 0 then simm w else sreg t w.b

/-- The instruction word of an opcode and its fields (13 Table 13-2). -/
def insWord (opc : Nat) (w : InsFields) : W64 :=
  BitVec.ofNat 64 (opc * 2 ^ 56 + w.d.toNat * 2 ^ 51 + w.a.toNat * 2 ^ 46 + w.b.toNat * 2 ^ 41 +
    w.c.toNat * 2 ^ 36 + w.md.toNat * 2 ^ 32 + w.imm.toNat)

/-- The bytes of a vector register, and the register that 64 bytes spell. -/
def vbytes (v : BitVec 512) : Bytes := leBytes 64 v.toNat
def ofVbytes (b : Bytes) : BitVec 512 := BitVec.ofNat 512 (leNat (slice 0 64 b))

/-- Condition codes of CMP (13 Table 13-4); `none` for a reserved code. -/
def condCmp (code : Nat) (a b : W64) : Option Bool :=
  match code with
  | 0 => some (a == b)
  | 1 => some (a != b)
  | 2 => some (a.slt b)
  | 3 => some (a.ult b)
  | 4 => some (a.sle b)
  | 5 => some (a.ule b)
  | _ => none

/-- Condition codes of BR, against zero; `none` for a reserved code. -/
def condBr (code : Nat) (a : W64) : Option Bool :=
  match code with
  | 0 => some true
  | 1 => some (a == 0)
  | 2 => some (a != 0)
  | 3 => some (a.slt 0)
  | 4 => some (!(a.slt 0))
  | _ => none

/-- The fields of a packet's payload. -/
def payField (p : Packet) (o n : Nat) : Nat := fieldAt o n p.payload

/-- The fabric address in payload bytes 0 to 7 of a one-sided request (08:R202). -/
def payAddr (p : Packet) : W64 := BitVec.ofNat 64 (payField p 0 8)

/-- The trailer CRC of a packet is right (08:R203, R231: zero when there is no payload). -/
def crcOk (p : Packet) : Bool := p.crc = (if p.payload.isEmpty then 0 else crc32c p.payload)

/-- TFLAGS of a packet. -/
def pktOverflow (p : Packet) : Bool := p.tflags.getLsbD 0
def pktPoison (p : Packet) : Bool := p.tflags.getLsbD 1

/-- The flits of a packet (08, Packets and flits) and their bytes. -/
def pktFlits (p : Packet) : Nat := (p.payload.length + 24 + 63) / 64
def flitBytes (p : Packet) : Nat := 64 * pktFlits p

/-- The virtual channel of a packet kind (08 Table 8-2). -/
def kindVc (kind : Nat) : BitVec 2 :=
  if kind ≤ 3 then 0 else if kind = 4 then 1 else if kind ≤ 0xC then 2 else 3

/-- Header bytes of a packet (08 Table 8-1). -/
def packetHeader (p : Packet) : Bytes :=
  leBytes 16 (p.kind.toNat + p.vc.toNat * 2 ^ 4 + b2n p.epoch * 2 ^ 6 + b2n p.flag * 2 ^ 7 +
    b2n p.mark * 2 ^ 8 + b2n p.echo * 2 ^ 9 + p.job.toNat * 2 ^ 10 + b2n p.mcast * 2 ^ 14 +
    b2n p.rerouted * 2 ^ 15 + (p.payload.length % 2 ^ 14) * 2 ^ 16 + b2n p.sync * 2 ^ 30 +
    p.dest.toNat * 2 ^ 32 + p.seq.toNat * 2 ^ 49 + p.src.toNat * 2 ^ 64 + p.prior.toNat * 2 ^ 81 +
    p.tag.toNat * 2 ^ 96)

/-- A packet's bytes on a link: header, payload, trailer, pad to whole flits (08:R200). -/
def packetBytes (p : Packet) : Bytes :=
  slice 0 (flitBytes p) (packetHeader p ++ p.payload ++ bvBytes 4 p.crc ++ [p.tflags, 0, 0, 0])

/-- LENGTH of the packet whose header is the low 128 bits of a flit. -/
def headerLength (h : Nat) : Nat := natBits 16 14 h

/-- The packet that bytes on a link spell. -/
def packetOf (b : Bytes) : Packet :=
  let h := fieldAt 0 16 b
  let n := headerLength h
  { kind := BitVec.ofNat 4 h, vc := BitVec.ofNat 2 (h >>> 4), epoch := natBit 6 h, flag := natBit 7 h,
    mark := natBit 8 h, echo := natBit 9 h, job := BitVec.ofNat 4 (h >>> 10), mcast := natBit 14 h,
    rerouted := natBit 15 h, sync := natBit 30 h, dest := BitVec.ofNat 17 (h >>> 32),
    seq := BitVec.ofNat 15 (h >>> 49), src := BitVec.ofNat 17 (h >>> 64), prior := BitVec.ofNat 6 (h >>> 81),
    tag := BitVec.ofNat 32 (h >>> 96), payload := slice 16 n b, crc := BitVec.ofNat 32 (fieldAt (16 + n) 4 b),
    tflags := BitVec.ofNat 8 (fieldAt (20 + n) 1 b) }

/-- A packet of a kind to a node, with its trailer (08:R200, R231). The NI sets EPOCH, SEQ, SYNC and PRIOR. -/
def mkPacket (kind : Nat) (job : BitVec 4) (src dest : Coord) (tag : W32) (payload : Bytes) (tflags : Byte) :
    Packet :=
  { kind := BitVec.ofNat 4 kind, vc := kindVc kind, epoch := false, flag := false, mark := false, echo := false,
    job := job, mcast := false, rerouted := false, sync := false, dest := dest, seq := 0, src := src, prior := 0,
    tag := tag, payload := payload, crc := if payload.isEmpty then 0 else crc32c payload, tflags := tflags }

end Sys2Proof.Machine
end

