-- ==== Sys2Proof/Machine/Ops.lean ====
section
/-! DEFINITION. Machine/Ops.lean: the shared operations on the state: the guard of every command, time, the error
summary, events (04:R116 to R118), interrupts (04:R114), completions (04:R109 to R113), wakes (02:R36), and the
memories that a command reaches. -/

namespace Sys2Proof.Machine

/-- Every command but a cold reset and a power loss: a fault once operation is undefined (03:R78, 18 Edges); in OFF
nothing answers (18:R496). -/
def liveKeeper (keeper : Bool) (s : State) (f : State → State) : Out :=
  if s.undef then .fault .operationUndefined
  else if s.kp.power = .off || (s.kp.tripped && !keeper) then .next s
  else .next (f s)

/-- A command of the engine proper, which stands still after a thermal trip. -/
def live (s : State) (f : State → State) : Out := liveKeeper false s f

/-- The keeper's time as a number. -/
def now (s : State) : Nat := s.kp.timestamp.toNat

/-- A step that happens only when its condition holds (log 2). -/
def onlyIf (c : Bool) (f : State → State) (s : State) : State := if c then f s else s

/-- What leaves the node (log 3). -/
def emit (o : Output) (s : State) : State := { s with out := o :: s.out }

/-- Draws the next free value's index (log 10). -/
def bumpFree (n : Nat) (s : State) : State := { s with free := s.free + n }

/-- `n` bytes that the manual calls undefined (00:R11). -/
def freeBytes (s : State) : Nat → Bytes
  | n => (List.range n).map fun i => Config.freeByte (s.free + i)

/-- The node's coordinate, and the torus size on an axis. -/
def myCoord (s : State) : Coord := s.cfg.coord.setWidth 17
def torus (s : State) (a : Nat) : Nat := torusSize s.cfg.dims a

/-- READY, and the Tree runs (03:R66, 02 Table 2-1). -/
def octozRuns (s : State) : Bool := s.boot.phase = phReady && s.kp.power = .active && !s.tree.halted

/-- A coordinate lies inside the box `lo .. hi` on axis `a` (08:R233). -/
def inBoxAxis (s : State) (lo hi c : Coord) (a : Nat) : Bool :=
  let n := torus s a
  (axisOf a c + n - axisOf a lo % n) % n ≤ (axisOf a hi + n - axisOf a lo % n) % n

/-- A coordinate lies inside the box. -/
def inBox (s : State) (lo hi c : Coord) : Bool :=
  inBoxAxis s lo hi c 0 && inBoxAxis s lo hi c 1 && inBoxAxis s lo hi c 2

/-- Sets an ERR_STATUS bit; ERR_FIRST keeps the first bit set while the status was zero (19:R536). -/
def setErr (bit : Nat) (s : State) : State :=
  { s with err :=
      { s.err with
        status := s.err.status ||| (1 : BitVec 11) <<< bit
        first := if s.err.status = 0 then BitVec.ofNat 4 bit else s.err.first
        firstTime := if s.err.status = 0 then s.kp.timestamp.setWidth 32 else s.err.firstTime } }

/-- The page of a queue pair, or of the event ring at 64 (04:R121). -/
def getPage (p : Nat) (s : State) : QPage := if p = 64 then s.evq else s.qs.getD p QPage.reset

/-- A page replaced through `f`. -/
def modPage (p : Nat) (f : QPage → QPage) (s : State) : State :=
  if p = 64 then { s with evq := f s.evq } else { s with qs := modAt f p s.qs }

/-- Sets a QERR bit, and with it ERR_STATUS.QUEUE (19 Table 19-3). -/
def setQerr (p bit : Nat) (s : State) : State :=
  setErr errQueue (modPage p (fun g => { g with qerr := g.qerr ||| (1 : BitVec 4) <<< bit }) s)

/-- The writes that carry bytes to the host port, none longer than the maximum payload size `m` (04:R90), by fuel. -/
def payloads (m : Nat) (relaxed poisoned : Bool) : Nat → Nat → Bytes → List Output
  | 0, _, _ => []
  | f + 1, a, bs =>
    if bs.isEmpty then []
    else
      let k := max 1 (m - a % max 1 m)
      .write a (bs.take k) relaxed poisoned :: payloads m relaxed poisoned f (a + k) (bs.drop k)

/-- Two ranges meet. -/
def spansMeet (a n b m : Nat) : Bool := a < b + m && b < a + n

/-- After a write of the engine, bytes that a read of the range brought before it are not used, and neither are those that a
read under way brings: they are read again (10:R285, log 4). -/
def staleReads (a n : Nat) (h : HostPort) : HostPort :=
  { h with got := h.got.filter fun p => !spansMeet p.1 p.2 a n
           reads := updWhere (fun r => r.kind = .data && spansMeet r.addr r.len a n) (fun r => { r with stale := true }) h.reads }

/-- A write of the engine as a bus master; nothing leaves while bus mastering is off (03:R63, log 4). -/
def busSend (relaxed poisoned : Bool) (a : Nat) (bs : Bytes) (s : State) : State :=
  if s.host.busMaster then
    { s with bus := memWrite 0 s.bus a bs
             host := staleReads a bs.length s.host
             out := (payloads (2 ^ s.host.payload.toNat) relaxed poisoned bs.length a bs).reverse ++ s.out }
  else s

/-- A write of a ring entry or record: Relaxed Ordering clear (04:R93). -/
def busWrite (a : Nat) (bs : Bytes) (s : State) : State := busSend false false a bs s

/-- A read of the engine as a bus master (log 4). -/
def busRead (s : State) (a n : Nat) : Bytes := memRead 0 s.bus a n

/-- A read of `n` bytes meets a range whose read ended in an error or poisoned data (16 Table 16-1). -/
def busPoisoned (s : State) (a n : Nat) : Bool := s.busPoison.any fun r => r.1 < a + n && a < r.1 + r.2

/-- Sends an MSI-X message, or marks it pending while it is masked (04:R114). -/
def sendMsix (v : BitVec 7) (s : State) : State :=
  if !s.host.msixOn || !s.host.busMaster then s
  else
    let e := s.host.msix.getD v.toNat { addr := 0, data := 0, masked := true }
    if s.host.msixMask || e.masked
    then { s with host := { s.host with pba := s.host.pba ||| (1 : BitVec 128) <<< v.toNat } }
    else emit (.msix v e.addr e.data) s

/-- Counts a posted entry and signals when IMOD says so (04:R114). -/
def signalEntry (p : Nat) (noIrq : Bool) (s : State) : State :=
  let g := getPage p s
  if !g.irqEn || noIrq then s
  else if g.imodTime = 0 || g.imodCount.toNat ≤ g.unsig + 1
  then sendMsix g.vector (modPage p (fun g => { g with unsig := 0, unsigAt := none }) s)
  else modPage p (fun g => { g with unsig := g.unsig + 1,
                                    unsigAt := some (g.unsigAt.getD (now s)) }) s

/-- Moves a page's completion tail on by one entry; PHASE inverts at the wrap (04:R111). -/
def pushTail (g : QPage) : QPage :=
  if g.cqTail.toNat + 1 = g.cqEntries.toNat then { g with cqTail := 0, phase := !g.phase }
  else { g with cqTail := g.cqTail + 1 }

/-- Entries of a completion ring that the driver has not consumed (04:R103). -/
def cqUsed (g : QPage) : Nat :=
  (g.cqTail.toNat + g.cqEntries.toNat - g.cqHead.toNat) % g.cqEntries.toNat

/-- The 64 bytes of an event entry (04 Table 4-7). -/
def eventBytes (e : Event) (missed : Bool) (coalesced : W32) (phase : Bool) : Bytes :=
  bvBytes 2 e.source ++ bvBytes 2 e.seq ++ bvBytes 2 e.code ++ [BitVec.ofNat 8 (b2n missed), 0] ++
  bvBytes 8 e.time ++ bvBytes 4 coalesced ++ [0, 0, 0, 0] ++ bvBytes 32 e.detail ++
  [0, 0, 0, 0, 0, 0, 0, BitVec.ofNat 8 (b2n phase)]

/-- The event ring has a free entry; a ring that is not enabled counts as full (04:R118). -/
def eventRoom (s : State) : Bool :=
  s.evq.enable && !s.evq.stopped && decide (cqUsed s.evq + 1 < s.evq.cqEntries.toNat)

/-- Raises an event of a source: it takes the source's SEQ, and waits at the source until the ring takes it
(04:R116, R118). -/
def queueEvent (source code : Nat) (detail : BitVec 256) (s : State) : State :=
  let src := BitVec.ofNat 16 source
  let r := (s.evs.find? (fun x => x.source = src)).getD
             { source := src, seq := 0, held := [], missed := 0, last := none }
  let e : Event := { source := src, seq := r.seq, code := BitVec.ofNat 16 code, time := s.kp.timestamp,
                     detail := detail }
  let r1 : EvSource := { r with seq := r.seq + 1 }
  let full := decide (Config.eventHeldMax ≤ r.held.length) || r.last.isSome
  let r2 : EvSource := if full then { r1 with missed := satInc r1.missed, last := some e }
                       else { r1 with held := r1.held ++ [e] }
  let s1 := { s with evs := r2 :: s.evs.filter (fun x => x.source ≠ src) }
  if full then setErr errOverrun s1 else s1

/-- DETAIL of the queue events: byte 0 is the queue, 0x40 for the event ring (04:R127). -/
def queueDetail (p : Nat) : BitVec 256 := BitVec.ofNat 256 p

/-- Writes one event entry. When the write fails the ring stops with QERR.CQ_WRITE, and CQ_WRITE waits at the Tree for a ring
that works (04:R117, R127, Edges); the event that was to be written is lost (log 87). -/
def writeEvent (e : Event) (missed : Bool) (coalesced : W32) (s : State) : State :=
  if s.host.busMaster then
    let g := s.evq
    signalEntry 64 false
      (modPage 64 pushTail (busWrite (g.cqBase.toNat + 64 * g.cqTail.toNat) (eventBytes e missed coalesced g.phase) s))
  else queueEvent 0 3 (queueDetail 64) (setQerr 64 qerrCqWrite (modPage 64 (fun g => { g with stopped := true }) s))

/-- The next entry of one source: its oldest held event, else its summary (04:R118). -/
def flushOne (r : EvSource) (s : State) : State :=
  match r.held with
  | e :: rest =>
    writeEvent e false 0
      { s with evs := updWhere (fun x => x.source = r.source) (fun x => { x with held := rest }) s.evs }
  | [] =>
    match r.last with
    | none => s
    | some e =>
      writeEvent e true r.missed
        { s with evs := updWhere (fun x => x.source = r.source) (fun x => { x with missed := 0, last := none }) s.evs }

/-- Posts held events while the ring has room, by fuel. -/
def flushGo : Nat → State → State
  | 0, s => s
  | k + 1, s =>
    if eventRoom s then
      match s.evs.find? (fun x => !x.held.isEmpty || x.last.isSome) with
      | none => s
      | some r => flushGo k (flushOne r s)
    else s

/-- Posts held events while the ring has room. In a sleep state they wait for the wake (02:R32, R36, Table 2-4). -/
def flushEvents (s : State) : State := if s.kp.power = .active then flushGo 4096 s else s

/-- A wake source (02:R36): it restarts the DOZE_AFTER count; in a sleep state it starts a wake and records the
cause. Of two causes in one tick the lower code stays (02 Edges). -/
def wakeSource (cause : BitVec 4) (s : State) : State :=
  let k := { s.kp with idleSince := now s }
  match s.kp.power, s.kp.trans with
  | .active, _ => { s with kp := k }
  | .off, _ => s
  | _, .wake c t =>
    if t = now s && cause < c
    then { s with kp := { k with trans := .wake cause t, lastWake := cause } }
    else { s with kp := k }
  | _, _ => { s with kp := { k with trans := .wake cause (now s), lastWake := cause } }

/-- Raises an event, which is an internal wake cause (02:R36, cause 0x8), and posts what the ring takes. -/
def raiseEvent (source code : Nat) (detail : BitVec 256) (s : State) : State :=
  flushEvents (wakeSource 8 (queueEvent source code detail s))

/-- An event DETAIL from its bytes. -/
def detailOf (b : Bytes) : BitVec 256 := BitVec.ofNat 256 (leNat (b.take 32))

/-- The 32 bytes of a completion entry (04 Table 4-6). -/
def complBytes (q : Nat) (g : QPage) (time : W64) (c : Completion) : Bytes :=
  bvBytes 4 c.tag ++ [c.status, c.flags, BitVec.ofNat 8 q, 0] ++ bvBytes 8 c.result ++
  leBytes 4 c.lagRank.toNat ++ bvBytes 4 c.lateness ++ leBytes 4 time.toNat ++ leBytes 2 g.sqHead.toNat ++
  [0, BitVec.ofNat 8 (b2n g.phase)]

/-- The entry at the head of a queue has FENCE set (04:R105). -/
def fencedHead (g : QPage) : Bool := match g.fetched with | [] => false | f :: _ => entFence f.entry

/-- Posts a completion of a command fetched from queue `q` (04:R109 to R111); a failed write sets QERR.CQ_WRITE and
STOPPED and raises CQ_WRITE (04 Edges). A fenced entry that no earlier command holds any more waits from now on. -/
def postCompletion (q : Nat) (c : Completion) (s : State) : State :=
  let s0 := modPage q (fun g => { g with started := g.started - 1
                                         headSince := if fencedHead g && g.started ≤ 1 then now s else g.headSince }) s
  if s0.host.busMaster then
    let g := getPage q s0
    signalEntry q c.noIrq
      (modPage q pushTail
        (busWrite (g.cqBase.toNat + 32 * g.cqTail.toNat) (complBytes q g s0.kp.timestamp c) s0))
  else
    raiseEvent 0 3 (queueDetail q) (setQerr q qerrCqWrite (modPage q (fun g => { g with stopped := true }) s0))

/-- A completion of a command without members (04:R113). -/
def plainC (tag : W32) (noIrq : Bool) (status : Byte) (result : W64) (valid : Bool) : Completion :=
  { tag := tag, status := status, flags := complFlags valid false false false, result := result,
    lagRank := 0x3FFFF, lateness := 0, noIrq := noIrq }

/-- Completes the entry `e` of queue `q` with a status and no result (04:R113). -/
def endEntry (q : BitVec 6) (e : Entry) (status : Byte) (s : State) : State :=
  postCompletion q.toNat (plainC (entTag e) (entNoIrq e) status 0 false) s

/-- Completes the entry with OK and a result. -/
def endResult (q : BitVec 6) (e : Entry) (result : W64) (s : State) : State :=
  postCompletion q.toNat (plainC (entTag e) (entNoIrq e) stOK result true) s

/-- The engine serves register and packet traffic without a wake: ACTIVE or DOZE. -/
def routerRuns (s : State) : Bool := s.kp.power = .active || s.kp.power = .doze

/-- The engine is in NAP or DEEP. -/
def asleep (s : State) : Bool := s.kp.power = .nap || s.kp.power = .deep

/-- A port, and a port replaced through `f`. -/
def getPort (p : Nat) (s : State) : Port := s.ports.getD p Port.reset
def modPort (p : Nat) (f : Port → Port) (s : State) : State := { s with ports := modAt f p s.ports }

/-- A communicator by handle. -/
def findComm (h : W32) (s : State) : Option Comm := s.comms.find? fun c => c.handle = h

/-- The communicators of a handle replaced through `f`. -/
def modComm (h : W32) (f : Comm → Comm) (s : State) : State :=
  { s with comms := updWhere (fun c => c.handle = h) f s.comms }

/-- A bound context by index, and by (handle, sequence number). -/
def findCtx (i : BitVec 9) (s : State) : Option Ctx := s.ctxs.find? fun c => c.idx = i
def findColl (h q : W32) (s : State) : Option Ctx := s.ctxs.find? fun c => c.handle = h && c.seq = q

/-- Bound contexts of an index replaced through `f`. -/
def modCtx (i : BitVec 9) (f : Ctx → Ctx) (s : State) : State :=
  { s with ctxs := updWhere (fun c => c.idx = i) f s.ctxs }

/-- A started command by its number, and commands replaced through `f`. -/
def findCmd (i : Nat) (s : State) : Option Cmd := s.cmds.find? fun c => c.id = i
def modCmd (i : Nat) (f : Cmd → Cmd) (s : State) : State :=
  { s with cmds := updWhere (fun c => c.id = i) f s.cmds }

/-- Ends a started command: it leaves the list and posts its completion, with OK_DEGRADED in place of OK after a Tree
failover (16:R452). -/
def endCmd (c : Cmd) (status flags : Byte) (result : W64) (s : State) : State :=
  postCompletion c.q.toNat
    { tag := c.tag, status := if status = stOK && c.degraded then stDegraded else status, flags := flags
      result := result, lagRank := 0x3FFFF, lateness := 0, noIrq := c.noIrq }
    { s with cmds := s.cmds.filter fun x => x.id ≠ c.id }

/-- The deadline of a command that starts now (04:R108). -/
def deadlineOf (q : BitVec 6) (e : Entry) (s : State) : Option Nat :=
  let t := if entTimeout e = 0 then (getPage q.toNat s).defTimeout.toNat else entTimeout e
  if t = 0 then none else some (now s + t)

/-- Adds a started command of queue `q`; its number is the Tree's command count. -/
def addCmd (q : BitVec 6) (e : Entry) (k : CmdKind) (s : State) : State :=
  { s with
    cmds := s.cmds ++ [{ id := s.tree.nextCmd, q := q, tag := entTag e, noIrq := entNoIrq e,
                         deadline := deadlineOf q e s, degraded := false, kind := k }]
    tree := { s.tree with nextCmd := s.tree.nextCmd + 1 } }

/-- The coordinate that a job-local rank translates to on map `m` (06:R163). -/
def translate (s : State) (m : Nat) (rank : Nat) : Option Coord :=
  match s.maps.getD m none with
  | none => none
  | some l => l[rank]?

/-- The address names this node (06:R154); `none` when its rank does not translate (06:R163). -/
def isLocal (s : State) (m : Nat) (a : W64) : Option Bool :=
  if faRank a = rankSelf then some true
  else (translate s m (faRank a).toNat).map fun c => c = myCoord s

/-- The running Tannery ports in ascending order (15:R406). -/
def runningPorts (s : State) : List Nat := (List.range 8).filter fun p => s.boot.runTpMask.getLsbD p

/-- The capacity of the running modules (06:R157). -/
def tmCapacity (s : State) : Nat := Config.moduleBytes * (runningPorts s).length

/-- The bank-view address of an interleaved offset (15:R406, Table 15-3). -/
def interleave (s : State) (o : Nat) : Nat :=
  let ports := runningPorts s
  let mb := Nat.log2 ports.length
  let n := 2 ^ mb
  let st := o >>> 21
  let q := (o >>> 8) % 0x2000
  let m := (q >>> 9) % n
  let k := q >>> (9 + mb)
  let bank := ((q >>> 5) % 16) ^^^ ((q >>> 9) % 16)
  let pc := (q % 32) ^^^ ((q >>> 8) % 32)
  let l := (st * 2 ^ (4 - mb) + k) * 256 + o % 256
  ports.getD m 0 * 2 ^ 36 + pc * 2 ^ 31 + bank * 2 ^ 27 + (l >>> 10) * 2 ^ 10 + l % 1024

/-- The interleaved offset of a bank-view address on a running port: the inverse of R406. -/
def deinterleave (s : State) (b : Nat) : Nat :=
  let ports := runningPorts s
  let mb := Nat.log2 ports.length
  let m := ports.findIdx fun p => p = natBits 36 3 b
  let l := natBits 10 17 b * 1024 + b % 1024
  let g := l / 256
  let k := g % 2 ^ (4 - mb)
  let hi := m + k * 2 ^ mb
  let mid := natBits 27 4 b ^^^ hi
  let low := natBits 31 5 b ^^^ (hi * 2 + mid / 8)
  (g / 2 ^ (4 - mb)) * 2 ^ 21 + ((hi * 16 + mid) * 32 + low) * 256 + b % 256

/-- Module, pseudo-channel, bank, row and column as a bank-view address (15 Table 15-3). -/
def bankAddr (m pc bank row col : Nat) : Nat := m * 2 ^ 36 + pc * 2 ^ 31 + bank * 2 ^ 27 + row * 2 ^ 10 + col

/-- A bank address lies in the range `[a, a + len)` of an operation: interleaved, or at the same row and column of a
bank that the masks select, shifted by `x` (15:R412). -/
def opCovers (s : State) (o : TmQueued) (a x b : Nat) : Bool :=
  if o.bankView then
    let rc := b % 2 ^ 27
    o.moduleMask.getLsbD (natBits 36 3 b) && o.pcMask.getLsbD (natBits 31 5 b) &&
    o.bankMask.getLsbD (natBits 27 4 b ^^^ x) && decide (a ≤ rc) && decide (rc < a + o.len)
  else
    let i := deinterleave s b
    decide (a ≤ i) && decide (i < a + o.len)

/-- The operation reads SRC_A, or SRC_B. -/
def usesA (top : Byte) : Bool :=
  top = 0x01 || top = 0x03 || top = 0x04 || top = 0x05 || top = 0x06 || top = 0x10 || (0x12 ≤ top.toNat && top.toNat ≤ 0x15)
def usesB (top : Byte) : Bool :=
  top = 0x03 || top = 0x04 || top = 0x05 || (0x12 ≤ top.toNat && top.toNat ≤ 0x15)

/-- The operation writes its destination range: all but the control operations. -/
def writesDst (top : Byte) : Bool := top.toNat < 0x20

/-- A bank address lies in an operand range of a queued operation. -/
def inDst (s : State) (o : TmQueued) (b : Nat) : Bool := writesDst o.top && opCovers s o o.dst o.dXor.toNat b
def inSrc (s : State) (o : TmQueued) (b : Nat) : Bool :=
  (usesA o.top && opCovers s o o.srcA 0 b) || (usesB o.top && opCovers s o o.srcB o.bXor.toNat b)

/-- The module, row and granule of a bank-view address. -/
def bvModule (b : Nat) : Nat := natBits 36 3 b
def bvRow (b : Nat) : Nat := natBits 10 17 b
def bvGranule (b : Nat) : Nat := b / 256

/-- A module answers (15:R430). -/
def moduleUp (s : State) (m : Nat) : Bool := s.boot.runTpMask.getLsbD m && !s.tm.down.getLsbD m

/-- The byte that normal traffic reads at a bank-view address: the cache line, else the module's byte; for a granule
whose operation no TM_FENCE has covered, old or new content (15:R416); what a module that is down holds is not stated
(15:R430, log 10). -/
def tmByte (s : State) (b : Nat) : Byte :=
  let g := bvGranule b
  if !moduleUp s (bvModule b) then Config.freeByte (s.free + b)
  else match s.tm.cache.find? (fun l => l.granule = g) with
  | some l => l.data.getD (b % 256) 0
  | none =>
    match s.tm.stale.find? (fun x => x.1 = g) with
    | some x => if Config.freeBool (s.free + g) then x.2.1.getD (b % 256) 0 else memGet 0 s.tm.mem b
    | none => memGet 0 s.tm.mem b

/-- A granule reads as poisoned: its mark is set, or its module is down (15:R418, R430). -/
def tmPoisoned (s : State) (b : Nat) : Bool :=
  s.tm.poison.contains (bvGranule b) || !moduleUp s (bvModule b)

/-- Writes back one cache line (15:R410). -/
def writeBack (l : CacheLine) (m : Memory) : Memory :=
  if l.dirty then memWrite 0 m (l.granule * 256) l.data else m

/-- Writes one byte through the cache: its line is allocated and dirty; the oldest line leaves a full cache
(15:R410, log 15). Writes to a module that is down are discarded (15:R430). A write into an operand range of an
operation that has not executed disturbs it (15:R417). -/
def tmWriteByte (b : Nat) (x : Byte) (s : State) : State :=
  if !moduleUp s (bvModule b) then s
  else
    let g := bvGranule b
    let old := (s.tm.cache.find? (fun l => l.granule = g)).map (fun l => l.data)
    let data := old.getD ((List.range 256).map fun i => tmByte s (g * 256 + i))
    let line : CacheLine := { granule := g, data := setAt (b % 256) x data, dirty := true }
    let rest := s.tm.cache.filter fun l => l.granule ≠ g
    let keep := rest.take (Config.cacheLines - 1)
    let gone := rest.drop (Config.cacheLines - 1)
    { s with tm := { s.tm with
        cache := line :: keep
        mem := gone.foldl (fun m l => writeBack l m) s.tm.mem
        stale := s.tm.stale.filter fun y => y.1 ≠ g
        queue := updWhere (fun o => inDst s o b || inSrc s o b) (fun o => { o with disturbed := true }) s.tm.queue } }

/-- Reads `n` bytes of Tannery space at interleaved offset `o`. -/
def tmRead (s : State) (o n : Nat) : Bytes := (List.range n).map fun i => tmByte s (interleave s (o + i))

/-- Whether any of `n` bytes at `o` reads as poisoned. -/
def tmReadPoison (s : State) (o n : Nat) : Bool := (List.range n).any fun i => tmPoisoned s (interleave s (o + i))

/-- Writes bytes at interleaved offset `o`, one by one. -/
def tmWriteGo (o : Nat) : Bytes → State → State
  | [], s => s
  | x :: r, s => tmWriteGo (o + 1) r (tmWriteByte (interleave s o) x s)

/-- Writes bytes at interleaved offset `o`; a granule written whole loses its poison mark (15:R418, log 15). -/
def tmWrite (o : Nat) (bs : Bytes) (s : State) : State :=
  let first := ceilDiv o 256
  let whole := (List.range ((o + bs.length) / 256 - first)).map fun i => bvGranule (interleave s ((first + i) * 256))
  let s1 := tmWriteGo o bs s
  { s1 with tm := { s1.tm with poison := s1.tm.poison.filter fun g => !whole.contains g } }

/-- Marks the granules of a written range poisoned (15:R418, 10:R548). -/
def tmMarkPoison (o n : Nat) (s : State) : State :=
  let marks := ((List.range n).map fun i => bvGranule (interleave s (o + i))).foldl
    (fun l g => if l.contains g then l else g :: l) s.tm.poison
  { s with tm := { s.tm with poison := marks } }

/-- The physical place of a logical staging offset: 16 banks of 6 MiB (16:R450). -/
def stgKey (s : State) (o : Nat) : Nat :=
  (s.stg.map.getD (o / Config.stagingBank) 0).toNat * Config.stagingBank + o % Config.stagingBank

/-- Reads staging bytes at logical offset `o`. -/
def stgRead (s : State) (o n : Nat) : Bytes := (List.range n).map fun i => memGet 0 s.stg.mem (stgKey s (o + i))

/-- A staging word of the range is poisoned (16:R451); words are 8 bytes (log 16). -/
def stgReadPoison (s : State) (o n : Nat) : Bool := (List.range n).any fun i => s.stg.poison.contains (stgKey s (o + i) / 8)

/-- Writes staging bytes; a written word loses its poison mark (log 16). -/
def stgWrite (o : Nat) : Bytes → State → State
  | [], s => s
  | x :: r, s =>
    stgWrite (o + 1) r
      { s with stg := { s.stg with mem := memPut 0 s.stg.mem (stgKey s o) x
                                   poison := s.stg.poison.filter fun w => w ≠ stgKey s o / 8 } }

/-- Marks the words of a written range poisoned. -/
def stgMarkPoison (o n : Nat) (s : State) : State :=
  let marks := ((List.range n).map fun i => stgKey s (o + i) / 8).foldl
    (fun l g => if l.contains g then l else g :: l) s.stg.poison
  { s with stg := { s.stg with poison := marks } }

/-- The window that holds an accelerator-space offset (06:R158). -/
def windowOf (s : State) (o : Nat) : Option Window :=
  s.wins.find? fun w => !w.closing && decide (w.offset ≤ o) && decide (o < w.offset + w.len)

/-- The window through which an access goes: a command that started before a WINDOW_UNMAP still uses the window that is
closing (05:R138). -/
def windowFor (s : State) (o : Nat) : Option Window :=
  match windowOf s o with
  | some w => some w
  | none => s.wins.find? fun w => decide (w.offset ≤ o) && decide (o < w.offset + w.len)

/-- The bus address of an accelerator-space offset. -/
def busAddr (s : State) (o : Nat) : Option Nat := (windowFor s o).map fun w => w.bus + (o - w.offset)

/-- Every byte of `[o, o + n)` lies in a registered window with PERM[3] (06:R158, R159): checked window by window,
by fuel. -/
def localWindowsGo (s : State) : Nat → Nat → Nat → Bool
  | 0, _, _ => false
  | f + 1, o, n =>
    if n = 0 then true
    else
      match windowOf s o with
      | none => false
      | some w => w.perm.getLsbD 3 &&
          (if o + n ≤ w.offset + w.len then true else localWindowsGo s f (w.offset + w.len) (o + n - (w.offset + w.len)))

/-- The local window check. A buffer touches at most all windows. -/
def localWindows (s : State) (o n : Nat) : Bool := localWindowsGo s (s.wins.length + 1) o n

/-- The check of a local address and length at command start (06:R155, R157, R159): the status that refuses it. -/
def localCheck (s : State) (a : W64) (n : Nat) : Option Byte :=
  let o := faOffset a
  match (faSpace a).toNat with
  | 0 => if o + n ≤ Config.stagingOpen then none else some stBadDesc
  | 1 => if o + n ≤ tmCapacity s then none else some stLimit
  | 2 => if localWindows s o n then none else some stNoWindow
  | _ => some stBadDesc

/-- An address of a command: it may be remote, the address, the access length. -/
abbrev Operand := Bool × W64 × Nat

/-- The checks of an address that no range of this node enters (06:R153, R155 step 2, R163). -/
def addrForm (s : State) (m : Nat) (a : Operand) : Option Byte :=
  if faSpace a.2.1 = 3 || decide (2 ^ 44 < faOffset a.2.1 + a.2.2) then some stBadDesc
  else match isLocal s m a.2.1 with
    | none => some stBadDesc
    | some true => none
    | some false => if a.1 then none else some stBadDesc

/-- The range check of an address that names this node (06:R155 step 3). -/
def addrRange (s : State) (m : Nat) (a : Operand) : Option Byte :=
  if isLocal s m a.2.1 = some true then localCheck s a.2.1 a.2.2 else none

/-- The checks of the addresses of a command at start, on map `m`: every address passes one step before any is checked by the
next (06:R155). -/
def addrsBad (s : State) (m : Nat) (l : List Operand) : Option Byte :=
  match l.findSome? (addrForm s m) with
  | some st => some st
  | none => l.findSome? (addrRange s m)

/-- Reads `n` bytes at a local fabric address. -/
def localRead (s : State) (a : W64) (n : Nat) : Bytes :=
  let o := faOffset a
  match (faSpace a).toNat with
  | 0 => stgRead s o n
  | 1 => tmRead s o n
  | 2 => (List.range n).map fun i => ((busAddr s (o + i)).map fun b => memGet 0 s.bus b).getD 0
  | _ => List.replicate n 0

/-- Whether the read meets poison or a failed PCI Express read. -/
def localPoison (s : State) (a : W64) (n : Nat) : Bool :=
  let o := faOffset a
  match (faSpace a).toNat with
  | 0 => stgReadPoison s o n
  | 1 => tmReadPoison s o n
  | 2 => (List.range n).any fun i => ((busAddr s (o + i)).map fun b => busPoisoned s b 1).getD false
  | _ => false

/-- The reads of at most `m` bytes, none across a boundary of `m` bytes, that bring `[a, a + n)` from the host port
(04:R90), by fuel. -/
def piecesGo (m : Nat) : Nat → Nat → Nat → List (Nat × Nat)
  | 0, _, _ => []
  | f + 1, a, n =>
    if n = 0 then []
    else
      let k := max 1 (min n (m - a % m))
      (a, k) :: piecesGo m f (a + k) (n - k)

/-- The reads of a bus range, by the maximum read request size that the driver has set (04:R90). -/
def pieces (s : State) (a n : Nat) : List (Nat × Nat) :=
  let m := 2 ^ s.host.readReq.toNat
  piecesGo m (n / m + 2) a n

/-- The reads of an accelerator-space range, window by window, by fuel. -/
def accelPiecesGo (s : State) : Nat → Nat → Nat → List (Nat × Nat)
  | 0, _, _ => []
  | f + 1, o, n =>
    if n = 0 then []
    else
      match windowFor s o with
      | none => []
      | some w =>
        let k := min n (w.offset + w.len - o)
        pieces s (w.bus + (o - w.offset)) k ++ accelPiecesGo s f (o + k) (n - k)

/-- The PCI Express reads that a local range needs: none outside accelerator space. -/
def localPieces (s : State) (a : W64) (n : Nat) : List (Nat × Nat) :=
  if faSpace a = 2 then accelPiecesGo s (s.wins.length + 1) (faOffset a) n else []

/-- The first tag from `t` on that no outstanding read holds, by fuel (04:R90, 10-bit tags). -/
def freeTagGo (l : List PcieRead) : Nat → BitVec 10 → BitVec 10
  | 0, t => t
  | f + 1, t => if l.any (fun r => r.tag = t) then freeTagGo l f (t + 1) else t

/-- Issues a PCI Express read of the engine, with a tag that no outstanding read holds. -/
def issueRead (k : ReadKind) (a n : Nat) (s : State) : State :=
  let t := freeTagGo s.host.reads Config.readMax s.host.nextTag
  { s with host := { s.host with reads := s.host.reads ++ [{ tag := t, kind := k, addr := a, len := n, stale := false }]
                                 nextTag := t + 1 } }

/-- `n` more reads can be outstanding (17:R488). -/
def readRoom (n : Nat) (s : State) : Bool := decide (s.host.reads.length + n ≤ Config.readMax)

/-- Every read of the list has been completed and not used (log 4). -/
def busReady (ps : List (Nat × Nat)) (s : State) : Bool := ps.all fun p => s.host.got.contains p

/-- Issues the reads of the list that are neither completed nor under way, while fewer than 768 are outstanding (17:R488); the
others are issued when the operation that waits asks again. -/
def askBus (ps : List (Nat × Nat)) (s : State) : State :=
  if !s.host.busMaster then s
  else ps.foldl
    (fun t p =>
      if t.host.got.contains p || t.host.reads.any (fun r => r.kind = .data && !r.stale && r.addr = p.1 && r.len = p.2) || !readRoom 1 t
      then t
      else issueRead .data p.1 p.2 t) s

/-- Uses up completed reads. -/
def useBus (ps : List (Nat × Nat)) (s : State) : State :=
  { s with host := { s.host with got := s.host.got.filter fun p => !ps.contains p } }

/-- A step that needs bytes of host or accelerator memory: it takes place once their reads have completed; until then
it issues the reads and waits (log 4). -/
def withBus (ps : List (Nat × Nat)) (f : State → State) (s : State) : State :=
  if busReady ps s then useBus ps (f s) else askBus ps s

/-- The bus ranges of an accelerator-space range, one per window that holds a part of it, by fuel; an offset in no window is
left out. -/
def accelRangesGo (s : State) : Nat → Nat → Bytes → List (Nat × Bytes)
  | 0, _, _ => []
  | f + 1, o, bs =>
    if bs.isEmpty then []
    else match windowFor s o with
      | none => accelRangesGo s f (o + 1) (bs.drop 1)
      | some w =>
        let k := max 1 (w.offset + w.len - o)
        (w.bus + (o - w.offset), bs.take k) :: accelRangesGo s f (o + k) (bs.drop k)

/-- The bus ranges of bytes at an accelerator-space offset. -/
def accelRanges (s : State) (o : Nat) (bs : Bytes) : List (Nat × Bytes) := accelRangesGo s bs.length o bs

/-- Writes bytes of accelerator space, each part through the window that holds it. Relaxed Ordering is set when the driver
has enabled it (04:R93), and the Poisoned attribute where the data are poisoned (10:R548). -/
def accelWrite (poisoned : Bool) (o : Nat) (bs : Bytes) (s : State) : State :=
  (accelRanges s o bs).foldl (fun t r => busSend t.host.relaxed poisoned r.1 r.2 t) s

/-- Writes bytes at a local fabric address. -/
def localWrite (a : W64) (bs : Bytes) (s : State) : State :=
  let o := faOffset a
  match (faSpace a).toNat with
  | 0 => stgWrite o bs s
  | 1 => tmWrite o bs s
  | 2 => accelWrite false o bs s
  | _ => s

/-- Writes bytes, and marks them poisoned where the destination can hold the mark (10:R548). On accelerator space the
write is sent with the Poisoned attribute, and each bus range that it reaches is poisoned. -/
def localWritePoison (a : W64) (bs : Bytes) (s : State) : State :=
  let o := faOffset a
  match (faSpace a).toNat with
  | 0 => stgMarkPoison o bs.length (localWrite a bs s)
  | 1 => tmMarkPoison o bs.length (localWrite a bs s)
  | 2 =>
    let marks := if s.host.busMaster then (accelRanges s o bs).map fun r => (r.1, r.2.length) else []
    let s1 := accelWrite true o bs s
    { s1 with busPoison := marks ++ s1.busPoison }
  | _ => s

/-- The bytes of an operation's undefined destination (00:R11), drawn from the free values. -/
def localUndefined (a : W64) (n : Nat) (s : State) : State := bumpFree n (localWrite a (freeBytes s n) s)

/-- Flash bytes; erased flash reads 0xFF (03:R86). -/
def flashRead (s : State) (a n : Nat) : Bytes := memRead 0xFF s.flash a n

/-- Programs flash bytes. -/
def flashWrite (a : Nat) (bs : Bytes) (s : State) : State := { s with flash := memWrite 0xFF s.flash a bs }

/-- Erases a flash range. -/
def flashErase (a n : Nat) (s : State) : State := { s with flash := memErase s.flash a n }

end Sys2Proof.Machine
end

