-- ==== Sys2Proof/Machine/ErrorLog.lean ====
section
/-! DEFINITION. Machine/ErrorLog.lean: the flash error log and the retirement map (16:R473, R474, Tables 16-6 to
16-9), units and their spares (16 Tables 16-2 and 16-4), and the start of a targeted self-test (16:R443, R445). -/

namespace Sys2Proof.Machine

/-- CLASS of a unit (16 Table 16-2). -/
def unitClass : TestUnit → Nat
  | .lane _ => 0
  | .link _ => 1
  | .tannery _ _ _ => 2
  | .treePair _ => 3
  | .staging _ => 4

/-- INDEX of a unit (16 Table 16-4): TP × 512 + bank, the bank counted as pseudo-channel × 16 + bank (log 17). -/
def unitIndex : TestUnit → Nat
  | .lane p => p.toNat
  | .link p => p.toNat
  | .tannery m pc b => m.toNat * 512 + pc.toNat * 16 + b.toNat
  | .treePair p => p.toNat
  | .staging p => p.toNat

/-- The rows of the subarray of `row` that use spares (15:R405: subarrays of 512 rows). -/
def sparedIn (s : State) (m : BitVec 3) (pc : BitVec 5) (b : BitVec 4) (row : Nat) : Nat :=
  (s.tm.spared.filter fun x => x.module = m && x.pc = pc && x.bank = b && x.row / 512 = row / 512).length

/-- SPARES_LEFT of a unit's kind (16 Table 16-4). -/
def sparesLeft (s : State) (u : TestUnit) (row : Nat) : Nat :=
  match u with
  | .lane _ => s.boot.spares.length
  | .link _ => 0
  | .tannery m pc b => 4 - sparedIn s m pc b row
  | .treePair _ => b2n s.tree.standby
  | .staging _ => b2n s.stg.spare.isSome

/-- An FW_UPDATE WRITE is running, so the flash log holds its records in Tree SRAM (03:R80). -/
def fwWriting (s : State) : Bool :=
  s.cmds.any fun c => match c.kind with | .fwWrite _ _ _ => true | _ => false

/-- A log record without REC_NUM, LFLAGS, LOST and CRC (16 Table 16-7). -/
def logDraft (s : State) (kind cls index : Nat) (detail : Bytes) : Bytes :=
  leBytes 4 0x474F4C45 ++ leBytes 4 0 ++ bvBytes 8 s.kp.timestamp ++ bvBytes 2 s.boot.bootCount ++
  [BitVec.ofNat 8 kind, BitVec.ofNat 8 cls] ++ leBytes 4 index ++ leBytes 8 0 ++ slice 0 24 detail ++ leBytes 8 0

/-- Where a record number's slot lies: 63 sectors of 1,024 records (16 Table 16-6). -/
def logAddr (n : Nat) : Nat := 0x01210000 + 64 * (n % 64512)

/-- Writes one record: its sector is erased before its first record, REC_NUM rises by one, and the first record
after dropped ones carries OVERRUN and LOST (16:R473). -/
def logFlush (draft : Bytes) (s : State) : State :=
  let n := s.boot.nextRecord.toNat
  let lost := s.tree.lostLog
  let body := slice 0 4 draft ++ leBytes 4 n ++ slice 8 16 draft ++ [BitVec.ofNat 8 (b2n (lost != 0)), 0, 0, 0] ++
    bvBytes 4 lost ++ slice 32 28 draft
  let s1 := if n % 1024 = 0 then flashErase (logAddr n) 65536 s else s
  let s2 := flashWrite (logAddr n) (body ++ bvBytes 4 (crc32c body)) s1
  { s2 with boot := { s2.boot with nextRecord := s2.boot.nextRecord + 1 }
            tree := { s2.tree with lostLog := 0 } }

/-- Appends a record; while an FW_UPDATE WRITE runs the record is held, the newest 256 at most (03:R80). -/
def logAppend (kind cls index : Nat) (detail : Bytes) (s : State) : State :=
  let d := logDraft s kind cls index detail
  if fwWriting s then
    if s.tree.heldLog.length < 256
    then { s with tree := { s.tree with heldLog := s.tree.heldLog ++ [d] } }
    else { s with tree := { s.tree with heldLog := s.tree.heldLog.drop 1 ++ [d], lostLog := satInc s.tree.lostLog } }
  else logFlush d s

/-- Writes the held records in order (03:R80). -/
def logRelease (s : State) : State :=
  s.tree.heldLog.foldl (fun t d => logFlush d t) { s with tree := { s.tree with heldLog := [] } }

/-- The record at a flash slot, if it is one (16 Table 16-7). -/
def logRecordAt (s : State) (slot : Nat) : Option Bytes :=
  let b := flashRead s (0x01210000 + 64 * slot) 64
  if fieldAt 0 4 b = 0x474F4C45 && fieldAt 60 4 b = (crc32c (slice 0 60 b)).toNat then some b else none

/-- The number of the next record: one above the highest valid record of the sector that NEXT_RECORD names
(16:R473). -/
def logResume (s : State) (next : W32) : W32 :=
  let sector := next.toNat % 64512 / 1024
  (List.range 1024).foldl
    (fun n i =>
      match logRecordAt s (sector * 1024 + i) with
      | none => n
      | some b => let r := fieldAt 4 4 b; if n.toNat ≤ r then BitVec.ofNat 32 (r + 1) else n) next

/-- The retirement map copy `i` when it is valid (16:R474). -/
def mapCopy (s : State) (i : Nat) : Option Bytes :=
  let b := flashRead s (0x01200000 + 0x8000 * i) 64
  if fieldAt 0 4 b = 0x4D544552 && fieldAt 60 4 b = (crc32c (slice 0 60 b)).toNat then some b else none

/-- GENERATION of a copy; none below every valid one. -/
def mapGen (b : Option Bytes) : Nat := match b with | none => 0 | some x => fieldAt 4 4 x + 1

/-- The valid copy with the higher GENERATION (16:R474). -/
def mapNewest (s : State) : Option Bytes :=
  if mapGen (mapCopy s 0) < mapGen (mapCopy s 1) then mapCopy s 1 else mapCopy s 0

/-- Reads the retirement map into the running unit maps (16:R474); no unit is retired when neither copy is valid. -/
def mapLoad (s : State) : State :=
  match mapNewest s with
  | none => s
  | some b =>
    { s with boot := { s.boot with bootCount := BitVec.ofNat 16 (fieldAt 8 2 b)
                                   nextRecord := BitVec.ofNat 32 (fieldAt 12 4 b)
                                   lanesRetired := BitVec.ofNat 168 (fieldAt 16 24 b)
                                   treeRetired := BitVec.ofNat 2 (fieldAt 40 1 b)
                                   stagingRetired := BitVec.ofNat 17 (fieldAt 42 4 b)
                                   linksRetired := BitVec.ofNat 12 (fieldAt 46 2 b) } }

/-- Writes the copy with the lower GENERATION with the higher GENERATION plus one (16:R474, Table 16-9). -/
def mapStore (s : State) : State :=
  let g0 := mapGen (mapCopy s 0)
  let g1 := mapGen (mapCopy s 1)
  let at_ := if g1 < g0 then 0x01208000 else 0x01200000
  let body := leBytes 4 0x4D544552 ++ leBytes 4 (max g0 g1) ++ bvBytes 2 s.boot.bootCount ++ leBytes 2 0 ++
    bvBytes 4 s.boot.nextRecord ++ leBytes 24 s.boot.lanesRetired.toNat ++ leBytes 2 s.boot.treeRetired.toNat ++
    leBytes 4 s.boot.stagingRetired.toNat ++ leBytes 2 s.boot.linksRetired.toNat ++ leBytes 12 0
  flashWrite at_ (body ++ bvBytes 4 (crc32c body)) (flashErase at_ 0x8000 s)

/-- The unit's bit in the retirement map. -/
def isRetired (s : State) (u : TestUnit) : Bool :=
  match u with
  | .lane p => s.boot.lanesRetired.getLsbD p.toNat
  | .link p => s.boot.linksRetired.getLsbD p.toNat
  | .tannery _ _ _ => false
  | .treePair p => s.boot.treeRetired.getLsbD p.toNat
  | .staging p => s.boot.stagingRetired.getLsbD p.toNat

/-- A bit vector with one bit set to a value. -/
def putBit {w : Nat} (x : BitVec w) (i : Nat) (b : Bool) : BitVec w :=
  if b then x ||| (1 : BitVec w) <<< i else x &&& ~~~ ((1 : BitVec w) <<< i)

/-- Sets or clears the unit's bit in the retirement map, and a port's RETIRED. -/
def markRetired (u : TestUnit) (on : Bool) (s : State) : State :=
  match u with
  | .lane p => { s with boot := { s.boot with lanesRetired := putBit s.boot.lanesRetired p.toNat on } }
  | .link p =>
    modPort p.toNat (fun q => { q with retired := on })
      { s with boot := { s.boot with linksRetired := putBit s.boot.linksRetired p.toNat on } }
  | .tannery _ _ _ => s
  | .treePair p => { s with boot := { s.boot with treeRetired := putBit s.boot.treeRetired p.toNat on } }
  | .staging p => { s with boot := { s.boot with stagingRetired := putBit s.boot.stagingRetired p.toNat on } }

/-- DETAIL of UNIT_RETIRED (16 Table 16-4). -/
def retiredDetail (s : State) (u : TestUnit) (verdict : Nat) (row : Nat) : Bytes :=
  [BitVec.ofNat 8 (unitClass u), BitVec.ofNat 8 verdict, 0, 0] ++ leBytes 4 (unitIndex u) ++ leBytes 4 row ++
  [BitVec.ofNat 8 (sparesLeft s u row)]

/-- Retires a unit (16:R446): the record, the map, the event and its ERR_STATUS bit. -/
def retireUnit (u : TestUnit) (verdict row : Nat) (s : State) : State :=
  let s1 := markRetired u true s
  let d := retiredDetail s1 u verdict row
  let s2 := logAppend 0x04 (unitClass u) (unitIndex u) d s1
  setErr errRetired (raiseEvent 0 6 (detailOf d) (match u with | .tannery _ _ _ => s2 | _ => mapStore s2))

/-- Reinstates a unit that passed a SELFTEST (16:R446). -/
def reinstateUnit (u : TestUnit) (s : State) : State :=
  let s1 := markRetired u false s
  mapStore (logAppend 0x05 (unitClass u) (unitIndex u) (retiredDetail s1 u 0 0) s1)

/-- A targeted self-test of the unit is running. -/
def testRunning (s : State) (u : TestUnit) : Bool := s.tree.tests.any fun t => t.unit = u

/-- Starts the test of a unit that an error or a SELFTEST command names; an error in a unit under test joins it
(16:R443, R445). The error is an internal wake cause (02:R36). -/
def startTest (u : TestUnit) (byError threshold : Bool) (row : W32) (waiter : Option Nat) (s : State) : State :=
  let fresh : UnitTest :=
    { unit := u, byError := byError, threshold := threshold, row := row, since := now s, waiters := waiter.toList }
  let tests :=
    if testRunning s u
    then updWhere (fun t => t.unit = u) (fun t => { t with waiters := t.waiters ++ waiter.toList }) s.tree.tests
    else fresh :: s.tree.tests
  wakeSource 8 { s with tree := { s.tree with tests := tests } }

/-- Logs the ERROR record of an error that starts a test (16:R473, Table 16-8). -/
def logError (u : TestUnit) (code : Nat) (detail : Bytes) (s : State) : State :=
  logAppend 0x01 (unitClass u) (unitIndex u) (leBytes 2 code ++ slice 0 22 detail) s

end Sys2Proof.Machine
end

