-- ==== Sys2Proof/Machine/Boot.lean ====
section
/-! DEFINITION. Machine/Boot.lean: cold boot (03): fuse sensing, the self-test's lane map, slot selection, image
authentication, READY, RECOVERY and the boot watchdog. -/

namespace Sys2Proof.Machine

/-- KEY_REVOKE, SVN and DEBUG_OFF of the fuses (03 Table 3-6). -/
def fuseRevoke (s : State) : BitVec 2 := s.fuses.extractLsb' 768 2
def popBits (n x : Nat) : Nat := ((List.range n).filter fun i => natBit i x).length
def fuseSvn (s : State) : Nat := popBits 64 (s.fuses.toNat >>> 770)
def debugOff (s : State) : Bool := s.fuses.getLsbD 834
def fuseDieId (s : State) : W64 := s.fuses.extractLsb' 836 64
def fusePartRev (s : State) : Byte := s.fuses.extractLsb' 900 8

/-- The built variant has Girth bridges (01 Table 1-3). -/
def builtDual (s : State) : Bool := s.board = .vn4d || s.board = .vn8d

/-- Populated Tannery ports of a variant (01 Table 1-3). -/
def builtPorts : Variant → List Nat
  | .vn2s => [0, 4]
  | .vn4s | .vn4d => [0, 2, 4, 6]
  | .vn8s | .vn8d => [0, 1, 2, 3, 4, 5, 6, 7]

/-- A set of ports as a mask. -/
def portMask (l : List Nat) : Byte := BitVec.ofNat 8 (l.foldl (fun m p => m ||| 2 ^ p) 0)

/-- BOOT_STATUS.PHASE and FAULT set; READY, RECOVERY and the other phases carry no fault code (03 Table 3-7). -/
def setPhase (ph : BitVec 4) (fault : Byte) (s : State) : State :=
  { s with boot := { s.boot with phase := ph, fault := fault } }

/-- Boot stops in FAULT. -/
def bootFault (code : Byte) (s : State) : State := setPhase phFault code s

/-- What a cold reset leaves (03 Table 3-2, cold column): only fuses, flash, the board, the modules' repair store
(16:R453) and what lies outside the node are kept. -/
def coldState (saddr : Option (BitVec 2)) (s : State) : State :=
  { State.reset with
      fuses := s.fuses, board := s.board, flash := s.flash, bus := s.bus, out := s.out, free := s.free
      pending := s.pending
      host := { HostPort.reset with inReset := !s.pins.perstN }
      pins := { State.reset.pins with wakeN := s.pins.wakeN, perstN := s.pins.perstN,
                                      saddr := saddr.getD s.pins.saddr }
      tm := { Tannery.reset with spared := s.tm.spared.filter fun x => x.forGood } }

/-- COLD_RESET (03:R81, R60; fuse sensing R76; 18:R506). CRST_N acts only while PWRGOOD is high (18:R496). The
keeper runs, the fuses are sensed and the boot ROM starts its self-test, or boot stops in FAULT FUSE. -/
def execColdReset (src : ColdSource) (saddr : BitVec 2) (fuseOk : Bool) (s : State) : Out :=
  let go (strap : Option (BitVec 2)) : State :=
    let c := coldState strap s
    if fuseOk then setPhase phRom 0 c else bootFault 0x01 c
  match src with
  | .pwrgoodRise => .next (go (some saddr))
  | .crstLow => if s.pins.pwrgood then .next (go none) else .next s

/-- POWER_LOSS (18:R496): the whole engine, keeper included, is held in reset and in OFF. Fuses, flash and the
modules' repair store keep their contents. -/
def execPowerLoss (s : State) : Out :=
  let c := coldState none s
  .next { c with kp := { c.kp with power := .off }, pins := { c.pins with pwrgood := false } }

/-- Records of 64 bytes that the flash range holds: the slots with a listed byte. An erased slot lists none. -/
def usedSlots (s : State) (base len : Nat) : List Nat :=
  (s.flash.filter fun c => base ≤ c.1 && c.1 < base + len).foldl
    (fun l c => let i := (c.1 - base) / 64; if l.head? = some i then l else i :: l) []

/-- PREFERRED, ATTEMPTS A, ATTEMPTS B and BSEQ of a boot state page slot, when its record is valid (03:R86). -/
def bootRecordAt (s : State) (i : Nat) : Option (Nat × Nat × Nat × Nat) :=
  let b := flashRead s (0x10000 + 64 * i) 64
  if fieldAt 0 4 b = 0x54534742 && fieldAt 60 4 b = (crc32c (slice 0 60 b)).toNat && fieldAt 8 1 b ≤ 1
  then some (fieldAt 8 1 b, fieldAt 9 1 b, fieldAt 10 1 b, fieldAt 4 4 b) else none

/-- The newest valid record of the boot state page (03:R86). -/
def bootRecord (s : State) : Option (Nat × Nat × Nat × Nat) :=
  (usedSlots s 0x10000 0x10000).foldl
    (fun best i =>
      match best, bootRecordAt s i with
      | none, r => r
      | some x, none => some x
      | some x, some y => if x.2.2.2 < y.2.2.2 then some y else some x) none

/-- PREFERRED and both ATTEMPTS counts (03:R86): slot A and zero when no record is valid. -/
def bootState (s : State) : Nat × Nat × Nat :=
  match bootRecord s with
  | none => (0, 0, 0)
  | some r => (r.1, r.2.1, r.2.2.1)

/-- Appends a boot state record (03:R86): the first erased slot, or slot 0 of the erased page. The first record of a page that
holds none has BSEQ 0 (DESIGN CHOICE, log 90: 03:R86 gives only one above the newest). -/
def bootAppend (pref a b writer : Nat) (s : State) : State :=
  let bseq := match bootRecord s with | none => 0 | some r => r.2.2.2 + 1
  let body := leBytes 4 0x54534742 ++ leBytes 4 bseq ++ leBytes 1 pref ++ leBytes 1 a ++ leBytes 1 b ++
    leBytes 1 writer ++ leBytes 48 0
  let used := usedSlots s 0x10000 0x10000
  match (List.range 1024).find? (fun i => !used.contains i) with
  | some i => flashWrite (0x10000 + 64 * i) (body ++ bvBytes 4 (crc32c body)) s
  | none => flashWrite 0x10000 (body ++ bvBytes 4 (crc32c body)) (flashErase 0x10000 0x10000 s)

/-- Boots slot `slot`: one more attempt is recorded (03:R71 step 4), and the image is read. -/
def startSlot (slot : Bool) (s : State) : State :=
  let (pref, a, b) := bootState s
  let s1 := if slot then bootAppend pref a (min 255 (b + 1)) 0x01 s else bootAppend pref (min 255 (a + 1)) b 0x01 s
  setPhase phImage 0 { s1 with boot := { s1.boot with runSlot := slot } }

/-- Slot selection (03:R71): RECOVERY when both counts are 3 or more. -/
def selectSlot (s : State) : State :=
  let (pref, a, b) := bootState s
  let s0 := { s with boot := { s.boot with failed := [false, false] } }
  let tries (slot : Bool) : Nat := if slot then b else a
  let p : Bool := pref = 1
  if tries p < 3 then startSlot p s0
  else if tries (!p) < 3 then startSlot (!p) s0
  else setPhase phRecovery 0 s0

/-- The staging banks after the boot ROM has judged them (03:R69, 16:R450): logical bank b of the failed physical
bank maps to bank 16, which is then no spare. -/
def bootStaging (bad : BitVec 17) (g : Staging) : Staging :=
  { g with map := (List.range 16).map fun b => if bad.getLsbD b then 16 else BitVec.ofNat 5 b
           spare := if bad = 0 then some 16 else none }

/-- Lane map (03:R68): the first 160 passing lanes are active, the other passing ones spare. -/
def laneMapOf (bad : BitVec 168) (s : State) : State :=
  let pass := (List.range 168).filter fun i => !bad.getLsbD i
  { s with boot := { s.boot with lanesRetired := bad, laneMap := (pass.take 160).map (BitVec.ofNat 8)
                                 spares := (pass.drop 160).map (BitVec.ofNat 8) } }

/-- Tree pairs (03:R69): pair 0 is active unless it fails. -/
def treePairsOf (bad : BitVec 2) (s : State) : State :=
  { s with boot := { s.boot with treeRetired := bad }
           tree := { s.tree with active := if bad.getLsbD 0 then 1 else 0, standby := bad = 0 } }

/-- POWERUP_SELFTEST (03:R68, R69, R71; 16:R474): the retirement map is read, and lanes, pairs and banks that fail or
are retired are taken out; too few stop boot in FAULT. The results are the baselines of later tests (03:R89). -/
def execPowerupSelftest (lanesPass : BitVec 168) (treePass : BitVec 2) (stagingPass : BitVec 17) (s : State) : Out :=
  live s (onlyIf (s.boot.phase = phRom) fun s =>
    let s0 := mapLoad { s with boot := { s.boot with baseLanes := lanesPass, baseTree := treePass, baseStaging := stagingPass } }
    let lanes := ~~~ lanesPass ||| s0.boot.lanesRetired
    let trees := ~~~ treePass ||| s0.boot.treeRetired
    let banks := ~~~ stagingPass ||| s0.boot.stagingRetired
    let s1 := laneMapOf lanes s0
    let s2 := treePairsOf trees s1
    let s3 := { s2 with boot := { s2.boot with stagingRetired := banks }, stg := bootStaging banks s2.stg }
    if s1.boot.laneMap.length < 160 then bootFault 0x03 s1
    else if trees = 3 then bootFault 0x04 s1
    else if 1 < popBits 17 banks.toNat then bootFault 0x05 s2
    else selectSlot s3)

/-- The digest that a key's fuses hold (03:R87: fuse bit 0 first, so byte 0 of the mirror is digest byte 0; log 14). -/
def fuseDigest (s : State) (key : Bool) : Bytes := leBytes 48 (s.fuses.toNat >>> (if key then 384 else 0))

/-- Authentication of an image that `rd` reads by offset (03:R72, R84, R75): VERSION, SECURITY_VERSION and whether it
passed with KEY1, or `none` for a failure of some step. -/
def authImage (s : State) (rd : Nat → Nat → Bytes) : Option (W32 × W32 × Bool) :=
  let h := rd 0 272
  let len := fieldAt 8 4 h
  let pub := slice 80 96 h
  let d := sha384 pub
  let k0 := d = fuseDigest s false && !(fuseRevoke s).getLsbD 0
  let k1 := d = fuseDigest s true && !(fuseRevoke s).getLsbD 1
  if fieldAt 0 4 h ≠ 0x5A54434F || fieldAt 4 2 h ≠ 1 || decide (8384512 < len) then none
  else if !k0 && !k1 then none
  else if !ecdsaOk pub (sha384 (slice 0 176 h)) (slice 176 96 h) then none
  else if fieldAt 16 4 h < fuseSvn s then none
  else if sha384 (rd 4096 len) ≠ slice 32 48 h then none
  else some (BitVec.ofNat 32 (fieldAt 12 4 h), BitVec.ofNat 32 (fieldAt 16 4 h), !k0)

/-- Where an image slot lies (03 Table 3-4). -/
def slotBase (slot : Bool) : Nat := if slot then 0x00900000 else 0x00100000

/-- The value of a stored configuration item, if the store holds one (05:R134; the store's format is log 18: at 16
times the item number, the item in 8 bytes, then its value). -/
def storedItem (s : State) (item : Nat) : Option Nat :=
  let a := 0x01100000 + 16 * item
  if leNat (flashRead s a 8) = item then some (leNat (flashRead s (a + 8) 8)) else none

/-- Writes an item to the configuration store (log 18). -/
def storeItem (item value : Nat) (s : State) : State :=
  flashWrite (0x01100000 + 16 * item) (leBytes 8 item ++ leBytes 8 value) s

/-- A CONFIG_SET value is in range (05 Table 5-5). -/
def configOk (item value : Nat) : Bool :=
  match item with
  | 1 | 2 => value < 0x20000
  | 3 => value < 2 ^ 22 && natBits 6 2 value = 0 && natBits 14 2 value = 0 &&
      1 ≤ natBits 0 6 value && 1 ≤ natBits 8 6 value && 1 ≤ natBits 16 6 value &&
      natBits 0 6 value + natBits 8 6 value + natBits 16 6 value = 64
  | 4 => 250 ≤ value && value ≤ 2500000
  | 5 => 25000 ≤ value && value ≤ 25000000
  | _ => false

/-- Sets a configuration item (05 Table 5-5). -/
def setConfig (item value : Nat) (s : State) : State :=
  let w := BitVec.ofNat 32 value
  let c := s.cfg
  { s with cfg := match item with
      | 1 => { c with coord := w }
      | 2 => { c with dims := w }
      | 3 => { c with w1 := BitVec.ofNat 6 value, w2 := BitVec.ofNat 6 (value >>> 8), w3 := BitVec.ofNat 6 (value >>> 16) }
      | 4 => { c with chunkTimeout := w }
      | 5 => { c with saveAfter := w }
      | _ => c }

/-- Applies the stored items after the defaults (05:R134). -/
def applyStored (s : State) : State :=
  [1, 2, 3, 4, 5].foldl
    (fun t i => match storedItem t i with
      | none => t
      | some v => if configOk i v then setConfig i v t else t) s

/-- TORUS_DIMS is nonzero and the axis of port `p` has size 1: the port is held OFF (07:R179). -/
def axisOff (s : State) (p : Nat) : Bool := s.cfg.dims != 0 && torus s (p % 6 / 2) = 1

/-- The port exists and is used: bridge ports need the bridges (01:R22), and are unused once the node runs on single rails
(01:R28, Table 1-5). -/
def portBuilt (s : State) (p : Nat) : Bool := decide (p < 6) || (builtDual s && s.boot.runRails ≠ 1)

/-- A port begins training, with saved coefficients when it has them (07:R180). -/
def beginTraining (fromUp half : Bool) (p : Port) : Port :=
  let q := { p with st := .training, width := 0, cnt := { p.cnt with retrains := satInc p.cnt.retrains }
                    wasUp := fromUp, ident := if fromUp then .up else .held }
  { q with training := some { saved := p.savedEq != 0, attempt := 1, fromUp := fromUp, half := half } }

/-- First fabric training of a boot (03 Table 3-3, 07:R179): every connected port that no rule holds OFF. -/
def trainPorts (s : State) : State :=
  { s with ports := s.ports.mapIdx fun i p =>
      if portBuilt s i && !axisOff s i && !p.retired then beginTraining false false p
      else if p.retired && portBuilt s i && !axisOff s i then { p with st := .down } else p }

/-- AUTHENTICATION (03:R72, R73, R67): an image that passes starts Octoz and the boot watchdog, and Octoz applies the
stored items and starts training; one that fails hands over to the other slot, and two failures enter RECOVERY. -/
def execAuthentication (s : State) : Out :=
  live s (onlyIf (s.boot.phase = phImage) fun s =>
    let slot := s.boot.runSlot
    match authImage s (fun o n => flashRead s (slotBase slot + o) n) with
    | some (v, svn, key1) =>
      let s1 := { s with boot := { s.boot with imageVersion := v, imageSvn := svn, imageKey := key1 }
                         kp := { s.kp with bootWd := some (now s) }
                         pins := { s.pins with tmRstN := portMask (builtPorts s.board)
                                               gbRstN := if builtDual s then 7 else 0 } }
      let s2 := { s1 with ports := s1.ports.mapIdx fun i p => { p with retired := s.boot.linksRetired.getLsbD i } }
      setPhase phTrain 0 (trainPorts (applyStored s2))
    | none =>
      let failed := setAt (b2n slot) true s.boot.failed
      let s1 := { s with boot := { s.boot with failed := failed } }
      if failed = [true, true] then setPhase phRecovery 0 s1 else startSlot (!slot) s1)

/-- The running Tannery ports after training (01 Table 1-5). -/
def runningPorts1 (v : Variant) (trained : Byte) : List Nat :=
  let up (p : Nat) : Bool := trained.getLsbD p
  let built := builtPorts v
  let firstPair (l : List (List Nat)) : List Nat := (l.find? fun pr => pr.all up).getD []
  if built.all up then built
  else match v with
    | .vn8s | .vn8d =>
      if [0, 2, 4, 6].all up then [0, 2, 4, 6]
      else if [1, 3, 5, 7].all up then [1, 3, 5, 7]
      else firstPair [[0, 4], [2, 6], [1, 5], [3, 7]]
    | .vn4s | .vn4d => firstPair [[0, 4], [2, 6]]
    | .vn2s => []

/-- The region entries of a directory (03 Table 3-8). -/
def dirRegions : List Nat :=
  [0x00010000, 0x10000, 0x00100000, 0x800000, 0x00900000, 0x800000, 0x01100000, 0x100000, 0x01200000, 0x400000]

/-- A directory copy is valid (03:R85). -/
def dirValid (s : State) (i : Nat) : Bool :=
  let b := flashRead s (0x1000 * i) 56
  let all := flashRead s (0x1000 * i) 4092
  fieldAt 0 4 b = 0x52494446 && fieldAt 4 2 b = 1 &&
  (dirRegions.zipIdx.all fun (v, k) => fieldAt (16 + 4 * k) 4 b = v) &&
  leNat (flashRead s (0x1000 * i + 4092) 4) = (crc32c all).toNat

/-- Writes directory copy `i` with a generation and a flash size (03 Table 3-8). -/
def dirWrite (i gen size : Nat) (s : State) : State :=
  let body := leBytes 4 0x52494446 ++ leBytes 2 1 ++ leBytes 2 0 ++ leBytes 4 gen ++ leBytes 4 size ++
    dirRegions.flatMap (leBytes 4) ++ leBytes 4036 0
  flashWrite (0x1000 * i) (body ++ bvBytes 4 (crc32c body)) (flashErase (0x1000 * i) 0x1000 s)

/-- DIRECTORY_WRITE (03:R85): both copies when neither is valid, else the missing one from the valid one. The fitted
flash has 32 MiB (log 9). -/
def dirRepair (s : State) : State :=
  let copy (i j : Nat) : State :=
    let b := flashRead s (0x1000 * i) 16
    dirWrite j (fieldAt 8 4 b) (fieldAt 12 4 b) s
  match dirValid s 0, dirValid s 1 with
  | true, true => s
  | true, false => copy 0 1
  | false, true => copy 1 0
  | false, false => dirWrite 1 1 33554432 (dirWrite 0 1 33554432 s)

/-- POPULATION_SET (01:R23, Table 1-5): the running ports and rails; each module or bridge that failed training is
logged and sets ERR_STATUS.POPULATION (16 Table 16-8, 19 Table 19-3). -/
def populationSet (tmTrained : Byte) (gbTrained : BitVec 3) (s : State) : State :=
  let dual := builtDual s && gbTrained = 7
  let s1 := { s with boot := { s.boot with runTpMask := portMask (runningPorts1 s.board tmTrained)
                                           runRails := if dual then 2 else 1 } }
  let badTm := (builtPorts s.board).filter fun p => !tmTrained.getLsbD p
  let badGb := if builtDual s then (List.range 3).filter fun g => !gbTrained.getLsbD g else []
  let s2 := badTm.foldl (fun t p => setErr errPopulation (logAppend 0x0B 7 p [] t)) s1
  let s3 := badGb.foldl (fun t g => setErr errPopulation (logAppend 0x0B 8 g [] t)) s2
  if dual then s3
  else { s3 with ports := s3.ports.mapIdx fun i p => if 6 ≤ i then { Port.reset with savedEq := p.savedEq, retired := p.retired } else p }

/-- OCTOZ_READY (03:R89, R71, R85; 01:R23; 05:R134; 16:R473, R474): population, directory, ATTEMPTS of the running slot,
the retirement map of a cold boot, the BOOT record, FW_VERSION, PHASE READY, the coefficients of the Tannery links that have
trained saved. The DOZE_AFTER count starts. -/
def execOctozReady (tmTrained : BitVec 8) (gbTrained : BitVec 3) (s : State) : Out :=
  live s (onlyIf (s.boot.phase = phTrain) fun s =>
    let (pref, a, b) := bootState s
    let slot := s.boot.runSlot
    let s1 := dirRepair (bootAppend pref (if slot then a else 0) (if slot then 0 else b) 0x02 s)
    let s2 := { s1 with boot := { s1.boot with
                  nextRecord := logResume s1 s1.boot.nextRecord
                  bootCount := if s1.boot.warm then s1.boot.bootCount else s1.boot.bootCount + 1 } }
    let s3 := populationSet tmTrained gbTrained s2
    let s4 := if s3.boot.warm then s3 else mapStore s3
    let s5 := logAppend 0x0A 6 0
      (bvBytes 4 s4.boot.imageVersion ++ [BitVec.ofNat 8 (b2n slot), s4.boot.runTpMask,
        s4.boot.runRails.setWidth 8]) s4
    setPhase phReady 0
      { s5 with boot := { s5.boot with fwVersion := s5.boot.imageVersion, warm := true }
                kp := { s5.kp with bootWd := none, power := .active, stateSince := now s5, idleSince := now s5 }
                tm := { s5.tm with savedEq := s5.tm.savedEq ||| tmTrained }
                tree := { s5.tree with wdAt := now s5 } })

/-- Asks the keeper for a warm reset; two requests are one (18 Edges). -/
def askReset (src : WarmSource) (s : State) : State :=
  if s.tree.resetReq.isSome then s else { s with tree := { s.tree with resetReq := some (src, now s) } }

/-- BOOT_WATCHDOG (03:R67): 1 s from the start of an image without READY. -/
def execBootWatchdog (s : State) : Out :=
  live s (fun s =>
    match s.kp.bootWd with
    | none => s
    | some t =>
      if s.boot.phase ≠ phReady && decide (t + 25000000 ≤ now s)
      then askReset .bootWatchdog { s with kp := { s.kp with bootWd := none } } else s)

/-- A write of RESET_CTL (19:R535, 03:R62): the key 0x5752 starts a warm reset from any phase; in READY Octoz first
takes the steps of R62, which the WARM_RESET row carries out. -/
def resetCtlWrite (v : W32) (s : State) : State := if v.setWidth 16 = (0x5752 : W16) then askReset .resetCtl s else s

/-- RESET_CTL: the keeper block answers in every state, on both paths. -/
def execResetCtl (path : Path) (value : W32) (s : State) : Out := liveKeeper (path = .sideband) s (resetCtlWrite value)

/-- A write of RECOVERY_GO (03:R74, 19:R535): the image at BAR4 offset 0 is authenticated; when it passes it goes to
slot A, which becomes PREFERRED with ATTEMPTS 0, and a warm reset starts. Discarded outside RECOVERY. -/
def recoveryWrite (value : W32) (s : State) : State :=
  if s.boot.phase ≠ phRecovery then s
  else
    let n := natBits 0 24 value.toNat
    let img := stgRead s 0 n
    match authImage s (fun o k => slice o k img) with
    | none => setPhase phRecovery 0x02 s
    | some _ =>
      let (_, _, b) := bootState s
      let s1 := flashWrite (slotBase false) (img.take 8388608) (flashErase (slotBase false) 8388608 s)
      askReset .recovery (bootAppend 0 0 b 0x04 s1)

/-- RECOVERY_GO (03:R74). -/
def execRecoveryGo (path : Path) (value : W32) (s : State) : Out := liveKeeper (path = .sideband) s (recoveryWrite value)

end Sys2Proof.Machine
end

