-- ==== Sys2Proof/Machine/Fec.lean ====
section
/-! DEFINITION. Machine/Fec.lean: what a GB2 puts on its long-reach lanes (07:R188, R189): the RS(544,514) code over
GF(2^10), codewords dealt symbol by symbol round-robin over eight lanes, and the correction of up to 15 symbols. The field
polynomial and the roots of the generator are those of the Ethernet code that R188 names (log 82). Polynomials are lists of
coefficients, lowest degree first; words are lists of symbols, the symbol of the highest degree first. -/

namespace Sys2Proof.Machine

/-- A field element times x, modulo x^10 + x^3 + 1. -/
def gfX (a : Nat) : Nat := if 512 ≤ a then (2 * a) ^^^ 0x409 else 2 * a

/-- The product of two field elements, over the bits of the second. -/
def gfMulGo : Nat → Nat → Nat → Nat
  | 0, _, _ => 0
  | k + 1, a, b => (if b % 2 = 1 then a else 0) ^^^ gfMulGo k (gfX a) (b / 2)
def gfMul (a b : Nat) : Nat := gfMulGo 10 a b

/-- A power of a field element; the inverse is the power 1022. -/
def gfPow (a : Nat) : Nat → Nat
  | 0 => 1
  | n + 1 => gfMul a (gfPow a n)
def gfInv (a : Nat) : Nat := gfPow a 1022

/-- The powers 0 to `n - 1` of a field element, from the one given. -/
def gfPowers (a : Nat) : Nat → Nat → List Nat
  | 0, _ => []
  | n + 1, x => x :: gfPowers a n (gfMul a x)

/-- Sum, scaling, product and value of polynomials. -/
def gfAdd : List Nat → List Nat → List Nat
  | [], q => q
  | p, [] => p
  | a :: p, b :: q => (a ^^^ b) :: gfAdd p q
def gfScale (c : Nat) (p : List Nat) : List Nat := p.map (gfMul c)
def gfTimes : List Nat → List Nat → List Nat
  | [], _ => []
  | a :: p, q => gfAdd (gfScale a q) (0 :: gfTimes p q)
def gfEval (p : List Nat) (x : Nat) : Nat := p.foldr (fun c v => c ^^^ gfMul v x) 0

/-- The generator polynomial: the roots are the powers 0 to 29 of x. -/
def rsGen : List Nat := (gfPowers 2 30 1).foldl (fun g r => gfTimes g [r, 1]) [1]

/-- The 30 parity symbols of a message (07:R188). -/
def rsParity (msg : List Nat) : List Nat :=
  let g := (rsGen.take 30).reverse
  msg.foldl (fun p m => gfAdd (p.drop 1 ++ [0]) (gfScale (m ^^^ p.headD 0) g)) (List.replicate 30 0)

/-- A codeword: 514 message symbols and 30 parity symbols. -/
def rsEncode (msg : List Nat) : List Nat := msg ++ rsParity msg

/-- The 30 syndromes of a received word. -/
def rsSyndromes (w : List Nat) : List Nat :=
  (gfPowers 2 30 1).map fun r => w.foldl (fun v c => c ^^^ gfMul v r) 0

/-- The search for the shortest error locator: locator, the one before its last change, length, gap and the discrepancy then. -/
structure RsSearch where
  c : List Nat
  b : List Nat
  len : Nat
  gap : Nat
  last : Nat
deriving DecidableEq, Repr

/-- One step of the search, for syndrome `n`. -/
def rsStep (syn : List Nat) (r : RsSearch) (n : Nat) : RsSearch :=
  let d := (List.range (r.len + 1)).foldl (fun v i => v ^^^ gfMul (r.c.getD i 0) (if i ≤ n then syn.getD (n - i) 0 else 0)) 0
  let next := gfAdd r.c (List.replicate r.gap 0 ++ gfScale (gfMul d (gfInv r.last)) r.b)
  if d = 0 then { r with gap := r.gap + 1 }
  else if 2 * r.len ≤ n then { c := next, b := r.c, len := n + 1 - r.len, gap := 1, last := d }
  else { r with c := next, gap := r.gap + 1 }

/-- The error locator of 30 syndromes, and the number of errors that it locates. -/
def rsLocator (syn : List Nat) : RsSearch :=
  (List.range 30).foldl (rsStep syn) { c := [1], b := [1], len := 0, gap := 1, last := 1 }

/-- The odd-degree part of a polynomial over x: its formal derivative. -/
def gfDeriv (p : List Nat) : List Nat := (p.zipIdx.drop 1).map fun x => if x.2 % 2 = 1 then x.1 else 0

/-- The value to add at each of the 544 places, from degree 543 down, and how many places have one. -/
def rsErrors (syn : List Nat) (r : RsSearch) : List Nat :=
  let omega := (gfTimes syn r.c).take 30
  let deriv := gfDeriv r.c
  ((List.range 544).map fun k =>
    let inv := gfPow 2 ((1023 - (543 - k)) % 1023)
    if gfEval r.c inv = 0
    then gfMul (gfInv inv) (gfMul (gfEval omega inv) (gfInv (gfEval deriv inv))) else 0)

/-- A received codeword decoded: its message, and the symbols corrected, or `none` where more than 15 symbols are wrong and
the word goes on as it came (07:R188, R189). -/
def rsDecode (w : List Nat) : List Nat × Option Nat :=
  let syn := rsSyndromes w
  if syn.all (· = 0) then (w.take 514, some 0)
  else
    let r := rsLocator syn
    let e := rsErrors syn r
    let n := (e.filter (· ≠ 0)).length
    if r.len ≤ 15 && n = r.len && (rsSyndromes (gfAdd w e)).all (· = 0) then ((gfAdd w e).take 514, some n)
    else (w.take 514, none)

/-- Symbols dealt round-robin over the eight lanes, and gathered again (07:R188). -/
def toLanes (w : List Nat) : List (List (BitVec 10)) :=
  (List.range 8).map fun l => (List.range (w.length / 8)).map fun k => BitVec.ofNat 10 (w.getD (8 * k + l) 0)
def fromLanes (lanes : List (List (BitVec 10))) : List Nat :=
  (List.range (8 * (lanes.headD []).length)).map fun k => ((lanes.getD (k % 8) []).getD (k / 8) 0).toNat

/-- The symbols of a number's bits, lowest bits first, and the number again (log 82). -/
def symbolsOf : Nat → Nat → List Nat
  | 0, _ => []
  | n + 1, x => x % 1024 :: symbolsOf n (x / 1024)
def symbolsNat : List Nat → Nat
  | [] => 0
  | a :: r => a + 1024 * symbolsNat r

/-- The codewords of a received run of symbols, decoded in order: the content that they carry, the symbols corrected and the
codewords that could not be, by fuel. -/
def decodeRun : Nat → List Nat → List Nat × Nat × Nat
  | 0, _ => ([], 0, 0)
  | f + 1, w =>
    if w.length < 544 then ([], 0, 0)
    else
      let d := rsDecode (w.take 544)
      let u := decodeRun f (w.drop 544)
      (d.1 ++ u.1, d.2.getD 0 + u.2.1, (if d.2.isNone then 1 else 0) + u.2.2)

/-- Bits of frame content that a codeword carries. -/
def codewordBits : Nat := 5140

/-- Emits a codeword for each full message of the content that waits, by fuel. -/
def codewordsGo (i : Nat) : Nat → State → State
  | 0, s => s
  | f + 1, s =>
    let w := (getPort i s).txFec
    if w.1 < codewordBits then s
    else
      codewordsGo i f (emit (.codeword (BitVec.ofNat 4 i) (toLanes (rsEncode (symbolsOf 514 w.2))))
        (modPort i (fun p => { p with txFec := (w.1 - codewordBits, w.2 >>> codewordBits) }) s))

/-- Frame content leaves a port: on a bridge port its near GB2 encodes it (07:R188, Table 7-2). -/
def onBridge (i n x : Nat) (s : State) : State :=
  if i < 6 then s
  else codewordsGo i 2 (modPort i (fun p => { p with txFec := (p.txFec.1 + n, p.txFec.2 + (x % 2 ^ n) * 2 ^ p.txFec.1) }) s)

end Sys2Proof.Machine
end

