-- ==== Sys2Proof/Machine/Queues.lean ====
section
/-! DEFINITION. Machine/Queues.lean: queue pairs and the event ring (04): doorbells, enable and disable, fetch, start
at the head of a queue, interrupt moderation, MSI-X. -/

namespace Sys2Proof.Machine

/-- Opcodes that Table 4-8 assigns. -/
def opcodeKnown (o : Nat) : Bool :=
  (1 ≤ o && o ≤ 0x10) || (0x20 ≤ o && o ≤ 0x23) || (0x30 ≤ o && o ≤ 0x35) || o = 0x40 || o = 0x41

/-- The first fetched entry starts: it leaves the head, and counts as started (04:R104). -/
def popHead (q : BitVec 6) (s : State) : State :=
  modPage q.toNat (fun g => { g with fetched := g.fetched.drop 1, started := g.started + 1, headSince := now s }) s

/-- A management command of the queue that waits as 05 Table 5-1 states holds back the later ones (05:R130). -/
def queueHeld (q : BitVec 6) (s : State) : Bool :=
  s.cmds.any fun c => c.q = q && (match c.kind with
    | .windowUnmap _ _ | .drain _ _ | .selftest _ | .commDestroy _ => true
    | _ => false)

/-- Completes entries at the head that no command row starts: marked ones with QUEUE_FULL (04:R107), reserved opcodes
with BAD_DESC (00:R8), by fuel. -/
def settleGo (q : BitVec 6) : Nat → State → State
  | 0, s => s
  | k + 1, s =>
    match (getPage q.toNat s).fetched with
    | [] => s
    | f :: _ =>
      if queueHeld q s then s
      else if f.marked then settleGo q k (endEntry q f.entry stQueueFull (popHead q s))
      else if !opcodeKnown (entOpcode f.entry) then settleGo q k (endEntry q f.entry stBadDesc (popHead q s))
      else s

/-- Completes what can complete at the head of queue `q`. -/
def settleHead (q : BitVec 6) (s : State) : State := settleGo q (getPage q.toNat s).fetched.length s

/-- A management command that held its queue has ended: what waited behind it is at the head from now on, and what no command
row starts completes (04:R107; 05:R130). -/
def releaseQueue (q : BitVec 6) (s : State) : State :=
  let t := modPage q.toNat (fun g => { g with headSince := now s }) s
  if octozRuns t then settleHead q t else t

/-- Ends a started management command, and releases the queue that it held. -/
def endHeld (c : Cmd) (status flags : Byte) (result : W64) (s : State) : State :=
  releaseQueue c.q (endCmd c status flags result s)

/-- Entry `e` is at the head of queue `q` and the Tree serves queues. -/
def headIs (q : BitVec 6) (e : Entry) (s : State) : Bool :=
  octozRuns s && !queueHeld q s && (match (getPage q.toNat s).fetched with
    | [] => false
    | f :: _ => f.entry = e && !f.marked)

/-- The entry's FENCE holds it: an earlier command of its queue has not posted its completion (04:R105). -/
def fenceHolds (q : BitVec 6) (e : Entry) (s : State) : Bool := entFence e && decide (0 < (getPage q.toNat s).started)

/-- A command row: the entry at the head of the queue with the row's opcode starts, unless its FENCE holds it
(04:R104, R105), its reserved bits refuse it (00:R7), or it waits at the head (`run` answers none). -/
def octozRow (q : BitVec 6) (e : Entry) (ok : Bool) (fields : List (Nat × Nat)) (run : State → Option State)
    (s0 : State) : State :=
  let s := if octozRuns s0 then settleHead q s0 else s0
  if !(headIs q e s && ok) then s
  else if fenceHolds q e s then s
  else if !noReserved fields e then settleHead q (endEntry q e stBadDesc (popHead q s))
  else match run (popHead q s) with
    | none => s
    | some t => settleHead q t

/-- A command row whose command also reads host or accelerator memory: it starts once the reads have completed, and
until then waits at the head (log 4). -/
def octozRead (q : BitVec 6) (e : Entry) (ok : Bool) (fields : List (Nat × Nat)) (src : State → List (Nat × Nat))
    (run : State → Option State) (s : State) : State :=
  if headIs q e s && ok && noReserved fields e && !fenceHolds q e s && !busReady (src s) s then askBus (src s) s
  else octozRow q e ok fields (fun t => (run t).map (useBus (src s))) s

/-- Visible entries of a queue that the Tree has not fetched. -/
def visible (g : QPage) : Nat := (g.sqTail.toNat + g.sqEntries.toNat - g.sqHead.toNat) % g.sqEntries.toNat

/-- PENDING(q) (04:R103). -/
def pendingOf (g : QPage) : Nat := g.fetched.length + g.started

/-- The backlog (04:R107): the entries that accepted doorbells have made visible and that have not started. -/
def backlog (s : State) : Nat := s.qs.foldl (fun n g => n + g.fetched.length + visible g) 0

/-- A submission doorbell (04:R99, R101, R107). -/
def bellSq (q : BitVec 6) (v : W32) (s : State) : State :=
  let g := getPage q.toNat s
  let n := g.sqEntries.toNat
  let new := v.setWidth 12
  if !g.enable || g.stopped then s
  else if decide (new.toNat < n) && decide (visible g ≤ (new.toNat + n - g.sqHead.toNat) % n) then
    let count := (new.toNat + n - g.sqTail.toNat) % n
    let s1 := modPage q.toNat (fun g => { g with sqTail := new }) s
    let excess := min count (backlog s1 - Config.backlogMax)
    let marks := (List.range excess).map fun i => BitVec.ofNat 12 ((new.toNat + n - 1 - i) % n)
    modPage q.toNat (fun g => { g with marks := marks ++ g.marks }) s1
  else raiseEvent 0 1 (queueDetail q.toNat) (setQerr q.toNat qerrDoorbell s)

/-- A completion doorbell (04:R101, R102); space in the event ring lets held events post (04:R118). -/
def bellCq (p : Nat) (v : W32) (s : State) : State :=
  let g := getPage p s
  let n := g.cqEntries.toNat
  let new := v.setWidth 12
  if !g.enable || g.stopped then s
  else if decide (new.toNat < n) && decide ((new.toNat + n - g.cqHead.toNat) % n ≤ cqUsed g) then
    flushEvents (modPage p (fun g => { g with cqHead := new }) s)
  else setQerr p qerrDoorbell s

/-- A write of QCTRL (04 Table 4-4): IRQ_EN, FETCH_BURST (a reserved value leaves it, 00:R8) and VECTOR; ENABLE from 0
to 1 zeroes the ring indices (04:R95), from 1 to 0 stops fetching and clears STOPPED (04:R96). Enabling also empties the COUNT
and TIME state of 04:R114, of which 04:R95 does not speak (DESIGN CHOICE, log 88). -/
def writeQctrl (p : Nat) (v : W32) (s : State) : State :=
  let burst : BitVec 4 := v.extractLsb' 4 4
  let g := getPage p s
  let on := v.getLsbD 0
  let g1 := { g with irqEn := v.getLsbD 1, vector := v.extractLsb' 8 7
                     burst := if p ≠ 64 && decide (1 ≤ burst.toNat) && decide (burst.toNat ≤ 8) then burst else g.burst }
  let g2 := if on && !g.enable
    then { g1 with enable := true, sqTail := 0, sqHead := 0, cqHead := 0, cqTail := 0, phase := true, unsig := 0
                   unsigAt := none, marks := [], reading := 0 }
    else if !on && g.enable
    then { g1 with enable := false, stopped := false, marks := [], reading := 0 }
    else g1
  let reads := if !on
    then updWhere (fun r => match r.kind with | .sqFetch q _ _ => q.toNat = p | .data => false)
           (fun r => { r with kind := .data }) s.host.reads
    else s.host.reads
  flushEvents { modPage p (fun _ => g2) s with host := { s.host with reads := reads } }

/-- Queues whose visible entries the Tree visits. A queue whose last fetch read is under way is not visited (DESIGN CHOICE, log
89: 04:R103 does not say whether a second read of one queue may be issued), and no queue is while the two reads of a fetch have no room (17:R488). -/
def toVisit (s : State) (q : Nat) : Bool :=
  let g := getPage q s
  g.enable && !g.stopped && g.reading = 0 && decide (0 < visible g) && readRoom 2 s

/-- The queue that the Tree visits next, in ascending order from its position (04:R103). -/
def nextVisit (s : State) : Option Nat :=
  ((List.range 64).map fun i => (s.tree.rr.toNat + i) % 64).find? (toVisit s)

/-- FETCH (04:R103): up to FETCH_BURST entries within the completion credit, in one read, or two where the ring
wraps. The Tree moves on to the next queue. -/
def fetchQueue (q : BitVec 6) (s : State) : State :=
  let g := getPage q.toNat s
  let n := g.sqEntries.toNat
  let credit := g.cqEntries.toNat - 1 - (pendingOf g + cqUsed g)
  let count := min (min g.burst.toNat (visible g)) credit
  let s0 := { s with tree := { s.tree with rr := q + 1 } }
  if count = 0 then s0
  else
    let first := g.sqHead.toNat
    let c1 := min count (n - first)
    let s1 := issueRead (.sqFetch q g.sqHead c1) (g.sqBase.toNat + 128 * first) (128 * c1)
      (modPage q.toNat (fun g => { g with reading := count }) s0)
    if c1 < count then issueRead (.sqFetch q 0 (count - c1)) g.sqBase.toNat (128 * (count - c1)) s1 else s1

/-- The entries that a finished fetch has copied join the queue in ring order, and SQ_HEAD moves past them. -/
def deliver (q : BitVec 6) (s : State) : State :=
  let g := getPage q.toNat s
  let n := g.sqEntries.toNat
  let idx (i : Nat) : Nat := (g.sqHead.toNat + i) % n
  let got : List Fetched := (List.range g.reading).map fun i =>
    { entry := BitVec.ofNat 1024 (leNat (busRead s (g.sqBase.toNat + 128 * idx i) 128))
      marked := g.marks.contains (BitVec.ofNat 12 (idx i)) }
  let gone := (List.range g.reading).map fun i => BitVec.ofNat 12 (idx i)
  settleHead q
    (modPage q.toNat (fun g => { g with
        fetched := g.fetched ++ got
        headSince := if g.fetched.isEmpty then now s else g.headSince
        marks := g.marks.filter fun m => !gone.contains m
        sqHead := BitVec.ofNat 12 (idx g.reading), reading := 0 }) s)

/-- Whether a fetch read of queue `q` is still under way. -/
def fetchOpen (q : BitVec 6) (s : State) : Bool :=
  s.host.reads.any fun r => match r.kind with | .sqFetch x _ _ => x = q | .data => false

/-- A failed submission read (04 Edges): SQ_FETCH and STOPPED, the event, and none of the read's entries; entries
behind a failed read are not taken either (log 19). -/
def fetchFailed (q : BitVec 6) (first : BitVec 12) (count : Nat) (s : State) : State :=
  let keep (g : QPage) : Nat := if first = g.sqHead then 0 else g.reading - count
  let s1 := modPage q.toNat (fun g => { g with stopped := true, reading := keep g }) s
  let s2 := raiseEvent 0 2 (queueDetail q.toNat) (setQerr q.toNat qerrSqFetch s1)
  if fetchOpen q s2 then s2 else deliver q s2

/-- PCIE_READ_COMPLETION (04:R122, Edges; 16 Table 16-1): data goes where the read was for; an error or poisoned data
fails a submission read, and poisons a data range, which then travels with TFLAGS.POISON. The bytes of a read that
ended in an error are free (log 10). -/
def readDone (tag : BitVec 10) (res : ReadResult) (data : Bytes) (s : State) : State :=
  match s.host.reads.find? fun r => r.tag = tag with
  | none => s
  | some r =>
    let s1 := { s with host := { s.host with reads := s.host.reads.filter fun x => x.tag ≠ tag } }
    let s2 := { s1 with bus := memWrite 0 s1.bus r.addr (slice 0 r.len data) }
    let markGot (t : State) : State := { t with host := { t.host with got := (r.addr, r.len) :: t.host.got } }
    if r.stale then s1 else
    match r.kind, res with
    | .sqFetch q _ _, .ok => if fetchOpen q s2 then s2 else deliver q s2
    | .sqFetch q f c, _ => fetchFailed q f c s1
    | .data, .ok =>
      markGot { s2 with busPoison := s2.busPoison.filter fun x => x.1 + x.2 ≤ r.addr || r.addr + r.len ≤ x.1 }
    | .data, .poisoned => markGot { s2 with busPoison := (r.addr, r.len) :: s2.busPoison }
    | .data, .error =>
      let s3 := bumpFree r.len { s1 with bus := memWrite 0 s1.bus r.addr (freeBytes s1 r.len) }
      markGot { s3 with busPoison := (r.addr, r.len) :: s3.busPoison }

/-- MSI-X messages that were pending while masked leave once they are not (04:R114, log 8). -/
def msixRelease (s : State) : State :=
  if !s.host.msixOn || s.host.msixMask || !s.host.busMaster then s
  else (List.range 128).foldl
    (fun t v =>
      let e := t.host.msix.getD v { addr := 0, data := 0, masked := true }
      if t.host.pba.getLsbD v && !e.masked
      then emit (.msix (BitVec.ofNat 7 v) e.addr e.data)
             { t with host := { t.host with pba := t.host.pba &&& ~~~ ((1 : BitVec 128) <<< v) } }
      else t) s

/-- IMOD_TIMER (04:R114): IMOD.TIME has passed since the first entry that no message has signalled. -/
def imodFire (p : Nat) (s : State) : State :=
  let g := getPage p s
  match g.unsigAt with
  | none => s
  | some t =>
    if g.irqEn && decide (t + g.imodTime.toNat ≤ now s)
    then sendMsix g.vector (modPage p (fun g => { g with unsig := 0, unsigAt := none }) s) else s

end Sys2Proof.Machine
end

