-- ==== Sys2Proof/Machine/Keeper.lean ====
section
/-! DEFINITION. Machine/Keeper.lean: the keeper (02): timestamp, idleness, the entries to sleep, the wake pin, the alarm,
holds and the power policy. -/

namespace Sys2Proof.Machine

/-- The packet buffers of the router are empty (02:R34). -/
def routerEmpty (s : State) : Bool :=
  s.rt.inject.isEmpty && s.ports.all fun p =>
    p.inq.all (fun l => l.isEmpty) && p.outq.all (fun l => l.isEmpty) && p.txStream.isEmpty && p.txIns.isEmpty

/-- A one-sided command (10:R283). -/
def oneSided : CmdKind → Bool
  | .put _ | .get _ | .atomic _ _ _ => true
  | _ => false

/-- The engine is idle (02:R32). -/
def idle (s : State) : Bool :=
  s.qs.all (fun g => (!g.enable || visible g = 0) && g.fetched.isEmpty) && s.ctxs.isEmpty && s.threads.isEmpty &&
  s.ni.reqs.isEmpty && !s.cmds.any (fun c => oneSided c.kind) &&
  s.tm.queue.isEmpty && s.tree.tests.isEmpty && s.evs.all (fun e => e.held.isEmpty && e.last.isNone) &&
  s.kp.buffer.isEmpty

/-- A hold that has not expired. -/
def holdLive (s : State) (h : Hold) : Bool := now s < h.until_

/-- The effective floor (02:R35), as a state code: the shallowest of FLOOR, the holds' DOZE and DOZE while WAKE_N is
low. -/
def floorEff (s : State) : Nat :=
  if s.kp.holds.any (holdLive s) || !s.pins.wakeN then min 1 s.kp.acting.floor.toNat else s.kp.acting.floor.toNat

/-- The time counted in the current state has reached a timer that is not zero (02:R33). -/
def timerUp (s : State) (since : Nat) (timer : W32) : Bool :=
  timer != 0 && decide (since + timer.toNat ≤ now s)

/-- A state change of the keeper (02:R52). The host link is in L1 in NAP and DEEP when the host has enabled it (02:R39). -/
def setPower (p : PState) (s : State) : State :=
  { s with kp := { s.kp with power := p, trans := .none, stateSince := now s }
           host := { s.host with inL1 := s.host.l1 && (p = .nap || p = .deep) } }

/-- A tick of the keeper (02:R30): TIMESTAMP + 1. A policy that has been written applies from it (05:R135). Idleness that is broken starts the DOZE_AFTER count anew (02:R33), and
HALF_WIDTH_US counts the microseconds of ports at width 4 (07 Table 7-8). -/
def tick (s : State) : State :=
  let t := s.kp.timestamp + 1
  let k := { s.kp with timestamp := t, acting := s.kp.policy, idleSince := if idle s then s.kp.idleSince else t.toNat }
  if t.toNat % 25 = 0
  then { s with kp := k
                ports := updWhere (fun p => p.width = 4)
                  (fun p => { p with cnt := { p.cnt with halfUs := satInc p.cnt.halfUs } }) s.ports }
  else { s with kp := k }

/-- The condition of DOZE entry (02:R33). -/
def dozeDue (s : State) : Bool :=
  s.boot.phase = phReady && s.kp.power = .active && s.kp.trans = .none && idle s &&
  timerUp s s.kp.idleSince s.kp.acting.dozeAfter && decide (1 ≤ floorEff s)

/-- DOZE_ENTRY (02:R33). -/
def execDozeEntry (s : State) : Out := live s (onlyIf (dozeDue s) (setPower .doze))

/-- A port whose link carries control flits or more (07:R192). -/
def carries (p : Port) : Bool := p.st = .up || p.st = .held || p.st = .miswired

/-- The condition of NAP entry: NAP_AFTER in DOZE with the router buffers empty (02:R33, R34). -/
def napDue (s : State) : Bool :=
  s.kp.power = .doze && s.kp.trans = .none && timerUp s s.kp.stateSince s.kp.acting.napAfter && routerEmpty s &&
  decide (2 ≤ floorEff s)

/-- A control flit of a type, with the port's running acknowledgement (07 Table 7-5). -/
def ctrlFlit (type : Byte) (ack retry : W16) (body : BitVec 416) : CtrlFlit :=
  let bytes := [type, 0] ++ bvBytes 2 ack ++ bvBytes 2 retry ++ [0, 0] ++ leBytes 52 body.toNat
  { type := type, ackSeq := ack, retrySeq := retry, body := body, crc := crc32c bytes }

/-- The last group sequence that a port has received in order (07 Table 7-4, ACK_SEQ). -/
def ackOf (p : Port) : W16 := p.rxNext - 1

/-- Sends a control flit from port `i`. -/
def sendCtrl (i : Nat) (type : Byte) (body : BitVec 416) (s : State) : State :=
  onBridge i 512 (type.toNat + (ackOf (getPort i s)).toNat * 2 ^ 16 + body.toNat * 2 ^ 64 +
      (ctrlFlit type (ackOf (getPort i s)) 0 body).crc.toNat * 2 ^ 480)
    (emit (.ctrl (BitVec.ofNat 4 i) (ctrlFlit type (ackOf (getPort i s)) 0 body)) s)

/-- Sends a sleep frame from port `i` (07 Table 7-7). -/
def sendFrame (i : Nat) (f : Frame) (s : State) : State := emit (.frame (BitVec.ofNat 4 i) f) s

/-- Ports by number that satisfy a condition. -/
def portsWhere (c : Port → Bool) (s : State) : List Nat := (List.range 12).filter fun i => c (getPort i s)

/-- NAP_ENTRY (02:R33, R34; 07:R192, Edges): the ports ask for LPI; the engine is in NAP once no port carries control
flits (log 20). -/
def execNapEntry (s : State) : Out :=
  live s (onlyIf (napDue s) fun s =>
    let todo := portsWhere (fun p => carries p && !p.lpiWanted) s
    let s1 := todo.foldl (fun t i => sendCtrl i 0x05 0 (modPort i (fun p => { p with lpiWanted := true }) t)) s
    if (portsWhere carries s).isEmpty then setPower .nap s1 else s1)

/-- The Tannery cache written back and invalidated (02:R34, 15:R410). -/
def flushCache (s : State) : State :=
  { s with tm := { s.tm with mem := s.tm.cache.foldl (fun m l => writeBack l m) s.tm.mem, cache := [] } }

/-- No link trains, and none carries control flits: each has entered LPI (02:R34, 07:R192, R193). -/
def linksQuiet (s : State) : Bool := s.ports.all fun p => p.st != .training && !carries p

/-- The condition of DEEP entry (02:R33, R34). -/
def deepDue (s : State) : Bool :=
  s.kp.power = .nap && s.kp.trans = .none && timerUp s s.kp.stateSince s.kp.acting.deepAfter && routerEmpty s &&
  linksQuiet s && decide (3 ≤ floorEff s)

/-- DEEP_ENTRY (02:R34): the cache is written back and every running module enters self-refresh. -/
def execDeepEntry (s : State) : Out :=
  live s (onlyIf (deepDue s) fun s =>
    let s1 := flushCache s
    { s1 with kp := { s1.kp with trans := .deepEntry }
              tm := { s1.tm with selfRefresh := s1.tm.selfRefresh ||| portMask (builtPorts s.board) } })

/-- An entry to DEEP that the floor no longer allows ends in NAP (02:R33, R35): the modules leave self-refresh. -/
def leaveDeepEntry (s : State) : State :=
  { s with kp := { s.kp with trans := .none }, tm := { s.tm with selfRefresh := s.tm.selfRefresh &&& s.tm.down } }

/-- The engine is in DEEP (02:R34, R55; 07:R193): what was written to the cache meanwhile is in the modules too, native ports
send DEEP and are in SLEEP, bridge ports are DARK, lane memories are lost and the congestion rates are at their defaults. -/
def enterDeep (s : State) : State :=
  let natives := (portsWhere (fun p => p.st = .lpi) s).filter (· < 6)
  let s1 := natives.foldl
    (fun t i => sendFrame i .deep (modPort i (fun p => { p with st := .sleep, heraldCredit := true }) t)) (flushCache s)
  let s2 := { s1 with ports := s1.ports.mapIdx fun i (p : Port) => if decide (6 ≤ i) && p.st == LinkState.lpi then { p with st := .dark } else p }
  setPower .deep { s2 with slots := [], ni := { s2.ni with rates := NI.reset.rates } }

/-- DEEP_ENTRY_DONE (02:R33 to R35): the entry completes, unless the floor has come up meanwhile; it waits while a condition of
R34 does not hold. -/
def execDeepEntryDone (s : State) : Out :=
  live s (onlyIf (s.kp.trans = .deepEntry) fun s =>
    if floorEff s < 3 then leaveDeepEntry s
    else if routerEmpty s && linksQuiet s then enterDeep s else s)

/-- WAKE_PIN (18:R504): a falling edge on WAKE_N is a wake source, cause 0x4. -/
def execWakePin (s : State) : Out :=
  liveKeeper true s (onlyIf s.pins.wakeN fun s => wakeSource 4 { s with pins := { s.pins with wakeN := false } })

/-- WAKE_N_RISE (18:R504, 02:R35): the DOZE floor of the pin ends. -/
def execWakeNRise (s : State) : Out := liveKeeper true s fun s => { s with pins := { s.pins with wakeN := true } }

/-- DETAIL of ALARM (02 Table 2-8). -/
def alarmDetail (s : State) : BitVec 256 :=
  detailOf (bvBytes 8 s.kp.alarm ++ bvBytes 8 s.kp.timestamp ++ bvBytes 1 (pstateCode s.kp.power))

/-- ALARM_FIRE (19:R533, 02:R59): ARM clears, ALARM is raised, and a wake starts with cause 0x6. -/
def execAlarmFire (s : State) : Out :=
  liveKeeper true s (onlyIf (s.kp.armed && decide (s.kp.alarm.toNat ≤ now s)) fun s =>
    wakeSource 6 (raiseEvent 0x4000 0x0401 (alarmDetail s) { s with kp := { s.kp with armed := false } }))

/-- HERALD_HOLD_EXPIRY (02:R43, R46): expired holds end. -/
def execHeraldHoldExpiry (s : State) : Out :=
  liveKeeper true s fun s => { s with kp := { s.kp with holds := s.kp.holds.filter (holdLive s) } }

/-- Starts or replaces the hold of a key (02:R43, R47); zero ticks hold nothing (02 Table 2-3). -/
def startHold (key : HoldKey) (ticks : Nat) (s : State) : State :=
  let rest := s.kp.holds.filter fun h => h.key ≠ key
  { s with kp := { s.kp with holds := if ticks = 0 then rest else { key := key, until_ := now s + ticks } :: rest } }

/-- A timer value of POWER_POLICY is in range or zero (02 Table 2-3). -/
def timerOk (f : TimerField) (v : Nat) : Bool :=
  match f with
  | .dozeAfter => v = 0 || (25 ≤ v && v ≤ 25000)
  | .napAfter => v = 0 || (250 ≤ v && v ≤ 25000000)
  | .deepAfter => v = 0 || (25000 ≤ v && v ≤ 250000000)
  | .heraldHold => v ≤ 25000000
  | .floor => v ≤ 3

/-- A policy with one field set. -/
def Policy.put (f : TimerField) (v : W32) (p : Policy) : Policy :=
  match f with
  | .dozeAfter => { p with dozeAfter := v }
  | .napAfter => { p with napAfter := v }
  | .deepAfter => { p with deepAfter := v }
  | .heraldHold => { p with heraldHold := v }
  | .floor => { p with floor := v.setWidth 2 }

/-- Sets one field of the power policy; it applies from the next tick (05:R135). -/
def setTimer (f : TimerField) (v : W32) (s : State) : State :=
  { s with kp := { s.kp with policy := s.kp.policy.put f v } }

/-- A register write of a timer (19:R532): a value outside the range leaves the field unchanged. FLOOR has two bits,
the others of its register are reserved (00:R6). -/
def timerWrite (f : TimerField) (v : W32) (s : State) : State :=
  let w : W32 := if f = .floor then v &&& 3 else v
  if timerOk f w.toNat then setTimer f w s else s

/-- POWER_TIMER_WRITE (19:R532): the keeper block is written over either path in every state. -/
def execPowerTimerWrite (path : Path) (field : TimerField) (value : W32) (s : State) : Out :=
  liveKeeper (path = .sideband) s (timerWrite field value)

/-- A write of ALARM (19:R531, R533): a low half is held until the high half is written. -/
def alarmWrite (half : Half) (value : W64) (s : State) : State :=
  match half with
  | .low => { s with kp := { s.kp with alarmLow := some (value.setWidth 32) } }
  | .high =>
    let lo : W32 := s.kp.alarmLow.getD (s.kp.alarm.setWidth 32)
    { s with kp := { s.kp with alarm := (value.setWidth 32 : W32) ++ lo, alarmLow := none } }
  | .both => { s with kp := { s.kp with alarm := value, alarmLow := none } }

def execAlarmWrite (path : Path) (half : Half) (value : W64) (s : State) : Out :=
  liveKeeper (path = .sideband) s (alarmWrite half value)

/-- A write of ALARM_CTL (19:R533, Table 19-2: ARM is RW). -/
def alarmArm (value : W32) (s : State) : State := { s with kp := { s.kp with armed := value.getLsbD 0 } }

def execAlarmArm (path : Path) (value : W32) (s : State) : Out := liveKeeper (path = .sideband) s (alarmArm value)

/-- A write of WAKE (19:R534): GO starts a wake, cause 0x5 from the sideband and 0x7 from BAR0. -/
def wakeGo (path : Path) (value : W32) (s : State) : State :=
  if value.getLsbD 0 then wakeSource (if path = .sideband then 5 else 7) s else s

def execWakeGo (path : Path) (value : W32) (s : State) : Out := liveKeeper (path = .sideband) s (wakeGo path value)

end Sys2Proof.Machine
end

