-- ==== Sys2Proof/Machine/Registers.lean ====
section
/-! DEFINITION. Machine/Registers.lean: BAR0 and the sideband (04:R92, R120 to R122; 18:R509, R524; 19): what each
register reads, what a write does to each field, the latched halves, BAR2, BAR4, configuration requests. -/

namespace Sys2Proof.Machine

/-- TM_DONE (15:R414): the highest ticket up to which every ticket has executed. -/
def tmDone (s : State) : W64 :=
  match s.tm.queue.filterMap (fun o => o.ticket) with
  | [] => s.tm.next - 1
  | t :: r => r.foldl (fun a b => if b.toNat < a.toNat then b else a) t - 1

/-- A 64-bit register of R530. -/
def reg64 (r : Reg64) (s : State) : W64 :=
  match r with
  | .timestamp => s.kp.timestamp
  | .alarm => s.kp.alarm
  | .dieId => if s.boot.phase = phKeeper then 0 else fuseDieId s
  | .tmDone => tmDone s
  | .tmNext => s.tm.next

/-- The BAR0 offset of a 64-bit register of R530. -/
def reg64Offset : Reg64 → Nat
  | .timestamp => 0x1000
  | .alarm => 0x1028
  | .dieId => 0x0008
  | .tmDone => 0x8000
  | .tmNext => 0x8008

/-- The 64-bit register whose low half, or high half, lies at a BAR0 offset. -/
def reg64At (off : Nat) : Option Reg64 :=
  [Reg64.timestamp, .alarm, .dieId, .tmDone, .tmNext].find? fun r => reg64Offset r = off
def reg64HighAt (off : Nat) : Option Reg64 :=
  [Reg64.timestamp, .alarm, .dieId, .tmDone, .tmNext].find? fun r => reg64Offset r + 4 = off

/-- The latch of a path (02:R31). -/
def latchOf (path : Path) (s : State) : Option (Reg64 × W32) :=
  match path with | .bar0 => s.kp.latch0 | .sideband => s.kp.latchSb
def setLatch (path : Path) (v : Option (Reg64 × W32)) (s : State) : State :=
  match path with
  | .bar0 => { s with kp := { s.kp with latch0 := v } }
  | .sideband => { s with kp := { s.kp with latchSb := v } }

/-- The low-half read of R530: the value, and the high half latched for its path. -/
def readLow (path : Path) (r : Reg64) (s : State) : W32 × State :=
  let v := reg64 r s
  (v.setWidth 32, setLatch path (some (r, v.extractLsb' 32 32)) s)

/-- The high-half read: the latched value when this register's half is latched on this path, else the current one. -/
def readHigh (path : Path) (r : Reg64) (s : State) : W32 × State :=
  match latchOf path s with
  | some (r', h) => if r' = r then (h, setLatch path none s) else ((reg64 r s).extractLsb' 32 32, s)
  | none => ((reg64 r s).extractLsb' 32 32, s)

/-- A word built of fields (position, value). -/
def fieldsW (l : List (Nat × Nat)) : W32 := BitVec.ofNat 32 (l.foldl (fun n f => n + f.2 * 2 ^ f.1) 0)

/-- Identity block (19 Table 19-1); zero before fuse sensing ends (18:R510), and Octoz's fields zero before READY. -/
def regIdentity (s : State) (o : Nat) : W32 :=
  let ready := s.boot.phase = phReady
  if s.boot.phase = phKeeper then 0
  else if 0x100 ≤ o && o < 0x180 then BitVec.ofNat 32 (s.fuses.toNat >>> (8 * (o - 0x100)))
  else match o with
    | 0x000 => 0x160
    | 0x004 => (fusePartRev s).setWidth 32
    | 0x008 => (fuseDieId s).setWidth 32
    | 0x00C => (fuseDieId s).extractLsb' 32 32
    | 0x010 => s.boot.fwVersion
    | 0x014 =>
      if ready then fieldsW [(0, s.boot.runTpMask.toNat), (8, s.boot.runRails.toNat), (10, s.tree.active.toNat),
        (11, b2n (!s.tree.standby)), (12, min 8 s.boot.spares.length),
        (16, match s.board with | .vn2s => 0 | .vn4s => 1 | .vn8s => 2 | .vn4d => 3 | .vn8d => 4)]
      else 0
    | 0x018 => if ready then s.cfg.coord else 0
    | 0x01C => if ready then s.cfg.dims else 0
    | _ => 0

/-- BOOT_STATUS (19 Table 19-2). -/
def regBoot (s : State) : W32 :=
  fieldsW [(0, s.boot.phase.toNat), (8, s.boot.fault.toNat), (16, b2n s.boot.runSlot)]

/-- Keeper block (19 Table 19-2), by offset in the block. -/
def regKeeper (s : State) (o : Nat) : W32 :=
  if 0x060 ≤ o && o < 0x080 then
    let t := s.kp.therm.getD ((o - 0x060) / 4) { temp := 0, level := 0 }
    fieldsW [(0, t.temp.toNat), (16, t.level.toNat)]
  else match o with
    | 0x000 => s.kp.timestamp.setWidth 32
    | 0x004 => s.kp.timestamp.extractLsb' 32 32
    | 0x008 => fieldsW [(0, (pstateCode s.kp.power).toNat), (8, floorEff s)]
    | 0x00C => s.kp.lastWake.setWidth 32
    | 0x010 => s.kp.policy.dozeAfter
    | 0x014 => s.kp.policy.napAfter
    | 0x018 => s.kp.policy.deepAfter
    | 0x01C => s.kp.policy.heraldHold
    | 0x020 => s.kp.policy.floor.setWidth 32
    | 0x028 => s.kp.alarm.setWidth 32
    | 0x02C => s.kp.alarm.extractLsb' 32 32
    | 0x030 => fieldsW [(0, b2n s.kp.armed)]
    | 0x034 => fieldsW [(0, s.kp.buffer.length), (8, b2n (decide (16 ≤ s.kp.buffer.length)))]
    | 0x040 => regBoot s
    | _ => 0

/-- Error summary (19 Table 19-3). -/
def regErr (s : State) (o : Nat) : W32 :=
  match o with
  | 0x000 => s.err.status.setWidth 32
  | 0x004 => s.err.mask.setWidth 32
  | 0x008 => s.err.first.setWidth 32
  | 0x00C => s.err.firstTime
  | _ => 0

/-- A port's counter group (19 Table 19-4); FEC counters are zero on native ports. -/
def regPort (i : Nat) (p : Port) (o : Nat) : W32 :=
  match o with
  | 0x00 => p.cnt.crcErr
  | 0x04 => p.cnt.replays
  | 0x08 => p.cnt.replayed
  | 0x0C => if i < 6 then 0 else p.cnt.fecCorr
  | 0x10 => if i < 6 then 0 else p.cnt.fecUncorr
  | 0x14 => p.cnt.retrains
  | 0x18 => p.cnt.downs
  | 0x1C => p.cnt.halfUs
  | 0x20 => fieldsW [(0, (linkCode p.st).toNat % 16), (4, if p.width = 8 then 2 else if p.width = 4 then 1 else 0),
      (8, p.cause.toNat), (16, b2n p.dead), (17, b2n p.retired)]
  | 0x24 => p.cnt.detour
  | _ => 0

/-- Laggard counters (19 Table 19-4). -/
def regLag (l : LagStats) (i : Nat) : W32 :=
  match i with
  | 0 => l.completed
  | 1 => l.namedSelf
  | 2 => l.lastRank
  | 3 => l.maxLate
  | n => l.bins.getD (n - 4) 0

/-- Counters block (19 Table 19-4), by offset in the block. -/
def regCounters (s : State) (o : Nat) : W32 :=
  if o < 0x300 then regPort (o / 0x40) (getPort (o / 0x40) s) (o % 0x40)
  else if 0x400 ≤ o && o < 0x430 then regLag s.lag ((o - 0x400) / 4)
  else 0

/-- Operations that wait in a module's queue (15:R414). -/
def tmDepth (s : State) (m : Nat) : Nat := (s.tm.queue.filter fun o => o.todo.getLsbD m).length

/-- Aperture register (19 Table 19-5). -/
def apertureWord (a : Aperture) : W64 := a.base ||| BitVec.ofNat 64 (b2n a.bank)
def getAperture (s : State) (a : Nat) : Aperture := s.tm.apertures.getD a (Aperture.reset 30 a)

/-- Tannery status (19 Table 19-5). An operation executes in one step, so no bank is busy between steps (log 21). -/
def regTannery (s : State) (o : Nat) : W32 :=
  if 0x020 ≤ o && o < 0x060 then
    let w := apertureWord (getAperture s ((o - 0x020) / 8))
    if o % 8 = 0 then w.setWidth 32 else w.extractLsb' 32 32
  else if 0x060 ≤ o && o < 0x080 then (s.tm.temp.getD ((o - 0x060) / 4) 0x8000).setWidth 32
  else if 0x300 ≤ o && o < 0x320 then BitVec.ofNat 32 (tmDepth s ((o - 0x300) / 4))
  else match o with
    | 0x000 => (tmDone s).setWidth 32
    | 0x004 => (tmDone s).extractLsb' 32 32
    | 0x008 => s.tm.next.setWidth 32
    | 0x00C => s.tm.next.extractLsb' 32 32
    | 0x010 => fieldsW [(0, s.boot.runTpMask.toNat), (8, s.tm.down.toNat), (16, s.tm.armed.length)]
    | _ => 0

/-- QSTATUS (04 Table 4-4). -/
def regQstatus (g : QPage) : W32 :=
  fieldsW [(0, b2n (g.enable || decide (0 < pendingOf g))), (1, b2n (pendingOf g = 0)), (2, b2n g.stopped),
    (16, pendingOf g % 8192)]

/-- A queue page, or the event ring page with its reserved fields zero (04:R121, R122). -/
def regPage (ev : Bool) (g : QPage) (o : Nat) : W32 :=
  match o with
  | 0x000 => if ev then 0 else g.sqTail.setWidth 32
  | 0x004 => g.cqHead.setWidth 32
  | 0x008 => if ev then 0 else g.sqHead.setWidth 32
  | 0x00C => regQstatus g
  | 0x010 => if ev then 0 else g.sqBase.setWidth 32
  | 0x014 => if ev then 0 else g.sqBase.extractLsb' 32 32
  | 0x018 => g.cqBase.setWidth 32
  | 0x01C => g.cqBase.extractLsb' 32 32
  | 0x020 => fieldsW [(0, if ev then 0 else g.sqEntries.toNat), (16, g.cqEntries.toNat)]
  | 0x024 => fieldsW [(0, b2n g.enable), (1, b2n g.irqEn), (4, if ev then 0 else g.burst.toNat), (8, g.vector.toNat)]
  | 0x028 => fieldsW [(0, g.imodCount.toNat), (8, g.imodTime.toNat)]
  | 0x02C => g.qerr.setWidth 32
  | 0x030 => if ev then 0 else g.defTimeout
  | _ => 0

/-- MSI-X table and pending bits (04:R120; layout of PCI Express, log 8). -/
def regMsix (s : State) (o : Nat) : W32 :=
  if o < 0x800 then
    let e := s.host.msix.getD (o / 16) { addr := 0, data := 0, masked := true }
    match o % 16 with
    | 0 => e.addr.setWidth 32
    | 4 => e.addr.extractLsb' 32 32
    | 8 => e.data
    | _ => fieldsW [(0, b2n e.masked)]
  else if 0x1000 ≤ o && o < 0x1010 then BitVec.ofNat 32 (s.host.pba.toNat >>> (8 * (o - 0x1000)))
  else 0

/-- Current value of the 32-bit word at a BAR0 offset (04 Table 4-2). -/
def bar0Word (s : State) (o : Nat) : W32 :=
  if o < 0x1000 then regIdentity s o
  else if o < 0x2000 then regKeeper s (o - 0x1000)
  else if o < 0x3000 then regErr s (o - 0x2000)
  else if o < 0x8000 then regCounters s (o - 0x3000)
  else if o < 0x9000 then regTannery s (o - 0x8000)
  else if 0x100000 ≤ o && o < 0x141000 then
    let p := (o - 0x100000) / 0x1000
    regPage (p = 64) (getPage p s) ((o - 0x100000) % 0x1000)
  else if 0x150000 ≤ o && o < 0x152000 then regMsix s (o - 0x150000)
  else 0

/-- A 32-bit read over a path, with the latches of R530. -/
def read32 (path : Path) (o : Nat) (s : State) : W32 × State :=
  match reg64At o, reg64HighAt o with
  | some r, _ => readLow path r s
  | none, some r => readHigh path r s
  | none, none => (bar0Word s o, s)

/-- BAR0 is open: READY, or RECOVERY, which exposes it (03:R61, R74). -/
def barOpen (s : State) : Bool := s.boot.phase = phReady || s.boot.phase = phRecovery

/-- The bytes of a BAR0 read (04:R92, 19:R530): zero for a wrong size or alignment; before READY only BOOT_STATUS
answers (03:R61). -/
def readBar0 (off size : Nat) (s : State) : Bytes × State :=
  if !((size = 4 || size = 8) && off % size = 0) then (List.replicate size 0, s)
  else if !barOpen s then
    (slice 0 size (if off = 0x1040 then bvBytes 4 (regBoot s) else []), s)
  else if size = 8 then
    match reg64At off with
    | some r => (bvBytes 8 (reg64 r s), s)
    | none =>
      let (a, s1) := read32 .bar0 off s
      let (b, s2) := read32 .bar0 (off + 4) s1
      (bvBytes 4 a ++ bvBytes 4 b, s2)
  else
    let (a, s1) := read32 .bar0 off s
    (bvBytes 4 a, s1)

/-- Completes a BAR0 read. -/
def doRead (off size : Nat) (s : State) : State :=
  let (b, s1) := readBar0 off size s
  emit (.readData b false) s1

/-- A BAR0 offset lies in the keeper block, which needs no wake (02:R36). -/
def keeperOff (o : Nat) : Bool := 0x1000 ≤ o && o < 0x2000

/-- A write to SQ_TAIL or CQ_HEAD of a page is a doorbell write (04 Table 4-2). -/
def isDoorbell (w : HostWait) : Bool :=
  match w with
  | .write off _ _ => decide (0x100000 ≤ off.toNat) && decide (off.toNat < 0x141000) && decide (off.toNat % 0x1000 < 8)
  | _ => false

/-- An access outside the keeper block wakes (02:R36, cause 0x1 for a doorbell, else 0x7) and, in NAP or DEEP, waits for the wake (02:R38). -/
def hostAccess (off : Nat) (w : HostWait) (f : State → State) (s : State) : State :=
  if keeperOff off then f s
  else
    let s1 := wakeSource (if isDoorbell w then 1 else 7) s
    if asleep s then { s1 with host := { s1.host with waits := s1.host.waits ++ [w] } } else f s1

/-- BAR0_READ (02:R36, R38; 04:R92). -/
def execBar0Read (offset : W32) (size : Nat) (s : State) : Out :=
  live s (hostAccess offset.toNat (.read offset size) (doRead offset.toNat size))

/-- A write of aperture `a` (19:R531, R539; 15:R409): the base is a multiple of the aperture's size. -/
def apertureWrite (a : Nat) (half : Half) (v : W64) (s : State) : State :=
  let old := getAperture s a
  let size := 2 ^ s.host.bar2Log.toNat / 8
  let full (w : W64) : Aperture :=
    { bank := w.getLsbD 0, base := BitVec.ofNat 64 (w.toNat / size * size), low := none }
  let new := match half with
    | .low => { old with low := some (v.setWidth 32) }
    | .high =>
      let lo : W32 := old.low.getD ((apertureWord old).setWidth 32)
      full ((v.setWidth 32 : W32) ++ lo)
    | .both => full v
  { s with tm := { s.tm with apertures := setAt a new s.tm.apertures } }

/-- A write reaches BAR0 outside the keeper block only once Octoz is ready, or in RECOVERY (03:R61). -/
def openWrite (off : Nat) (f : State → State) (s : State) : State := if barOpen s || keeperOff off then f s else s

/-- The host write that waits for a wake carries this access. -/
def waitWrite (off size : Nat) (v : W64) : HostWait := .write (BitVec.ofNat 32 off) size v

/-- TANNERY_APERTURE_WRITE (19:R539). -/
def execTanneryApertureWrite (aperture : BitVec 3) (half : Half) (value : W64) (s : State) : Out :=
  let off := 0x8020 + 8 * aperture.toNat + (if half = .high then 4 else 0)
  live s (hostAccess off (waitWrite off (if half = .both then 8 else 4) value)
    (openWrite off (apertureWrite aperture.toNat half value)))

/-- A write of LAG_CTL (19:R537). -/
def lagCtlWrite (v : W32) (s : State) : State := if v.getLsbD 0 then { s with lag := LagStats.reset } else s

/-- LAG_CTL_CLEAR (19:R537). -/
def execLagCtlClear (value : W32) (s : State) : Out :=
  live s (hostAccess 0x3440 (waitWrite 0x3440 4 (value.setWidth 64)) (openWrite 0x3440 (lagCtlWrite value)))

/-- A ring size is 16 to 4,096 and a power of two (04 Table 4-4). -/
def ringOk (n : Nat) : Bool := [16, 32, 64, 128, 256, 512, 1024, 2048, 4096].contains n

/-- A write of SQ_BASE, CQ_BASE or QSIZE while ENABLE is 1 is refused with QERR.CONFIG_BUSY (04:R94). -/
def configWrite (p : Nat) (f : QPage → QPage) (s : State) : State :=
  if (getPage p s).enable then setQerr p qerrBusy s else modPage p f s

/-- A 64-bit base with its low or high word replaced; bits [11:0] read zero. -/
def baseLow (old : W64) (v : W32) : W64 := (old.extractLsb' 32 32 ++ (v &&& 0xFFFFF000) : BitVec 64)
def baseHigh (old : W64) (v : W32) : W64 := (v ++ old.setWidth 32 : BitVec 64)

/-- A 32-bit write to a page register (04:R121, R122). -/
def pageWrite (p o : Nat) (v : W32) (s : State) : State :=
  let ev : Bool := p = 64
  match o with
  | 0x000 => if ev then s else bellSq (BitVec.ofNat 6 p) v s
  | 0x004 => bellCq p v s
  | 0x010 => if ev then s else configWrite p (fun g => { g with sqBase := baseLow g.sqBase v }) s
  | 0x014 => if ev then s else configWrite p (fun g => { g with sqBase := baseHigh g.sqBase v }) s
  | 0x018 => configWrite p (fun g => { g with cqBase := baseLow g.cqBase v }) s
  | 0x01C => configWrite p (fun g => { g with cqBase := baseHigh g.cqBase v }) s
  | 0x020 => configWrite p (fun g =>
      { g with sqEntries := rwField (!ev && ringOk (natBits 0 16 v.toNat)) g.sqEntries (v.extractLsb' 0 16)
               cqEntries := rwField (ringOk (natBits 16 16 v.toNat)) g.cqEntries (v.extractLsb' 16 16) }) s
  | 0x024 => writeQctrl p v s
  | 0x028 => modPage p (fun g => { g with imodCount := v.extractLsb' 0 8, imodTime := v.extractLsb' 8 16 }) s
  | 0x02C => modPage p (fun g => { g with qerr := w1c g.qerr (v.setWidth 4) }) s
  | 0x030 => if ev then s else modPage p (fun g => { g with defTimeout := v }) s
  | _ => s

/-- A 32-bit write to the MSI-X table (log 8). -/
def msixWrite (o : Nat) (v : W32) (s : State) : State :=
  if o < 0x800 then
    let f (e : MsixEntry) : MsixEntry :=
      match o % 16 with
      | 0 => { e with addr := (e.addr.extractLsb' 32 32 ++ v : BitVec 64) }
      | 4 => { e with addr := (v ++ e.addr.setWidth 32 : BitVec 64) }
      | 8 => { e with data := v }
      | _ => { e with masked := v.getLsbD 0 }
    msixRelease { s with host := { s.host with msix := modAt f (o / 16) s.host.msix } }
  else s

/-- A 32-bit write to the keeper block, over either path (19 Table 19-2). -/
def keeperWrite (path : Path) (o : Nat) (v : W32) (s : State) : State :=
  match o with
  | 0x010 => timerWrite .dozeAfter v s
  | 0x014 => timerWrite .napAfter v s
  | 0x018 => timerWrite .deepAfter v s
  | 0x01C => timerWrite .heraldHold v s
  | 0x020 => timerWrite .floor v s
  | 0x024 => wakeGo path v s
  | 0x028 => alarmWrite .low (v.setWidth 64) s
  | 0x02C => alarmWrite .high (v.setWidth 64) s
  | 0x030 => alarmArm v s
  | 0x044 => resetCtlWrite v s
  | 0x048 => recoveryWrite v s
  | _ => s

/-- A 32-bit write to BAR0: each field acts by its access code (00:R17), reserved offsets discard it (00:R6). -/
def write32 (o : Nat) (v : W32) (s : State) : State :=
  if keeperOff o then keeperWrite .bar0 (o - 0x1000) v s
  else match o with
    | 0x2000 => { s with err := { s.err with status := w1c s.err.status (v.setWidth 11) } }
    | 0x2004 => { s with err := { s.err with mask := v.setWidth 11 } }
    | 0x3440 => lagCtlWrite v s
    | _ =>
      if 0x8020 ≤ o && o < 0x8060 then
        apertureWrite ((o - 0x8020) / 8) (if o % 8 = 0 then .low else .high) (v.setWidth 64) s
      else if 0x100000 ≤ o && o < 0x141000 then pageWrite ((o - 0x100000) / 0x1000) ((o - 0x100000) % 0x1000) v s
      else if 0x150000 ≤ o && o < 0x151000 then msixWrite (o - 0x150000) v s
      else s

/-- A write of 4 or 8 bytes: the lower-addressed register first, but ALARM and the apertures whole (04:R92,
19:R531); other sizes and alignments are discarded. -/
def writeBar0 (off size : Nat) (v : W64) (s : State) : State :=
  if !((size = 4 || size = 8) && off % size = 0) then s
  else if size = 4 then openWrite off (write32 off (v.setWidth 32)) s
  else if off = 0x1028 then alarmWrite .both v s
  else if 0x8020 ≤ off && off < 0x8060 then openWrite off (apertureWrite ((off - 0x8020) / 8) .both v) s
  else openWrite (off + 4) (write32 (off + 4) (v.extractLsb' 32 32)) (openWrite off (write32 off (v.setWidth 32)) s)

/-- REGISTER_WRITE (00:R17; 04:R92, R94; 19): a write to a register, each field by its access code. -/
def execRegisterWrite (offset : W32) (size : Nat) (value : W64) (s : State) : Out :=
  live s (hostAccess offset.toNat (.write offset size value) (writeBar0 offset.toNat size value))

/-- The BAR0 offset of a page register. -/
def pageOff (p r : Nat) : Nat := 0x100000 + p * 0x1000 + r

/-- A doorbell write is a wake source, cause 0x1; in NAP or DEEP its check waits for the wake (02:R36, 04 Edges). -/
def doorbell (w : HostWait) (f : State → State) (s : State) : State :=
  let s1 := wakeSource 1 s
  if asleep s then { s1 with host := { s1.host with waits := s1.host.waits ++ [w] } }
  else openWrite 0x100000 f s1

/-- SQ_TAIL_WRITE (04:R99, R107). -/
def execSqTailWrite (q : BitVec 6) (value : W32) (s : State) : Out :=
  live s (doorbell (.bell (q.setWidth 7) false value) (bellSq q value))

/-- CQ_HEAD_WRITE (04:R102). -/
def execCqHeadWrite (page : BitVec 7) (value : W32) (s : State) : Out :=
  live s (doorbell (.bell page true value) (bellCq page.toNat value))

/-- QUEUE_ENABLE (04:R95): QCTRL written with ENABLE 1. -/
def execQueueEnable (page : BitVec 7) (qctrl : W32) (s : State) : Out :=
  let off := pageOff page.toNat 0x24
  live s (onlyIf (qctrl.getLsbD 0)
    (hostAccess off (waitWrite off 4 (qctrl.setWidth 64)) (openWrite off (writeQctrl page.toNat qctrl))))

/-- QUEUE_DISABLE (04:R96): QCTRL written with ENABLE 0. -/
def execQueueDisable (page : BitVec 7) (qctrl : W32) (s : State) : Out :=
  let off := pageOff page.toNat 0x24
  live s (onlyIf (!qctrl.getLsbD 0)
    (hostAccess off (waitWrite off 4 (qctrl.setWidth 64)) (openWrite off (writeQctrl page.toNat qctrl))))

/-- FETCH (04:R103): the Tree's visit to queue `q`, when it is the next in round-robin order. -/
def execFetch (q : BitVec 6) (s : State) : Out :=
  live s (onlyIf (octozRuns s && s.host.busMaster && nextVisit s = some q.toNat) (fetchQueue q))

/-- IMOD_TIMER (04:R114). -/
def execImodTimer (page : BitVec 7) (s : State) : Out := live s (imodFire page.toNat)

/-- The host accesses that waited for a wake take place, in order (02:R38). -/
def doWait (w : HostWait) (s : State) : State :=
  match w with
  | .bell p true v => openWrite 0x100000 (bellCq p.toNat v) s
  | .bell p false v => openWrite 0x100000 (bellSq (p.setWidth 6) v) s
  | .read off size => doRead off.toNat size s
  | .write off size v => writeBar0 off.toNat size v s
  | .sbRead _ _ => s

/-- Where a sideband offset lies in BAR0 (18 Table 18-4). -/
def sbOffset (o : Nat) : Option Nat :=
  if o < 0x1000 then some (0x1000 + o)
  else if o < 0x2000 then some (0x2000 + (o - 0x1000))
  else if o < 0x3000 then some (o - 0x2000)
  else if o < 0x9000 then some o
  else none

/-- The sideband reads this block without a wake (19 Table 19-6). -/
def sbNoWake (o : Nat) : Bool := o < 0x2000 || 0x9000 ≤ o || o % 4 ≠ 0

/-- One sideband word (18:R509, 19:R546): zero at reserved or unaligned offsets; before READY the mirrors outside the
keeper block and the error summary read zero. -/
def sbWord (o : Nat) (s : State) : W32 × State :=
  if o % 4 ≠ 0 then (0, s)
  else match sbOffset o with
    | none => (0, s)
    | some b => if barOpen s || o < 0x2000 then read32 .sideband b s else (0, s)

/-- `n` sideband words from an offset that advances by 4 and wraps (18:R509). -/
def sbWords : Nat → Nat → State → List W32 × State
  | 0, _, s => ([], s)
  | n + 1, o, s =>
    let (w, s1) := sbWord o s
    let (r, s2) := sbWords n ((o + 4) % 0x10000) s1
    (w :: r, s2)

/-- Answers a sideband read. -/
def sbAnswer (o n : Nat) (s : State) : State :=
  let (ws, s1) := sbWords n o s
  emit (.sideband ws) { s1 with kp := { s1.kp with sbBusy := false } }

/-- Some word of a sideband read lies in a block that needs the engine awake. -/
def sbWakes (o n : Nat) : Bool := (List.range n).any fun i => !sbNoWake ((o + 4 * i) % 0x10000)

/-- A sideband read: one that needs a wake stretches SCL until the wake is done (02:R51, 18:R509, 19:R546). -/
def sbRead (offset : W16) (count : Nat) (s : State) : State :=
  if asleep s && sbWakes offset.toNat count then
    let s1 := wakeSource 5 { s with kp := { s.kp with sbBusy := true } }
    { s1 with host := { s1.host with waits := s1.host.waits ++ [.sbRead offset count] } }
  else sbAnswer offset.toNat count s

/-- SIDEBAND_READ (02:R51, 18:R509, 19:R546). -/
def execSidebandRead (offset : W16) (count : Nat) (s : State) : Out := liveKeeper true s (sbRead offset count)

/-- The sideband offset of a register of R530 (18 Table 18-4). -/
def reg64Sideband : Reg64 → W16
  | .timestamp => 0x0000
  | .alarm => 0x0028
  | .dieId => 0x2008
  | .tmDone => 0x8000
  | .tmNext => 0x8008

/-- LOW_HALF_READ (02:R31, 19:R530): a read of the low word over a path, as any other read of that path; it latches the high
half. -/
def execLowHalfRead (path : Path) (reg : Reg64) (s : State) : Out :=
  match path with
  | .bar0 =>
    let off := reg64Offset reg
    live s (hostAccess off (.read (BitVec.ofNat 32 off) 4) (doRead off 4))
  | .sideband => liveKeeper true s (sbRead (reg64Sideband reg) 1)

/-- A sideband write of one word: the keeper block only (19:R540). -/
def sbWrite (o : Nat) (v : W32) (s : State) : State := if o % 4 = 0 && o < 0x1000 then keeperWrite .sideband o v s else s

/-- The words of a sideband write, at offsets advancing by 4 (18:R509). -/
def sbWriteAll (o : Nat) : List W32 → State → State
  | [], s => s
  | w :: r, s => sbWriteAll ((o + 4) % 0x10000) r (sbWrite o w s)

/-- SIDEBAND_WRITE (18:R509, 19:R540). -/
def execSidebandWrite (offset : W16) (words : List W32) (s : State) : Out := liveKeeper true s (sbWriteAll offset.toNat words)

/-- SIDEBAND_TIMEOUT (18:R510): the target abandons the open transaction and releases SDA. -/
def execSidebandTimeout (s : State) : Out :=
  liveKeeper true s fun s =>
    { s with kp := { s.kp with sbBusy := false }
             host := { s.host with waits := s.host.waits.filter fun w => match w with | .sbRead _ _ => false | _ => true } }

/-- BAR2 of `2 ^ log2` bytes: every aperture takes its default (15:R409, 19:R539). -/
def setBar2 (log2 : BitVec 6) (s : State) : State :=
  { s with host := { s.host with bar2Log := log2 }
           tm := { s.tm with apertures := (List.range 8).map (Aperture.reset log2.toNat) } }

/-- A configuration space dword (log 7). -/
def cfgGet (s : State) (d : BitVec 10) : W32 := ((s.host.cfg.find? fun x => x.1 = d).map fun x => x.2).getD 0

/-- What configuration space advertises (04:R90, R91, Table 4-1; 02:R39). -/
def pcieCaps (s : State) : PcieCaps :=
  { lanes := 16, tagBits := 10, msixVectors := 128, aspmL0s := false, aspmL1 := true, l1ExitNs := 4000
    maxPayload := 512, maxReadReq := 4096
    bars := [(26, true, false), (s.host.bar2Log.toNat, true, true), (27, true, true)] }

/-- The host port's link is in L1 in NAP and DEEP when the host has enabled it, and in no other state (02:R39). -/
def settleL1 (s : State) : State := { s with host := { s.host with inL1 := s.host.l1 && asleep s } }

/-- PCIE_CONFIG_REQUEST (18:R502; 04:R90, R91, R93; 15:R409; 02:R39): answered at once from configuration space, in every
phase; while PERST_N is low nothing answers. BAR2 takes 1 GiB to 512 GiB (04 Table 4-1), the maximum payload size 128 to 512
bytes and the maximum read request size 128 to 4,096. -/
def execPcieConfigRequest (req : CfgReq) (s : State) : Out :=
  live s (onlyIf (!s.host.inReset) fun s =>
    match req with
    | .read d => emit (.cfgData (cfgGet s d)) s
    | .write d v => { s with host := { s.host with cfg := (d, v) :: s.host.cfg.filter fun x => x.1 ≠ d } }
    | .setBusMaster on => msixRelease (flushEvents { s with host := { s.host with busMaster := on } })
    | .setRelaxedOrdering on => { s with host := { s.host with relaxed := on } }
    | .setMaxPayload l => if 7 ≤ l.toNat && l.toNat ≤ 9 then { s with host := { s.host with payload := l } } else s
    | .setMaxReadRequest l => if 7 ≤ l.toNat && l.toNat ≤ 12 then { s with host := { s.host with readReq := l } } else s
    | .readCaps => emit (.cfgCaps (pcieCaps s)) s
    | .setL1 on => settleL1 { s with host := { s.host with l1 := on } }
    | .setMsix on mask => msixRelease { s with host := { s.host with msixOn := on, msixMask := mask } }
    | .resizeBar2 l => if 30 ≤ l.toNat && l.toNat ≤ 39 then setBar2 l s else s)

/-- The byte that BAR2 reads at an aperture's view address, and whether it is poisoned (15:R408, R409, R418). -/
def viewByte (s : State) (bank : Bool) (a : Nat) : Byte × Bool :=
  if bank then
    if a < 2 ^ 39 && natBits 10 17 a < 98304 && s.boot.runTpMask.getLsbD (bvModule a)
    then (tmByte s a, tmPoisoned s a) else (0, false)
  else if a < tmCapacity s then (tmByte s (interleave s a), tmPoisoned s (interleave s a)) else (0, false)

/-- Writes one byte through a view. -/
def viewWrite (bank : Bool) (a : Nat) (x : Byte) (s : State) : State :=
  if bank then
    if a < 2 ^ 39 && natBits 10 17 a < 98304 && s.boot.runTpMask.getLsbD (bvModule a) then tmWriteByte a x s else s
  else if a < tmCapacity s then tmWriteByte (interleave s a) x s else s

/-- The view and view address of a BAR2 offset (15:R409). -/
def bar2View (s : State) (o : Nat) : Bool × Nat :=
  let size := 2 ^ s.host.bar2Log.toNat / 8
  let a := getAperture s (o / size)
  (a.bank, a.base.toNat + o % size)

/-- Writes the bytes of a BAR2 write. -/
def bar2WriteGo (o : Nat) : Bytes → State → State
  | [], s => s
  | x :: r, s =>
    let v := bar2View s o
    bar2WriteGo (o + 1) r (viewWrite v.1 v.2 x s)

/-- BAR2_ACCESS (15:R408 to R410, R418; 03:R61): through the aperture, coherent with the cache. Before READY a write
is discarded, and a read returns free bytes: the manual gives none (log 10). -/
def execBar2Access (acc : HostAccess) (s : State) : Out :=
  live s fun s =>
    match acc with
    | .read o n =>
      if s.boot.phase ≠ phReady then bumpFree n (emit (.readData (freeBytes s n) false) s)
      else
        let bs := (List.range n).map fun i => let v := bar2View s (o.toNat + i); viewByte s v.1 v.2
        emit (.readData (bs.map fun b => b.1) (bs.any fun b => b.2)) s
    | .write o d => if s.boot.phase ≠ phReady then s else bar2WriteGo o.toNat d s

/-- BAR4_ACCESS (06:R156; 16:R451; 03:R61, R74): the open staging area. 03:R61 discards writes before READY and says nothing of
reads: a read returns what the area holds in every phase (DESIGN CHOICE, log 86). -/
def execBar4Access (acc : HostAccess) (s : State) : Out :=
  live s fun s =>
    match acc with
    | .read o n =>
      let k := min n (Config.stagingOpen - o.toNat)
      emit (.readData (slice 0 n (stgRead s o.toNat k)) (stgReadPoison s o.toNat k)) s
    | .write o d => if barOpen s then stgWrite o.toNat (d.take (Config.stagingOpen - o.toNat)) s else s

/-- A temperature in quarter degrees is at or above a level in degrees (18 Table 18-7, Table 18-9: signed, 1/4 °C). -/
def atLeast (t : W16) (deg : Int) : Bool := decide (4 * deg ≤ t.toInt)

/-- A TM48 report at or above a level; 0x8000 is no report (19 Table 19-5). -/
def tmAtLeast (t : W16) (deg : Int) : Bool := t != 0x8000 && atLeast t deg

/-- ALERT_N is driven low (18:R505): an unmasked error bit, or a sensor at or above its warning level. -/
def alertLow (s : State) : Bool :=
  (s.err.status &&& ~~~ s.err.mask) != 0 || s.kp.therm.any (fun t => atLeast t.temp 95) ||
  s.kp.gbTemp.any (fun t => atLeast t 105) || s.tm.temp.any (fun t => tmAtLeast t 85)

/-- READY is high (18:R505). -/
def readyPin (s : State) : Bool := s.boot.phase = phReady

end Sys2Proof.Machine
end

