-- ==== Sys2Proof/Machine/Network.lean ====
section
/-! DEFINITION. Machine/Network.lean: the router's choices (08:R223, R224; 16:R455, R456), the packets of the NI and
their streams (08:R215 to R218), source rates (08:R220), entries into DOWN (07:R195, R196; 16:R455, R458, R467), and
the checks that put a port in HELD, UP or MISWIRED (07:R181). Directions are 0 to 5 for +X, -X, +Y, -Y, +Z, -Z. -/

namespace Sys2Proof.Machine

/-- The opposite direction of the same axis. -/
def oppDir (d : Nat) : Nat := if d % 2 = 0 then d + 1 else d - 1

/-- The torus neighbour of a coordinate. -/
def neighbour (s : State) (c : Coord) (d : Nat) : Coord :=
  let n := torus s (d / 2)
  withAxis (d / 2) ((axisOf (d / 2) c + (if d % 2 = 0 then 1 else n - 1)) % n) c

/-- Hops from `x` up to `y` on an axis of size `n`. -/
def upHops (n x y : Nat) : Nat := (y + n - x % n) % n

/-- The direction that dimension order takes on axis `a` (08:R223). -/
def axisDir (s : State) (a : Nat) (cur dst : Coord) : Option Nat :=
  let n := torus s a
  let x := axisOf a cur
  let up := upHops n x (axisOf a dst)
  if axisOf a dst = x then none
  else if 2 * up < n then some (2 * a)
  else if n < 2 * up then some (2 * a + 1)
  else if x % 2 = 0 then some (2 * a) else some (2 * a + 1)

/-- The first axis with a direction: X, then Y, then Z (08:R223). -/
def firstAxis (f : Nat → Option Nat) : Option Nat :=
  match f 0, f 1 with
  | some d, _ => some d
  | none, some d => some d
  | none, none => f 2

/-- Dimension order (08:R223). -/
def orderDir (s : State) (cur dst : Coord) : Option Nat := firstAxis fun a => axisDir s a cur dst

/-- The communicator registered here whose collective a CHUNK or CINCH packet serves; the handle lies first in both
payloads. -/
def packetComm (s : State) (p : Packet) : Option Comm :=
  if p.kind = 4 || p.kind = 2 then findComm (BitVec.ofNat 32 (payField p 0 4)) s else none

/-- The direction on axis `a` between two coordinates inside a communicator's box, along its line of members: no collective
traffic uses the link that leaves the box on an open axis (09:R239), and no Cinch chain the one that closes a ring (11:R298).
`none`: the axis is closed to this rule, and the direction with fewer hops holds (log 39). -/
def lineDir (s : State) (c : Comm) (chain : Bool) (a : Nat) (cur dst : Coord) : Option Nat :=
  let n := torus s a
  let at_ (p : Coord) : Nat := upHops n (axisOf a c.lo) (axisOf a p)
  let last := at_ c.hi
  if (chain || decide (last + 1 < n)) && decide (at_ cur ≤ last) && decide (at_ dst ≤ last) && at_ cur ≠ at_ dst
  then some (if at_ cur < at_ dst then 2 * a else 2 * a + 1) else none

/-- The direction in which a packet leaves a node: dimension order (08:R223), kept inside the box of its collective
(09:R239, 11:R298). -/
def packetDir (s : State) (p : Packet) : Option Nat :=
  let chain : Bool := p.kind = 2 && (payField p 10 1 % 16 = 1 || payField p 10 1 % 16 = 5)
  firstAxis fun a =>
    match (packetComm s p).bind fun c => lineDir s c chain a (myCoord s) p.dest with
    | some d => some d
    | none => axisDir s a (myCoord s) p.dest

/-- A port is UP; a logical link has an UP member (07:R178). -/
def portUp (s : State) (p : Nat) : Bool := (getPort p s).st = .up
def dirUp (s : State) (d : Nat) : Bool := portUp s d || portUp s (d + 6)

/-- The router holds the direction dead (16:R455). -/
def dirDead (s : State) (d : Nat) : Bool := (getPort d s).dead

/-- Flits queued for a port: those of waiting packets, and those that have not left of packets that have started. -/
def flitsQueued (p : Port) : Nat :=
  p.outq.foldl (fun n l => l.foldl (fun m x => m + pktFlits x.pkt) n) 0 +
  (p.txStream ++ p.txIns).foldl (fun n f => n + f.flits.length) 0

/-- The member that takes a packet of a direction (07:R178). -/
def pickMember (s : State) (vc : BitVec 2) (d : Nat) : Option Nat :=
  match portUp s d, portUp s (d + 6) with
  | true, true =>
    if vc = 0 || flitsQueued (getPort d s) ≤ flitsQueued (getPort (d + 6) s) then some d else some (d + 6)
  | true, false => some d
  | false, true => some (d + 6)
  | false, false => none

/-- An exception entry matches (08 Table 8-10, Edges): DEST under its mask, the arrival class and the VC, on a logical
link with a member UP. -/
def entryMatches (s : State) (cls : Nat) (p : Packet) (w : W64) : Bool :=
  let mask : Coord := w.extractLsb' 17 17
  let in_ := natBits 34 4 w.toNat
  let out_ := natBits 38 3 w.toNat
  w.getLsbD 45 && p.dest &&& mask = (w.extractLsb' 0 17 : Coord) &&& mask && (in_ = cls || in_ = 7) &&
  natBit (41 + p.vc.toNat) w.toNat && decide (out_ < 6) && dirUp s out_

/-- The direction of the first matching exception entry of the packet's bank (08:R224). -/
def exceptionDir (s : State) (cls : Nat) (p : Packet) : Option Nat :=
  if p.mcast then none
  else ((if p.epoch then s.rt.bank1 else s.rt.bank0).find? (entryMatches s cls p)).map fun w => natBits 38 3 w.toNat

/-- What a router does with a packet head. -/
inductive Route where
  | eject
  | out (dir need : Nat) (rerouted : Bool)
  | discard (dir : Nat)
deriving DecidableEq, Repr

/-- Free slots that a move needs (08 Table 8-6): one to continue on the same ring, else two. -/
def slotsNeeded (arr : Option Nat) (d : Nat) : Nat := if arr = some (oppDir d) then 1 else 2

/-- Dimension order inside the collective's box, with dead directions reversed (16:R455, R456). -/
def orderRoute (s : State) (arr : Option Nat) (p : Packet) : Route :=
  match packetDir s p with
  | none => .eject
  | some d =>
    if !dirDead s d then .out d (slotsNeeded arr d) p.rerouted
    else if !dirDead s (oppDir d) then .out (oppDir d) 2 true
    else .discard d

/-- The route of a packet that arrived from direction `arr`, or was injected (08:R223, R224; 16:R456). -/
def routePacket (s : State) (arr : Option Nat) (p : Packet) : Route :=
  if p.dest = myCoord s then .eject
  else match exceptionDir s (arr.getD 6) p with
    | some d => .out d (slotsNeeded arr d) true
    | none =>
      match arr with
      | none => orderRoute s arr p
      | some a =>
        if p.rerouted && axisOf (a / 2) p.dest ≠ axisOf (a / 2) (myCoord s)
        then (if dirDead s (oppDir a) then .discard (oppDir a) else .out (oppDir a) 1 true)
        else orderRoute s arr p

/-- Free slots of a VC at the far input that no packet that has started is about to take with its head (08:R208). -/
def slotsFree (p : Port) (vc : Nat) : Nat :=
  (p.txFreed.getD vc 0 - p.txUsed.getD vc 0).toNat -
  ((p.txStream ++ p.txIns).filter fun f => f.head && f.vc.toNat = vc).length

/-- The port can take a packet that needs `need` slots, behind those that wait. -/
def canTake (p : Port) (vc need : Nat) : Bool := decide ((p.outq.getD vc []).length + need ≤ slotsFree p vc)

/-- Puts a packet in a port's output queue with the free slots that its move needs, and the input slot that it holds. -/
def enqueueOut (i need : Nat) (from_ : Option (Nat × Nat)) (p : Packet) (s : State) : State :=
  modPort i (fun q =>
    { q with outq := modAt (fun l => l ++ [{ need := need, pkt := p, from_ := from_ }]) p.vc.toNat q.outq }) s

/-- One slot of an input is freed (08:R208). -/
def freeSlot (i vc : Nat) (s : State) : State :=
  modPort i (fun p => { p with rxFreed := modAt (fun n => n + 1) vc p.rxFreed
                               rxHeld := modAt (fun n => n - 1) vc p.rxHeld }) s

/-- The input slot that a packet held is freed; a packet of this node's NI holds none. -/
def freeFrom (from_ : Option (Nat × Nat)) (s : State) : State :=
  match from_ with
  | none => s
  | some (i, vc) => freeSlot i vc s

/-- A packet discarded toward a direction (16:R456). -/
def countDetour (d : Nat) (s : State) : State :=
  modPort d (fun q => { q with cnt := { q.cnt with detour := satInc q.cnt.detour } }) s

/-- Marks a bound collective as degraded (16:R459, 07:R182, R196). -/
def degradeColl (h q : W32) (s : State) : State :=
  { s with ctxs := updWhere (fun c => c.handle = h && c.seq = q) (fun c => { c with degraded := true }) s.ctxs }

/-- The collective of a CHUNK or CINCH packet, or of a collective's herald: handle and sequence number lie first in all three
payloads. -/
def degradePacket (p : Packet) (s : State) : State :=
  if p.kind = 4 || p.kind = 2 || (p.kind = 1 && payField p 16 1 = 0)
  then degradeColl (BitVec.ofNat 32 (payField p 0 4)) (BitVec.ofNat 32 (payField p 4 4)) s else s

/-- A packet of the NI enters the injection queue; a multicast names its direction (08:R221). -/
def inject (dir : Option (BitVec 3)) (p : Packet) (s : State) : State :=
  { s with rt := { s.rt with inject := s.rt.inject ++ [(dir, p)] } }

/-- A packet outside streams: SEQ 0, the current epoch (08:R215, R226). -/
def sendRaw (dir : Option (BitVec 3)) (p : Packet) (s : State) : State :=
  inject dir { p with epoch := s.ni.epoch, seq := 0, sync := false, prior := 0 } s

/-- The stream to a node. Its first packet carries SYNC (08:R216); SEQ starts at 0 (log 12). -/
def txOf (s : State) (c : Coord) : TxStream :=
  (s.ni.tx.find? fun t => t.dst = c).getD { dst := c, next := 0, fresh := true, unacked := [], waiting := [] }

/-- A stream record replaced. -/
def setTx (t : TxStream) (s : State) : State :=
  { s with ni := { s.ni with tx := t :: s.ni.tx.filter fun x => x.dst ≠ t.dst } }

/-- The stream can take the packet now: fewer than 64 are unacknowledged (08:R215), and under degraded routing a
flagged packet goes alone (16:R472). -/
def txCan (degraded : Bool) (t : TxStream) (p : Packet) : Bool :=
  decide (t.unacked.length < Config.streamMax) && (!p.flag || !degraded || t.unacked.isEmpty)

/-- Numbers the waiting packets that the stream can take, stamped with the current epoch; a DRAIN_MARKER keeps the epoch of
its round (08:R215, R216, R218, R226, R227). -/
def txDrain (degraded epoch : Bool) (t : TxStream) : List Packet → TxStream × List Packet
  | [] => ({ t with waiting := [] }, [])
  | p :: r =>
    if txCan degraded t p then
      let q : Packet := { p with seq := t.next, sync := t.fresh, epoch := if p.kind = 0xE then p.epoch else epoch
                                 prior := if p.flag then BitVec.ofNat 6 t.unacked.length else 0 }
      let u := txDrain degraded epoch { t with next := t.next + 1, fresh := false, unacked := t.unacked ++ [q] } r
      (u.1, q :: u.2)
    else ({ t with waiting := p :: r }, [])

/-- An outstanding request keeps the packet as it was numbered and injected (16:R464). -/
def noteSent (p : Packet) (s : State) : State :=
  { s with ni := { s.ni with
      reqs := updWhere (fun r => r.num = p.tag && r.pkt.kind = p.kind && r.pkt.dest = p.dest)
        (fun r => { r with pkt := p, sentAt := now s }) s.ni.reqs } }

/-- Sends what waits in a stream. -/
def txPump (c : Coord) (s : State) : State :=
  let t := txOf s c
  let u := txDrain s.ni.degradedAt.isSome s.ni.epoch t t.waiting
  u.2.foldl (fun w p => inject none p (noteSent p w)) (setTx u.1 s)

/-- Sends a packet in the stream to its destination. The destination joins the next round's set, but for a marker on its way
out (08:R227, log 22). -/
def sendStream (p : Packet) (s : State) : State :=
  let marker : Bool := p.kind = 0xE && !p.tag.getLsbD 0
  let t := txOf s p.dest
  let s1 := setTx { t with waiting := t.waiting ++ [p] } s
  let s2 := if marker || s1.ni.sentTo.contains p.dest then s1
            else { s1 with ni := { s1.ni with sentTo := p.dest :: s1.ni.sentTo } }
  txPump p.dest s2

/-- The stream to a node has room for one more packet at once. -/
def txRoom (s : State) (c : Coord) : Bool :=
  let t := txOf s c
  t.waiting.isEmpty && decide (t.unacked.length < Config.streamMax)

/-- The record of a source (08:R216). -/
def rxOf (s : State) (c : Coord) : RxStream :=
  (s.ni.rx.find? fun r => r.src = c).getD
    { src := c, next := none, bitmap := 0, lastSync := none, held := [], accepted := 0, echo := 0, missed := [],
      stuckAt := now s }

def setRx (r : RxStream) (s : State) : State :=
  { s with ni := { s.ni with rx := r :: s.ni.rx.filter fun x => x.src ≠ r.src } }

/-- `a` lies below `b` in the cycle of SEQ values (08:R216). -/
def seqBelow (a b : BitVec 15) : Bool := 1 ≤ (b - a).toNat && (b - a).toNat ≤ 16384

/-- Moves NEXT_SEQ past the marked packets, by fuel. -/
def rxAdvance : Nat → BitVec 15 → W64 → BitVec 15 × W64
  | 0, n, b => (n, b)
  | f + 1, n, b => if b.getLsbD 0 then rxAdvance f (n + 1) (b >>> 1) else (n, b)

/-- Accepts SEQ `q` with NEXT_SEQ `n`. -/
def rxTake (t : Nat) (r : RxStream) (n : BitVec 15) (bits : W64) (q : BitVec 15) : RxStream :=
  let u := rxAdvance 64 n (bits ||| (1 : W64) <<< (q - n).toNat)
  { r with next := some u.1, bitmap := u.2, stuckAt := if u.1 = n then r.stuckAt else t }

/-- What the stream record says of a packet (08:R216). -/
inductive RxVerdict where
  | take (r : RxStream)
  | duplicate
  | far
deriving DecidableEq, Repr

/-- The cases of 08:R216 for a packet inside an existing record. -/
def rxInside (t : Nat) (r : RxStream) (n : BitVec 15) (q : BitVec 15) : RxVerdict :=
  let o := (q - n).toNat
  if seqBelow q n then .duplicate
  else if o < 64 then (if r.bitmap.getLsbD o then .duplicate else .take (rxTake t r n r.bitmap q))
  else .far

/-- The first case of 08:R216 that applies. -/
def rxCase (t : Nat) (r : RxStream) (p : Packet) : RxVerdict :=
  match r.next with
  | none => .take (rxTake t { r with lastSync := if p.sync then some p.seq else none } p.seq 0 p.seq)
  | some n =>
    if p.sync && r.lastSync ≠ some p.seq
    then .take (rxTake t { r with lastSync := some p.seq, held := [], bitmap := 0 } p.seq 0 p.seq)
    else rxInside t r n p.seq

/-- Every packet of the stream from SEQ - PRIOR to SEQ - 1 has been accepted (08:R218). -/
def flagReady (r : RxStream) (p : Packet) : Bool :=
  match r.next with
  | none => false
  | some n => (List.range p.prior.toNat).all fun i =>
      let q := p.seq - BitVec.ofNat 15 (i + 1)
      seqBelow q n || ((q - n).toNat < 64 && r.bitmap.getLsbD (q - n).toNat)

/-- An ACK at NEXT_SEQ would cover a packet whose MISS_ACK has not been acknowledged, or a flagged packet that the NI still
holds, whose checks are not done (06:R160; log 83). -/
def ackBlocked (r : RxStream) : Bool :=
  match r.next with
  | none => true
  | some n => r.missed.any (fun m => seqBelow m.1 n) || r.held.any fun p => seqBelow p.seq n

/-- An E2E packet of a subtype (08 Table 8-8). -/
def e2ePacket (s : State) (dst : Coord) (sub : Nat) (echo : BitVec 3) (value : Nat) : Packet :=
  { mkPacket 3 0 (myCoord s) dst (BitVec.ofNat 32 (sub + echo.toNat * 2 ^ 8 + (value % 2 ^ 16) * 2 ^ 16)) [] 0 with
      echo := echo != 0 }

/-- Sends the cumulative ACK of a stream, unless it must wait for a MISS_ACK (08:R217, R219; 06:R160). -/
def sendAck (c : Coord) (s : State) : State :=
  let r := rxOf s c
  match r.next with
  | none => s
  | some n =>
    if ackBlocked r then s
    else sendRaw none (e2ePacket s c 1 r.echo n.toNat) (setRx { r with accepted := 0, echo := 0 } s)

/-- An accepted packet counts toward the ACK, and its mark is to be echoed (08:R217, R219). -/
def ackNote (p : Packet) (s : State) : State :=
  let r := rxOf s p.src
  let bit : BitVec 3 := if p.mark then (1 : BitVec 3) <<< (p.vc.toNat - 1) else 0
  let s1 := setRx { r with accepted := r.accepted + 1, echo := r.echo ||| bit } s
  if 16 ≤ r.accepted + 1 || p.flag || p.mark then sendAck p.src s1 else s1

/-- A request packet (08:R210): PUT, GET_REQ, ATOMIC_REQ, LANE_STORE or LANE_LOAD. -/
def isRequest (p : Packet) : Bool := 5 ≤ p.kind.toNat && p.kind.toNat ≤ 9

/-- A packet of a stream (08:R215). -/
def inStream (p : Packet) : Bool := p.vc ≠ 0 && !p.mcast

/-- Chunks that a context has granted and not confirmed (10:R275, R276). -/
def grantedOut (c : Ctx) : Nat :=
  c.given.foldl (fun n g => n + g.2) 0 - c.conf.foldl (fun n g => n + g.2) 0

/-- Bytes of ejection space in use (08:R210, 10:R275): held packets, and granted chunks not yet confirmed. -/
def ejectHeld (s : State) : Nat :=
  let pk (l : List Packet) : Nat := l.foldl (fun n p => n + flitBytes p) 0
  s.ni.rx.foldl (fun n r => n + pk r.held) 0 + pk (s.ni.early.map fun e => e.2) + pk s.ni.serving +
  s.ctxs.foldl (fun n c => n + 8256 * grantedOut c) 0 + s.saved.foldl (fun n y => n + 8256 * grantedOut y.ctx) 0

/-- No accepted request of a node still waits for its PCI Express reads, so that a flagged packet takes effect behind every earlier
one (08:R218). -/
def servedAll (s : State) (c : Coord) : Bool := s.ni.serving.all fun p => p.src ≠ c

/-- The NI's part of every arriving packet (08:R210, R216 to R218; 16:R458): `act` is what the packet does, `dup` what a
duplicate still does. -/
def niArrive (p : Packet) (act dup : State → State) (s : State) : State :=
  if !inStream p then act s
  else if p.kind ≠ 4 && !crcOk p then s
  else if isRequest p && decide (Config.ejectMax < ejectHeld s + flitBytes p) then
    sendRaw none (e2ePacket s p.src 2 0 p.tag.toNat) s
  else match rxCase (now s) (rxOf s p.src) p with
    | .far => s
    | .duplicate => if (rxOf s p.src).held.any fun q => q.seq = p.seq then ackNote p s else ackNote p (dup s)
    | .take r =>
      if p.flag && !(flagReady r p && servedAll s p.src) then ackNote p (setRx { r with held := r.held ++ [p] } s)
      else ackNote p (act (setRx r s))

/-- Degraded routing begins or goes on (16:R472). -/
def degradeRouting (s : State) : State := { s with ni := { s.ni with degradedAt := some (now s) } }

/-- A MGMT packet (16 Table 16-3). -/
def mgmtPacket (s : State) (dst : Coord) (mtype num : Nat) (coord origin : W32) (ts : W64) : Packet :=
  mkPacket 0xD 0 (myCoord s) dst (BitVec.ofNat 32 (mtype + num * 256))
    (bvBytes 4 coord ++ bvBytes 4 origin ++ bvBytes 8 ts) 0

/-- The logical link of a direction is UP, or was UP before its sleep signalling: a packet for it wakes the far end
(02:R40, 16:R468; log 38). -/
def linkAlive (s : State) (d : Nat) : Bool :=
  let dozing (p : Port) : Bool := (p.st = .lpi || p.st = .sleep) && p.ident = .up
  dirUp s d || dozing (getPort d s) || dozing (getPort (d + 6) s)

/-- Sends a notice to the neighbour on every UP logical link but the one in `not` (16:R468, R470). -/
def floodMgmt (not : Option Nat) (mtype : Nat) (coord origin : W32) (ts : W64) (s : State) : State :=
  ((List.range 6).filter fun d => linkAlive s d && some d ≠ not).foldl
    (fun t d => sendStream (mgmtPacket t (neighbour t (myCoord t) d) mtype 0 coord origin ts) t) s

/-- DETAIL of a link event (07 Table 7-6). -/
def linkDetail (i : Nat) (p : Port) (cause : Byte) : Bytes :=
  [BitVec.ofNat 8 i, linkCode p.st, BitVec.ofNat 8 p.width, cause] ++ bvBytes 4 p.farCoord ++ [p.farPort, 0, 0, 0] ++
  bvBytes 4 p.cnt.crcErr ++ bvBytes 4 p.cnt.replays ++ bvBytes 4 (if i < 6 then 0 else p.cnt.fecUncorr)

/-- The port through which the keeper reaches a direction in sleep signalling (02:R44, 07:R194): the native one that was UP when
it entered LPI or SLEEP, else a bridge port in LPI that was UP (log 91). -/
def sleepPort (s : State) (d : Nat) : Option Nat :=
  let n := getPort d s
  let b := getPort (d + 6) s
  if (n.st = .lpi || n.st = .sleep) && n.ident = .up then some d
  else if b.st = .lpi && b.ident = .up then some (d + 6) else none

/-- Raises a link event (07:R199) with its cause, the LINK bit for LINK_DOWN and ERROR_THRESHOLD (19 Table 19-3), and
degraded routing after a LINK_DOWN (16:R472). -/
def linkEvent (i code : Nat) (cause : Byte) (s : State) : State :=
  let s1 := modPort i (fun p => { p with cause := cause }) s
  let s2 := raiseEvent (0x2000 + i) code (detailOf (linkDetail i (getPort i s1) cause)) s1
  let s3 := if code = 0x0201 || code = 0x0204 then setErr errLink s2 else s2
  if code = 0x0201 then degradeRouting s3 else s3

/-- Puts a packet of a failed port on its UP sister, or reverses it; either is a reinjection, which sets REROUTED (07:R196,
08 Table 8-1, 16:R455). A multicast is reinjected only on a sister. -/
def rehome (i : Nat) (o : OutPkt) (s : State) : State :=
  let d := i % 6
  let p := o.pkt
  let sister := if i < 6 then i + 6 else i - 6
  if portUp s sister then degradePacket p (enqueueOut sister 1 o.from_ { p with rerouted := true } s)
  else if p.mcast then freeFrom o.from_ s
  else if dirDead s (oppDir d) then countDetour ((packetDir s p).getD d) (freeFrom o.from_ s)
  else match pickMember s p.vc (oppDir d) with
    | some j => enqueueOut j 2 o.from_ { p with rerouted := true } s
    | none => inject (some (BitVec.ofNat 3 (oppDir d))) { p with rerouted := true } (freeFrom o.from_ s)

/-- The bytes of the packet whose flits have arrived in part, completed with pad and a complemented CRC (16:R458). -/
def endPartial (flits : List (BitVec 512)) : Packet :=
  let p := packetOf (flits.flatMap (bvBytes 64))
  { p with crc := ~~~ (crc32c p.payload), tflags := 0 }

/-- A port that leaves UP for good gives up its packets (07:R181, R196; 16:R455, R458). -/
def abandonPort (i : Nat) (s : State) : State :=
  let d := i % 6
  let p := getPort i s
  let gone := (p.retry.map fun x => x.2) ++ p.outq.flatten
  let cut := if p.rxFlits.isEmpty then p.inq else
    let q := endPartial p.rxFlits
    modAt (fun l => l ++ [q]) q.vc.toNat p.inq
  let s1 := modPort i (fun p => { p with
    retry := [], outq := [[], [], [], []], txGroups := [], txStream := [], txIns := [], txBase := none, txMarks := []
    rxFlits := [], rxCover := none, inq := cut
    heldFrame := none, frameTries := 0, heraldCredit := true, busy := false, lpiSent := false, lpiWanted := false
    lpiAsked := false, replaySame := 0, ackTimeouts := 0, rxWaitReplay := false }) s
  let s2 := if dirUp s1 d then s1
    else modPort d (fun p => { p with dead := true }) (modPort (d + 6) (fun p => { p with dead := true }) s1)
  gone.foldl (fun t q => rehome i q t) s2

/-- Causes of DOWN that can mean a lost neighbour (16:R467). -/
def lossCause (c : Byte) : Bool := c = 6 || c = 4 || c = 3 || c = 2 || c = 1

/-- The port is DOWN with such a cause, or does not exist on this board. -/
def memberGone (s : State) (i : Nat) : Bool :=
  let p := getPort i s
  (p.st = .down && lossCause p.cause) || (decide (6 ≤ i) && s.boot.runRails ≠ 2)

/-- Sends a PROBE to the neighbour of a logical link whose members are all DOWN (16:R467). -/
def sendProbe (d : Nat) (s : State) : State :=
  let c := neighbour s (myCoord s) d
  if s.cfg.dims ≠ 0 && torus s (d / 2) ≠ 1 && memberGone s d && memberGone s (d + 6) then
    let n := s.ni.nextProbe
    let s1 := { s with ni := { s.ni with nextProbe := n + 1, probes := (c, n.setWidth 32, now s) :: s.ni.probes } }
    sendStream (mgmtPacket s1 c 1 n.toNat (c.setWidth 32) s1.cfg.coord 0) s1
  else s

/-- An entry into DOWN (07:R195): the counters, the packets, LINK_DOWN, the link test
(16 Table 16-1) and the probe. -/
def linkDown (i : Nat) (cause : Byte) (s : State) : State :=
  let s1 := modPort i (fun p => { p with st := .down, width := 0, training := none, ident := .down
                                         cnt := { p.cnt with downs := satInc p.cnt.downs } }) s
  let s2 := abandonPort i s1
  let s3 := linkEvent i 0x0201 cause s2
  let u : TestUnit := .link (BitVec.ofNat 4 i)
  let s4 := if cause = 5 || cause = 7 || (getPort i s3).retired || s3.boot.phase ≠ phReady then s3
    else startTest u true false 0 none (if testRunning s3 u then s3
      else logError u 0x0201 (linkDetail i (getPort i s3) cause) s3)
  sendProbe (i % 6) s4

/-- The IDENTITY flit's body (07 Table 7-5: NODE_COORD, TORUS_DIMS, port, rail, in that order, log 23). -/
def identityBody (s : State) (i : Nat) : BitVec 416 :=
  BitVec.ofNat 416 (s.cfg.coord.toNat + s.cfg.dims.toNat * 2 ^ 32 + i * 2 ^ 64 + (i / 6) * 2 ^ 72)

/-- Sends IDENTITY on a port that carries control flits (07:R181). -/
def sendIdentity (i : Nat) (s : State) : State := sendCtrl i 4 (identityBody s i) s

/-- The state that the identity check gives (07:R181). -/
def identityState (s : State) (i : Nat) : LinkState :=
  let p := getPort i s
  let far := (neighbour s (myCoord s) (i % 6)).setWidth 32
  if s.cfg.dims = 0 || p.farDims = 0 || !p.farSeen then .held
  else if p.farDims = s.cfg.dims && p.farCoord = far && p.farPort.toNat = oppDir (i % 6) + 6 * (i / 6) &&
      p.farRail = decide (6 ≤ i) then .up
  else .miswired

/-- A coordinate leaves the lost set: its atomic journal is emptied, and the next stream packet to it carries SYNC
(16:R470). -/
def rejoinLocal (c : Coord) (s : State) : State :=
  { s with ni := { s.ni with lost := s.ni.lost.filter fun x => x ≠ c, journal := s.ni.journal.filter fun j => j.1 ≠ c
                             tx := updWhere (fun t => t.dst = c) (fun t => { t with fresh := true }) s.ni.tx } }

/-- The 16-byte payload of a notice (16 Table 16-3). -/
def noticePayload (coord origin : W32) (ts : W64) : Bytes := bvBytes 4 coord ++ bvBytes 4 origin ++ bvBytes 8 ts

/-- A coordinate of the lost set whose link is UP again rejoins: the notice floods (16:R470), and the record is logged
(16 Table 16-8). -/
def rejoinFlood (c : Coord) (s : State) : State :=
  if s.ni.lost.contains c then
    floodMgmt none 4 (c.setWidth 32) s.cfg.coord s.kp.timestamp
      (rejoinLocal c (logAppend 0x08 5 c.toNat (noticePayload (c.setWidth 32) s.cfg.coord s.kp.timestamp) s))
  else s

/-- A port enters the state that the identity check gives, and raises what the change of state calls for (07:R181). -/
def settleIdentity (i : Nat) (s : State) : State :=
  let old := (getPort i s).ident
  let new := identityState s i
  let s1 := modPort i (fun p => { p with st := new, ident := new }) s
  if new = .up then
    let s2 := modPort (i % 6) (fun p => { p with dead := false }) (modPort (i % 6 + 6) (fun p => { p with dead := false }) s1)
    let s3 := if old = .up then s2 else linkEvent i 0x0202 0 s2
    rejoinFlood (neighbour s3 (myCoord s3) (i % 6)) s3
  else
    let s2 := if old = .up then abandonPort i s1 else s1
    if new = .miswired && old ≠ .miswired then linkEvent i 0x0201 5 s2
    else if new = .held && old = .up then linkEvent i 0x0201 0x0D s2
    else s2

/-- Credit restarts at the end of a training (08:R208): no slot of the far input is held, and the totals restart with the
slots that are free here. -/
def restartCredit (p : Port) : Port :=
  { p with txUsed := [0, 0, 0, 0], txFreed := [0, 0, 0, 0], txBase := none
           rxFreed := p.rxHeld.map fun n => BitVec.ofNat 16 (4 - n) }

/-- Group numbers restart at the end of a training that did not begin in UP (log 44). -/
def restartGroups (p : Port) : Port := { p with txNext := 0, txAcked := 0, rxNext := 0, txMarks := [] }

/-- The default rate of a class, as num / 2^sh of full rate (08 Table 8-9). -/
def rateDefault (vc2 : Bool) : Nat × Nat := (1, if vc2 then 1 else 0)

/-- Index of a class in the rate table. -/
def rateIndex (vc2 : Bool) (dir : Nat) : Nat := (if vc2 then 6 else 0) + dir

/-- `a` is below `b` as fractions num / 2^sh. -/
def rateBelow (a b : Nat × Nat) : Bool := a.1 * 2 ^ b.2 < b.1 * 2 ^ a.2

/-- Cuts a rate to three quarters, not below 1/64, at most once per 25 ticks (08:R220, Table 8-9). -/
def rateCut (t : Nat) (r : Rate) : Rate :=
  let cut := (3 * r.num, r.sh + 2)
  let low := if rateBelow cut (1, 6) then (1, 6) else cut
  if r.lastCut + Config.tick1us ≤ t || r.lastCut = 0
  then { r with num := low.1, sh := low.2, lastCut := t, lastEcho := t }
  else { r with lastEcho := t }

/-- Raises a rate by 1/32 of full rate, up to the default (08:R220). -/
def rateUp (vc2 : Bool) (r : Rate) : Rate :=
  let up := (r.num * 32 + 2 ^ r.sh, r.sh + 5)
  let top := rateDefault vc2
  let new := if rateBelow up top then up else top
  { r with num := new.1, sh := new.2 }

/-- The first hop of a packet of this node on a VC to a node, exception entries and dead directions included
(08:R220, R223, R224). -/
def firstHop (s : State) (vc : BitVec 2) (dst : Coord) : Option Nat :=
  match routePacket s none { mkPacket 5 0 (myCoord s) dst 0 [] 0 with vc := vc, epoch := s.ni.epoch } with
  | .out d _ _ => some d
  | _ => none

/-- The rates after an echo from a node (08:R219, R220). -/
def echoRates (echo : BitVec 3) (from_ : Coord) (s : State) : State :=
  let cut (on vc2 : Bool) (l : List Rate) : List Rate :=
    match firstHop s (if vc2 then 2 else 1) from_ with
    | none => l
    | some d => if on then modAt (rateCut (now s)) (rateIndex vc2 d) l else l
  { s with ni := { s.ni with rates := cut (echo.getLsbD 1) true (cut (echo.getLsbD 0) false s.ni.rates) } }

/-- Bytes that the logical link of a direction carries per tick at full rate: 100 GB/s a member, half at width 4
(07:R182, 08 Table 8-7). -/
def linkRate (s : State) (d : Nat) : Nat :=
  [d, d + 6].foldl (fun n i => n + (if portUp s i then 500 * (getPort i s).width else 0)) 0

/-- The class of a packet whose first hop is `d`: its place in the rate table. VC0 and VC3 have none (08:R220). -/
def rateOfPacket (d : Nat) (p : Packet) : Option Nat :=
  if p.vc = 1 then some (rateIndex false d) else if p.vc = 2 then some (rateIndex true d) else none

/-- The rate of the packet's class admits it now (08:R220): the class is at full rate, or what it admitted before has had its
time (log 79). -/
def rateAdmits (s : State) (d : Nat) (p : Packet) : Bool :=
  match rateOfPacket d p with
  | none => true
  | some k => decide ((s.ni.rates.getD k (Rate.reset false)).nextAt ≤ 4000 * now s)

/-- Charges an admitted packet to its class: at num / 2^sh of the link's full rate. -/
def chargeRate (d : Nat) (p : Packet) (s : State) : State :=
  match rateOfPacket d p with
  | none => s
  | some k =>
    let charge (r : Rate) : Rate :=
      if r.num = 2 ^ r.sh then r
      else { r with nextAt := max r.nextAt (4000 * now s) +
                              4000 * flitBytes p * 2 ^ r.sh / max 1 (linkRate s d * r.num) }
    { s with ni := { s.ni with rates := modAt charge k s.ni.rates } }

end Sys2Proof.Machine
end

