-- ==== Sys2Proof/Machine/Links.lean ====
section
/-! DEFINITION. Machine/Links.lean: the link layer (07): groups and retry, control flits, training, loss of lock, LPI and
sleep signalling, the arbitration of an output link (08:R211 to R214), and what a port sends in a tick: CREDIT and IDENTITY
flits, groups and insertion groups (08:R204 to R208). -/

namespace Sys2Proof.Machine

/-- `a` comes at or before `b` in the cycle of group numbers (07:R183, R184). -/
def groupLe (a b : W16) : Bool := (b - a).toNat < 32768

/-- A cumulative acknowledgement (07:R184): groups up to `a` leave the buffer, and packets that have left whole and have no
group there. -/
def ackGroups (a : W16) (p : Port) : Port :=
  let keep := p.txGroups.filter fun g => !groupLe g.seq a
  if keep.length = p.txGroups.length then p
  else { p with txGroups := keep, txAcked := a, ackTimeouts := 0, replaySame := 0
                retry := p.retry.filter fun x => keep.any (fun g => g.pkts.contains x.1) ||
                  (p.txStream ++ p.txIns).any fun f => f.num = x.1 }

/-- Counts a group or control flit that failed its check; the 32nd in a window of 25,000 ticks raises ERROR_THRESHOLD
once (07:R186, R198), which starts a link test and takes the port (16 Table 16-1, 07:R195). -/
def crcFailed (i : Nat) (s : State) : State :=
  let w := now s / 25000
  let s1 := modPort i (fun p =>
    let q := if p.winStart = w then p else { p with winStart := w, winErr := 0, winRaised := false }
    { q with winErr := q.winErr + 1, cnt := { q.cnt with crcErr := satInc q.cnt.crcErr } }) s
  let p := getPort i s1
  if decide (32 ≤ p.winErr) && !p.winRaised then
    let s2 := linkEvent i 0x0204 0x0C (modPort i (fun p => { p with winRaised := true }) s1)
    let u : TestUnit := .link (BitVec.ofNat 4 i)
    if testRunning s2 u || p.retired then s2
    else
      let s3 := startTest u true true 0 none (logError u 0x0204 (linkDetail i (getPort i s2) 0x0C) s2)
      linkDown i 7 s3
  else s1

/-- A control flit whose CRC holds acts; one that fails is counted and dropped (07:R186). Its ACK_SEQ counts in every
type. Only a port with control flits receives any. -/
def onFlit (i : Nat) (f : CtrlFlit) (act : State → State) (s : State) : State :=
  let st := (getPort i s).st
  if !(st = .held || st = .up || st = .miswired || st = .training) then s
  else if f ≠ ctrlFlit f.type f.ackSeq f.retrySeq f.body then crcFailed i s
  else act (modPort i (ackGroups f.ackSeq) s)

/-- The mark of a group that has been sent, or that a CREDIT flit has announced; the marks are final (08:R205). -/
def markOf (p : Port) (g : W16) : Bool :=
  match p.txGroups.find? fun t => t.seq = g with
  | some t => t.insertion
  | none => p.txMarks.getD (g - p.txNext).toNat false

/-- The body of a CREDIT flit (08 Table 8-4). -/
def creditBody (p : Port) (base : W16) : BitVec 416 :=
  BitVec.ofNat 416
    (p.rxFreed.zipIdx.foldl (fun n x => n + x.1.toNat * 2 ^ (16 * x.2)) 0 + base.toNat * 2 ^ 64 +
      bitsNat ((List.range 8).map fun k => markOf p (base + BitVec.ofNat 16 k)) * 2 ^ 80)

/-- Groups that the VC0 packets which wait to preempt fill, each packet whole (08:R206). -/
def insertNeed : Nat → List TxFlight → Nat
  | _, [] => 0
  | room, f :: r => if f.flits.length ≤ room then insertNeed (room - f.flits.length) r else 1 + insertNeed (4 - f.flits.length) r

/-- A packet of VC1 to VC3 is in progress. -/
def weakInProgress (p : Port) : Bool := p.txStream.any fun f => f.vc ≠ 0

/-- Sends CREDIT with INSERT_BASE `base` (08:R205): the groups that it covers anew get their marks, insertion groups first, as
many as the waiting VC0 packets need while a weaker packet is in progress (08:R207). -/
def sendCredit (i : Nat) (base : W16) (s : State) : State :=
  let s1 := modPort i (fun p =>
    let fresh := 8 - (p.txNext - base).toNat - p.txMarks.length
    let due := if weakInProgress p then insertNeed 0 p.txIns - (p.txMarks.filter id).length else 0
    { p with txBase := some base
             txMarks := p.txMarks ++ (List.range fresh).map fun k => decide (k < due) }) s
  sendCtrl i 3 (creditBody (getPort i s1) base) s1

/-- The last CREDIT flit covers a group (08:R205). -/
def creditCovers (p : Port) (g : W16) : Bool :=
  match p.txBase with
  | none => false
  | some b => decide ((g - b).toNat < 8)

/-- A CREDIT flit goes first where the last one does not cover a group (08:R205). -/
def coverGroup (i : Nat) (g : W16) (s : State) : State :=
  if creditCovers (getPort i s) g then s else sendCredit i g s

/-- The check of a group trailer (07 Table 7-4). -/
def groupCrc (data : BitVec 2048) (gs ack : W16) : W32 := crc32c (bvBytes 256 data ++ bvBytes 2 gs ++ bvBytes 2 ack)

/-- A group leaves with its trailer (07:R183, Table 7-4). -/
def emitGroup (i : Nat) (data : BitVec 2048) (seq : W16) (s : State) : State :=
  let ack := ackOf (getPort i s)
  let g : FlitGroup := { data := data, groupSeq := seq, ackSeq := ack, crc := groupCrc data seq ack }
  onBridge i 2112 (data.toNat + seq.toNat * 2 ^ 2048 + ack.toNat * 2 ^ 2064 + g.crc.toNat * 2 ^ 2080)
    (emit (.group (BitVec.ofNat 4 i) g) s)

/-- Replays from a group on (07:R184, R185, Edges): every later group goes again in its order and interleave, under CREDIT
flits with the same marks (08:R205). 16 in a row from one group end the link with RETRY_EXHAUSTED (07:R195). -/
def replay (i : Nat) (first : W16) (s : State) : State :=
  let p := getPort i s
  let again := p.txGroups.filter fun g => groupLe first g.seq
  let same := if p.replayFrom = first && p.replaySame ≠ 0 then p.replaySame + 1 else 1
  let s1 := modPort i (fun p => { p with
    replayFrom := first, replaySame := same
    cnt := { p.cnt with replays := satInc p.cnt.replays, replayed := satAdd p.cnt.replayed again.length } }) s
  let s2 := again.foldl (fun t g => emitGroup i g.data g.seq (coverGroup i g.seq t))
    (modPort i (fun p => { p with txBase := none }) s1)
  if 16 ≤ same then linkDown i 2 s2 else s2

/-- RETRY_REQ (07:R184). -/
def execRetryReq (port : BitVec 4) (f : CtrlFlit) (s : State) : Out :=
  live s (onFlit port.toNat f (replay port.toNat f.retrySeq))

/-- ACK (07:R184). -/
def execAck (port : BitVec 4) (f : CtrlFlit) (s : State) : Out := live s (onFlit port.toNat f fun s => s)

/-- ACK_TIMEOUT (07:R185, R195): a replay from the oldest unacknowledged group; the fourth in a row without advance
ends the link. -/
def execAckTimeout (port : BitVec 4) (s : State) : Out :=
  let i := port.toNat
  live s fun s =>
    match (getPort i s).txGroups with
    | [] => s
    | g :: _ =>
      if (getPort i s).st ≠ .up then s
      else
        let n := (getPort i s).ackTimeouts + 1
        let s1 := replay i g.seq (modPort i (fun p => { p with ackTimeouts := n }) s)
        if 4 ≤ n && (getPort i s1).st = .up then linkDown i 3 s1 else s1

/-- CREDIT (08:R205, R208, Table 8-4): running totals, and which of the next groups are insertion groups. -/
def execCredit (port : BitVec 4) (f : CtrlFlit) (s : State) : Out :=
  let b := f.body.toNat
  live s (onFlit port.toNat f (modPort port.toNat fun p => { p with
    txFreed := (List.range 4).map fun v => BitVec.ofNat 16 (b >>> (16 * v))
    rxCover := some (BitVec.ofNat 16 (b >>> 64), BitVec.ofNat 8 (b >>> 80)) }))

/-- IDENTITY (07:R181): the far end's values, and the check. -/
def execIdentity (port : BitVec 4) (f : CtrlFlit) (s : State) : Out :=
  let i := port.toNat
  let b := f.body.toNat
  live s (onFlit i f fun s =>
    let s1 := modPort i (fun p => { p with
      farCoord := BitVec.ofNat 32 b, farDims := BitVec.ofNat 32 (b >>> 32), farPort := BitVec.ofNat 8 (b >>> 64)
      farRail := natBit 72 b, farSeen := true }) s
    if (getPort i s1).st = .training then s1 else settleIdentity i s1)

/-- The groups that a flit group covers, or `none` when no CREDIT flit covers it (08:R205, R206). -/
def insertionMark (p : Port) (g : W16) : Option Bool :=
  match p.rxCover with
  | none => none
  | some (b, m) => if (g - b).toNat < 8 then some (m.getLsbD (g - b).toNat) else none

/-- Cuts flits into packets, by fuel: the packets that end here, and the flits of one still under way. A pad flit where
a packet would begin ends the group (08:R204). -/
def cutFlits : List (BitVec 512) → List (BitVec 512) → List Packet × List (BitVec 512)
  | part, [] => ([], part)
  | part, f :: r =>
    if part.isEmpty && f.extractLsb' 0 4 = (0 : BitVec 4) then ([], [])
    else
      let all := part ++ [f]
      let head := (all.headD 0).toNat
      if (headerLength head + 24 + 63) / 64 ≤ all.length then
        let u := cutFlits [] r
        (packetOf (all.flatMap (bvBytes 64)) :: u.1, u.2)
      else cutFlits all r

/-- The four flits of a group. -/
def groupFlits (g : BitVec 2048) : List (BitVec 512) := (List.range 4).map fun i => g.extractLsb' (512 * i) 512

/-- Puts packets in a port's input channels. -/
def intoInputs (i : Nat) (ps : List Packet) (s : State) : State :=
  ps.foldl (fun t p => modPort i (fun q => { q with inq := modAt (fun l => l ++ [p]) p.vc.toNat q.inq }) t) s

/-- The VC of the packet whose first flit a list begins with. -/
def partVc (flits : List (BitVec 512)) : Option Nat := flits.head?.map fun f => (f.extractLsb' 4 2).toNat

/-- The slots of input VCs that the heads of a group take (08:R208): one for each packet that ends here or goes on, but for the
one whose head had arrived. -/
def takeSlots (before : List (BitVec 512)) (ended : List Packet) (after : List (BitVec 512)) (held : List Nat) : List Nat :=
  let up (l : List Nat) (v : Nat) : List Nat := modAt (fun n => n + 1) v l
  let down (l : List Nat) (v : Option Nat) : List Nat := match v with | none => l | some v => modAt (fun n => n - 1) v l
  down (((ended.map fun p => p.vc.toNat) ++ (partVc after).toList).foldl up held) (partVc before)

/-- The group that the bits of a decoded run spell (07 Table 7-4). -/
def groupOf (x : Nat) : FlitGroup :=
  { data := BitVec.ofNat 2048 x, groupSeq := BitVec.ofNat 16 (x >>> 2048), ackSeq := BitVec.ofNat 16 (x >>> 2064)
    crc := BitVec.ofNat 32 (x >>> 2080) }

/-- The group that a GROUP row brings. The near GB2 of a bridge port decodes its codewords: symbols corrected and codewords not
correctable are counted, and what cannot be corrected goes on as it came (07:R188, R189, Table 7-8). -/
def groupInput (i : Nat) (g : GroupInput) (s : State) : FlitGroup × State :=
  match g with
  | .frame g => (g, s)
  | .coded lanes start =>
    let w := fromLanes lanes
    let d := decodeRun w.length w
    (groupOf (symbolsNat d.1 >>> start),
      if i < 6 then s
      else modPort i (fun p => { p with cnt := { p.cnt with fecCorr := satAdd p.cnt.fecCorr d.2.1
                                                            fecUncorr := satAdd p.cnt.fecUncorr d.2.2 } }) s)

/-- A group that has come in (07:R183, 08:R204 to R206): one whose check, number and coverage hold is taken; the first that
fails draws a RETRY_REQ, and later ones are dropped until the replay. -/
def takeGroup (i : Nat) (g : FlitGroup) (s : State) : State :=
  let p := getPort i s
  let good := g.crc = groupCrc g.data g.groupSeq g.ackSeq
  match (if good && g.groupSeq = p.rxNext then insertionMark p g.groupSeq else none) with
  | some ins =>
    let part := if ins then [] else p.rxFlits
    let u := cutFlits part (groupFlits g.data)
    let s1 := modPort i (fun q => ackGroups g.ackSeq
      { q with rxNext := q.rxNext + 1, rxWaitReplay := false, rxFlits := if ins then q.rxFlits else u.2
               rxHeld := takeSlots part u.1 (if ins then [] else u.2) q.rxHeld }) s
    intoInputs i u.1 s1
  | none =>
    let s1 := if good then s else crcFailed i s
    if p.rxWaitReplay || (getPort i s1).st ≠ .up then s1
    else
      emit (.ctrl (BitVec.ofNat 4 i) (ctrlFlit 2 (ackOf p) p.rxNext 0))
        (modPort i (fun q => { q with rxWaitReplay := true, rxCover := none }) s1)

/-- GROUP (07:R183, R188, R189; 08:R204 to R206). -/
def execGroup (port : BitVec 4) (g : GroupInput) (s : State) : Out :=
  let i := port.toNat
  live s (onlyIf ((getPort i s).st = .up) fun s =>
    let d := groupInput i g s
    takeGroup i d.1 d.2)

/-- Enters LPI (07:R192): the HERALD credit is restored. -/
def enterLpi (i : Nat) (s : State) : State :=
  modPort i (fun p => { p with st := .lpi, lpiSent := false, lpiWanted := false, lpiAsked := false, heraldCredit := true
                               busy := false, frameTries := 0 }) s

/-- Answers an LPI_REQ once no packet flit is queued for the link (07:R192, Edges). -/
def answerLpi (i : Nat) (s : State) : State :=
  let p := getPort i s
  if p.lpiAsked && p.outq.all (fun l => l.isEmpty) && p.txStream.isEmpty && p.txIns.isEmpty
  then sendCtrl i 6 0 (modPort i (fun p => { p with lpiAsked := false, lpiSent := true }) s) else s

/-- LPI_REQ (07:R192). -/
def execLpiReq (port : BitVec 4) (f : CtrlFlit) (s : State) : Out :=
  let i := port.toNat
  live s (onFlit i f fun s =>
    if carries (getPort i s) then answerLpi i (modPort i (fun p => { p with lpiAsked := true }) s) else s)

/-- LPI_ACK (07:R192): the end that asked answers with its own, and both enter LPI. -/
def execLpiAck (port : BitVec 4) (f : CtrlFlit) (s : State) : Out :=
  let i := port.toNat
  live s (onFlit i f fun s =>
    let p := getPort i s
    if !carries p then s
    else if p.lpiWanted then enterLpi i (sendCtrl i 6 0 s)
    else if p.lpiSent then enterLpi i s else s)

/-- A full training begins (07:R180). -/
def beginFull (p : Port) : Port :=
  { beginTraining false false p with training := some { saved := false, attempt := 1, fromUp := false, half := false } }

/-- A DOWN port may train: not retired, not under test, not held OFF, and the engine in ACTIVE or DOZE (07:R180,
16:R454). -/
def mayTrain (s : State) (i : Nat) : Bool :=
  !(decide (6 ≤ i) && s.kp.gbStop.getD ((i - 6) / 2) false) &&
  (getPort i s).st = .down && !(getPort i s).retired && !testRunning s (.link (BitVec.ofNat 4 i)) && portBuilt s i &&
  !axisOff s i && routerRuns s

/-- SIGNAL_DETECT (07:R180). -/
def execSignalDetect (port : BitVec 4) (s : State) : Out :=
  live s (onlyIf (mayTrain s port.toNat) (modPort port.toNat beginFull))

/-- TRAINING_RETRY (07:R180): once a second. -/
def execTrainingRetry (port : BitVec 4) (s : State) : Out :=
  live s (onlyIf (mayTrain s port.toNat) (modPort port.toNat beginFull))

/-- Width that the locked lanes give (07:R182). -/
def widthOf (locked : Byte) : Nat :=
  if locked = 0xFF then 8 else if locked &&& 0x0F = 0x0F || locked &&& 0xF0 = 0xF0 then 4 else 0

/-- The lanes that a training has locked: one that began with the loss of a half uses the other half alone (07:R182). -/
def lanesUsed (p : Port) (t : Training) (locked : Byte) : Byte :=
  if !t.half then locked
  else locked &&& (if p.lanesLost &&& 0x0F ≠ 0 then 0xF0 else 0x0F)

/-- A port whose training ends while the engine is in NAP or DEEP asks for LPI at once (07:R192, 02:R55; log 84). -/
def askLpi (i : Nat) (s : State) : State :=
  if asleep s && carries (getPort i s)
  then sendCtrl i 5 0 (modPort i (fun p => { p with lpiWanted := true }) s) else s

/-- TRAINING_DONE (07:R180 to R182; 02:R48; 08:R208): coefficients saved beside those of the other lanes, IDENTITY sent, credit
restarted, and the state that the identity check gives; a change of width raises LINK_RETRAIN. -/
def execTrainingDone (port : BitVec 4) (lanesLocked : Byte) (s : State) : Out :=
  let i := port.toNat
  live s fun s =>
    match (getPort i s).training with
    | none => s
    | some t =>
      let used := lanesUsed (getPort i s) t lanesLocked
      let w := widthOf used
      let was := if t.half then 0 else (getPort i s).lanesLost
      if w = 0 then s
      else
      let s1 := modPort i (fun p => restartCredit ((if t.fromUp then id else restartGroups) { p with
        st := .held, width := w, training := none, savedEq := p.savedEq ||| lanesLocked
        lanesLost := if w = 8 then 0 else ~~~ used })) s
      let s2 := askLpi i (settleIdentity i (sendIdentity i s1))
      if w = 4 && t.fromUp && was = 0 then linkEvent i 0x0203 9 s2
      else if w = 4 && t.half then linkEvent i 0x0203 9 s2
      else if w = 8 && was ≠ 0 then linkEvent i 0x0203 0x0A s2
      else s2

/-- TRAINING_STEP_TIMEOUT (07:R180, 02:R49): a retrain with saved coefficients falls back to full training; the third
full training that fails puts the port in DOWN. -/
def execTrainingStepTimeout (port : BitVec 4) (s : State) : Out :=
  let i := port.toNat
  live s fun s =>
    match (getPort i s).training with
    | none => s
    | some t =>
      let again (u : Training) (s : State) : State := modPort i (fun p => { p with
        training := some u, cnt := { p.cnt with retrains := satInc p.cnt.retrains } }) s
      if t.saved then linkEvent i 0x0203 8 (again { t with saved := false, attempt := 1 } s)
      else if t.attempt < 3 then again { t with attempt := t.attempt + 1 } s
      else linkDown i 1 s

/-- LOCK_LOSS (07:R182, R195): one half retrains at width 4; both halves end the link. -/
def execLockLoss (port : BitVec 4) (lanesLost : Byte) (s : State) : Out :=
  let i := port.toNat
  live s (onlyIf (carries (getPort i s) && lanesLost ≠ 0) fun s =>
    let p := getPort i s
    let lost := lanesLost ||| (if p.width = 4 then p.lanesLost else 0)
    if lost &&& 0x0F ≠ 0 && lost &&& 0xF0 ≠ 0 then linkDown i 4 s
    else
      let s1 := modPort i (fun p => { beginTraining (p.st = .up) true p with lanesLost := lost }) s
      let cut := p.retry.filter fun x => (p.txStream ++ p.txIns).any fun f => f.num = x.1
      (cut.map (fun x => x.2) ++ p.outq.flatten).foldl (fun t x => degradePacket x.pkt t) s1)

/-- FAR_GONE (07:R195). -/
def execFarGone (port : BitVec 4) (s : State) : Out :=
  let i := port.toNat
  let st := (getPort i s).st
  live s (onlyIf (carries (getPort i s) || st = .lpi || st = .sleep) (linkDown i 6))

/-- GB2_FAULT (07:R191, 01:R22): both bridge ports of the unit enter DOWN. -/
def execGb2Fault (unit : BitVec 2) (s : State) : Out :=
  live s (onlyIf (s.boot.runRails = 2) fun s =>
    [6 + 2 * unit.toNat, 7 + 2 * unit.toNat].foldl
      (fun t i => if (getPort i t).st = .down || (getPort i t).st = .off then t else linkDown i 0x0B t) s)

/-- Sends what waits on VC0 of a sleeping link as a HERALD frame, when the credit is there (07:R194, 02:R45). -/
def kickFrames (i : Nat) (s : State) : State :=
  let p := getPort i s
  match p.outq.getD 0 [] with
  | [] => s
  | o :: rest =>
    if (p.st = .lpi || p.st = .sleep) && p.heraldCredit then
      sendFrame i (.herald o.pkt) (freeFrom o.from_ (modPort i (fun p => { p with
        outq := setAt 0 rest p.outq, heraldCredit := false, heldFrame := some o.pkt, frameTries := 0, busy := false }) s))
    else s

/-- The credit returns: for a frame that was stored the next herald may go; one that drew BUSY, which was not stored, goes
again on the credit (07:R194, Edges; log 85). -/
def creditBack (i : Nat) (s : State) : State :=
  match (getPort i s).heldFrame, (getPort i s).busy with
  | some q, true => sendFrame i (.herald q) (modPort i (fun p => { p with heraldCredit := false, frameTries := 0, busy := false }) s)
  | _, _ => kickFrames i (modPort i (fun p => { p with
      heraldCredit := true, heldFrame := none, frameTries := 0, busy := false }) s)

/-- CREDIT_FRAME (07:R194). -/
def execCreditFrame (port : BitVec 4) (s : State) : Out :=
  live s (onlyIf ((getPort port.toNat s).st = .lpi || (getPort port.toNat s).st = .sleep) (creditBack port.toNat))

/-- BUSY_FRAME (07:R194): the sender holds its herald until CREDIT. -/
def execBusyFrame (port : BitVec 4) (s : State) : Out :=
  live s (modPort port.toNat fun p => { p with busy := p.heldFrame.isSome })

/-- HERALD_FRAME_TIMEOUT (07:R194): neither CREDIT nor BUSY in 2 us; four repeats at most. -/
def execHeraldFrameTimeout (port : BitVec 4) (s : State) : Out :=
  let i := port.toNat
  live s fun s =>
    let p := getPort i s
    match p.heldFrame with
    | none => s
    | some q =>
      if (p.st = .lpi || p.st = .sleep) && !p.busy && decide (p.frameTries < 4)
      then sendFrame i (.herald q) (modPort i (fun p => { p with frameTries := p.frameTries + 1 }) s) else s

/-- A frame that stayed unanswered goes as an ordinary VC0 packet once the link is UP (07:R194). -/
def releaseFrame (p : Port) : Port :=
  match p.heldFrame with
  | none => { p with heraldCredit := true, busy := false, frameTries := 0 }
  | some q => { p with outq := modAt (fun l => { need := 2, pkt := q, from_ := none } :: l) 0 p.outq, heldFrame := none, heraldCredit := true
                       busy := false, frameTries := 0 }

/-- Leaves sleep signalling (07:R547, R193): from LPI the lanes resume, from SLEEP and DARK the port retrains with saved
coefficients. A change of identity made meanwhile is sent now (07:R181). A return to UP from DARK raises LINK_UP: 07:R181
leaves the event out only after UP, LPI and SLEEP. -/
def leaveSleep (i : Nat) (s : State) : State :=
  let p := getPort i s
  let s1 := modPort i releaseFrame s
  if p.st = .lpi then settleIdentity i (sendIdentity i s1)
  else if p.st = .sleep then modPort i (beginTraining (p.ident = .up) false) s1
  else if p.st = .dark then modPort i (fun q => { beginTraining (p.ident = .up) false q with ident := .held }) s1
  else s

/-- The native port of a logical link leaves sleep signalling, and its bridge member with it (07:R547). -/
def leaveBoth (i : Nat) (s : State) : State := if i < 6 then leaveSleep (i + 6) (leaveSleep i s) else leaveSleep i s

/-- A RESUME from the far end (07:R547): an engine in ACTIVE or DOZE answers and leaves sleep signalling; one that
sleeps keeps it. An answer to its own RESUME is answered too (log 36): the far end has left, and ignores it. -/
def resumeFrom (i : Nat) (s : State) : State :=
  let p := getPort i s
  if !(p.st = .lpi || p.st = .sleep) || !routerRuns s then s else leaveBoth i (sendFrame i .resume s)

/-- RESUME_FRAME (07:R547). -/
def execResumeFrame (port : BitVec 4) (s : State) : Out := live s (resumeFrom port.toNat)

/-- WAKE_FRAME (07:R192, R193; 02:R36): a link wake request, cause 0x3, to an engine that sleeps; a RESUME to another. -/
def execWakeFrame (port : BitVec 4) (s : State) : Out :=
  live s (onlyIf ((getPort port.toNat s).st = .lpi || (getPort port.toNat s).st = .sleep) fun s =>
    if asleep s then wakeSource 3 s else resumeFrom port.toNat s)

/-- DEEP_FRAME (07:R193): the link moves to SLEEP, and the bridge member goes DARK with it. -/
def execDeepFrame (port : BitVec 4) (s : State) : Out :=
  let i := port.toNat
  live s (onlyIf ((getPort i s).st = .lpi) fun s =>
    let s1 := modPort i (fun p => { p with st := .sleep, heraldCredit := true }) s
    if i < 6 then modPort (i + 6) (fun p => if p.st = .lpi then { p with st := .dark } else p) s1 else s1)

/-- Window capacity in bytes (08 Table 8-7). -/
def windowBytes (p : Port) : Nat := if p.width = 8 then 400000 else if p.width = 4 then 200000 else 0

/-- The weight of a VC in 64ths (05 Table 5-5). -/
def vcWeight (s : State) (vc : Nat) : Nat :=
  match vc with
  | 1 => s.cfg.w1.toNat
  | 2 => s.cfg.w2.toNat
  | _ => s.cfg.w3.toNat

/-- ARBITRATION_WINDOW (08:R211, R213): at a timestamp multiple of 100, once per window: VC0 gets its cap, the others
their weights plus the carried deficit. -/
def execArbitrationWindow (port : BitVec 4) (s : State) : Out :=
  let i := port.toNat
  live s (onlyIf (now s % 100 = 0 && (getPort i s).window ≠ now s / 100 + 1) fun s =>
    let w := vcWeight s
    modPort i (fun p =>
      let cap := windowBytes p
      { p with
          window := now s / 100 + 1
          credit := [((cap / 10 : Nat) : Int)] ++ [1, 2, 3].map fun v =>
            ((cap * w v / 64 : Nat) : Int) + min 0 (p.credit.getD v 0) }) s)

/-- Bytes of a port's retry buffer (07:R187). -/
def retryCap (i : Nat) : Nat := if i < 6 then 65536 else 196608

/-- The head of a VC's output queue has its free slots at the far input (08:R209). -/
def headReady (p : Port) (vc : Nat) : Option OutPkt :=
  match p.outq.getD vc [] with
  | [] => none
  | o :: _ => if o.need ≤ slotsFree p vc then some o else none

/-- The retry buffer takes the packet whole (07:R187). -/
def retryFits (i : Nat) (p : Port) (o : OutPkt) : Bool :=
  decide (p.retry.foldl (fun n x => n + flitBytes x.2.pkt) 0 + flitBytes o.pkt ≤ retryCap i)

/-- Flits that a port's groups carry in one tick of 40 ns (08 Table 8-7: 100 or 50 GB/s). -/
def tickFlits (p : Port) : Nat := if p.width = 8 then 60 else if p.width = 4 then 28 else 0

/-- The link is free for the next packet: less than a tick's flits of packets that have started wait (log 79). VC0 needs no
free link (08:R207). -/
def linkFree (p : Port) (vc : Nat) : Bool :=
  vc = 0 || decide ((p.txStream.foldl (fun n f => n + f.flits.length) 0) < tickFlits p)

/-- The first of VC1 to VC3 in round-robin order after the last that satisfies `ok` (08:R213). -/
def roundRobin (p : Port) (ok : Nat → Bool) : Option Nat :=
  ((List.range 3).map fun k => (p.lastVc.toNat + k) % 3 + 1).find? ok

/-- The VC that the link starts, and whether the start is debited (08:R213, R214). -/
def chooseVc (p : Port) : Option (Nat × Bool) :=
  let ready (v : Nat) : Bool := (headReady p v).isSome
  let rich (v : Nat) : Bool := decide (0 < p.credit.getD v 0)
  if ready 0 && rich 0 then some (0, true)
  else match roundRobin p (fun v => ready v && rich v) with
    | some v => some (v, true)
    | none =>
      match roundRobin p ready with
      | some v => some (v, false)
      | none => if ready 0 then some (0, true) else none

/-- The flits of a packet: header, payload, trailer and pad (08:R200). -/
def flitsOf (p : Packet) : List (BitVec 512) :=
  let b := packetBytes p
  (List.range (pktFlits p)).map fun k => BitVec.ofNat 512 (leNat (slice (64 * k) 64 b))

/-- A packet starts on a link: credit is debited, and it is kept for retry (08:R212; 07:R184). It follows the packet before it
at the next flit (08:R204); a VC0 packet preempts a weaker one in progress, and its insertion group is debited in its place
(08:R207, R212). -/
def startPacket (i v : Nat) (debit : Bool) (o : OutPkt) (s : State) : State :=
  let s1 := modPort i (fun p =>
    let f : TxFlight := { num := p.txPkt, vc := o.pkt.vc, head := true, flits := flitsOf o.pkt }
    let preempts := v = 0 && (weakInProgress p || !p.txIns.isEmpty)
    { p with
        outq := modAt (fun l => l.drop 1) v p.outq
        credit := if debit && !preempts then modAt (fun c => c - (flitBytes o.pkt : Int)) v p.credit else p.credit
        lastVc := if v = 0 then p.lastVc else BitVec.ofNat 2 v
        txStream := if preempts then p.txStream else p.txStream ++ [f]
        txIns := if preempts then p.txIns ++ [f] else p.txIns
        retry := p.retry ++ [(p.txPkt, o)], txPkt := p.txPkt + 1 }) s
  emit (.packet (BitVec.ofNat 4 i) o.pkt) s1

/-- The heralds of a PREWARM have left (02:R46): none waits for injection, on a port, or as a frame that BUSY holds. -/
def prewarmLeft (s : State) (h n : W32) : Bool :=
  let mine (p : Packet) : Bool :=
    p.kind = 1 && payField p 16 1 = 1 && payField p 0 4 = h.toNat && payField p 4 4 = n.toNat &&
    payField p 8 4 = (s.cfg.coord.setWidth 17 : Coord).toNat
  !(s.rt.inject.any (fun x => mine x.2)) &&
  s.ports.all fun p => !(p.outq.any fun l => l.any fun o => mine o.pkt) && !(p.busy && p.heldFrame.any mine)

/-- PREWARM commands whose heralds have left complete (02:R46). -/
def prewarmKick (s : State) : State :=
  s.cmds.foldl
    (fun t c => match c.kind with
      | .prewarm h n => if prewarmLeft t h n then endCmd c stOK 0 0 t else t
      | _ => t) s

/-- PACKET_START (08:R207 to R214, Table 8-6; 07:R187). While the retry buffer cannot take the next packet whole none starts; a
port that has answered an LPI_REQ starts none (07:R192). -/
def execPacketStart (port : BitVec 4) (s : State) : Out :=
  let i := port.toNat
  live s (onlyIf ((getPort i s).st = .up && !(getPort i s).lpiSent) fun s =>
    let p := getPort i s
    match chooseVc p with
    | none => s
    | some (v, debit) =>
      match headReady p v with
      | none => s
      | some o => if retryFits i p o && linkFree p v then prewarmKick (startPacket i v debit o s) else s)

/-- Takes flits of packets that have started, in order: the flits, the numbers of their packets, and what is left. -/
def takeFlits : Nat → List TxFlight → List (BitVec 512) × List Nat × List TxFlight
  | _, [] => ([], [], [])
  | n, f :: r =>
    if n = 0 then ([], [], f :: r)
    else if n < f.flits.length then (f.flits.take n, [f.num], { f with head := false, flits := f.flits.drop n } :: r)
    else
      let u := takeFlits (n - f.flits.length) r
      (f.flits ++ u.1, f.num :: u.2.1, u.2.2)

/-- The VC0 packets that one insertion group carries whole (08:R206), and those that wait for the next. -/
def takeWhole : Nat → List TxFlight → List TxFlight × List TxFlight
  | _, [] => ([], [])
  | n, f :: r => if f.flits.length ≤ n then ((f :: (takeWhole (n - f.flits.length) r).1), (takeWhole (n - f.flits.length) r).2) else ([], f :: r)

/-- The bits of a group: flit 0 lowest, the rest pad. -/
def groupBits : List (BitVec 512) → Nat
  | [] => 0
  | f :: r => f.toNat + 2 ^ 512 * groupBits r

/-- The packets whose tails have left give their input slots back (08:R208). -/
def tailsLeft (i : Nat) (nums : List Nat) (s : State) : State :=
  let p := getPort i s
  let gone (n : Nat) : Bool := nums.contains n && !(p.txStream ++ p.txIns).any fun f => f.num = n
  (p.retry.filter fun x => gone x.1).foldl (fun t x => freeFrom x.2.from_ t)
    (modPort i (fun p => { p with retry := p.retry.map fun x => if gone x.1 then (x.1, { x.2 with from_ := none }) else x }) s)

/-- The port with the next group's flits taken from what waits: an insertion group carries whole VC0 packets and pad, and is
debited 256 bytes (08:R206, R212); any other group carries the next four flits, and where no weaker packet is in progress any
more the VC0 packets that waited to preempt go as packets of their own, debited as such. The heads among the flits take their
slots (08:R208). -/
def nextFlits (p : Port) : Port × List (BitVec 512) × List Nat :=
  let heads (l : List TxFlight) (used : List W16) : List W16 :=
    l.foldl (fun u f => if f.head then modAt (fun n => n + 1) f.vc.toNat u else u) used
  if p.txMarks.headD false then
    let t := takeWhole 4 p.txIns
    ({ p with txIns := t.2, txUsed := heads t.1 p.txUsed, credit := modAt (fun c => c - 256) 0 p.credit },
      t.1.flatMap (fun f => f.flits), t.1.map fun f => f.num)
  else
    let bytes := (p.txIns.foldl (fun n f => n + 64 * f.flits.length) 0 : Nat)
    let p1 := if p.txStream.isEmpty
      then { p with txStream := p.txIns, txIns := [], credit := modAt (fun c => c - (bytes : Int)) 0 p.credit } else p
    let t := takeFlits 4 p1.txStream
    ({ p1 with txStream := t.2.2, txUsed := heads (p1.txStream.filter fun f => t.2.1.contains f.num) p1.txUsed }, t.1, t.2.1)

/-- Sends the next group: numbered, kept for replay, its mark the one announced (07:R183, R184; 08:R205). -/
def sendGroup (i : Nat) (s : State) : State :=
  let p := getPort i s
  let u := nextFlits p
  let data := BitVec.ofNat 2048 (groupBits u.2.1)
  let g : TxGroup := { seq := p.txNext, data := data, pkts := u.2.2, insertion := p.txMarks.headD false }
  let s1 := modPort i (fun _ => { u.1 with txGroups := p.txGroups ++ [g], txNext := p.txNext + 1
                                           txMarks := p.txMarks.drop 1 }) s
  tailsLeft i u.2.2 (emitGroup i data p.txNext s1)

/-- Sends what waits of the packets that have started, at most `n` groups, each under a CREDIT flit that covers it
(08:R205). -/
def groupsGo (i : Nat) : Nat → State → State
  | 0, s => s
  | n + 1, s =>
    let p := getPort i s
    if p.txStream.isEmpty && p.txIns.isEmpty then s else groupsGo i n (sendGroup i (coverGroup i p.txNext s))

/-- What a port that carries control flits sends in a tick (log 79): IDENTITY and CREDIT with their running values (07:R186,
08:R205), then as many groups as its width carries; a link whose packets have all left may answer LPI_REQ (07:R192). -/
def portTick (s : State) (i : Nat) : State :=
  let p := getPort i s
  if !carries p then s
  else
    let s1 := sendCredit i p.txNext (sendIdentity i s)
    if p.st = .up then answerLpi i (groupsGo i (tickFlits p / 4) s1) else s1

/-- What every port sends in a tick; heralds that have left let their PREWARM complete (02:R46). -/
def portsTick (s : State) : State := prewarmKick ((List.range 12).foldl portTick s)

end Sys2Proof.Machine
end

