-- ==== Sys2Proof/Machine/Comms.lean ====
section
/-! DEFINITION. Machine/Comms.lean: communicators (09): geometry and ranks, signatures, heralds (02:R41 to R45), abort
notices (09:R249, R250; 11:R305), the end of a collective, laggards and their statistics. -/

namespace Sys2Proof.Machine

/-- The extent of a communicator's box on axis `a` (09:R239). -/
def ext (s : State) (c : Comm) (a : Nat) : Nat :=
  let n := torus s a
  (axisOf a c.hi + n - axisOf a c.lo % n) % n + 1

/-- The member count (09:R239). -/
def commSize (s : State) (c : Comm) : Nat := ext s c 0 * ext s c 1 * ext s c 2

/-- Offsets of a communicator rank, and the rank of offsets (09:R240). -/
def rankOffs (s : State) (c : Comm) (r : Nat) : List Nat :=
  [r % ext s c 0, r / ext s c 0 % ext s c 1, r / (ext s c 0 * ext s c 1)]
def offsRank (s : State) (c : Comm) (o : List Nat) : Nat :=
  o.getD 0 0 + ext s c 0 * (o.getD 1 0 + ext s c 1 * o.getD 2 0)

/-- The box position of offsets. -/
def boxPos (s : State) (c : Comm) (o : List Nat) : Coord :=
  let p (a : Nat) : Nat := (axisOf a c.lo + o.getD a 0) % torus s a
  mkCoord (p 0) (p 1) (p 2)

/-- The offsets of a coordinate in the box (09:R240). -/
def boxOffs (s : State) (c : Comm) (p : Coord) : List Nat :=
  [0, 1, 2].map fun a => (axisOf a p + torus s a - axisOf a c.lo % torus s a) % torus s a

/-- The job-local rank of a communicator rank (09:R240). -/
def jobRank (s : State) (c : Comm) (r : Nat) : Nat :=
  let o := rankOffs s c r
  c.base.toNat + o.getD 0 0 * c.sx.toNat + o.getD 1 0 * c.sy.toNat + o.getD 2 0 * c.sz.toNat
def jobRank18 (s : State) (c : Comm) (r : Nat) : BitVec 18 := BitVec.ofNat 18 (jobRank s c r)

/-- The coordinate that a member's rank translates to; a member whose coordinate is not its box position has been moved
(06:R168, 11:R305). -/
def memberAt (s : State) (c : Comm) (r : Nat) : Coord :=
  (translate s c.map.toNat (jobRank s c r)).getD (boxPos s c (rankOffs s c r))
def memberMoved (s : State) (c : Comm) (r : Nat) : Bool := memberAt s c r ≠ boxPos s c (rankOffs s c r)

/-- The communicator rank at a coordinate, moved members included. -/
def rankAt (s : State) (c : Comm) (p : Coord) : Option Nat :=
  (List.range (commSize s c)).find? fun r => memberAt s c r = p

/-- This node's communicator rank: that of its box position unless a RANKMAP_PATCH moved that rank away (06:R168), then the
rank that its coordinate holds now; and the offsets of that rank (09:R240). -/
def myRank (s : State) (c : Comm) : Nat :=
  let r := offsRank s c (boxOffs s c (myCoord s))
  if r < commSize s c && memberAt s c r = myCoord s then r else (rankAt s c (myCoord s)).getD r
def myOffs (s : State) (c : Comm) : List Nat := rankOffs s c (myRank s c)

/-- Offsets with axis `a` replaced; the box of the member line. -/
def lineOffs (o : List Nat) (a d : Nat) : List Nat := setAt a d o

/-- The signature of a block (09:R246). -/
def signature (block : Bytes) : W64 := (crc32c block.reverse ++ crc32c block : BitVec 64)

/-- The signature block of Table 9-2. -/
def sigBlock (handle seq key : W32) (codes : Bytes) (root : W32) (count extra : Nat) : Bytes :=
  slice 0 48 (bvBytes 4 handle ++ bvBytes 4 seq ++ bvBytes 4 key ++ slice 0 7 codes ++ [0] ++ bvBytes 4 root ++
    leBytes 8 count ++ leBytes 8 extra)

/-- SIGNATURE[15:0]. -/
def sig16 (sig : W64) : W16 := sig.setWidth 16

/-- Directions whose neighbour lies inside a box, other than this node itself (02:R41). -/
def boxDirs (s : State) (lo hi : Coord) : List Nat :=
  (List.range 6).filter fun d =>
    let n := neighbour s (myCoord s) d
    n ≠ myCoord s && inBox s lo hi n

/-- Sends a herald or an abort notice one hop, as a packet of its own (08 Table 8-5); while the engine sleeps the keeper
sends it as a HERALD frame, and only on ports that were UP when they entered LPI or SLEEP (02:R44, R45). -/
def sendHop (p : Packet) (s : State) (d : Nat) : State :=
  let q : Packet := { p with src := myCoord s, dest := neighbour s (myCoord s) d, mcast := false, epoch := s.ni.epoch
                             seq := 0, sync := false, prior := 0, mark := false, echo := false, rerouted := false }
  if asleep s then
    match sleepPort s d with
    | some i => kickFrames i (enqueueOut i 2 none q s)
    | none => s
  else inject (some (BitVec.ofNat 3 d)) q s

/-- Floods a herald or notice to every neighbour inside the box but its sender (02:R42), on every port that leads to one. -/
def flood (sender : Option Coord) (lo hi : Coord) (p : Packet) (s : State) : State :=
  ((boxDirs s lo hi).filter fun d => some (neighbour s (myCoord s) d) ≠ sender).foldl (sendHop p) s

/-- The herald filter holds a key; enters one, the newest 64 kept (02:R42). -/
def filterHas (s : State) (k : HeraldKey) : Bool := s.kp.filter.any fun f => f.key = k
def filterAdd (k : HeraldKey) (sig : W64) (emitter : Option (BitVec 18)) (src : Coord) (s : State) : State :=
  { s with kp := { s.kp with
      filter := ({ key := k, sig := sig, emitter := emitter, src := src } :: s.kp.filter).take Config.heraldFilterMax } }

/-- A herald of this node (08 Table 8-5): HTYPE, the two words, the signature field and HOLD. -/
def heraldPacket (s : State) (htype : Byte) (handle seq : W32) (sig : W64) (hold : W32) (lo hi : Coord) : Packet :=
  mkPacket 1 0 (myCoord s) 0 0
    (bvBytes 4 handle ++ bvBytes 4 seq ++ bvBytes 8 sig ++ [htype, 0, 0, 0] ++ bvBytes 4 hold ++
      leBytes 4 lo.toNat ++ leBytes 4 hi.toNat) 0

/-- The filter key of a herald or of an abort notice (02:R42, 11:R305); `none` for a reserved HTYPE. -/
def heraldKey (p : Packet) : Option HeraldKey :=
  let w (o : Nat) : W32 := BitVec.ofNat 32 (payField p o 4)
  if p.kind = 2 then some (.abort (w 0) (w 4))
  else match payField p 16 1 with
    | 0 => some (.collective (w 0) (w 4))
    | 1 => some (.prewarm (w 0) (w 8) (w 4))
    | _ => none

/-- The box that a herald or notice floods. -/
def heraldBox (p : Packet) : Coord × Coord :=
  (BitVec.ofNat 17 (payField p 24 4), BitVec.ofNat 17 (payField p 28 4))

/-- The hold that a herald's entry into the filter starts (02:R43, R46). -/
def heraldHold (k : HeraldKey) (p : Packet) (s : State) : State :=
  match k with
  | .collective h q => startHold (.herald h q) s.kp.acting.heraldHold.toNat s
  | .prewarm h _ _ => startHold (.prewarm h) (payField p 20 4) s
  | .abort _ _ => s

/-- A herald or notice that the filter does not hold: it enters, goes on inside the box, and wakes (02:R42, R43). -/
def takeHerald (k : HeraldKey) (p : Packet) (emitter : Option (BitVec 18)) (s : State) : State :=
  let b := heraldBox p
  let s1 := filterAdd k (BitVec.ofNat 64 (payField p 8 8)) emitter p.src s
  wakeSource 2 (heraldHold k p (flood (some p.src) b.1 b.2 p s1))

/-- A herald packet that reaches an engine that is awake (02:R42). -/
def receiveHerald (p : Packet) (emitter : Option (BitVec 18)) (s : State) : State :=
  match heraldKey p with
  | none => s
  | some k => if filterHas s k || !crcOk p then s else takeHerald k p emitter s

/-- HERALD (02:R42). -/
def execHerald (_port : BitVec 4) (p : Packet) (emitter : BitVec 18) (s : State) : Out :=
  live s (onlyIf (routerRuns s && p.kind = 1) (receiveHerald p (some emitter)))

/-- Operands of a bound collective's BODY (10 Table 10-1). A Rein command runs as the ALLREDUCE of SUM that its stages
and terms describe (14:R381, R396), with its own BODY beside it. -/
def Ctx.f (x : Ctx) (o n : Nat) : Nat := bodyOf x.body o n
def Ctx.collOp (x : Ctx) : Nat := x.f 4 1
def Ctx.redOp (x : Ctx) : Nat := x.f 5 1
def Ctx.mode (x : Ctx) : Nat := x.f 6 1
def Ctx.din (x : Ctx) : Nat := x.f 8 1
def Ctx.dout (x : Ctx) : Nat := x.f 9 1
def Ctx.cflags (x : Ctx) : Nat := x.f 11 1
def Ctx.root (x : Ctx) : Nat := x.f 12 4
def Ctx.addr (x : Ctx) (o : Nat) : W64 := BitVec.ofNat 64 (x.f o 8)
def Ctx.rowLen (x : Ctx) : Nat := x.f 56 4

/-- A Rein command, and fields of its own BODY (14 Tables 14-1 and 14-2). -/
def Ctx.isRein (x : Ctx) : Bool := x.opcode = 0x40 || x.opcode = 0x41
def Ctx.isRoute (x : Ctx) : Bool := x.opcode = 0x40
def Ctx.g (x : Ctx) (o n : Nat) : Nat := bodyOf x.rein o n
def Ctx.gaddr (x : Ctx) (o : Nat) : W64 := BitVec.ofNat 64 (x.g o 8)
def Ctx.hid (x : Ctx) : Nat := if x.isRoute then x.g 24 4 else x.g 20 4
def Ctx.rowType (x : Ctx) : Nat := x.g 7 1
def Ctx.selMode (x : Ctx) : Nat := x.g 9 1
def Ctx.experts (x : Ctx) : Nat := x.g 18 2
def Ctx.routeSlot (x : Ctx) : BitVec 6 := BitVec.ofNat 6 (if x.isRoute then x.g 14 1 else x.g 8 1)

/-- k: selections per token (14:R385). -/
def Ctx.selK (x : Ctx) : Nat := if x.selMode = 2 then 2 else 1

/-- Bytes of a normalized row. -/
def Ctx.rowBytes (x : Ctx) : Nat := x.hid * dtypeSize x.rowType

/-- Bytes of an element on input and output: ARG and LSE elements are records (12:R331, R336, Table 12-10). -/
def elemIn (red din rowLen : Nat) : Nat :=
  if red = 4 || red = 5 then 16 else if red = 9 then 8 + rowLen * dtypeSize din else dtypeSize din

/-- Input and output elements of a member (10 Table 10-2). -/
def inElems (op count n sends : Nat) : Nat :=
  match op with
  | 3 | 6 => count * n
  | 7 => sends
  | 8 => 0
  | _ => count
def outElems (op count n : Nat) : Nat :=
  match op with
  | 4 | 6 => count * n
  | 8 => 0
  | _ => count

/-- SIZE (09:R251). -/
def collSize (op red din dout rowLen count n sends : Nat) : Nat :=
  max (inElems op count n sends * elemIn red din rowLen) (outElems op count n * elemIn red dout rowLen)

/-- The sum of the send counts. -/
def Ctx.sends (x : Ctx) : Nat := x.scounts.foldl (fun n w => n + w.toNat) 0

/-- SIZE of a bound collective, and whether it is protected (09:R251). Of a Rein command, the partials or expert rows it
reads and the rows and tables it writes (log 33). -/
def ctxSize (x : Ctx) (n : Nat) : Nat :=
  if x.isRoute then
    max (x.count * dtypeSize x.din)
      (x.count * dtypeSize x.dout + x.tokens * x.selK * x.rowBytes + 32 + 16 * x.experts + 64)
  else if x.isRein then max (x.rows * x.hid * dtypeSize x.din) (x.count * dtypeSize x.dout)
  else collSize x.collOp x.redOp x.din x.dout x.rowLen x.count n x.sends
def ctxProtected (x : Ctx) (n : Nat) : Bool := x.mode = 2 || ctxSize x n ≤ 65536

/-- The output of a SCALAR_ALLREDUCE fits in RESULT (10:R267). -/
def scalarResult (x : Ctx) : Bool := x.collOp = 9 && x.count * elemIn x.redOp x.dout x.rowLen ≤ 8

/-- The member writes a destination: all but BARRIER, and of a REDUCE only ROOT (10 Table 10-2); a DST of 0 writes nothing
where RESULT holds the output (10:R267). -/
def writesDest (s : State) (c : Comm) (x : Ctx) : Bool :=
  x.collOp ≠ 8 && !(scalarResult x && x.addr 32 = 0) && (x.collOp ≠ 2 || myRank s c = x.root) && (x.collOp ≠ 5 || myRank s c ≠ x.root || x.addr 32 ≠ x.addr 24)

/-- Destination ranges of a collective, fused outputs included (12:R346), and of the Rein commands (14). -/
def destRanges (s : State) (c : Comm) (x : Ctx) : List (W64 × Nat) :=
  if !writesDest s c x then []
  else if x.isRoute then
    [(x.gaddr 48, x.count * dtypeSize x.dout), (x.gaddr 72, x.tokens * x.selK * x.rowBytes)] ++
    (if x.gaddr 104 = 0 then [] else [(x.gaddr 104, 16 * x.tokens)]) ++
    [(x.gaddr 80, 32 + 16 * x.experts), (x.gaddr 88, 64)]
  else
    let n := commSize s c
    let out := outElems x.collOp x.count n
    let rows := if x.redOp = 9 || x.rowLen = 0 then 0 else out / x.rowLen
    let kinds := b2n (natBit 1 x.cflags) + b2n (natBit 2 x.cflags || natBit 3 x.cflags)
    [(x.addr 32, out * elemIn x.redOp x.dout x.rowLen)] ++ (if kinds = 0 then [] else [(x.addr 48, 4 * rows * kinds)])

/-- The addresses that the member uses, with their lengths, in the order of the BODY (10:R261). -/
def collAddrs (s : State) (c : Comm) (x : Ctx) : List (W64 × Nat) :=
  let n := commSize s c
  let op := x.collOp
  let me := myRank s c
  let src := inElems op x.count n x.sends * elemIn x.redOp x.din x.rowLen
  let dst := outElems op x.count n * elemIn x.redOp x.dout x.rowLen
  let rows := if x.rowLen = 0 then 0 else outElems op x.count n / x.rowLen
  let kinds := b2n (natBit 1 x.cflags) + b2n (natBit 2 x.cflags || natBit 3 x.cflags)
  let rootOnly := op = 2 && me ≠ x.root
  (if op = 8 || (op = 5 && me ≠ x.root) then [] else [(x.addr 24, src)]) ++
  (if op = 8 || rootOnly || (scalarResult x && x.addr 32 = 0) then [] else [(x.addr 32, dst)]) ++
  (if natBit 0 x.cflags then [(x.addr 40, x.count * dtypeSize x.dout)] else []) ++
  (if kinds = 0 || rootOnly then [] else [(x.addr 48, 4 * rows * kinds)]) ++
  (if op = 7 then [(x.addr 64, 8 * n), (x.addr 72, 8 * n)] else [])

/-- Bytes of the gate set. -/
def gateBytes (x : Ctx) : Nat := x.hid * x.experts * dtypeSize (x.g 8 1)

/-- The addresses of a Rein command with their lengths, in the order of its BODY; RESIDUAL, SHAPE_SRC and MAP_DST may be
0 (14:R377). -/
def reinAddrs (x : Ctx) : List (W64 × Nat) :=
  let opt (a : W64) (n : Nat) : List (W64 × Nat) := if a = 0 then [] else [(a, n)]
  let outB := x.count * dtypeSize x.dout
  if x.isRoute then
    [(x.gaddr 32, x.count * dtypeSize x.din)] ++ opt (x.gaddr 40) outB ++
    [(x.gaddr 48, outB), (x.gaddr 56, x.hid * dtypeSize x.dout),
      (x.gaddr 64, if x.selMode = 3 then 8 + 8 * x.tokens else gateBytes x),
      (x.gaddr 72, x.tokens * x.selK * x.rowBytes), (x.gaddr 80, 32 + 16 * x.experts), (x.gaddr 88, 64)] ++
    opt (x.gaddr 96) 64 ++ opt (x.gaddr 104) (16 * x.tokens)
  else
    [(x.gaddr 24, x.rows * x.hid * dtypeSize x.din)] ++ opt (x.gaddr 32) outB ++ [(x.gaddr 40, outB)] ++ opt (x.gaddr 48) 64

/-- The addresses of a collective or Rein command with their lengths. -/
def ctxAddrs (s : State) (c : Comm) (x : Ctx) : List (W64 × Nat) := if x.isRein then reinAddrs x else collAddrs s c x

/-- An accelerator-space range that meets the offsets from `o` on. -/
def usesWindow (o len : Nat) (r : W64 × Nat) : Bool :=
  faSpace r.1 = 2 && decide (faOffset r.1 < o + len) && decide (o < faOffset r.1 + r.2)

/-- A command that has started on this node, and not completed, has addresses in a window (05:R138); so has a request that the NI
accepted before and has not served. -/
def windowInUse (s : State) (o len : Nat) : Bool :=
  (s.ctxs ++ (s.saved.filter fun y => !y.writing).map fun y => y.ctx).any (fun x => match findComm x.handle s with
    | none => false
    | some c => (ctxAddrs s c x).any (usesWindow o len)) ||
  (s.cmds.any fun c => match c.kind with
    | .put x => usesWindow o len (x.src, x.len) || (match x.signal with | some a => usesWindow o len (a, 8) | none => false)
    | .get x => usesWindow o len (x.dst, x.len)
    | _ => false) ||
  s.ni.serving.any fun p => p.kind ≠ 4 && usesWindow o len (BitVec.ofNat 64 (payField p 0 8), if p.kind = 7 then payField p 9 1 else payField p 8 4)

/-- The destination after a failure (09:R251, 10:R277, R280, 16:R469): unchanged where the collective is protected and
had no agreement, or where the status is MISMATCH and it is protected; an ALLTOALLV without agreement has written nothing
(10:R268); otherwise undefined. -/
def spoilDest (x : Ctx) (status : Byte) (s : State) : State :=
  match findComm x.handle s with
  | none => s
  | some c =>
    let prot := ctxProtected x (commSize s c)
    let keep := status ≠ stMemberLost && ((prot && (status = stMismatch || !x.agreed)) || (x.collOp = 7 && !x.agreed))
    if keep then s else (destRanges s c x).foldl (fun t r => localUndefined r.1 r.2 t) s

/-- The histogram bin of a lateness (09 Table 9-4). -/
def latenessBin (l : Nat) : Nat :=
  if l = 0 then 0 else if l < 4 then 1 else if l < 16 then 2 else if l < 64 then 3 else if l < 256 then 4
  else if l < 1024 then 5 else if l < 4096 then 6 else 7

/-- One completion counted in a statistics record (09:R255, 19:R538). -/
def lagCount (own : Bool) (rank : BitVec 18) (late seq : W32) (l : LagStats) : LagStats :=
  { completed := satInc l.completed, namedSelf := if own then satInc l.namedSelf else l.namedSelf
    lastRank := rank.setWidth 32, maxLate := if l.maxLate.toNat < late.toNat then late else l.maxLate
    bins := modAt satInc (latenessBin late.toNat) l.bins, lastSeq := seq }

/-- The 64 bytes of a statistics record (09 Table 9-5). -/
def statsBytes (handle : W32) (l : LagStats) : Bytes :=
  bvBytes 4 handle ++ bvBytes 4 l.lastSeq ++ bvBytes 4 l.completed ++ bvBytes 4 l.namedSelf ++ bvBytes 4 l.lastRank ++
  bvBytes 4 l.maxLate ++ l.bins.flatMap (bvBytes 4) ++ leBytes 8 0

/-- Counts a completion that names a laggard, and writes the record to STATS_ADDR (09:R255). -/
def countLaggard (x : Ctx) (s : State) : State :=
  match findComm x.handle s with
  | none => s
  | some c =>
    let own := x.lag.1 = jobRank18 s c (myRank s c)
    let l := lagCount own x.lag.1 x.lag.2 x.seq c.lag
    let s1 := modComm x.handle (fun c => { c with lag := l })
      { s with lag := lagCount own x.lag.1 x.lag.2 x.seq s.lag }
    if c.stats = 0 then s1 else busWrite c.stats.toNat (statsBytes x.handle l) s1

/-- A bound collective leaves its context: its threads and slots are freed, its herald's hold ends (02:R43), and what
the NI held for it goes. -/
def dropCtx (x : Ctx) (s : State) : State :=
  let gone (t : Thread) : Bool := t.ctx = x.idx
  let early (p : Packet) : Bool := (p.kind = 4 || p.kind = 2) && payField p 0 4 = x.handle.toNat && payField p 4 4 = x.seq.toNat
  let req (r : Req) : Bool := match r.owner with
    | .load t _ _ | .vload t _ | .source t | .store t => (s.threads.filter gone).any fun y => y.id = t
    | _ => false
  { s with
      ctxs := s.ctxs.filter fun y => y.idx ≠ x.idx
      threads := s.threads.filter fun t => !gone t
      slots := s.slots.filter fun b => !(s.threads.filter gone).any fun t =>
        t.id.lane.toNat = b.1 / 196608 && t.slotBase * 512 ≤ b.1 % 196608 &&
        b.1 % 196608 < (t.slotBase + t.slots) * 512
      ni := { s.ni with early := s.ni.early.filter fun e => !early e.2, reqs := s.ni.reqs.filter fun r => !req r }
      kp := { s.kp with holds := s.kp.holds.filter fun h => h.key ≠ .herald x.handle x.seq } }

/-- A collective of the handle is bound or saved here and has not posted its completion (05:R141, R142). A save record that is
still written does not count: its collective is bound, or has ended. -/
def drainBusy (s : State) (h : W32) : Bool :=
  s.ctxs.any (fun x => h = 0xFFFFFFFF || x.handle = h) ||
  s.saved.any fun y => (h = 0xFFFFFFFF || y.ctx.handle = h) && !y.writing

/-- New collectives of a communicator wait: it is drained (05:R142), or a COMM_DESTROY of it waits (05:R141). -/
def commHeld (s : State) (c : Comm) : Bool := c.drained || s.cmds.any fun x => x.kind = .commDestroy c.handle

/-- A marker round completes: the drains that wait for it end with OK (05:R142). -/
def roundOver (num : W32) (s : State) : State :=
  let s1 := { s with ni := { s.ni with rounds := s.ni.rounds.filter fun r => r.num ≠ num } }
  (s1.cmds.filter fun c => match c.kind with | .drain _ (some n) => n = num | _ => false).foldl
    (fun t c => endHeld c stOK 0 0 t) s1

/-- Starts a marker round stamped with an epoch (08:R227): one flagged DRAIN_MARKER to every node in the set, lost ones
left out (16:R469). The set holds every node that a stream packet has gone to since the last round that has completed: those of
the rounds that are open stay in it, and it starts anew with this round (log 22). -/
def startRound (epoch : Bool) (s : State) : W32 × State :=
  let n := s.ni.nextRound
  let num : W32 := n.setWidth 32
  let open_ := s.ni.rounds.flatMap fun r => r.all
  let dests := (s.ni.sentTo ++ open_).eraseDups.filter fun d => !s.ni.lost.contains d
  let round : Round := { num := num, epoch := epoch, dests := dests, all := dests }
  let s1 := { s with ni := { s.ni with nextRound := n + 1, sentTo := [], rounds := s.ni.rounds ++ [round] } }
  let tag : W32 := BitVec.ofNat 32 (b2n epoch * 2 + n.toNat * 4)
  let s2 := dests.foldl
    (fun t d => sendStream { mkPacket 0xE 0 (myCoord t) d tag [] 0 with flag := true, epoch := epoch } t) s1
  (num, if dests.isEmpty then { s2 with ni := { s2.ni with rounds := s2.ni.rounds.filter fun r => r.num ≠ num } } else s2)

/-- Drains whose collectives have all completed start their round, or end when no marker is due (05:R142). -/
def drainsKick (s : State) : State :=
  s.cmds.foldl
    (fun t c => match c.kind with
      | .drain h none =>
        if drainBusy t h then t
        else
          let r := startRound t.ni.epoch t
          if r.2.ni.rounds.any (fun x => x.num = r.1)
          then modCmd c.id (fun y => { y with kind := .drain h (some r.1) }) r.2
          else endHeld c stOK 0 0 r.2
      | _ => t) s

/-- WINDOW_UNMAP commands whose window no started command uses any more complete (05:R138), and windows removed from
lookup that nothing uses are gone. -/
def unmapKick (s : State) : State :=
  let open_ (t : State) (o len : Nat) : Bool := t.cmds.any fun c => c.kind = .windowUnmap o len
  let s1 := s.cmds.foldl
    (fun t c => match c.kind with
      | .windowUnmap o len => if windowInUse t o len then t else endHeld c stOK 0 0 t
      | _ => t) s
  { s1 with wins := s1.wins.filter fun w => !w.closing || open_ s1 w.offset w.len || windowInUse s1 w.offset w.len }

/-- COMM_DESTROY commands whose aborted collectives have posted their completions free the handle and complete (05:R141). -/
def destroyKick (s : State) : State :=
  s.cmds.foldl
    (fun t c => match c.kind with
      | .commDestroy h =>
        if drainBusy t h then t else endHeld c stOK 0 0 { t with comms := t.comms.filter fun x => x.handle ≠ h }
      | _ => t) s

/-- What waits for commands to end goes on: drains, window removals, COMM_DESTROY. -/
def drainKick (s : State) : State := destroyKick (unmapKick (drainsKick s))

/-- A shape record (14 Table 14-7). -/
def shapeRecord (x : Ctx) (status : Byte) (sflags : Nat) (sizes : List Nat) : Bytes :=
  let b := leBytes 4 0x44504853 ++ [status, BitVec.ofNat 8 x.selMode, BitVec.ofNat 8 x.selK, BitVec.ofNat 8 sflags] ++
    bvBytes 4 x.seq ++ slice 0 36 (sizes.flatMap (leBytes 4)) ++ bvBytes 8 (x.gaddr 72) ++ leBytes 4 0
  b ++ bvBytes 4 (crc32c b)

/-- The end of a ROUTE_DISPATCH with a status of 0x20 or above (14:R394): its route slot is empty, and a protected one
leaves a shape record that carries the status and zero sizes. -/
def routeFail (x : Ctx) (status : Byte) (s : State) : State :=
  if !x.isRoute || status.toNat < 0x20 then s
  else
    let s1 := { s with rein := { s.rein with slots := s.rein.slots.filter fun r => r.slot ≠ x.routeSlot } }
    let prot := match findComm x.handle s with | none => false | some c => ctxProtected x (commSize s c)
    if prot then localWrite (x.gaddr 88) (shapeRecord x status 0 []) s1 else s1

/-- The completion of a collective (04 Table 4-6; 09:R254): LAGGARD_VALID on the OK statuses when there is another
member; statistics, then what waited for the context. -/
def completeCtx (x : Ctx) (status : Byte) (result : W64) (valid : Bool) (s : State) : State :=
  let many := match findComm x.handle s with | none => false | some c => decide (1 < commSize s c)
  let lagOk := many && status.toNat < 4
  let c : Completion :=
    { tag := x.tag, status := status, flags := complFlags valid lagOk x.retried x.wasSaved, result := result
      lagRank := if lagOk then x.lag.1 else 0x3FFFF, lateness := if lagOk then x.lag.2 else 0, noIrq := x.noIrq }
  let s1 := postCompletion x.q.toNat c (routeFail x status (dropCtx x s))
  drainKick (if lagOk then countLaggard x s1 else s1)

/-- The completion of a collective that has its result: the OK status that applies (12:R332, 14:R393, 16:R459). -/
def completeOk (x : Ctx) (s : State) : State :=
  completeCtx x (okStatus x.overflow x.dropped x.degraded) x.result x.hasResult s

/-- The end of a collective that fails: the destination, then the completion with its RESULT layout. -/
def failCtx (x : Ctx) (status : Byte) (result : W64) (s : State) : State :=
  completeCtx x status result true (spoilDest x status s)

/-- RESULT of a notice (09:R249, 10:R269, R277, R280): the named rank, for MISMATCH both signatures, for an ALLTOALLV
overflow the sum in [63:24]. -/
def noticeResult (n : Notice) : W64 :=
  if n.cause = stMismatch then (n.detSig ++ n.namedSig ++ (0 : BitVec 14) ++ n.rank : BitVec 64)
  else BitVec.ofNat 64 (n.rank.toNat + (n.value.toNat % 2 ^ 40) * 2 ^ 24)

/-- How far a COLL_SEQ is ahead of the communicator's counter, in the cycle of 1 to 0xFFFFFFFF (09:R250). -/
def seqAhead (c seq : W32) : Nat := (seq.toNat + 0xFFFFFFFF - c.toNat) % 0xFFFFFFFF

/-- The counter's next value (09:R244, 02:R46). -/
def seqNext (w : W32) : W32 := if w = 0xFFFFFFFF then 1 else w + 1

/-- A saved context is marked for restore, with how it ends (10:R282, Edges). -/
def markSaved (h q : W32) (ending : Option (Byte × W64)) (s : State) : State :=
  let mark (y : Saved) : Saved := { y with marked := true, ending := if y.ending.isSome then y.ending else ending }
  { s with saved := updWhere (fun y => y.ctx.handle = h && y.ctx.seq = q) mark s.saved }

/-- What an abort notice does on a member (09:R249, R250; 11:R305). -/
def actNotice (h : W32) (n : Notice) (s : State) : State :=
  match findComm h s with
  | none => s
  | some c =>
    let d := seqAhead c.seq n.seq
    if 1 ≤ d && d < 2 ^ 31 then
      if c.notices.any (fun m => m.seq = n.seq) then s
      else modComm h (fun c => { c with notices := (n :: c.notices).take Config.noticeMax }) s
    else match findColl h n.seq s with
      | some x => failCtx x n.cause (noticeResult n) s
      | none => markSaved h n.seq (some (n.cause, noticeResult n)) s

/-- The CINCH packet of an abort notice (11 Tables 11-1 and 11-4). -/
def noticePacket (s : State) (c : Comm) (sig : W64) (n : Notice) : Packet :=
  mkPacket 2 0 (myCoord s) 0 0
    (bvBytes 4 c.handle ++ bvBytes 4 n.seq ++ bvBytes 2 (sig16 sig) ++ [0x33, 0, 0, 1, 40, 0] ++ leBytes 8 0 ++
      leBytes 4 c.lo.toNat ++ leBytes 4 c.hi.toNat ++ leBytes 4 n.rank.toNat ++ [n.cause, 0, 0, 0] ++
      bvBytes 2 n.namedSig ++ bvBytes 2 n.detSig ++ leBytes 4 0 ++ bvBytes 8 n.value ++ leBytes 8 0) 0

/-- The notice in an abort packet. -/
def noticeOf (p : Packet) : Notice :=
  { seq := BitVec.ofNat 32 (payField p 4 4), rank := BitVec.ofNat 18 (payField p 32 4)
    cause := BitVec.ofNat 8 (payField p 36 1), namedSig := BitVec.ofNat 16 (payField p 40 2)
    detSig := BitVec.ofNat 16 (payField p 42 2), value := BitVec.ofNat 64 (payField p 48 8) }

/-- Floods an abort notice of this node: to the neighbours inside the box, and as unicast copies to moved members; a
moved member sends copies to the members at the box neighbours of its own position (09:R249, 11:R305). -/
def raiseNotice (c : Comm) (sig : W64) (n : Notice) (s : State) : State :=
  let p := noticePacket s c sig n
  let s1 := filterAdd (.abort c.handle n.seq) 0 none (myCoord s) s
  let me := myRank s c
  let others := (List.range (commSize s c)).filter fun r => r ≠ me && memberMoved s c r
  let copy (t : State) (d : Coord) : State := sendRaw none { p with dest := d } t
  let s2 := others.foldl (fun t r => copy t (memberAt t c r)) s1
  if memberMoved s c me then
    ((List.range 6).map fun d => neighbour s (boxPos s c (myOffs s c)) d).foldl
      (fun t q => if q ≠ boxPos s c (myOffs s c) && inBox t c.lo c.hi q then copy t q else t) s2
  else flood none c.lo c.hi p s2

/-- A collective that this member aborts: the notice, then its own end with `status` and `result`. -/
def abortColl (x : Ctx) (cause : Byte) (rank : BitVec 18) (namedSig : W16) (value : W64) (status : Byte)
    (result : Option W64) (s : State) : State :=
  match findComm x.handle s with
  | none => s
  | some c =>
    let n : Notice := { seq := x.seq, rank := rank, cause := cause, namedSig := namedSig
                        detSig := if cause = stMismatch then sig16 x.sig else 0, value := value }
    failCtx x status (result.getD (noticeResult n)) (raiseNotice c x.sig n s)

/-- MISMATCH found on this member (09:R249). -/
def mismatch (x : Ctx) (rank : BitVec 18) (named : W16) (s : State) : State :=
  abortColl x stMismatch rank named 0 stMismatch none s

/-- CHECK_FAIL after the fourth failed copy (10:R277, 11:R304). -/
def checkFail (x : Ctx) (rank : BitVec 18) (s : State) : State := abortColl x stCheckFail rank 0 0 stCheckFail none s

/-- The named rank of this node on a context's communicator. -/
def ownJob (x : Ctx) (s : State) : BitVec 18 :=
  match findComm x.handle s with | none => 0x3FFFF | some c => jobRank18 s c (myRank s c)

/-- A thread fault (13:R360): notice ABORTED that names this member, completion INTERNAL. -/
def threadFault (x : Ctx) (result : W64) (s : State) : State :=
  abortColl x stAborted (ownJob x s) 0 0 stInternal (some result) s

/-- An abort notice packet that reaches an engine that is awake (11:R305); one whose check fails is discarded
(11:R304). -/
def receiveAbort (p : Packet) (s : State) : State :=
  match heraldKey p with
  | none => s
  | some k =>
    if filterHas s k || !crcOk p then s
    else actNotice (BitVec.ofNat 32 (payField p 0 4)) (noticeOf p) (takeHerald k p none s)

/-- The packet is an abort notice. -/
def isAbort (p : Packet) : Bool := p.kind = 2 && payField p 10 1 % 16 = 3

/-- ABORT_NOTICE (11:R305). -/
def execAbortNotice (_port : BitVec 4) (p : Packet) (s : State) : Out :=
  live s (onlyIf (routerRuns s && isAbort p) (receiveAbort p))

/-- How the herald buffer filled (02 Table 2-8). -/
def bufferState (port : BitVec 4) (p : Packet) (s : State) : BufferFull :=
  { state := s.kp.power, port := port, handle := BitVec.ofNat 32 (payField p 0 4), at_ := now s }

/-- HERALD_FRAME (02:R44, R45; 07:R194): in NAP or DEEP the keeper filters, forwards and stores, answers BUSY while its
buffer is full, and withholds CREDIT from the frame that fills it; an engine that is awake takes the frame as a packet. -/
def execHeraldFrame (port : BitVec 4) (p : Packet) (emitter : BitVec 18) (s : State) : Out :=
  let i := port.toNat
  live s (onlyIf (((getPort i s).st = .lpi || (getPort i s).st = .sleep) && (p.kind = 1 || isAbort p)) fun s =>
    if !asleep s then
      sendFrame i .credit (if p.kind = 1 then receiveHerald p (some emitter) s else receiveAbort p s)
    else if Config.heraldBufMax ≤ s.kp.buffer.length then
      sendFrame i .busy { s with kp := { s.kp with busySent := satInc s.kp.busySent } }
    else match heraldKey p with
      | none => sendFrame i .credit s
      | some k =>
        if filterHas s k then sendFrame i .credit s
        else
          let s1 := takeHerald k p (some emitter) s
          let s2 := { s1 with kp := { s1.kp with buffer := s1.kp.buffer ++ [(port, p)] } }
          if Config.heraldBufMax ≤ s2.kp.buffer.length
          then { s2 with kp := { s2.kp with fullAt := some (bufferState port p s2) } }
          else sendFrame i .credit s2)

/-- DETAIL of HERALD_BUFFER_FULL (02 Table 2-8). -/
def bufferDetail (f : BufferFull) (s : State) : Bytes :=
  [(pstateCode f.state).setWidth 8, f.port.setWidth 8, 0, 0] ++ bvBytes 4 f.handle ++
  leBytes 4 (now s - f.at_) ++ bvBytes 4 s.kp.busySent

/-- The Tree's read of the herald buffer after a wake (02:R44): notices act, credit returns on the ports whose frames it
was withheld from, and a buffer that was full is reported. -/
def readBuffer (s : State) : State :=
  let s1 := s.kp.buffer.foldl
    (fun t b => if isAbort b.2 then actNotice (BitVec.ofNat 32 (payField b.2 0 4)) (noticeOf b.2) t else t)
    { s with kp := { s.kp with buffer := [] } }
  match s.kp.fullAt with
  | none => s1
  | some f =>
    let s2 := raiseEvent 0x4000 0x0402 (detailOf (bufferDetail f s1)) s1
    let ports := portsWhere (fun p => p.st = .lpi || p.st = .sleep) s2
    ports.foldl (fun t i => sendFrame i .credit t) { s2 with kp := { s2.kp with fullAt := none, busySent := 0 } }

/-- Used bits of the COMM_CREATE BODY (09 Table 9-1). -/
def commFields : List (Nat × Nat) :=
  [(0, 32), (4, 8), (8, 32), (12, 32), (16, 32), (20, 32), (24, 32), (28, 32), (32, 64)]

/-- The communicator that a COMM_CREATE entry describes (09:R243, R256). -/
def commOf (e : Entry) : Comm :=
  let w (o : Nat) : W32 := BitVec.ofNat 32 (bodyField e o 4)
  { handle := w 0, map := BitVec.ofNat 4 (bodyField e 4 1), lo := BitVec.ofNat 17 (bodyField e 8 4)
    hi := BitVec.ofNat 17 (bodyField e 12 4), base := w 16, sx := w 20, sy := w 24, sz := w 28
    stats := BitVec.ofNat 64 (bodyField e 32 8), key := crc32c (leBytes 28 (bodyField e 4 28)), seq := 0, prewarms := 0
    drained := false, patched := false, notices := [], lag := LagStats.reset }

/-- A coordinate word lies inside TORUS_DIMS, with its reserved bits zero (05:R151). -/
def coordOk (s : State) (w : Nat) : Bool :=
  w < 2 ^ 17 && cx w < torus s 0 && cy w < torus s 1 && cz w < torus s 2

/-- Every member's job-local rank translates to its box position (09:R242). -/
def membersOk (s : State) (c : Comm) : Bool :=
  (List.range (commSize s c)).all fun r =>
    translate s c.map.toNat (jobRank s c r) = some (boxPos s c (rankOffs s c r))

/-- The checks of COMM_CREATE that give BAD_DESC (09:R242). -/
def commBad (s : State) (e : Entry) : Bool :=
  let c := commOf e
  c.handle = 0xFFFFFFFF || (findComm c.handle s).isSome || decide (15 < bodyField e 4 1) ||
  (s.maps.getD c.map.toNat none).isNone || !coordOk s (bodyField e 8 4) || !coordOk s (bodyField e 12 4) ||
  !coordOk s s.cfg.coord.toNat || !inBox s c.lo c.hi (myCoord s) || !membersOk s c || bodyField e 32 8 % 64 ≠ 0

/-- COMM_CREATE (09:R241 to R244). -/
def execCommCreate (q : BitVec 6) (e : Entry) (s : State) : Out :=
  live s (octozRow q e (entOpcode e = 0x09) commFields fun s =>
    if commBad s e then some (endEntry q e stBadDesc s)
    else if Config.commMax ≤ s.comms.length then some (endEntry q e stLimit s)
    else some (endResult q e ((commOf e).handle.setWidth 64) { s with comms := s.comms ++ [commOf e] }))

/-- A handle names a registered communicator that contains this node (06:R163). -/
def commHere (h : W32) (s : State) : Option Comm :=
  match findComm h s with
  | none => none
  | some c => if inBox s c.lo c.hi (myCoord s) then some c else none

end Sys2Proof.Machine
end

