-- ==== Sys2Proof/Machine/Reduce.lean ====
section
/-! DEFINITION. Machine/Reduce.lean: the reduction arithmetic (12) on partial values: inputs, combining, preload, output
conversion, wire forms of chunks (10:R273, 12:R323 to R325) and Cinch streams (11 Table 11-3), fused rows, LSE. -/

namespace Sys2Proof.Machine

/-- MAX or MIN; ARGMAX or ARGMIN; bitwise (10 Table 10-8). -/
def isMaxMin (red : Nat) : Bool := red = 2 || red = 3
def isArg (red : Nat) : Bool := red = 4 || red = 5
def isBitwise (red : Nat) : Bool := 6 ≤ red && red ≤ 8

/-- The value that a code of a type stands for; integers are exact. -/
def codeVal (dtype b : Nat) : FVal :=
  match fmtOf dtype with
  | some f => fdecode f b
  | none => ofMant (sext (8 * dtypeSize dtype) b) 0

/-- A float code as binary32, exactly (12:R316). -/
def widen32 (dtype b : Nat) : W32 := (f32of (codeVal dtype b)).1

/-- A LAC entry with one term (12:R321). -/
def lacTerm (v : FVal) : Val :=
  let r := lacAdd 0 lacNegZero v
  .lac r.1 r.2

/-- The partial value of one input element (12:R315, R316, R331): `b` are its bytes, `job` the member's job-local rank. -/
def valIn (red mode din : Nat) (job : W32) (b : Bytes) : Val :=
  let x := leNat (b.take (dtypeSize din))
  if isArg red then
    let v : W64 := if isFloatType din then (widen32 din x).setWidth 64
      else BitVec.ofNat 64 (twos 64 (sext (8 * dtypeSize din) x))
    .arg v job (BitVec.ofNat 32 (fieldAt 8 4 b)) false
  else if red = 1 || red = 9 then
    match mode with
    | 2 => lacTerm (codeVal din x)
    | 3 => .int (sext (8 * dtypeSize din) x) false
    | _ => .f32 (widen32 din x) false
  else .raw (BitVec.ofNat 64 x) false

/-- MAX and MIN of two codes (12:R330). -/
def maxMinCode (red din a b : Nat) : Nat :=
  match fmtOf din with
  | some f => (fencode f true (fmaxmin (red = 2) (fdecode f a) (fdecode f b))).1
  | none =>
    let w := 8 * dtypeSize din
    if red = 2 then (if sext w a < sext w b then b else a) else (if sext w b < sext w a then b else a)

/-- Value order of ARG candidates (12:R331): NaN first, then by number, reversed for ARGMIN. -/
def argAbove (red din : Nat) (a b : W64) : Bool :=
  if isFloatType din then
    let x := f32val (a.setWidth 32)
    let y := f32val (b.setWidth 32)
    match x, y with
    | .nan, .nan => false
    | .nan, _ => true
    | _, .nan => false
    | _, _ => if red = 4 then numLt y x else numLt x y
  else if red = 4 then b.slt a else a.slt b

/-- The better of two ARG records. -/
def argBest (red din : Nat) (a : W64 × W32 × W32) (b : W64 × W32 × W32) : W64 × W32 × W32 :=
  if argAbove red din a.1 b.1 then a
  else if argAbove red din b.1 a.1 then b
  else if a.2.1.toNat < b.2.1.toNat then a
  else if b.2.1.toNat < a.2.1.toNat then b
  else if a.2.2.toNat ≤ b.2.2.toNat then a else b

/-- The bitwise operations (12:R329). -/
def bitOp (red : Nat) (a b : W64) : W64 :=
  match red with
  | 6 => a &&& b
  | 7 => a ||| b
  | _ => a ^^^ b

/-- Combines a partial with a further term (12 Table 12-1). -/
def combine (red din : Nat) (a b : Val) : Val :=
  match a, b with
  | .lac x fx, .lac y fy => let r := lacMerge x fx y fy; .lac r.1 r.2
  | .f32 x ox, .f32 y oy => let r := fl32add x y; .f32 r.1 (ox || oy || r.2)
  | .int x ox, .int y oy => .int (x + y) (ox || oy)
  | .raw x ox, .raw y oy =>
    if isBitwise red then .raw (bitOp red x y) (ox || oy)
    else .raw (BitVec.ofNat 64 (maxMinCode red din x.toNat y.toNat)) (ox || oy)
  | .arg v r i x, .arg w q j y => let t := argBest red din (v, r, i) (w, q, j); .arg t.1 t.2.1 t.2.2 (x || y)
  | _, _ => a

/-- The left fold of terms in order (12 Table 12-2). -/
def foldVals (red din : Nat) : List Val → Option Val
  | [] => none
  | v :: r => some (r.foldl (combine red din) v)

/-- The overflow state of a partial (12:R332). -/
def valOvf : Val → Bool
  | .lac _ fl => fl.getLsbD 4
  | .f32 _ o => o
  | .int _ o => o
  | .raw _ o => o
  | .arg _ _ _ o => o

/-- A partial with its overflow state set by its chunk (12:R332). -/
def setOvf (o : Bool) (v : Val) : Val :=
  if !o then v
  else match v with
    | .lac a fl => .lac a (fl ||| 16)
    | .f32 b _ => .f32 b true
    | .int i _ => .int i true
    | .raw b _ => .raw b true
    | .arg a b c _ => .arg a b c true

/-- Adds the preload element, in DTYPE_OUT, on the final owner (12:R333). -/
def addPreload (dout p : Nat) (v : Val) : Val :=
  match v with
  | .lac a fl => let r := lacAdd a fl (codeVal dout p); .lac r.1 (r.2 ||| (fl &&& 16))
  | .f32 b o => let r := fl32add b (widen32 dout p); .f32 r.1 (o || r.2)
  | .int i o => .int (i + sext (8 * dtypeSize dout) p) o
  | w => w

/-- A value converted into DTYPE_OUT (12:R326 to R330); `sat` saturates finite overflow. -/
def convertTo (dout : Nat) (sat : Bool) (v : FVal) (o : Bool) : Val :=
  match fmtOf dout with
  | some f => let r := fencode f sat v; .raw (BitVec.ofNat 64 r.1) (o || r.2)
  | none => .raw 0 o

/-- An integer converted into DTYPE_OUT (12:R328). -/
def convertInt (dout : Nat) (i : Int) (o : Bool) : Val :=
  let r := satInt (dtypeSize dout) i
  .raw (BitVec.ofNat 64 (twos (8 * dtypeSize dout) r.1)) (o || r.2)

/-- Output conversion of a partial (12:R326). ARG records keep the widened value until they are written. -/
def valOut (red din dout : Nat) (sat : Bool) (v : Val) : Val :=
  match v with
  | .lac a fl => convertTo dout sat (lacVal a fl) (fl.getLsbD 4)
  | .f32 b o => convertTo dout sat (f32val b) o
  | .int i o => convertInt dout i o
  | .raw b o =>
    if isBitwise red then .raw b o
    else if isFloatType din then convertTo dout sat (codeVal din b.toNat) o
    else convertInt dout (sext (8 * dtypeSize din) b.toNat) o
  | .arg a b c o => .arg a b c o

/-- The bytes of an output element and its overflow state (10 Table 10-2, 12 Table 12-8). -/
def outBytes (din dout : Nat) (sat : Bool) (v : Val) : Bytes × Bool :=
  let z := dtypeSize dout
  match v with
  | .raw b o => (leBytes z b.toNat, o)
  | .arg a r i q =>
    let c := if isFloatType din then convertTo dout sat (f32val (a.setWidth 32)) q else convertInt dout a.toInt q
    match c with
    | .raw b o => (slice 0 8 (leBytes z b.toNat) ++ leBytes 4 (r.toNat % 2 ^ 18) ++ bvBytes 4 i, o)
    | _ => (leBytes 16 0, false)
  | _ => (leBytes z 0, false)

/-- Bytes of one element of a wire type (10 Table 10-5). -/
def wireSize (w : Nat) : Nat := if w = 0x10 || w = 0x11 then 16 else dtypeSize w

/-- The ARG record of form 0x04 (11 Table 11-3). -/
def argBytes (v : W64) (r i : W32) : Bytes := bvBytes 8 v ++ bvBytes 4 r ++ bvBytes 4 i

/-- One element on the wire, with the overflow state that INT64 saturation sets (12:R328). An escaped LP128 element is
zero here. -/
def wireBytes (w : Nat) (v : Val) : Bytes × Bool :=
  match v with
  | .lac a fl => ((toLp128 a fl).getD (leBytes 16 0), fl.getLsbD 4)
  | .f32 b o => (bvBytes 4 b, o)
  | .int i o => let r := satInt 8 i; (leBytes 8 (twos 64 r.1), o || r.2)
  | .raw b o => (leBytes (wireSize w) b.toNat, o)
  | .arg a r i o => (argBytes a r i, o)

/-- The escape of an element, if it needs one (12:R324). -/
def wireEscape (v : Val) : Option Bytes :=
  match v with
  | .lac a fl => match toLp128 a fl with | some _ => none | none => some (leBytes 80 a.toNat)
  | _ => none

/-- Bytes of the data of a chunk with `n` elements of which `e` are escapes (12:R324). -/
def chunkBytes (w n e : Nat) : Nat := n * wireSize w + (if e = 0 then 0 else 8 * ceilDiv n 64 + 80 * e)

/-- The longest prefix of elements that fits in 8,128 bytes (10:R274, 12:R324). -/
def takeFits (w : Nat) : List Val → Nat → Nat → Nat
  | [], n, _ => n
  | v :: r, n, e =>
    let e1 := e + b2n (wireEscape v).isSome
    if chunkBytes w (n + 1) e1 ≤ 8128 then takeFits w r (n + 1) e1 else n

/-- The bitmap words of the escaped elements. -/
def escapeMap (vs : List Val) : Bytes :=
  leBytes (8 * ceilDiv vs.length 64) (bitsNat (vs.map fun v => (wireEscape v).isSome))

/-- Data, ESCAPES and the overflow flag of a chunk of elements (12:R324, R332). -/
def packChunk (w : Nat) (vs : List Val) : Bytes × Bool × Bool :=
  let body := vs.flatMap fun v => (wireBytes w v).1
  let esc := vs.filterMap wireEscape
  let data := if esc.isEmpty then body else body ++ escapeMap vs ++ esc.flatMap fun b => b
  (data, !esc.isEmpty, vs.any fun v => (wireBytes w v).2)

/-- Cuts a segment's elements into chunks: offset, count, data, ESCAPES, overflow (10:R274). -/
def cutChunks (w : Nat) : Nat → Nat → List Val → List (Nat × Nat × Bytes × Bool × Bool)
  | 0, _, _ => []
  | f + 1, off, vs =>
    if vs.isEmpty then []
    else
      let k := max 1 (takeFits w vs 0 0)
      let d := packChunk w (vs.take k)
      (off, k, d.1, d.2.1, d.2.2) :: cutChunks w f (off + k) (vs.drop k)

/-- One element from the wire: an input (`raw`), a partial, or a result. `none` is an LP128 reject (12:R325). -/
def valOfWire (red mode din w : Nat) (job : W32) (stage : Nat) (b : Bytes) : Option Val :=
  if w = 0x10 then (ofLp128 b).map fun r => .lac r.1 r.2
  else if w = 0x11 then
    some (.arg (BitVec.ofNat 64 (fieldAt 0 8 b)) (BitVec.ofNat 32 (fieldAt 8 4 b)) (BitVec.ofNat 32 (fieldAt 12 4 b)) false)
  else if stage = 0 then some (valIn red mode din job b)
  else if stage = 1 && red = 1 then
    if mode = 3 then some (.int (sext 64 (leNat b)) false) else some (.f32 (BitVec.ofNat 32 (leNat b)) false)
  else some (.raw (BitVec.ofNat 64 (leNat b)) false)

/-- The elements of a chunk, by fuel; escapes replace the LP128 entries that the bitmap names (12:R324). -/
def unpackGo (red mode din w : Nat) (job : W32) (stage map : Nat) (data esc : Bytes) : Nat → Nat → Nat → Option (List Val)
  | 0, _, _ => some []
  | n + 1, i, e =>
    let v := if natBit i map then some (.lac (BitVec.ofNat 640 (leNat (slice (80 * e) 80 esc))) 0)
      else valOfWire red mode din w job stage (slice (wireSize w * i) (wireSize w) data)
    match v, unpackGo red mode din w job stage map data esc n (i + 1) (e + b2n (natBit i map)) with
    | some x, some r => some (x :: r)
    | _, _ => none

/-- The elements of an accepted chunk. -/
def unpackChunk (red mode din : Nat) (job : W32) (ch : Chunk) : Option (List Val) :=
  let w := ch.wire.toNat
  let stage := natBits 2 2 ch.phase.toNat
  let body := wireSize w * ch.count
  let esc := ch.cflags.getLsbD 2
  let words := if esc then 8 * ceilDiv ch.count 64 else 0
  let map := if esc then fieldAt body words ch.data else 0
  if ch.data.length < body + words + 80 * (bitList (BitVec.ofNat ch.count map)).countP id then none
  else (unpackGo red mode din w job stage map ch.data (ch.data.drop (body + words)) ch.count 0 0).map
    fun l => l.map (setOvf ch.ovf)

/-- The wire form of a Cinch collective (11 Tables 11-2 and 11-3). -/
def cinchWire (op red din : Nat) : Nat :=
  if op = 8 then 0
  else if op = 5 then 1
  else if isArg red then 4
  else if red = 1 then (if isFloatType din then 2 else 3)
  else 1

/-- The data stream of a partial (11 Table 11-3). -/
def cinchStream (wire : Nat) (din : Nat) (vs : List Val) : Bytes :=
  let one (v : Val) : Bytes := match v with
    | .lac a fl => (toLp128 a fl).getD (leBytes 80 a.toNat)
    | .int i _ => leBytes 16 (twos 128 i)
    | .raw b _ => leBytes (if wire = 5 then 8 else dtypeSize din) b.toNat
    | .arg a r i _ => argBytes a r i
    | .f32 b _ => bvBytes 4 b
  if wire = 0 then []
  else if wire = 2 then leBytes 8 (bitsNat (vs.map fun v => (wireEscape v).isSome)) ++ vs.flatMap one
  else vs.flatMap one

/-- The elements of a float SUM stream, by fuel. -/
def lpStream (map : Nat) : Nat → Nat → Bytes → Option (List Val)
  | 0, _, _ => some []
  | n + 1, i, b =>
    let k := if natBit i map then 80 else 16
    let v := if natBit i map then some (Val.lac (BitVec.ofNat 640 (leNat (slice 0 80 b))) 0)
      else (ofLp128 (slice 0 16 b)).map fun r => Val.lac r.1 r.2
    match v, lpStream map n (i + 1) (b.drop k) with
    | some x, some r => some (x :: r)
    | _, _ => none

/-- The elements of a stream (11 Table 11-3). -/
def cinchVals (wire count din : Nat) (b : Bytes) : Option (List Val) :=
  let at_ (z i : Nat) : Bytes := slice (z * i) z b
  match wire with
  | 0 => some []
  | 2 => lpStream (fieldAt 0 8 b) count 0 (b.drop 8)
  | 3 => some ((List.range count).map fun i => .int (sext 128 (leNat (at_ 16 i))) false)
  | 4 => some ((List.range count).map fun i =>
      .arg (BitVec.ofNat 64 (fieldAt (16 * i) 8 b)) (BitVec.ofNat 32 (fieldAt (16 * i + 8) 4 b))
        (BitVec.ofNat 32 (fieldAt (16 * i + 12) 4 b)) false)
  | 5 => some [.raw (BitVec.ofNat 64 (fieldAt 0 8 b)) false]
  | _ => some ((List.range count).map fun i => .raw (BitVec.ofNat 64 (leNat (at_ (dtypeSize din) i))) false)

/-- The contribution of a member to Cinch: exact in every MODE (11:R301). -/
def cinchIn (red din : Nat) (job : W32) (b : Bytes) : Val :=
  valIn red (if isFloatType din then 2 else 3) din job b

/-- One fused row (12:R335): the maximum and the exact sum or sum of squares, rounded once, with the overflow state. -/
def fuseMax (dout : Nat) (row : List Nat) : W32 :=
  match row with
  | [] => 0
  | b :: r => (f32of (r.foldl (fun a c => fmaxmin true a (codeVal dout c)) (codeVal dout b))).1
def fuseSum (dout : Nat) (square : Bool) (row : List Nat) : W32 × Bool :=
  let add (t : BitVec 640 × BitVec 5) (b : Nat) : BitVec 640 × BitVec 5 :=
    let v := codeVal dout b
    lacAdd t.1 t.2 (if square then fmul v v else v)
  let t := row.foldl add (0, lacNegZero)
  let r := fencode fp32 true (lacVal t.1 t.2)
  (BitVec.ofNat 32 r.1, r.2)

/-- The rows of `n` values each, by fuel. -/
def rowsOf (n : Nat) : Nat → List Nat → List (List Nat)
  | 0, _ => []
  | k + 1, l => if l.isEmpty then [] else l.take n :: rowsOf n k (l.drop n)

/-- The fused values of rows, binary32 with their overflow state (12 Table 12-9): the row maxima, and the row sums or sums of
squares, as CFLAGS asks for them. -/
def fusedRows (cflags dout : Nat) (rows : List (List Nat)) : List (List Val) :=
  (if natBit 1 cflags then [rows.map fun r => .raw ((fuseMax dout r).setWidth 64) false] else []) ++
  (if natBit 2 cflags || natBit 3 cflags
    then [rows.map fun r => let f := fuseSum dout (natBit 3 cflags) r; .raw (f.1.setWidth 64) f.2] else [])

/-- LSE weight of a record: e^(m - M), correctly rounded (12:R336). -/
def lseWeight (m top : W32) : W32 := fexpDiff (f32val m) (f32val top)

/-- One LSE term: the product of a value and its weight, exact or rounded (12:R336). -/
def lseTerm (mode : Nat) (w : W32) (v : W32) : Val :=
  if mode = 2 then lacTerm (fmul (f32val v) (f32val w))
  else let r := fl32mul v w; .f32 r.1 r.2

/-- The value of a partial sum. -/
def sumVal : Val → FVal
  | .lac a fl => lacVal a fl
  | .f32 b _ => f32val b
  | _ => .fin false 0 0

/-- The value is zero. -/
def isZeroVal : FVal → Bool
  | .fin _ m _ => m = 0
  | _ => false

/-- S of an LSE record as binary32 (12:R336, R337): +0 when M is minus infinity. -/
def lseSum (mode : Nat) (top : W32) (sv : Val) : Val :=
  if f32val top = .inf true then .raw 0 false
  else
    let r := fencode fp32 (mode = 2) (sumVal sv)
    .raw (BitVec.ofNat 64 r.1) (valOvf sv || r.2)

/-- O_k of an LSE record, as the binary32 code of its DTYPE_OUT value (12:R336, R337). -/
def lseOut (mode dout : Nat) (top : W32) (sv nv : Val) : Val :=
  let f := (fmtOf dout).getD fp32
  if f32val top = .inf true || isZeroVal (sumVal sv) then .raw 0 false
  else
    let r := if mode = 2 then fdivTo f true (sumVal nv) (sumVal sv)
      else
        let q := fdivTo fp32 false (sumVal nv) (sumVal sv)
        let t := fencode f false (f32val (BitVec.ofNat 32 q.1))
        (t.1, t.2 || q.2)
    .raw ((widen32 dout r.1).setWidth 64) (valOvf sv || valOvf nv || r.2)

/-- M makes the whole record NaN (12:R337). -/
def lseNan (top : W32) : Bool := f32val top = .nan || f32val top = .inf false

/-- The bytes of an LSE output record from M, S and the O_k (12 Table 12-10). -/
def lseRecord (dout : Nat) (top : W32) (sv : W32) (os : List W32) : Bytes :=
  let f := (fmtOf dout).getD fp32
  if lseNan top then leBytes 4 0x7FC00000 ++ leBytes 4 0x7FC00000 ++ os.flatMap fun _ => leBytes (dtypeSize dout) f.nan
  else bvBytes 4 top ++ bvBytes 4 sv ++ os.flatMap fun o => leBytes (dtypeSize dout) (fencode f true (f32val o)).1

end Sys2Proof.Machine
end

