-- ==== Sys2Proof/Machine/Plans.lean ====
section
/-! DEFINITION. Machine/Plans.lean: what an Octoz program sends and expects in each step of a collective (10 Algorithms,
R272, R273): segments, lines, rings, wire forms and phases. A range is (first element, length) in the operation's
vector. -/

namespace Sys2Proof.Machine

/-- Ranges of elements. -/
abbrev Ranges := List (Nat × Nat)

/-- RED_OP, DTYPE_IN of the values that a pass reduces: the maximum pass of LSE is MAX of binary32, its sum pass SUM
(12:R336). -/
def Ctx.eRed (x : Ctx) : Nat := if x.redOp = 9 then (if x.pass = 1 then 2 else 1) else x.redOp
def Ctx.eDin (x : Ctx) : Nat := if x.redOp = 9 then 3 else x.din
def Ctx.eDout (x : Ctx) : Nat := if x.redOp = 9 then 3 else x.dout

/-- The operation reduces. -/
def Ctx.reduces (x : Ctx) : Bool := 1 ≤ x.collOp && x.collOp ≤ 3

/-- Logical ring positions as offsets (10 AXIS_RING, 12:R339). -/
def ringOrder (s : State) (c : Comm) (a : Nat) : List Nat :=
  let e := ext s c a
  if e = torus s a then List.range e
  else ((List.range e).filter fun d => d % 2 = 0) ++ ((List.range e).filter fun d => d % 2 = 1).reverse

/-- The segment of offset `d` on an axis: `d`, or its ring position (10:R272, 12:R339). -/
def segOf (s : State) (c : Comm) (x : Ctx) (a d : Nat) : Nat :=
  if x.alg = 1 then (ringOrder s c a).findIdx fun y => y = d else d

/-- Segment `j` of `e` of a range (10:R272). -/
def splitRange (r : Nat × Nat) (e j : Nat) : Nat × Nat :=
  let a := j * r.2 / e
  (r.1 + a, (j + 1) * r.2 / e - a)

/-- Units per element of the current pass, and where the pass begins in the vector: the sum pass of LSE has a record of
1 + ROW_LEN sums after the COUNT maxima (log 24). A Rein command splits whole rows (14:R381). -/
def passScale (x : Ctx) (r : Nat × Nat) : Nat × Nat :=
  if x.isRein then (r.1 * x.hid, r.2 * x.hid)
  else if x.redOp = 9 && x.pass = 2 then (x.count + r.1 * (1 + x.rowLen), r.2 * (1 + x.rowLen)) else r

/-- The blocks of COUNT elements of the ranks that agree with offsets `o` on the axes of `on`. -/
def rankBlocks (s : State) (c : Comm) (x : Ctx) (o : List Nat) (on : List Nat) : Ranges :=
  ((List.range (commSize s c)).filter fun r => on.all fun a => (rankOffs s c r).getD a 0 = o.getD a 0).map
    fun r => (r * x.count, x.count)

/-- What the member at offsets `o` holds once axes 0 to `a` are reduced (10:R272): REDUCE_SCATTER uses the blocks of the
ranks instead of the computed split. -/
def reduceRanges (s : State) (c : Comm) (x : Ctx) (o : List Nat) (a : Nat) : Ranges :=
  if x.collOp = 3 then rankBlocks s c x o (List.range (a + 1))
  else [passScale x ((List.range (a + 1)).foldl
    (fun r i => splitRange r (ext s c i) (segOf s c x i (o.getD i 0))) (0, if x.isRein then x.tokens else x.count))]

/-- A raw code of a value. -/
def rawOf (v : Val) : Nat := match v with | .raw b _ => b.toNat | _ => 0

/-- A fused output is asked for (10 Table 10-1), and its values per row (12 Table 12-9). -/
def Ctx.fused (x : Ctx) : Bool := natBits 1 3 x.cflags ≠ 0
def Ctx.fuseKinds (x : Ctx) : Nat := b2n (natBit 1 x.cflags) + b2n (natBit 2 x.cflags || natBit 3 x.cflags)

/-- Elements of the operation's vector; the fused values lie behind it, kind by kind, one per row of the vector (log 54). -/
def vecLen (n : Nat) (x : Ctx) : Nat := if x.collOp = 3 then x.count * n else x.count
def fuseAt (n : Nat) (x : Ctx) (kind row : Nat) : Nat := vecLen n x + kind * (vecLen n x / x.rowLen) + row

/-- The fused values of the rows of a range. -/
def fuseRanges (n : Nat) (x : Ctx) (r : Nat × Nat) : Ranges :=
  if !x.fused then []
  else (List.range x.fuseKinds).map fun k => (fuseAt n x k (r.1 / x.rowLen), (r.1 + r.2) / x.rowLen - r.1 / x.rowLen)

/-- The elements of a segment with the fused values of its rows, which its owner computes (12:R335). -/
def withFused (n : Nat) (x : Ctx) (seg : List (Nat × Val)) : List (Nat × Val) :=
  if !x.fused then seg
  else
    let first := match seg with | [] => 0 | e :: _ => e.1 / x.rowLen
    let rows := rowsOf x.rowLen seg.length (seg.map fun e => rawOf e.2)
    seg ++ (fusedRows x.cflags x.dout rows).zipIdx.flatMap fun k =>
      k.1.zipIdx.map fun y => (fuseAt n x k.2 (first + y.2), y.1)

/-- The result elements that travel for ranges: of a ROUTE_DISPATCH the rounded rows, then the normalized rows (14:R381); with
a fused output the elements, then the fused values of their rows (12:R335). -/
def resultRanges (s : State) (c : Comm) (x : Ctx) (r : Ranges) : Ranges :=
  if x.isRoute then r ++ r.map fun y => (x.count + y.1, y.2) else r ++ r.flatMap (fuseRanges (commSize s c) x)

/-- What the member at offsets `o` sends along axis `a` when results return, or blocks are gathered. -/
def lineRanges (s : State) (c : Comm) (x : Ctx) (o : List Nat) (a : Nat) : Ranges :=
  if x.collOp = 4 then rankBlocks s c x o ((List.range 3).filter fun i => a ≤ i)
  else resultRanges s c x (reduceRanges s c x o a)

/-- Positions of a ring step: the offsets before and after this member, and the offset whose segment is `k` positions
behind it. -/
def ringAt (s : State) (c : Comm) (a back : Nat) : Nat :=
  let l := ringOrder s c a
  let k := l.findIdx fun y => y = (myOffs s c).getD a 0
  l.getD ((k + 2 * l.length - back % l.length) % l.length) 0
def ringNext (s : State) (c : Comm) (a : Nat) : Nat := ringAt s c a (ext s c a - 1)

/-- The communicator rank of the member of this member's line at offset `d` of axis `a`. -/
def lineRank (s : State) (c : Comm) (a d : Nat) : Nat := offsRank s c (lineOffs (myOffs s c) a d)

/-- The other offsets of this member's line. -/
def lineOthers (s : State) (c : Comm) (a : Nat) : List Nat :=
  (List.range (ext s c a)).filter fun d => d ≠ (myOffs s c).getD a 0

/-- On every axis after `a` this member has ROOT's offset, so a BROADCAST reaches its line of axis `a` (10 AXIS_TREE). -/
def onRelay (s : State) (c : Comm) (x : Ctx) (a : Nat) : Bool :=
  (List.range 3).all fun b => b ≤ a || (myOffs s c).getD b 0 = (rankOffs s c x.root).getD b 0

/-- Elements that this member sends to and takes from a rank in an ALLTOALL; offsets by log 25. -/
def blockTo (s : State) (c : Comm) (x : Ctx) (j : Nat) : Ranges :=
  let n := commSize s c
  if x.collOp = 6 then [((myRank s c * n + j) * x.count, x.count)] else [(0, (x.scounts.getD j 0).toNat)]
def countFrom (x : Ctx) (j : Nat) : Nat := ((x.counts.find? fun k => k.1.toNat = j).map fun k => k.2.toNat).getD 0
def blockFrom (s : State) (c : Comm) (x : Ctx) (j : Nat) : Ranges :=
  let n := commSize s c
  if x.collOp = 6 then [((j * n + myRank s c) * x.count, x.count)] else [(0, countFrom x j)]

/-- Every other communicator rank. -/
def otherRanks (s : State) (c : Comm) : List Nat := (List.range (commSize s c)).filter fun r => r ≠ myRank s c

/-- The unicast legs of a step: to whom, and which elements. -/
def outUni (s : State) (c : Comm) (x : Ctx) (p : PlanStep) : List (Nat × Ranges) :=
  let o := myOffs s c
  match p with
  | .reduce a _ => (lineOthers s c a).map fun d => (lineRank s c a d, reduceRanges s c x (lineOffs o a d) a)
  | .ringReduce a t =>
    [(lineRank s c a (ringNext s c a), reduceRanges s c x (lineOffs o a (ringAt s c a (1 + t))) a)]
  | .toRoot => if myRank s c = x.root then [] else [(x.root, lineRanges s c x o 2)]
  | .ringSpread a t =>
    [(lineRank s c a (ringNext s c a), lineRanges s c x (lineOffs o a (ringAt s c a t)) a)]
  | .counts => (otherRanks s c).map fun j => (j, [(myRank s c * commSize s c + j, 1)])
  | .exchange => (otherRanks s c).map fun j => (j, blockTo s c x j)
  | _ => []

/-- The axis multicast of a step. -/
def outLine (s : State) (c : Comm) (x : Ctx) (p : PlanStep) : Option (Nat × Ranges) :=
  let o := myOffs s c
  match p with
  | .spread a => some (a, lineRanges s c x o a)
  | .relay a =>
    if onRelay s c x a && o.getD a 0 = (rankOffs s c x.root).getD a 0 then some (a, [(0, x.count)]) else none
  | _ => none

/-- What this member expects in a step: from whom, and which elements. -/
def inFrom (s : State) (c : Comm) (x : Ctx) (p : PlanStep) : List (Nat × Ranges) :=
  let o := myOffs s c
  match p with
  | .reduce a _ => (lineOthers s c a).map fun d => (lineRank s c a d, reduceRanges s c x o a)
  | .ringReduce a t =>
    [(lineRank s c a (ringAt s c a 1), reduceRanges s c x (lineOffs o a (ringAt s c a (2 + t))) a)]
  | .toRoot =>
    if myRank s c = x.root then (otherRanks s c).map fun r => (r, lineRanges s c x (rankOffs s c r) 2) else []
  | .spread a => (lineOthers s c a).map fun d => (lineRank s c a d, lineRanges s c x (lineOffs o a d) a)
  | .ringSpread a t =>
    [(lineRank s c a (ringAt s c a 1), lineRanges s c x (lineOffs o a (ringAt s c a (1 + t))) a)]
  | .relay a =>
    let r := (rankOffs s c x.root).getD a 0
    if onRelay s c x a && o.getD a 0 ≠ r then [(lineRank s c a r, [(0, x.count)])] else []
  | .counts => (otherRanks s c).map fun j => (j, [(j * commSize s c + myRank s c, 1)])
  | .exchange => (otherRanks s c).map fun j => (j, blockFrom s c x j)
  | .convert => []
  | .lseSums => []

/-- Stage and axis of a step's chunks as PHASE (10 Table 10-5). -/
def stepPhase (x : Ctx) (p : PlanStep) : Byte :=
  let f (axis stage : Nat) : Byte := BitVec.ofNat 8 (axis + 4 * stage)
  let back := if x.reduces then 2 else 0
  match p with
  | .reduce a raw => f a (if raw then 0 else 1)
  | .ringReduce a _ => f a 1
  | .toRoot => f 3 2
  | .spread a => f a back
  | .ringSpread a _ => f a back
  | .relay a => f a 0
  | .counts => f 3 3
  | .exchange => f 3 0
  | .convert => f 3 0
  | .lseSums => f 3 0

/-- STEP of a step's chunks. -/
def stepNum (p : PlanStep) : Byte :=
  match p with
  | .ringReduce _ t | .ringSpread _ t => BitVec.ofNat 8 t
  | _ => 0

/-- WIRE_TYPE of a step's chunks (10:R273). LSE results travel as binary32 (log 24). -/
def stepWire (x : Ctx) (p : PlanStep) : Nat :=
  let partial_ := if isArg x.redOp then 0x11
    else if x.eRed = 1 then (match x.mode with | 2 => 0x10 | 3 => 0xA | _ => 3)
    else x.eDin
  let result := if !x.reduces then x.din else if isArg x.redOp then 0x11 else x.eDout
  match p with
  | .reduce _ raw => if raw && !isArg x.redOp then x.eDin else partial_
  | .ringReduce _ _ => partial_
  | .counts => 0xA
  | _ => result

/-- The element `i` of a list of indexed values. -/
def valAt (l : List (Nat × Val)) (i : Nat) : Val := ((l.find? fun e => e.1 = i).map fun e => e.2).getD (.raw 0 false)

/-- The elements of an ALLTOALLV's packed block of rank `j` begin here, in SRC and in DST (10:R268). -/
def sendBase (x : Ctx) (j : Nat) : Nat := (x.scounts.take j).foldl (fun n w => n + w.toNat) 0
def recvBase (x : Ctx) (j : Nat) : Nat := (List.range j).foldl (fun n r => n + countFrom x r) 0

/-- The values that a step sends to rank `j` for a range. Raw inputs go back to their code exactly (12:R316). -/
def legVals (x : Ctx) (p : PlanStep) (j : Nat) (r : Nat × Nat) : List Val :=
  (List.range r.2).map fun k =>
    match p with
    | .reduce _ raw =>
      let v := valAt x.held (r.1 + k)
      if raw && x.eRed = 1 then valOut 1 x.eDin x.eDin true v else v
    | .ringReduce _ _ => valAt x.held (r.1 + k)
    | .counts => .raw (x.scounts.getD j 0) false
    | .exchange => valAt x.held (if x.collOp = 6 then j * x.count + k else sendBase x j + k)
    | _ => valAt x.done (r.1 + k)

/-- The local range that the raw inputs of a chunk are read from; of a COMBINE_ALLREDUCE, the expert rows that its terms are
made of. -/
def srcRange (s : State) (c : Comm) (x : Ctx) (p : PlanStep) (j off n : Nat) : Option (W64 × Nat) :=
  let z := elemIn x.redOp x.din x.rowLen
  let i := if x.collOp = 6 then j * x.count + off % (max 1 x.count) else if x.collOp = 7 then sendBase x j + off else off
  let mine := myRank s c * x.count
  let lo := max off mine
  let hi := min (off + n) (mine + x.count)
  let part : Option (W64 × Nat) := if x.collOp = 4 && decide (lo < hi) then some (faAdd (x.addr 24) ((lo - mine) * z), (hi - lo) * z) else none
  match p with
  | .reduce _ false => if x.isRein then some (x.gaddr 24, x.rows * x.hid * dtypeSize x.din) else none
  | .relay _ => if myRank s c = x.root then some (faAdd (x.addr 24) (i * z), n * z) else none
  | .reduce _ true | .exchange => some (faAdd (x.addr 24) (i * z), n * z)
  | .spread _ | .ringSpread _ _ => part
  | _ => none

/-- The chunks of a leg; one whose source met an uncorrectable error carries POISON (08 Table 8-3). -/
def legChunks (s : State) (c : Comm) (x : Ctx) (p : PlanStep) (rcvs : List Nat) (mc : Option (BitVec 3 × Coord))
    (rs : Ranges) : List OutChunk :=
  let j := rcvs.headD 0
  let counts : Byte := match p with | .counts => 2 | _ => 0
  rs.flatMap fun r =>
    let w := if x.isRoute && x.count ≤ r.1 then x.rowType else if x.fused && vecLen (commSize s c) x ≤ r.1 then 3 else stepWire x p
    (cutChunks w (r.2 + 1) r.1 (legVals x p j r)).map fun k =>
    let from_ := srcRange s c x p j k.1 k.2.1
    { rcvs := rcvs.map (BitVec.ofNat 17), mcast := mc, phase := stepPhase x p, step := stepNum p
      cflags := counts ||| (if k.2.2.2.1 then 4 else 0), wire := BitVec.ofNat 8 w, count := k.2.1, off := k.1
      data := k.2.2.1, ovf := k.2.2.2.2, lag := x.lag, src := from_, leg := some p
      poison := (from_.map fun a => localPoison s a.1 a.2).getD false }

/-- How a line's members are reached by multicast (08:R221; 11:R300): the offsets on the + side and on the - side. A
closed line is split so that the longest path is floor(E / 2) (log 26). -/
def lineSides (s : State) (c : Comm) (a : Nat) : List Nat × List Nat :=
  let e := ext s c a
  let d := (myOffs s c).getD a 0
  if e = torus s a then
    let h := e / 2
    ((List.range h).map fun i => (d + i + 1) % e, (List.range (e - 1 - h)).map fun i => (d + e - i - 1) % e)
  else ((List.range (e - 1 - d)).map fun i => d + i + 1, (List.range d).map fun i => d - i - 1)

/-- The chunks of an axis multicast: one multicast in each direction to the members that have not moved, and unicast
copies to moved ones; a moved member sends unicast only (06:R168). -/
def lineChunks (s : State) (c : Comm) (x : Ctx) (p : PlanStep) (a : Nat) (rs : Ranges) : List OutChunk :=
  let sides := lineSides s c a
  let rank (d : Nat) : Nat := lineRank s c a d
  let me := memberMoved s c (myRank s c)
  let fixed (l : List Nat) : List Nat := if me then [] else l.filter fun d => !memberMoved s c (rank d)
  let side (l : List Nat) (dir : Nat) : List OutChunk :=
    match (fixed l).getLast? with
    | none => []
    | some d => legChunks s c x p ((fixed l).map rank) (some (BitVec.ofNat 3 dir, memberAt s c (rank d))) rs
  let uni := (sides.1 ++ sides.2).filter fun d => me || memberMoved s c (rank d)
  side sides.1 (2 * a) ++ side sides.2 (2 * a + 1) ++ uni.flatMap fun d => legChunks s c x p [rank d] none rs

/-- Every chunk that a step sends. -/
def stepChunks (s : State) (c : Comm) (x : Ctx) (p : PlanStep) : List OutChunk :=
  let line := match outLine s c x p with | none => [] | some (a, rs) => lineChunks s c x p a rs
  line ++ (outUni s c x p).flatMap fun l => legChunks s c x p [l.1] none l.2

/-- The axes that a collective crosses: extents above 1. -/
def planAxes (s : State) (c : Comm) : List Nat := [0, 1, 2].filter fun a => 1 < ext s c a

/-- The reduction steps, and the return of results (10 Algorithms). -/
def reduceSteps (s : State) (c : Comm) (alg : Byte) (raw : Bool) : List PlanStep :=
  if alg = 1 then (planAxes s c).flatMap fun a => (List.range (ext s c a - 1)).map fun t => .ringReduce a t
  else (planAxes s c).zipIdx.map fun y => .reduce y.1 (raw && y.2 = 0)
def returnSteps (s : State) (c : Comm) (alg : Byte) : List PlanStep :=
  if alg = 1 then (planAxes s c).reverse.flatMap fun a => (List.range (ext s c a - 1)).map fun t => .ringSpread a t
  else (planAxes s c).reverse.map fun a => .spread a

/-- The plan of a collective on an Octoz program. -/
def planOf (s : State) (c : Comm) (x : Ctx) : List PlanStep :=
  let r := reduceSteps s c x.alg (x.opcode ≠ 0x41)
  let b := returnSteps s c x.alg
  let back := if x.collOp = 1 then b else [.toRoot]
  if x.alg = 4 then []
  else match x.collOp with
    | 1 | 2 =>
      if x.redOp = 9 then r ++ [.convert] ++ b ++ [.lseSums] ++ reduceSteps s c x.alg false ++ [.convert] ++ back
      else r ++ [.convert] ++ back
    | 3 => r ++ [.convert]
    | 4 => if x.alg = 1 then (planAxes s c).flatMap fun a => (List.range (ext s c a - 1)).map fun t => .ringSpread a t
      else (planAxes s c).map fun a => .spread a
    | 5 => (planAxes s c).map fun a => .relay a
    | 6 => [.exchange]
    | 7 => [.counts, .exchange]
    | _ => []

/-- The ranks that send to this member in the steps that are left. -/
def planSenders (s : State) (c : Comm) (x : Ctx) : List Nat :=
  (x.plan.flatMap fun p => (inFrom s c x p).map fun l => l.1).eraseDups

end Sys2Proof.Machine
end

