-- ==== Sys2Proof/Machine/Routing.lean ====
section
/-! DEFINITION. Machine/Routing.lean: the arithmetic and the outputs of Rein (14): normalization, the gate, selection,
weights, the permuted rows, the group table, the route record and the local terms of COMBINE_ALLREDUCE. -/

namespace Sys2Proof.Machine

/-- The reciprocal root mean square of a row (14:R382): SS is rounded once, every further operation too. -/
def rowScale (dout h : Nat) (eps : W32) (row : List Nat) : W32 :=
  let ss := (fuseSum dout true row).1
  let hf := (f32of (ofMant (h : Int) 0)).1
  fl32div 0x3F800000 (fl32sqrt (fl32add (fl32div ss hf) eps).1)

/-- One normalized row in ROW_TYPE, with the overflow state of each element, set too where a product of finite values is an
infinity (14:R382; 12:R326). -/
def normRow (dout rowType h : Nat) (eps : W32) (sat : Bool) (g : List Nat) (row : List Nat) : List (Nat × Bool) :=
  let r := rowScale dout h eps row
  let f := (fmtOf rowType).getD bf16
  List.zipWith
    (fun x gg =>
      let a := fl32mul (widen32 dout x) r
      let b := fl32mul a.1 (widen32 dout gg)
      let y := fencode f sat (f32val b.1)
      (y.1, a.2 || b.2 || y.2)) row g

/-- The rounded rows of an owner, followed by their normalized rows (14:R381, R382). Other collectives keep their
elements. -/
def withRows (s : State) (x : Ctx) (seg : List (Nat × Val)) : List (Nat × Val) :=
  if !x.isRoute then seg
  else
    let h := x.hid
    let z := dtypeSize x.dout
    let bytes := localRead s (x.gaddr 56) (h * z)
    let g := (List.range h).map fun i => fieldAt (i * z) z bytes
    let rows := rowsOf h seg.length (seg.map fun e => rawOf e.2)
    let first := match seg with | [] => 0 | e :: _ => e.1
    let ys := rows.flatMap (normRow x.dout x.rowType h (BitVec.ofNat 32 (x.g 28 4)) (x.mode = 2) g)
    seg ++ ys.zipIdx.map fun y => (x.count + first + y.2, .raw (BitVec.ofNat 64 y.1.1) y.1.2)

/-- A left fold of rounded additions; an empty fold is +0 (12 Table 12-2). -/
def foldAdd : List W32 → W32
  | [] => 0
  | t :: r => r.foldl (fun a b => (fl32add a b).1) t

/-- A logit (14:R384, Table 14-4): the exact products in one fold, or in panels of 128. -/
def logitOf (array : Nat) (products : List W32) : W32 :=
  if array = 1 then foldAdd products
  else foldAdd ((List.range (ceilDiv products.length 128)).map fun p => foldAdd ((products.drop (128 * p)).take 128))

/-- ARRAY_MODE as resolved (14:R384). -/
def Ctx.array (x : Ctx) : Nat :=
  let m := natBits 2 2 (x.g 10 1)
  if m ≠ 0 then m else if x.tokens ≤ 1024 then 1 else 2

/-- The resident gate set that a command uses (14:R383). -/
def gateOf (s : State) (x : Ctx) : Bytes :=
  ((s.rein.gates.find? fun g => g.id.toNat = x.g 13 1).map fun g => g.data).getD []

/-- The normalized row of token `t`, as held by every member. -/
def normOf (x : Ctx) (t : Nat) : List Nat := (List.range x.hid).map fun i => rawOf (valAt x.done (x.count + t * x.hid + i))

/-- The logits of a token, one per expert (14:R384). -/
def logits (gate : Bytes) (x : Ctx) (t : Nat) : List W32 :=
  let gt := x.g 8 1
  let z := dtypeSize gt
  let y := (normOf x t).map (widen32 x.rowType)
  (List.range x.experts).map fun e =>
    logitOf x.array (y.zipIdx.map fun v => (fl32mul v.1 (widen32 gt (fieldAt ((v.2 * x.experts + e) * z) z gate))).1)

/-- A logit is not a number, or not finite. -/
def isNan (w : W32) : Bool := f32val w = .nan
def notFinite (w : W32) : Bool := match f32val w with | .fin _ _ _ => false | _ => true

/-- Logit `a` ranks above logit `b`: a NaN ranks below every number (14:R385). -/
def above (a b : W32) : Bool := if isNan a then false else isNan b || numLt (f32val b) (f32val a)

/-- Inserts an index into a list that is sorted by descending score, behind equal ones. -/
def insertBy (score : Nat → W32) (i : Nat) : List Nat → List Nat
  | [] => [i]
  | j :: r => if above (score i) (score j) then i :: j :: r else j :: insertBy score i r

/-- Indices `0 .. n - 1` by descending score, the lower index first among equals. -/
def rankBy (score : Nat → W32) (n : Nat) : List Nat := (List.range n).foldl (fun l i => insertBy score i l) []

/-- The keyed token hash (14:R385). -/
def tokenHash (key id : W64) : W64 :=
  let x0 := id ^^^ key
  let x1 := (x0 ^^^ (x0 >>> 31)) * 0xC3A56B1D8E27F4D9
  let x2 := (x1 ^^^ (x1 >>> 29)) * 0x5F1E92C7A3B46E0B
  x2 ^^^ (x2 >>> 32)

/-- The candidate list of a token (14:R385). -/
def candidates (s : State) (x : Ctx) (z : List W32) (t : Nat) : List Nat :=
  if x.selMode = 3 then
    let w (o : Nat) : W64 := BitVec.ofNat 64 (leNat (localRead s (faAdd (x.gaddr 64) o) 8))
    let h := (tokenHash (w 0) (w (8 + 8 * t))).toNat % x.experts
    (List.range x.experts).map fun i => (h + i) % x.experts
  else rankBy (fun e => z.getD e 0) x.experts

/-- C = ceil(CAP_FACTOR × T × k ÷ (256 × E)) (14:R386). -/
def Ctx.capacity (x : Ctx) : Nat := ceilDiv (x.g 16 2 * x.tokens * x.selK) (256 * x.experts)

/-- The order in which selections are placed (14:R387). -/
def placeOrder (x : Ctx) (zs : List (List W32)) (ls : List (List Nat)) : List (Nat × Nat) :=
  if natBit 0 (x.g 10 1) then
    (List.range x.selK).flatMap fun i =>
      (rankBy (fun t => (zs.getD t []).getD ((ls.getD t []).getD i 0) 0) x.tokens).map fun t => (t, i)
  else (List.range x.tokens).flatMap fun t => (List.range x.selK).map fun i => (t, i)

/-- What placing has decided: assignments per expert, each token's cursor, and the kept selections. -/
structure Placing where
  counts : List Nat
  cursors : List Nat
  kept : List ((Nat × Nat) × Nat)
deriving DecidableEq, Repr

/-- The tries of one selection, by fuel (14:R388): the cursor it ends with, and the expert that takes it. -/
def tryPlace (cap : Nat) (l counts : List Nat) : Nat → Nat → Nat × Option Nat
  | 0, p => (p, none)
  | f + 1, p =>
    match l[p]? with
    | none => (p, none)
    | some e => if counts.getD e 0 < cap then (p + 1, some e) else tryPlace cap l counts f (p + 1)

/-- Places one selection (14:R388). -/
def placeOne (x : Ctx) (ls : List (List Nat)) (w : Placing) (ti : Nat × Nat) : Placing :=
  let l := ls.getD ti.1 []
  let first := l.getD ti.2 0
  let take (w : Placing) (e : Nat) : Placing := { w with counts := modAt (fun n => n + 1) e w.counts, kept := (ti, e) :: w.kept }
  if w.counts.getD first 0 < x.capacity then take w first
  else
    let r := tryPlace x.capacity l w.counts (x.g 11 1) (w.cursors.getD ti.1 0)
    let w1 := { w with cursors := setAt ti.1 r.1 w.cursors }
    match r.2 with
    | none => w1
    | some e => take w1 e

/-- All selections of a batch (14:R385 to R388). -/
def placeAll (x : Ctx) (zs : List (List W32)) (ls : List (List Nat)) : Placing :=
  (placeOrder x zs ls).foldl (placeOne x ls)
    { counts := List.replicate x.experts 0, cursors := List.replicate x.tokens x.selK, kept := [] }

/-- The expert that keeps a selection. -/
def Placing.expert (w : Placing) (t i : Nat) : Option Nat := (w.kept.find? fun k => k.1 = (t, i)).map fun k => k.2

/-- The exact sum of weights. -/
def exactSum (l : List W32) : FVal :=
  let r := l.foldl (fun (a : BitVec 640 × BitVec 5) w => lacAdd a.1 a.2 (f32val w)) (0, lacNegZero)
  lacVal r.1 r.2

/-- The weight of kept selection `i` of a token (14:R390). The quotient of two zeros, which NORM_SELECTED can reach, is not stated: it is
free (log 10). -/
def weightOf (s : State) (x : Ctx) (w : Placing) (z : List W32) (t i e : Nat) : W32 :=
  if x.selMode = 3 then 0x3F800000
  else if z.any notFinite then 0
  else
    let top := z.getD ((rankBy (fun i => z.getD i 0) z.length).headD 0) 0
    let p (i : Nat) : W32 := fexpDiff (f32val (z.getD i 0)) (f32val top)
    let chosen := if natBit 1 (x.g 10 1) then (List.range x.selK).filterMap (w.expert t) else List.range x.experts
    let sum := exactSum (chosen.map p)
    if isZeroVal sum then BitVec.ofNat 32 (leNat ((List.range 4).map fun j => Config.freeByte (s.free + 8 * t + 4 * i + j)))
    else BitVec.ofNat 32 (fdivTo fp32 false (f32val (p e)) sum).1

/-- The permuted rows in order: expert ascending, then token, then selection (14:R391). -/
def permOrder (x : Ctx) (w : Placing) : List (Nat × Nat × Nat) :=
  (List.range x.experts).flatMap fun e => (List.range x.tokens).flatMap fun t =>
    (List.range x.selK).filterMap fun i => if w.expert t i = some e then some (e, t, i) else none

/-- The route record entry of a token (14 Table 14-8). -/
def routeEntry (s : State) (x : Ctx) (w : Placing) (rows : List (Nat × Nat × Nat)) (z : List W32) (t : Nat) : RouteEntry :=
  let row (i : Nat) : W32 := match w.expert t i with
    | none => 0xFFFFFFFF
    | some e => BitVec.ofNat 32 (rows.findIdx fun r => r = (e, t, i))
  let wt (i : Nat) : W32 := match w.expert t i with | none => 0 | some e => weightOf s x w z t i e
  { row0 := row 0, row1 := if x.selK = 2 then row 1 else 0xFFFFFFFF, w0 := wt 0, w1 := if x.selK = 2 then wt 1 else 0 }
def entryBytes (r : RouteEntry) : Bytes := bvBytes 4 r.row0 ++ bvBytes 4 r.row1 ++ bvBytes 4 r.w0 ++ bvBytes 4 r.w1

/-- BASE of a group: the bus address of its first row, or its fabric address outside accelerator space (14:R391). No window
translates the place behind the last row when it ends there: the value of an empty group is then free (log 10). -/
def groupBase (s : State) (x : Ctx) (e : Nat) (a : W64) : Nat :=
  if faSpace a = 2
  then (busAddr s (faOffset a)).getD (leNat ((List.range 8).map fun i => Config.freeByte (s.free + 8 * x.tokens + 8 * e + i)))
  else a.toNat

/-- The expert group table (14 Table 14-6). -/
def groupTable (s : State) (x : Ctx) (w : Placing) (total : Nat) : Bytes :=
  let first (e : Nat) : Nat := (w.counts.take e).foldl (fun a b => a + b) 0
  leBytes 4 0x50524745 ++ leBytes 4 x.experts ++ leBytes 4 total ++ leBytes 4 x.rowBytes ++ leBytes 4 x.capacity ++
  bvBytes 4 x.seq ++ leBytes 8 0 ++
  (List.range x.experts).flatMap fun e =>
    leBytes 4 (w.counts.getD e 0) ++ leBytes 4 (first e) ++ leBytes 8 (groupBase s x e (faAdd (x.gaddr 72) (first e * x.rowBytes)))

/-- The writes of a ROUTE_DISPATCH, in the order of 14:R393, its route slot, RESULT and status. -/
def routeWrite (x : Ctx) (s : State) : Ctx × State :=
  let gate := gateOf s x
  let zs := (List.range x.tokens).map fun t => if x.selMode = 3 then [] else logits gate x t
  let ls := (List.range x.tokens).map fun t => candidates s x (zs.getD t []) t
  let w := placeAll x zs ls
  let rows := permOrder x w
  let z := dtypeSize x.dout
  let zr := dtypeSize x.rowType
  let entries := (List.range x.tokens).map fun t => routeEntry s x w rows (zs.getD t []) t
  let lost := x.tokens * x.selK - w.kept.length
  let lostTok := ((List.range x.tokens).filter fun t => !w.kept.any fun k => k.1.1 = t).length
  let ovf := x.overflow || x.done.any fun e => valOvf e.2
  let nonfinite := zs.any fun l => l.any notFinite
  let status := okStatus ovf (lost ≠ 0) x.degraded
  let rec_ : RouteRec := { slot := x.routeSlot, tokens := x.tokens, totalRows := rows.length, hidden := x.hid, entries := entries }
  let shape := shapeRecord x status (b2n ovf + 2 * b2n nonfinite)
    [x.tokens, x.experts, x.hid, x.capacity, rows.length, lost, lostTok, w.counts.foldl max 0, x.rowBytes]
  let s1 := localWrite (x.gaddr 48) ((List.range x.count).flatMap fun i => leBytes z (rawOf (valAt x.done i))) s
  let s2 := localWrite (x.gaddr 72) (rows.flatMap fun r => (normOf x r.2.1).flatMap (leBytes zr)) s1
  let s3 := if x.gaddr 104 = 0 then s2 else localWrite (x.gaddr 104) (entries.flatMap entryBytes) s2
  let s4 := localWrite (x.gaddr 80) (groupTable s x w rows.length) s3
  let s5 := localWrite (x.gaddr 88) shape s4
  let s6 := bumpFree (8 * (x.tokens + x.experts))
    { s5 with rein := { s5.rein with slots := rec_ :: s5.rein.slots.filter fun r => r.slot ≠ x.routeSlot } }
  ({ x with overflow := ovf, dropped := x.dropped || lost ≠ 0, hasResult := true
            result := BitVec.ofNat 64 (lost + lostTok * 2 ^ 32) }, s6)

/-- The local term of one element of a COMBINE_ALLREDUCE (14:R396). -/
def combineTerm (mode din : Nat) (r : RouteEntry) (o0 o1 : Nat) : Val :=
  if mode = 2 then
    let a0 : BitVec 640 × BitVec 5 := if r.row0 ≠ 0xFFFFFFFF then lacAdd 0 lacNegZero (fmul (f32val r.w0) (codeVal din o0)) else (0, lacNegZero)
    let a1 := if r.row1 ≠ 0xFFFFFFFF then lacAdd a0.1 a0.2 (fmul (f32val r.w1) (codeVal din o1)) else a0
    .lac a1.1 a1.2
  else
    let p0 := fl32mul r.w0 (widen32 din o0)
    let p1 := fl32mul r.w1 (widen32 din o1)
    if r.row0 ≠ 0xFFFFFFFF then
      if r.row1 ≠ 0xFFFFFFFF then
        let q := fl32add p0.1 p1.1
        .f32 q.1 (p0.2 || p1.2 || q.2)
      else .f32 p0.1 p0.2
    else if r.row1 ≠ 0xFFFFFFFF then .f32 p1.1 p1.2
    else .f32 0 false

/-- The local terms of a COMBINE_ALLREDUCE from its expert rows and route record. -/
def combineVals (s : State) (x : Ctx) : List Val :=
  let entries := ((s.rein.slots.find? fun r => r.slot = x.routeSlot).map fun r => r.entries).getD []
  let z := dtypeSize x.din
  let elem (row : W32) (h : Nat) : Nat := leNat (localRead s (faAdd (x.gaddr 24) ((row.toNat * x.hid + h) * z)) z)
  entries.flatMap fun r => (List.range x.hid).map fun h =>
    combineTerm x.mode x.din r (if r.row0 = 0xFFFFFFFF then 0 else elem r.row0 h) (if r.row1 = 0xFFFFFFFF then 0 else elem r.row1 h)

end Sys2Proof.Machine
end

