-- ==== Sys2Proof/Machine/Collectives.lean ====
section
/-! DEFINITION. Machine/Collectives.lean: the running of a collective on an Octoz program (10): grants and chunks (R274 to
R279, 16:R460 to R462), the steps of its plan, laggard pairs (09:R253, R254), and the write of its result. -/

namespace Sys2Proof.Machine

/-- Stores a bound context. -/
def putCtx (x : Ctx) (s : State) : State := modCtx x.idx (fun _ => x) s

/-- A count by rank. -/
def countOf (l : List (BitVec 17 × Nat)) (r : BitVec 17) : Nat := ((l.find? fun g => g.1 = r).map fun g => g.2).getD 0
def addCount (r : BitVec 17) (n : Nat) (l : List (BitVec 17 × Nat)) : List (BitVec 17 × Nat) :=
  (r, countOf l r + n) :: l.filter fun g => g.1 ≠ r

/-- Chunks sent to a rank, what its grant still allows, and how many it has not confirmed: the first four grants are the
initial ones, every later one confirms a chunk (10:R275, R276; log 27). -/
def sentCount (x : Ctx) (r : BitVec 17) : Nat := (x.sent.filter fun k => k.rcvs.contains r).length
def allowance (x : Ctx) (r : BitVec 17) : Nat := countOf x.grants r - sentCount x r
def unconfirmed (x : Ctx) (r : BitVec 17) : Nat := sentCount x r - (countOf x.grants r - Config.grantFirst)

/-- No chunk of this member waits, or waits for its confirmation (16:R462). -/
def allConfirmed (x : Ctx) : Bool :=
  x.outq.isEmpty && x.sent.all fun k => k.rcvs.all fun r => unconfirmed x r = 0

/-- The chunk header (10 Table 10-5). -/
def chunkHeader (x : Ctx) (me : Nat) (phase step cflags wire : Byte) (lag : BitVec 18 × W32) (count off : Nat) : Bytes :=
  slice 0 64 (bvBytes 4 x.handle ++ bvBytes 4 x.seq ++ bvBytes 2 (sig16 x.sig) ++ [phase, step, cflags, wire, 0, 0] ++
    leBytes 4 me ++ leBytes 4 lag.1.toNat ++ bvBytes 4 lag.2 ++ leBytes 4 count ++ leBytes 8 off)

/-- A CHUNK packet of this member to a node. -/
def chunkPacket (s : State) (c : Comm) (x : Ctx) (k : OutChunk) (dest : Coord) : Packet :=
  mkPacket 4 c.map (myCoord s) dest 0
    (chunkHeader x (myRank s c) k.phase k.step k.cflags k.wire k.lag k.count k.off ++ k.data)
    (BitVec.ofNat 8 (b2n k.ovf + 2 * b2n k.poison))

/-- Sends a chunk: by its axis multicast, or in the stream to its receiver (08:R215, R221). -/
def sendChunk (c : Comm) (x : Ctx) (k : OutChunk) (s : State) : State :=
  match k.mcast with
  | some (d, far) => sendRaw (some d) { chunkPacket s c x k far with mcast := true } s
  | none => sendStream (chunkPacket s c x k (memberAt s c (k.rcvs.headD 0).toNat)) s

/-- The stream that carries a chunk has room; a multicast belongs to none (08:R215). -/
def chunkRoom (s : State) (c : Comm) (k : OutChunk) : Bool :=
  k.mcast.isSome || txRoom s (memberAt s c (k.rcvs.headD 0).toNat)

/-- Sends every waiting chunk that the grants of all its receivers cover and whose stream has room, in order to each receiver
(10:R275, 08:R215); `held` are the receivers that an earlier chunk waits for. -/
def pumpGo (c : Comm) : List (BitVec 17) → List OutChunk → Ctx → State → Ctx × State
  | _, [], x, s => (x, s)
  | held, k :: r, x, s =>
    if (k.rcvs.all fun j => 0 < allowance x j && !held.contains j) && chunkRoom s c k then
      pumpGo c held r { x with sent := x.sent ++ [k] } (sendChunk c x k s)
    else
      let u := pumpGo c (held ++ k.rcvs) r x s
      ({ u.1 with outq := k :: u.1.outq }, u.2)

/-- Sends what the grants cover. -/
def pumpChunks (c : Comm) (x : Ctx) (s : State) : State :=
  let u := pumpGo c [] x.outq { x with outq := [] } s
  putCtx u.1 u.2

/-- Every collective sends what it can: a stream has room again (08:R215). -/
def pumpColls (s : State) : State :=
  s.ctxs.foldl
    (fun t y => match findCtx y.idx t with
      | none => t
      | some x => match findComm x.handle t with
        | none => t
        | some c => if x.outq.isEmpty then t else pumpChunks c x t) s

/-- A grant packet (10:R275). -/
def sendGrant (c : Comm) (x : Ctx) (rcv : Nat) (n : Nat) (s : State) : State :=
  sendStream (mkPacket 4 c.map (myCoord s) (memberAt s c rcv) 0
    (chunkHeader x (myRank s c) 0xF 0 1 0 (0x3FFFF, 0) n 0) 0) s

/-- Grants owed to a sender: four at start and one per confirmed chunk, while ejection space has room
(10:R275, R276; 08:R210). -/
def grantTo (c : Comm) (i : BitVec 9) (s : State) (r : Nat) : State :=
  match findCtx i s with
  | none => s
  | some x =>
    let k : BitVec 17 := BitVec.ofNat 17 r
    let owed := Config.grantFirst + countOf x.conf k - countOf x.given k
    let n := min owed ((Config.ejectMax - ejectHeld s) / 8256)
    if n = 0 then s else sendGrant c x r n (putCtx { x with given := addCount k n x.given } s)

/-- The members that this member grants: the senders of its plan and those that have been granted before; the threads of a loaded
program may be sent to by any member (10:R275). -/
def granted (s : State) (c : Comm) (x : Ctx) : List Nat :=
  if x.serving.isSome then otherRanks s c else (planSenders s c x ++ x.given.map fun g => g.1.toNat).eraseDups

/-- Sends the grants that are owed. -/
def grantAll (c : Comm) (x : Ctx) (s : State) : State := (granted s c x).foldl (grantTo c x.idx) s

/-- Grants that waited for ejection space go as soon as it has room (10:R275). -/
def grantKick (s : State) : State :=
  s.ctxs.foldl
    (fun t y => match findCtx y.idx t with
      | none => t
      | some x => match findComm x.handle t with
        | none => t
        | some c => if x.alg = 4 || x.finished then t else grantAll c x t) s

/-- A chunk of a sender, phase, step and offset that this member holds. -/
def chunkAt (x : Ctx) (r : Nat) (phase step : Byte) (off : Nat) : Option Chunk :=
  x.chunks.find? fun k => k.sender.toNat = r && k.phase = phase && k.step = step && k.off = off

/-- The chunks that cover a range, from its first element on, by fuel; `none` while one is missing. -/
def coverGo (x : Ctx) (r : Nat) (phase step : Byte) : Nat → Nat → Nat → Option (List Chunk)
  | 0, _, _ => none
  | f + 1, off, n =>
    if n = 0 then some []
    else match chunkAt x r phase step off with
      | none => none
      | some k => if k.count = 0 || n < k.count then none
        else (coverGo x r phase step f (off + k.count) (n - k.count)).map fun l => k :: l

/-- The elements that a leg has delivered; `none` while it is incomplete. -/
def legData (s : State) (c : Comm) (x : Ctx) (p : PlanStep) (l : Nat × Ranges) : Option (List (Nat × Val)) :=
  l.2.foldl
    (fun acc r => match acc, coverGo x l.1 (stepPhase x p) (stepNum p) (r.2 + 1) r.1 r.2 with
      | some done, some ks =>
        some (done ++ ks.flatMap fun k =>
          ((unpackChunk x.eRed x.mode x.eDin (BitVec.ofNat 32 (jobRank s c l.1)) k).getD []).zipIdx.map
            fun y => (k.off + y.2, y.1))
      | _, _ => none) (some [])

/-- All legs of a step, by sender. -/
def stepData (s : State) (c : Comm) (x : Ctx) (p : PlanStep) : Option (List (Nat × List (Nat × Val))) :=
  (inFrom s c x p).foldl
    (fun acc l => match acc, legData s c x p l with
      | some done, some d => some (done ++ [(l.1, d)])
      | _, _ => none) (some [])

/-- One input of a combine point: corrected arrival and laggard pair (09:R253). -/
structure LagIn where
  l : Int
  pair : BitVec 18 × W32
deriving DecidableEq, Repr

/-- The output pair of a combine point (09:R253). -/
def lagOut (ins : List LagIn) (own : BitVec 18 × W32) : BitVec 18 × W32 :=
  match ins with
  | [] => own
  | i :: r =>
    let top := r.foldl (fun a b => if a.l < b.l || (a.l = b.l && b.pair.1.toNat < a.pair.1.toNat) then b else a) i
    let low := r.foldl (fun m b => min m (b.l - (b.pair.2.toNat : Int))) (i.l - (i.pair.2.toNat : Int))
    (top.pair.1, BitVec.ofNat 32 (min (top.l - low).toNat 0xFFFFFFFF))

/-- The pair with the greater lateness, the lower rank on a tie (09:R254). -/
def lagMax (a b : BitVec 18 × W32) : BitVec 18 × W32 :=
  if a.2.toNat < b.2.toNat || (a.2 = b.2 && b.1.toNat < a.1.toNat) then b else a

/-- The first chunk of each sender in a step. -/
def stepLags (s : State) (c : Comm) (x : Ctx) (p : PlanStep) : List LagIn :=
  (inFrom s c x p).filterMap fun l =>
    (x.chunks.find? fun k => k.sender.toNat = l.1 && k.phase = stepPhase x p && k.step = stepNum p).map
      fun k => { l := k.tick, pair := (k.lagRank, k.lateness) }

/-- The laggard pair after a step: results bring the greatest, other data are combined. -/
def stepLag (s : State) (c : Comm) (x : Ctx) (p : PlanStep) : Ctx :=
  let ins := stepLags s c x p
  if ins.isEmpty then x
  else if natBits 2 2 (stepPhase x p).toNat = 2 then { x with lag := ins.foldl (fun a i => lagMax a i.pair) x.lag }
  else { x with lag := lagOut ({ l := x.lagAt, pair := x.lag } :: ins) x.lag, lagAt := now s }

/-- Indices of ranges. -/
def indices (rs : Ranges) : List Nat := rs.flatMap fun r => (List.range r.2).map fun k => r.1 + k

/-- The values of the own segment after an axis (12 Table 12-2, DIRECT_AXIS): a left fold over the offsets. -/
def foldAxis (s : State) (c : Comm) (x : Ctx) (a : Nat) (data : List (Nat × List (Nat × Val))) : List (Nat × Val) :=
  let me := (myOffs s c).getD a 0
  (indices (reduceRanges s c x (myOffs s c) a)).filterMap fun i =>
    let terms := (List.range (ext s c a)).map fun d =>
      if d = me then valAt x.held i
      else valAt (((data.find? fun y => y.1 = lineRank s c a d).map fun y => y.2).getD []) i
    (foldVals x.eRed x.eDin terms).map fun v => (i, v)

/-- One ring step (12 Table 12-2, AXIS_RING): the partial received, then this member's term. -/
def foldRing (x : Ctx) (data : List (Nat × List (Nat × Val))) : List (Nat × Val) :=
  let got := data.flatMap fun y => y.2
  got.map (fun e => (e.1, combine x.eRed x.eDin e.2 (valAt x.held e.1))) ++
    x.held.filter fun e => !got.any fun g => g.1 = e.1

/-- Finite overflow saturates in this collective (12:R326). -/
def ctxSat (x : Ctx) : Bool := x.mode = 2 || x.alg = 4

/-- The preload element of index `i` of the vector, at the final owner (10:R266, 12:R333). -/
def preloadAt (s : State) (c : Comm) (x : Ctx) (i : Nat) : Nat :=
  let k := if x.collOp = 3 then i - myRank s c * x.count else i
  let z := dtypeSize x.dout
  leNat (localRead s (faAdd (x.addr 40) (k * z)) z)

/-- Output values of the own final segment (12:R326, R333, R336). -/
def convertSeg (s : State) (c : Comm) (x : Ctx) : List (Nat × Val) :=
  let ids := indices (reduceRanges s c x (myOffs s c) 2)
  if x.redOp = 9 && x.pass = 2 then
    let w := 1 + x.rowLen
    ids.map fun i =>
      let rec_ := (i - x.count) / w
      let top : W32 := match valAt x.done rec_ with | .raw b _ => b.setWidth 32 | _ => 0
      let sv := valAt x.held (x.count + rec_ * w)
      (i, if (i - x.count) % w = 0 then lseSum x.mode top sv else lseOut x.mode x.dout top sv (valAt x.held i))
  else
    ids.map fun i =>
      let v := valAt x.held i
      let u := if natBit 0 x.cflags then addPreload x.dout (preloadAt s c x i) v else v
      (i, valOut x.eRed x.eDin x.eDout (ctxSat x) u)

/-- The terms of the sum pass of LSE (12:R336), from this member's records and M. -/
def lseTerms (s : State) (x : Ctx) : List (Nat × Val) :=
  let w := 1 + x.rowLen
  let z := dtypeSize x.din
  (List.range x.count).flatMap fun i =>
    let rec_ := localRead s (faAdd (x.addr 24) (i * (8 + x.rowLen * z))) (8 + x.rowLen * z)
    let top : W32 := match valAt x.done i with | .raw b _ => b.setWidth 32 | _ => 0
    let wt := lseWeight (BitVec.ofNat 32 (fieldAt 0 4 rec_)) top
    (x.count + i * w, lseTerm x.mode wt (BitVec.ofNat 32 (fieldAt 4 4 rec_))) ::
      (List.range x.rowLen).map fun k =>
        (x.count + i * w + 1 + k, lseTerm x.mode wt (widen32 x.din (fieldAt (8 + k * z) z rec_)))

/-- The pass that makes the result: of LSE the sum pass. -/
def finalPass (x : Ctx) : Bool := x.redOp ≠ 9 || x.pass = 2

/-- A range of elements meets another. -/
def meets (a n b m : Nat) : Bool := decide (a < b + m) && decide (b < a + n)

/-- The chunks that a member holds give it agreement (09 Table 9-3): a clean chunk of the final result; of an ALLGATHER and an
ALLTOALL_EQ a matching chunk of every member. -/
def chunksAgree (s : State) (c : Comm) (x : Ctx) : Bool :=
  if x.reduces then finalPass x && x.chunks.any fun k => natBits 2 2 k.phase.toNat = 2
  else match x.collOp with
    | 4 => (otherRanks s c).all fun r => x.chunks.any fun k => meets k.off k.count (r * x.count) x.count
    | 6 => (otherRanks s c).all fun r => x.chunks.any fun k => k.sender.toNat = r
    | 7 => x.serving.isSome && (otherRanks s c).all fun r => x.chunks.any fun k => k.sender.toNat = r && k.cflags.getLsbD 1
    | _ => false

/-- The step after its data have come: values, agreement (09 Table 9-3) and the next pass. -/
def absorbStep (s : State) (c : Comm) (x : Ctx) (p : PlanStep) (data : List (Nat × List (Nat × Val))) : Ctx :=
  let y := stepLag s c x p
  match p with
  | .reduce a _ => { y with held := foldAxis s c x a data }
  | .ringReduce _ _ => { y with held := foldRing x data }
  | .convert => { y with done := x.done ++ withFused (commSize s c) x (withRows s x (convertSeg s c x)), agreed := x.agreed || finalPass x }
  | .lseSums => { y with pass := 2, held := lseTerms s x }
  | .counts =>
    let one (d : Nat × List (Nat × Val)) : BitVec 17 × W64 :=
      (BitVec.ofNat 17 d.1, match d.2 with | (_, Val.raw b _) :: _ => b | _ => 0)
    let got := data.map one
    let me := myRank s c
    { y with counts := (BitVec.ofNat 17 me, x.scounts.getD me 0) :: got }
  | .exchange =>
    let place (d : Nat × List (Nat × Val)) : List (Nat × Val) := d.2.map fun e =>
      ((if x.collOp = 6 then d.1 * x.count + e.1 % (max 1 x.count) else recvBase x d.1 + e.1), e.2)
    { y with done := x.done ++ data.flatMap place }
  | _ => { y with done := x.done ++ data.flatMap fun d => d.2 }

/-- Local ranges share a byte. -/
def rangesMeet (a : W64) (n : Nat) (b : W64) (m : Nat) : Bool := faSpace a = faSpace b && meets (faOffset a) n (faOffset b) m

/-- RCOUNTS overlaps bytes that chunks are read from, so it is written only once they are confirmed (10:R278). -/
def countsLate (s : State) (c : Comm) (x : Ctx) : Bool :=
  let n := 8 * commSize s c
  rangesMeet (x.addr 72) n (x.addr 64) n || rangesMeet (x.addr 72) n (x.addr 24) (x.sends * dtypeSize x.din)

/-- Writes the received counts (10:R268). -/
def writeCounts (c : Comm) (x : Ctx) (s : State) : State :=
  localWrite (x.addr 72) ((List.range (commSize s c)).flatMap fun r => leBytes 8 (countFrom x r)) s

/-- After the count exchange (10:R268, R269): the received counts go to RCOUNTS, or a sum above COUNT aborts; this
member's own block is in place. -/
def afterCounts (c : Comm) (x : Ctx) (s : State) : Option Ctx × State :=
  let n := commSize s c
  let sum := (List.range n).foldl (fun t r => t + countFrom x r) 0
  if x.count < sum then
    (none, abortColl x stAborted (jobRank18 s c (myRank s c)) 0 (BitVec.ofNat 64 sum) stAborted none s)
  else
    let me := myRank s c
    let own := (List.range (countFrom x me)).map fun k => (recvBase x me + k, valAt x.held (sendBase x me + k))
    (some { x with done := own, agreed := true }, if countsLate s c x then s else writeCounts c x s)

/-- Bytes of the result and its overflow state, and the fused rows (10 Table 10-2, 12:R335). -/
def resultBytes (s : State) (c : Comm) (x : Ctx) : Bytes × Bool :=
  let first := if x.collOp = 3 then myRank s c * x.count else 0
  if x.redOp = 9 then
    let w := 1 + x.rowLen
    let f (i : Nat) : W32 := match valAt x.done i with | .raw b _ => b.setWidth 32 | _ => 0
    ((List.range x.count).flatMap fun i =>
        lseRecord x.dout (f i) (f (x.count + i * w)) ((List.range x.rowLen).map fun k => f (x.count + i * w + 1 + k)),
      x.done.any fun e => valOvf e.2)
  else
    let n := outElems x.collOp x.count (commSize s c)
    let m := if x.collOp = 7 then (List.range (commSize s c)).foldl (fun t r => t + countFrom x r) 0 else n
    let es := (List.range m).map fun i => outBytes x.din x.dout (ctxSat x) (valAt x.done (first + i))
    (es.flatMap fun e => e.1, es.any fun e => e.2)

/-- The fused values of the rows that member `me` writes, in the order of FUSE_DST (12 Table 12-9). -/
def fusedDone (n me : Nat) (x : Ctx) : List Val :=
  let first := if x.collOp = 3 then me * x.count / x.rowLen else 0
  (List.range x.fuseKinds).flatMap fun k =>
    (List.range (outElems x.collOp x.count n / x.rowLen)).map fun i => valAt x.done (fuseAt n x k (first + i))

/-- Writes the result: DST, the fused rows at FUSE_DST, and the overflow state (10:R266, 12:R332, R335); undefined after a
change to a save record (15:R429). -/
def writeResult (c : Comm) (x : Ctx) (s : State) : Ctx × State :=
  if !writesDest s c x then (x, s)
  else if x.isRoute && !x.tainted then routeWrite x s
  else if x.tainted then (x, (destRanges s c x).foldl (fun t r => localUndefined r.1 r.2 t) s)
  else
    let r := resultBytes s c x
    let s0 := if x.collOp = 7 && countsLate s c x then writeCounts c x s else s
    let s1 := localWrite (x.addr 32) r.1 s0
    if !x.fused then ({ x with overflow := x.overflow || r.2 }, s1)
    else
      let f := fusedDone (commSize s c) (myRank s c) x
      ({ x with overflow := x.overflow || r.2 || f.any valOvf }, localWrite (x.addr 48) (f.flatMap fun v => leBytes 4 (rawOf v)) s1)

/-- A BROADCAST on AXIS_TREE waits for its vote (11:R306). -/
def voteOpen (s : State) (c : Comm) (x : Ctx) : Bool := x.collOp = 5 && x.alg = 3 && 1 < commSize s c && !x.agreed

/-- The plan is done and every chunk is confirmed: the result is written and the threads of the Octoz program end
(10:R278, 16:R462). -/
def finishPlan (c : Comm) (x : Ctx) (s : State) : State :=
  if x.finished || !allConfirmed x || voteOpen s c x then s
  else
    let w := writeResult c x s
    let s1 := putCtx { w.1 with finished := true } w.2
    { s1 with threads := updWhere (fun t => t.ctx = x.idx) (fun t => { t with st := .ended }) s1.threads }

/-- Confirms a chunk of a sender: one chunk of grant returns (10:R276). -/
def confirmChunk (c : Comm) (i : BitVec 9) (r : BitVec 17) (s : State) : State :=
  grantTo c i (modCtx i (fun x => { x with conf := addCount r 1 x.conf }) s) r.toNat

/-- The step takes the chunk. -/
def stepTakes (s : State) (c : Comm) (x : Ctx) (p : PlanStep) (k : Chunk) : Bool :=
  k.phase = stepPhase x p && k.step = stepNum p &&
    (inFrom s c x p).any fun l => l.1 = k.sender.toNat && l.2.any fun g => decide (g.1 ≤ k.off) && decide (k.off < g.1 + g.2)

/-- The lane consumes the chunks of the step at the plan's head as they come; those of later steps wait in ejection space, with
their grant taken (10:R276). -/
def consumeStep (c : Comm) (p : PlanStep) (i : BitVec 9) (s : State) : State :=
  match findCtx i s with
  | none => s
  | some x =>
    let mine (k : Chunk) : Bool := !k.taken && stepTakes s c x p k
    (x.chunks.filter mine).foldl (fun t k => confirmChunk c i k.sender t)
      (putCtx { x with chunks := updWhere mine (fun k => { k with taken := true }) x.chunks } s)

/-- Runs the plan as far as it can go, by fuel: a step's chunks go out once, and the step ends when its data have come. -/
def advanceGo (i : BitVec 9) : Nat → State → State
  | 0, s => s
  | f + 1, s =>
    match findCtx i s with
    | none => s
    | some x0 =>
      match findComm x0.handle s with
      | none => s
      | some c =>
        match x0.plan with
        | [] => finishPlan c x0 s
        | p :: rest =>
          let s1 := if x0.sentStep then s
            else pumpChunks c { x0 with sentStep := true, waitSince := now s, outq := x0.outq ++ stepChunks s c x0 p } s
          let s2 := consumeStep c p i s1
          let x := (findCtx i s2).getD x0
          match stepData s2 c x p with
          | none => s2
          | some data =>
            let y := { absorbStep s2 c x p data with plan := rest, sentStep := false }
            match p with
            | .counts =>
              match afterCounts c y s2 with
              | (none, s3) => s3
              | (some z, s3) => advanceGo i f (putCtx z s3)
            | _ => advanceGo i f (putCtx y s2)

/-- Runs the plan of a context that an Octoz program serves. -/
def advance (i : BitVec 9) (s : State) : State :=
  match findCtx i s with
  | none => s
  | some x => if x.serving.isSome || x.alg = 4 then s else advanceGo i (x.plan.length + 1) s

/-- The fields of a CHUNK packet's header. -/
def chunkHandle (p : Packet) : W32 := BitVec.ofNat 32 (payField p 0 4)
def chunkSeq (p : Packet) : W32 := BitVec.ofNat 32 (payField p 4 4)
def chunkSender (p : Packet) : Nat := payField p 16 4 % 2 ^ 17

/-- Hops of the geometric path between two offsets of the box: along the line on an open axis (09:R239), the shorter way round on
a closed one. -/
def hopsTo (s : State) (c : Comm) (o q : List Nat) : Nat :=
  (List.range 3).foldl (fun n a =>
    let d := max (o.getD a 0) (q.getD a 0) - min (o.getD a 0) (q.getD a 0)
    n + (if ext s c a = torus s a then min d (ext s c a - d) else d)) 0

/-- The corrected arrival of an input from a rank that came at a tick (09:R253). -/
def arrivalOf (tick : Nat) (s : State) (c : Comm) (sender : Nat) : Int :=
  (tick : Int) - ((hopsTo s c (rankOffs s c sender) (myOffs s c) * 70 / 40 : Nat) : Int)

/-- The chunk that a packet, arrived at a tick, carries. -/
def chunkOf (tick : Nat) (s : State) (c : Comm) (p : Packet) : Chunk :=
  { sender := BitVec.ofNat 17 (chunkSender p), phase := BitVec.ofNat 8 (payField p 10 1)
    step := BitVec.ofNat 8 (payField p 11 1), cflags := BitVec.ofNat 8 (payField p 12 1)
    wire := BitVec.ofNat 8 (payField p 13 1), lagRank := BitVec.ofNat 18 (payField p 20 4)
    lateness := BitVec.ofNat 32 (payField p 24 4), count := payField p 28 4, off := payField p 32 8
    data := p.payload.drop 64, ovf := pktOverflow p, tick := arrivalOf tick s c (chunkSender p), taken := false }

/-- Sends a chunk re-request (16:R460), and raises CHUNK_REREQUEST with its cause and the copies that have failed so far
(16 Table 16-4). -/
def sendRereq (c : Comm) (x : Ctx) (sender : Nat) (phase step : Byte) (off count : Nat) (cause copy : Nat) (s : State) : State :=
  let ph : Byte := (phase &&& 3) ||| 0xC
  let s1 := putCtx { x with retried := true, degraded := true } s
  let s2 := sendStream (mkPacket 4 c.map (myCoord s) (memberAt s c sender) 0
    (chunkHeader x (myRank s c) ph step 0 0 (0x3FFFF, 0) count off) 0) s1
  let d := bvBytes 4 x.handle ++ bvBytes 4 x.seq ++ leBytes 4 (jobRank s c sender) ++ leBytes 4 count ++
    leBytes 8 off ++ [phase, step, BitVec.ofNat 8 cause, BitVec.ofNat 8 copy]
  raiseEvent (0x1000 + x.idx.toNat) 0x0103 (detailOf d) s2

/-- The failed copies of a chunk so far. -/
def failCount (x : Ctx) (key : BitVec 17 × Byte × Byte × Nat) : Nat :=
  ((x.fails.find? fun f => (f.1, f.2.1, f.2.2.1, f.2.2.2.1) = key).map fun f => f.2.2.2.2).getD 0

/-- A failed copy of a chunk (10:R277): the fourth aborts with CHECK_FAIL, the others are asked for again. -/
def failedCopy (c : Comm) (x : Ctx) (k : Chunk) (cause : Nat) (s : State) : State :=
  let key : BitVec 17 × Byte × Byte × Nat := (k.sender, k.phase, k.step, k.off)
  let n := failCount x key + 1
  let fails := (k.sender, k.phase, k.step, k.off, n) ::
    x.fails.filter fun f => (f.1, f.2.1, f.2.2.1, f.2.2.2.1) ≠ key
  if 4 ≤ n then checkFail { x with retried := true } (jobRank18 s c k.sender.toNat) s
  else sendRereq c { x with fails := fails } k.sender.toNat k.phase k.step k.off k.count cause n s

/-- The chunk's elements can be read (12:R325). -/
def chunkGood (x : Ctx) (k : Chunk) : Bool :=
  if x.serving.isSome && k.wire ≠ 0x10 then true
  else (unpackChunk x.eRed x.mode x.eDin 0 k).isSome

/-- A data or count chunk for a bound collective (10:R276, R277; 16:R459, R461). -/
def takeChunk (tick : Nat) (c : Comm) (x : Ctx) (p : Packet) (s : State) : State :=
  let k := chunkOf tick s c p
  let y := { x with degraded := x.degraded || p.rerouted }
  if !crcOk p || pktPoison p then failedCopy c y k (if crcOk p then 3 else 2) s
  else if BitVec.ofNat 16 (payField p 8 2) ≠ sig16 x.sig then
    mismatch x (jobRank18 s c k.sender.toNat) (BitVec.ofNat 16 (payField p 8 2)) s
  else if (chunkAt x k.sender.toNat k.phase k.step k.off).isSome then s
  else if !chunkGood x k then failedCopy c y k 4 s
  else
    let z := { y with chunks := x.chunks ++ [k], blockedSince := now s }
    let s1 := putCtx { z with agreed := x.agreed || chunksAgree s c z } s
    if x.serving.isSome
    then { s1 with threads := updWhere (fun t => t.ctx = x.idx && t.st = .inCrecv) (fun t => { t with st := .running }) s1.threads }
    else advance x.idx s1

/-- A grant (10:R275): more chunks may go. -/
def takeGrant (c : Comm) (x : Ctx) (p : Packet) (s : State) : State :=
  let g := addCount (BitVec.ofNat 17 (chunkSender p)) (payField p 28 4) x.grants
  advance x.idx (pumpChunks c { x with grants := g } s)

/-- The input elements of a member, by index (10 Table 10-2). -/
def inputVals (s : State) (c : Comm) (x : Ctx) : List Val :=
  let n := commSize s c
  let z := elemIn x.redOp x.din x.rowLen
  let job : W32 := BitVec.ofNat 32 (jobRank s c (myRank s c))
  let k := if x.collOp = 5 && myRank s c ≠ x.root then 0 else inElems x.collOp x.count n x.sends
  let bytes := localRead s (x.addr 24) (k * z)
  (List.range k).map fun i =>
    let b := slice (i * z) z bytes
    if x.alg = 4 then (if x.collOp = 5 then .raw (BitVec.ofNat 64 (leNat b)) false else cinchIn x.redOp x.din job b)
    else if x.redOp = 9 then .raw (BitVec.ofNat 64 (leNat (b.take 4))) false
    else if x.reduces then valIn x.redOp x.mode x.din job b
    else .raw (BitVec.ofNat 64 (leNat b)) false

/-- A chunk read from its source again (16:R460): a chunk that left with POISON is built anew. -/
def reread (s : State) (c : Comm) (x : Ctx) (k : OutChunk) : List OutChunk :=
  match k.poison, k.leg, k.src with
  | true, some p, _ =>
    let vals := if x.isRein && !x.isRoute then combineVals s x else inputVals s c x
    let held := vals.zipIdx.map fun y => (y.2, y.1)
    let own := if x.collOp = 4 then held.map fun y => (myRank s c * x.count + y.1, y.2) else held
    (legChunks s c { x with held := held, done := own ++ x.done, lag := k.lag } p (k.rcvs.map fun r => r.toNat) k.mcast
      [(k.off, k.count)])
  | true, none, some a => [{ k with data := localRead s a.1 a.2, poison := localPoison s a.1 a.2 }]
  | _, _, _ => [k]

/-- A chunk re-request (16:R460): every own chunk of that axis and step that overlaps goes again by unicast, once the
PCI Express reads of a source that was poisoned have been made again (log 4). -/
def takeRereq (c : Comm) (x : Ctx) (p : Packet) (s : State) : State :=
  let axis := payField p 10 1 % 4
  let off := payField p 32 8
  let n := payField p 28 4
  let hit (k : OutChunk) : Bool :=
    k.phase.toNat % 4 = axis && k.step.toNat = payField p 11 1 &&
    decide (k.off < off + n) && decide (off < k.off + k.count) && k.rcvs.contains (BitVec.ofNat 17 (chunkSender p))
  let again := (x.sent.filter fun k => hit k && k.poison).flatMap fun k =>
    (k.src.map fun a => localPieces s a.1 a.2).getD []
  if !busReady again s then
    askBus again (putCtx { x with degraded := true } { s with ni := { s.ni with serving := s.ni.serving ++ [p] } })
  else
    let y := { x with degraded := true, sent := x.sent.flatMap fun k => if hit k then reread s c x k else [k] }
    useBus again ((y.sent.filter hit).foldl
      (fun t k => sendStream (chunkPacket t c y k (memberAt t c (chunkSender p))) t) (putCtx y s))

/-- A packet for a collective that has not started, or is saved, waits in ejection space (10:R281, 11:R308); one for a
collective that is over is discarded. -/
def holdEarly (tick : Nat) (p : Packet) (s : State) : State :=
  let h := chunkHandle p
  let q := chunkSeq p
  let keep (t : State) : State :=
    if Config.ejectMax < ejectHeld t + flitBytes p then t else { t with ni := { t.ni with early := t.ni.early ++ [(tick, p)] } }
  if s.saved.any (fun y => y.ctx.handle = h && y.ctx.seq = q) then keep (markSaved h q none s)
  else match findComm h s with
    | none => s
    | some c => let d := seqAhead c.seq q; if 1 ≤ d && d < 2 ^ 31 then keep s else s

/-- What a CHUNK packet that came at a tick does (10 Table 10-5). -/
def chunkAct (tick : Nat) (p : Packet) (s : State) : State :=
  match findColl (chunkHandle p) (chunkSeq p) s with
  | none => holdEarly tick p s
  | some x =>
    match findComm x.handle s with
    | none => s
    | some c =>
      let stage := natBits 2 2 (payField p 10 1)
      if natBit 0 (payField p 12 1) then (if crcOk p then takeGrant c x p s else s)
      else if stage = 3 && p.payload.length ≤ 64 then (if crcOk p then takeRereq c x p s else s)
      else takeChunk tick c x p s

/-- Arrival of a CHUNK packet (08:R216, 16:R458). -/
def chunkArrive (p : Packet) (s : State) : State := grantKick (niArrive p (chunkAct (now s) p) id s)

/-- GRANT, COUNTS and the kind of a chunk packet. -/
def isGrant (p : Packet) : Bool := natBit 0 (payField p 12 1)
def isCounts (p : Packet) : Bool := natBit 1 (payField p 12 1) && p.payload.length ≠ 64
def isRereq (p : Packet) : Bool := !isGrant p && natBits 2 2 (payField p 10 1) = 3 && p.payload.length ≤ 64

/-- CHUNK (10:R276). -/
def execChunk (p : Packet) (s : State) : Out :=
  live s (onlyIf (routerRuns s && p.kind = 4 && !isGrant p && !isCounts p && !isRereq p) (chunkArrive p))

/-- CHUNK_GRANT (10:R275). -/
def execChunkGrant (p : Packet) (s : State) : Out :=
  live s (onlyIf (routerRuns s && p.kind = 4 && isGrant p) (chunkArrive p))

/-- COUNT_CHUNK (10:R268, R269). -/
def execCountChunk (p : Packet) (s : State) : Out :=
  live s (onlyIf (routerRuns s && p.kind = 4 && !isGrant p && isCounts p) (chunkArrive p))

/-- CHUNK_REREQ (16:R460). -/
def execChunkRereq (p : Packet) (s : State) : Out :=
  live s (onlyIf (routerRuns s && p.kind = 4 && isRereq p) (chunkArrive p))

/-- The first missing element of a range that a step expects from a sender, with the count that is missing. -/
def missingIn (x : Ctx) (r : Nat) (phase step : Byte) : Nat → Nat → Nat → Option (Nat × Nat)
  | 0, _, _ => none
  | f + 1, off, n =>
    if n = 0 then none
    else match chunkAt x r phase step off with
      | none => some (off, n)
      | some k => missingIn x r phase step f (off + max 1 k.count) (n - max 1 k.count)

/-- The step at the head expects these elements from the sender and does not hold them all. -/
def expectsNow (s : State) (c : Comm) (x : Ctx) (sender : Nat) (phase step : Byte) (off n : Nat) : Bool :=
  match x.plan with
  | [] => false
  | p :: _ => x.sentStep && stepPhase x p = phase && stepNum p = step &&
      (inFrom s c x p).any fun l => l.1 = sender &&
        l.2.any fun r => decide (r.1 ≤ off) && decide (off + n ≤ r.1 + r.2) && (missingIn x sender phase step (n + 1) off n).isSome

/-- CHUNK_TIMEOUT (10:R279, 16:R460): the elements that a lane still misses CHUNK_TIMEOUT after it began to wait. A
thread of a loaded program waits for them in CRECV. -/
def execChunkTimeout (ctx : BitVec 9) (sender : BitVec 17) (phase step : Byte) (elemOffset : W64) (elemCount : W32)
    (s : State) : Out :=
  live s fun s =>
    match findCtx ctx s with
    | none => s
    | some x =>
      match findComm x.handle s with
      | none => s
      | some c =>
        let off := elemOffset.toNat
        let n := elemCount.toNat
        let waits := if x.serving.isSome
          then s.threads.any (fun t => t.ctx = ctx && t.st = .inCrecv && t.waitArg.setWidth 16 = (step ++ phase : BitVec 16)) &&
            (chunkAt x sender.toNat phase step off).isNone
          else expectsNow s c x sender.toNat phase step off n
        if waits && decide (x.waitSince + x.chunkTimeout.toNat ≤ now s) then
          sendRereq c { x with waitSince := now s } sender.toNat phase step off n 1 (failCount x (sender, phase, step, off)) s
        else s

/-- COLLECTIVE_COMPLETE (13:R352, 16:R462): every thread has ended and every chunk is confirmed. -/
def execCollectiveComplete (ctx : BitVec 9) (s : State) : Out :=
  live s fun s =>
    match findCtx ctx s with
    | none => s
    | some x =>
      let ended := if x.serving.isSome
        then (s.threads.all fun t => t.ctx ≠ ctx || t.st = .ended) && allConfirmed x && (match findComm x.handle s with
          | none => true
          | some c => !voteOpen s c x) else x.finished
      if octozRuns s && ended then completeOk x s else s

/-- KEEPER_TICK (02:R30): the keeper's tick, what every port sends in it, and the grants that ejection space has room for by now
(10:R275). The engine stands still after a thermal trip. -/
def execKeeperTick (s : State) : Out :=
  liveKeeper true s fun s =>
    let t := tick s
    if t.kp.tripped then t else
      let u := portsTick t
      if routerRuns u then grantKick u else u

end Sys2Proof.Machine
end

