-- ==== Sys2Proof/Machine/Cinch.lean ====
section
/-! DEFINITION. Machine/Cinch.lean: Cinch collectives and the BROADCAST vote (11): packet sets, the up phase along the
chains, the down phase, re-requests. -/

namespace Sys2Proof.Machine

/-- The combine record of the collective, or of its vote. -/
def Ctx.crec (x : Ctx) (vote : Bool) : CinchRec := if vote then x.vote else x.cinch
def Ctx.setRec (x : Ctx) (vote : Bool) (r : CinchRec) : Ctx := if vote then { x with vote := r } else { x with cinch := r }

/-- CTYPE of UP and DOWN (11 Table 11-2). -/
def ctUp (vote : Bool) : BitVec 4 := if vote then 5 else 1
def ctDown (vote : Bool) : BitVec 4 := if vote then 6 else 2

/-- A record before its first input. -/
def CinchRec.empty : CinchRec :=
  { sets := [], sent := [], axisNow := 0, own := [], lag := (0x3FFFF, 0), lagAt := 0, ovf := false, upDone := false
    downDone := false }

/-- The line root's offset (11:R298). -/
def rootOff (s : State) (c : Comm) (a : Nat) : Nat := ext s c a / 2

/-- The offsets whose partials this member waits for on an axis (11:R299). -/
def upFrom (s : State) (c : Comm) (a : Nat) : List Nat :=
  let d := (myOffs s c).getD a 0
  let r := rootOff s c a
  let e := ext s c a
  if d < r then (if 0 < d then [d - 1] else [])
  else if r < d then (if d + 1 < e then [d + 1] else [])
  else (if 0 < r then [r - 1] else []) ++ (if r + 1 < e then [r + 1] else [])

/-- The neighbour nearer the root, unless this member is the line root. -/
def upTo (s : State) (c : Comm) (a : Nat) : Option Nat :=
  let d := (myOffs s c).getD a 0
  let r := rootOff s c a
  if d < r then some (d + 1) else if r < d then some (d - 1) else none

/-- The coordinate of a member of this member's line. -/
def lineCoord (s : State) (c : Comm) (a d : Nat) : Coord := memberAt s c (lineRank s c a d)

/-- Fragments of 40 bytes (11:R302). -/
def fragments (b : Bytes) : List Bytes := (List.range (max 1 (ceilDiv b.length 40))).map fun i => (b.drop (40 * i)).take 40

/-- One CINCH packet (11 Table 11-1). -/
def cinchPacket (s : State) (x : Ctx) (ctype : BitVec 4) (axis : BitVec 2) (wire : Byte) (idx cnt : Nat) (ovf : Bool)
    (lag : BitVec 18 × W32) (data : Bytes) (dest : Coord) : Packet :=
  mkPacket 2 0 (myCoord s) dest 0
    (bvBytes 4 x.handle ++ bvBytes 4 x.seq ++ bvBytes 2 (sig16 x.sig) ++
      [BitVec.ofNat 8 (ctype.toNat + 16 * axis.toNat), wire, BitVec.ofNat 8 idx, BitVec.ofNat 8 cnt,
        BitVec.ofNat 8 data.length, BitVec.ofNat 8 (b2n ovf)] ++
      leBytes 4 lag.1.toNat ++ bvBytes 4 lag.2 ++ data) 0

/-- Sends a packet set to one node, or as a multicast toward a far end (11:R300, R302). -/
def sendSet (x : Ctx) (k : CinchSent) (mc : Option (BitVec 3)) (dest : Coord) (s : State) : State :=
  let fs := fragments k.stream
  fs.zipIdx.foldl
    (fun t f =>
      let p := cinchPacket t x k.ctype k.axis k.wire f.2 fs.length k.ovf k.lag f.1 dest
      sendRaw mc { p with mcast := mc.isSome } t) s

/-- The result travels toward a side of an axis (11:R300): always but for REDUCE, where only the path to ROOT carries
it. -/
def carriesResult (s : State) (c : Comm) (x : Ctx) (vote : Bool) (a : Nat) (plus : Bool) : Bool :=
  if vote || x.collOp ≠ 2 then true
  else
    let o := myOffs s c
    let r := rankOffs s c x.root
    (List.range 3).all (fun b => b ≤ a || o.getD b 0 = r.getD b 0) &&
    (if plus then o.getD a 0 < r.getD a 0 else r.getD a 0 < o.getD a 0)

/-- The DOWN set of one direction of an axis: a multicast to the members that have not moved and unicast copies to moved
ones; a moved relay sends unicast only (11:R300). -/
def downSide (c : Comm) (vote : Bool) (a : Nat) (plus : Bool) (x : Ctx) (s : State) : Ctx × State :=
  let d := (myOffs s c).getD a 0
  let offs := if plus then (List.range (ext s c a - 1 - d)).map fun i => d + 1 + i else (List.range d).map fun i => d - 1 - i
  if offs.isEmpty then (x, s)
  else
    let r := x.crec vote
    let full := carriesResult s c x vote a plus
    let wire := if !full || r.own.isEmpty then 0 else if vote then 5 else cinchWire x.collOp x.redOp x.din
    let k : CinchSent :=
      { ctype := ctDown vote, axis := BitVec.ofNat 2 a, rcvs := offs.map (lineCoord s c a), wire := BitVec.ofNat 8 wire
        stream := cinchStream wire x.din r.own, lag := r.lag, ovf := r.ovf }
    let me := memberMoved s c (myRank s c)
    let moved (i : Nat) : Bool := memberMoved s c (lineRank s c a i)
    let y := x.setRec vote { r with sent := k :: r.sent }
    let dir := BitVec.ofNat 3 (2 * a + (if plus then 0 else 1))
    let far := offs.getLastD 0
    let s1 := if me then s
      else sendSet x k (some dir) (boxPos s c (lineOffs (myOffs s c) a far)) s
    (y, (offs.filter fun i => me || moved i).foldl (fun t i => sendSet x k none (lineCoord t c a i) t) s1)

/-- The axes that this member relays on in the down phase (11:R300): on each it stands at the line root's offset, as on
all axes before it. -/
def relayAxes (s : State) (c : Comm) : List Nat :=
  [2, 1, 0].filter fun a => decide (1 < ext s c a) &&
    (List.range (a + 1)).all fun b => (myOffs s c).getD b 0 = rootOff s c b

/-- Sends the result on every line that this member relays on. -/
def relayDown (c : Comm) (vote : Bool) (x : Ctx) (s : State) : Ctx × State :=
  (relayAxes s c).foldl
    (fun u a =>
      let v := downSide c vote a false u.1 u.2
      downSide c vote a true v.1 v.2) (x, s)

/-- A member's own end of a Cinch collective: conversion, DST or RESULT, completion (10:R267, 11:R300, R301). -/
def cinchFinish (c : Comm) (x : Ctx) (s : State) : State :=
  let r := x.cinch
  let vals := r.own.zipIdx.map fun y => (y.2, valOut x.redOp x.din x.dout true y.1)
  let x1 := { x with done := withFused (commSize s c) x vals, lag := r.lag, overflow := x.overflow || r.ovf, agreed := true }
  let w := writeResult c x1 s
  let out := resultBytes s c x1
  let x2 := if scalarResult x1
    then { w.1 with hasResult := true, result := BitVec.ofNat 64 (leNat out.1), overflow := w.1.overflow || out.2 } else w.1
  completeOk x2 w.2

/-- The vote returns all-match (11:R306). -/
def voteFinish (x : Ctx) (s : State) : State := advance x.idx (putCtx { x with agreed := true } s)

/-- The final root's result: PRELOAD is added here; it relays and ends (11:R298, R300; 12:R333). -/
def rootResult (c : Comm) (vote : Bool) (x : Ctx) (s : State) : State :=
  let r := x.crec vote
  let own := if !vote && natBit 0 x.cflags
    then r.own.zipIdx.map fun y => addPreload x.dout (preloadAt s c x y.2) y.1 else r.own
  let x1 := x.setRec vote { r with own := own, upDone := true, downDone := true }
  let u := relayDown c vote x1 s
  let s1 := putCtx u.1 u.2
  if vote then voteFinish u.1 s1 else cinchFinish c u.1 s1

/-- All fragments of a set have come; its stream. -/
def setWhole (k : CinchSet) : Bool := k.count ≠ 0 && k.frags.length = k.count.toNat
def setStream (k : CinchSet) : Bytes :=
  (List.range k.count.toNat).flatMap fun i => ((k.frags.find? fun f => f.1.toNat = i).map fun f => f.2).getD []

/-- The whole set of a kind, axis and sender. -/
def wholeSet (r : CinchRec) (ctype : BitVec 4) (a : Nat) (src : Coord) : Option CinchSet :=
  r.sets.find? fun k => k.ctype = ctype && k.axis.toNat = a && k.src = src && setWhole k

/-- Combines two partials element by element; an empty one adds nothing (11 Table 11-2). -/
def mergeOwn (red din : Nat) (a b : List Val) : List Val :=
  if a.isEmpty then b else if b.isEmpty then a else List.zipWith (combine red din) a b

/-- The elements of a set. -/
def setVals (x : Ctx) (k : CinchSet) : List Val := (cinchVals k.wire.toNat x.count x.din (setStream k)).getD []

/-- The job-local rank of a member at a coordinate. -/
def jobAt (s : State) (c : Comm) (p : Coord) : BitVec 18 := ((rankAt s c p).map (jobRank18 s c)).getD 0x3FFFF

/-- The lowest rank of a list, with its set. -/
def lowestRank (s : State) (c : Comm) (l : List CinchSet) : Option CinchSet :=
  l.foldl (fun m k => match m with
    | none => some k
    | some b => if (jobAt s c k.src).toNat < (jobAt s c b.src).toNat then some k else some b) none

/-- One axis of the up phase with every input here (11:R299): a vote compares the signatures (11:R306); else the inputs
combine, with their laggard pairs (09:R253). -/
def combineAxis (s : State) (vote : Bool) (x : Ctx) (ins : List CinchSet) : Ctx :=
  let r := x.crec vote
  let lags : List LagIn := ins.map fun k => { l := (k.tick : Int) - ((70 / 40 : Nat) : Int), pair := k.lag }
  let own := if vote then r.own else ins.foldl (fun o k => mergeOwn x.redOp x.din o (setVals x k)) r.own
  x.setRec vote { r with
    own := own, ovf := r.ovf || ins.any fun k => k.ovf
    lag := if ins.isEmpty then r.lag else lagOut ({ l := r.lagAt, pair := r.lag } :: lags) r.lag
    lagAt := now s, axisNow := r.axisNow + 1 }

/-- Sends this member's partial toward the root of an axis (11:R299). -/
def sendUp (c : Comm) (vote : Bool) (x : Ctx) (a d : Nat) (s : State) : State :=
  let r := x.crec vote
  let wire := if r.own.isEmpty then 0 else if vote then 5 else cinchWire x.collOp x.redOp x.din
  let dest := lineCoord s c a d
  let k : CinchSent := { ctype := ctUp vote, axis := BitVec.ofNat 2 a, rcvs := [dest], wire := BitVec.ofNat 8 wire
                         stream := cinchStream wire x.din r.own, lag := r.lag, ovf := r.ovf }
  let y := x.setRec vote { r with sent := k :: r.sent, upDone := true }
  sendSet y k none dest (putCtx y s)

/-- The up phase as far as it can go, by fuel (11:R299). -/
def upGo (i : BitVec 9) (vote : Bool) : Nat → State → State
  | 0, s => s
  | f + 1, s =>
    match findCtx i s with
    | none => s
    | some x =>
      match findComm x.handle s with
      | none => s
      | some c =>
        let r := x.crec vote
        if r.upDone then s
        else match (planAxes s c)[r.axisNow]? with
          | none => rootResult c vote x s
          | some a =>
            let ins := (upFrom s c a).map fun d => wholeSet r (ctUp vote) a (lineCoord s c a d)
            if ins.any Option.isNone then s
            else
              let ks := ins.filterMap id
              let bad := if vote then ks.filter fun k => leNat (setStream k) ≠ x.sig.toNat else []
              match lowestRank s c bad with
              | some k => mismatch x (jobAt s c k.src) (BitVec.ofNat 16 (leNat (setStream k))) s
              | none =>
                let y := combineAxis s vote x ks
                match upTo s c a with
                | some d => sendUp c vote y a d s
                | none => upGo i vote f (putCtx y s)

/-- Runs the up phase. -/
def upPhase (i : BitVec 9) (vote : Bool) (s : State) : State := upGo i vote 5 s

/-- Starts the Cinch part of a bound collective with its own input. -/
def startCinch (vote : Bool) (own : List Val) (x : Ctx) (s : State) : State :=
  let r := { CinchRec.empty with own := own, lag := x.lag, lagAt := now s }
  upPhase x.idx vote (putCtx (x.setRec vote r) s)

/-- The result that a DOWN set brings (11:R300): taken once, relayed, and the member's own end. -/
def takeDownSet (c : Comm) (vote : Bool) (k : CinchSet) (x : Ctx) (s : State) : State :=
  let r := x.crec vote
  if r.downDone then s
  else
    let own := if vote then r.own else setVals x k
    let x1 := x.setRec vote { r with own := own, lag := k.lag, ovf := k.ovf, upDone := true, downDone := true }
    let u := relayDown c vote x1 s
    let s1 := putCtx u.1 u.2
    if vote then voteFinish u.1 s1 else cinchFinish c u.1 s1

/-- The set record that a packet belongs to. -/
def setOf (tick : Nat) (r : CinchRec) (p : Packet) : CinchSet :=
  let ct := BitVec.ofNat 4 (payField p 10 1)
  let ax := BitVec.ofNat 2 (payField p 10 1 / 16)
  (r.sets.find? fun k => k.ctype = ct && k.axis = ax && k.src = p.src).getD
    { ctype := ct, axis := ax, src := p.src, frags := [], count := 0, wire := 0, lag := (0, 0), ovf := false
      tick := tick, copies := 0, bad := false, asked := none }

/-- A set record replaced. -/
def putSet (k : CinchSet) (r : CinchRec) : CinchRec :=
  { r with sets := k :: r.sets.filter fun j => !(j.ctype = k.ctype && j.axis = k.axis && j.src = k.src) }

/-- A fragment of a set (11:R303): fields of the header, and its data once. -/
def addFrag (tick : Nat) (p : Packet) (k : CinchSet) : CinchSet :=
  let idx : Byte := BitVec.ofNat 8 (payField p 12 1)
  if k.frags.any fun f => f.1 = idx then k
  else
    { k with frags := (idx, (p.payload.drop 24).take (payField p 14 1)) :: k.frags, count := BitVec.ofNat 8 (payField p 13 1)
             wire := BitVec.ofNat 8 (payField p 11 1), lag := (BitVec.ofNat 18 (payField p 16 4), BitVec.ofNat 32 (payField p 20 4))
             ovf := k.ovf || natBit 0 (payField p 15 1), tick := if k.frags.isEmpty then tick else k.tick }

/-- A failed fragment: the copy counts once, and the fourth failed copy aborts (11:R304). -/
def badFrag (c : Comm) (vote : Bool) (x : Ctx) (k : CinchSet) (s : State) : State :=
  let k1 := if k.bad then k else { k with bad := true, copies := k.copies + 1 }
  let y := x.setRec vote (putSet k1 (x.crec vote))
  if 4 ≤ k1.copies then checkFail y (jobAt s c k.src) s else putCtx y s

/-- A CINCH packet of a bound collective (11:R303, R304, R306; 09:R248; 16:R459). -/
def takeCinch (tick : Nat) (c : Comm) (x0 : Ctx) (p : Packet) (s : State) : State :=
  let ct := payField p 10 1 % 16
  let vote : Bool := 5 ≤ ct
  let x := { x0 with degraded := x0.degraded || p.rerouted }
  let k := setOf tick (x.crec vote) p
  if !crcOk p || pktPoison p then badFrag c vote x k s
  else if BitVec.ofNat 16 (payField p 8 2) ≠ sig16 x.sig then
    mismatch x (jobAt s c p.src) (BitVec.ofNat 16 (payField p 8 2)) s
  else
    let k1 := addFrag tick p k
    if setWhole k1 && !vote && (cinchVals k1.wire.toNat x.count x.din (setStream k1)).isNone then
      badFrag c vote x { k1 with frags := [] } s
    else
      let y := x.setRec vote (putSet k1 (x.crec vote))
      let s1 := putCtx { y with blockedSince := now s } s
      if !setWhole k1 then s1
      else if ct = 2 || ct = 6 then takeDownSet c vote k1 ((findCtx x.idx s1).getD y) s1
      else upPhase x.idx vote s1

/-- A REREQ (11:R304): the set that was sent to the requester on that axis goes again, by unicast. -/
def answerRereq (x : Ctx) (p : Packet) (s : State) : State :=
  let a := payField p 10 1 / 16 % 4
  let hit (k : CinchSent) : Bool := k.axis.toNat = a && k.rcvs.contains p.src
  ((x.cinch.sent ++ x.vote.sent).filter hit).foldl (fun t k => sendSet x k none p.src t)
    (putCtx { x with degraded := true } s)

/-- What a CINCH packet other than an abort notice does (11:R299 to R308). -/
def cinchAct (tick : Nat) (p : Packet) (s : State) : State :=
  match findColl (chunkHandle p) (chunkSeq p) s with
  | none => holdEarly tick p s
  | some x =>
    match findComm x.handle s with
    | none => s
    | some c =>
      match payField p 10 1 % 16 with
      | 4 => if crcOk p then answerRereq x p s else s
      | 1 | 2 | 5 | 6 => takeCinch tick c x p s
      | _ => s

/-- A CINCH row: a packet of its CTYPE. -/
def cinchRow (p : Packet) (ct : Nat) (s : State) : State :=
  onlyIf (routerRuns s && p.kind = 2 && payField p 10 1 % 16 = ct) (cinchAct (now s) p) s

/-- CINCH_UP (11:R299). -/
def execCinchUp (p : Packet) (s : State) : Out := live s (cinchRow p 1)

/-- CINCH_DOWN (11:R300). -/
def execCinchDown (p : Packet) (s : State) : Out := live s (cinchRow p 2)

/-- CINCH_REREQ (11:R304). -/
def execCinchRereq (p : Packet) (s : State) : Out := live s (cinchRow p 4)

/-- VOTE_UP (11:R306). -/
def execVoteUp (p : Packet) (s : State) : Out := live s (cinchRow p 5)

/-- VOTE_DOWN (11:R306). -/
def execVoteDown (p : Packet) (s : State) : Out := live s (cinchRow p 6)

/-- The member whose DOWN sets reach this one, with the axis (11:R300). -/
def downFrom (s : State) (c : Comm) : Option (Nat × Coord) :=
  ([0, 1, 2].find? fun a => (myOffs s c).getD a 0 ≠ rootOff s c a).map fun a => (a, lineCoord s c a (rootOff s c a))

/-- This member takes part in the up phase of an axis: it is the line root of every axis before (11:R298, R299). -/
def onChain (s : State) (c : Comm) (a : Nat) : Bool := (List.range a).all fun b => (myOffs s c).getD b 0 = rootOff s c b

/-- A set of this kind, axis and sender is expected (11:R304): the partials of the axes that are left, or the result. -/
def setExpected (s : State) (c : Comm) (x : Ctx) (vote down : Bool) (axis : Nat) (src : Coord) : Bool :=
  let r := x.crec vote
  if down then !r.downDone && downFrom s c = some (axis, src)
  else !r.upDone && ((planAxes s c).drop r.axisNow).contains axis && onChain s c axis &&
    (upFrom s c axis).any fun d => lineCoord s c axis d = src

/-- CINCH_SET_TIMEOUT (11:R304): CHUNK_TIMEOUT after a set's first fragment, or after the start when none has come; again
CHUNK_TIMEOUT after each REREQ. -/
def execCinchSetTimeout (ctx : BitVec 9) (ctype : BitVec 4) (axis : BitVec 2) (sender : Coord) (s : State) : Out :=
  live s fun s =>
    match findCtx ctx s with
    | none => s
    | some x =>
      match findComm x.handle s with
      | none => s
      | some c =>
        let vote : Bool := ctype = 5 || ctype = 6
        let down : Bool := ctype = 2 || ctype = 6
        let r := x.crec vote
        let old := r.sets.find? fun k => k.ctype = ctype && k.axis = axis && k.src = sender
        let first := match old with | some k => if k.frags.isEmpty then x.startTick else k.tick | none => x.startTick
        let since := max first ((old.bind fun k => k.asked).getD 0)
        let open_ := match old with | some k => !setWhole k | none => true
        if (ctype = 1 || down || vote) && setExpected s c x vote down axis.toNat sender && open_ &&
            decide (since + x.chunkTimeout.toNat ≤ now s) then
          let k : CinchSet := { old.getD { ctype := ctype, axis := axis, src := sender, frags := [], count := 0, wire := 0
                                           lag := (0, 0), ovf := false, tick := 0, copies := 0, bad := false
                                           asked := none } with
                                asked := some (now s), bad := false }
          let y := (x.setRec vote (putSet k r))
          sendRaw none (cinchPacket s x 4 axis 0 0 1 false (0x3FFFF, 0) [] sender)
            (putCtx { y with retried := true, degraded := true } s)
        else s

end Sys2Proof.Machine
end

