-- ==== Sys2Proof/Machine/Submit.lean ====
section
/-! DEFINITION. Machine/Submit.lean: COLL_SUBMIT (10:R260 to R273): its checks, AUTO, lanes and threads (13:R350, R358) and the
start of a collective. -/

namespace Sys2Proof.Machine

/-- Used bits of the COLL_SUBMIT BODY (10 Table 10-1). -/
def collFields : List (Nat × Nat) :=
  [(0, 32), (4, 8), (5, 8), (6, 8), (7, 8), (8, 8), (9, 8), (10, 8), (11, 4), (12, 32), (16, 64), (24, 64), (32, 64),
    (40, 64), (48, 64), (56, 32), (64, 64), (72, 64)]

/-- A context that holds nothing yet, for an entry of queue `q`. -/
def blankCtx (s : State) (q : BitVec 6) (e : Entry) : Ctx :=
  { idx := 0, q := q, tag := entTag e, noIrq := entNoIrq e, opcode := BitVec.ofNat 8 (entOpcode e), body := entBody e
    rein := 0
    handle := BitVec.ofNat 32 (bodyField e 0 4), seq := 0, sig := 0, chunkTimeout := s.cfg.chunkTimeout
    saveAfter := s.cfg.saveAfter, alg := BitVec.ofNat 8 (bodyField e 7 1)
    count := bodyField e 16 8, tokens := 0, rows := 0, lanes := 0, startTick := now s, deadline := deadlineOf q e s
    serving := none, plan := [], sentStep := false, pass := 1, finished := false, held := [], done := [], chunks := []
    fails := [], grants := [], given := [], conf := [], outq := [], sent := [], scounts := [], counts := []
    cinch := CinchRec.empty, vote := CinchRec.empty, lag := (0x3FFFF, 0), lagAt := (now s : Int), hasResult := false
    result := 0, agreed := false, degraded := false, overflow := false, dropped := false, retried := false
    wasSaved := false, blockedSince := now s, waitSince := now s, savedTicks := 0, tainted := false }

/-- Types allowed under a MODE (10 Table 10-3, 12 Table 12-1). -/
def typesOk (red mode din dout : Nat) : Bool :=
  let fl := isFloatType din && isFloatType dout
  let it := isIntType din && isIntType dout
  if isBitwise red then mode = 3 && it && din = dout
  else if red = 9 then (mode = 1 || mode = 2) && fl
  else ((mode = 1 || mode = 2) && fl) || (mode = 3 && it)

/-- The combination is allowed by Table 10-3 (10:R290); `small`: at most 64 bytes of input per member (10:R267). -/
def comboOk (op red mode din dout alg : Nat) (small : Bool) : Bool :=
  let ring := alg = 1 && mode = 1
  let cinch := alg = 4 && small
  let moves := red = 0 && mode = 0 && din = dout && dtypeSize din ≠ 0
  match op with
  | 1 | 2 => 1 ≤ red && red ≤ 9 && typesOk red mode din dout && (alg = 0 || alg = 2 || ring || (cinch && red ≠ 9))
  | 3 => 1 ≤ red && red ≤ 8 && typesOk red mode din dout && (alg = 0 || alg = 2 || ring)
  | 9 => 1 ≤ red && red ≤ 8 && typesOk red mode din dout && small && (alg = 0 || cinch)
  | 4 => moves && (alg = 0 || alg = 3 || alg = 1)
  | 5 => moves && (alg = 0 || alg = 3 || cinch)
  | 6 | 7 => moves && (alg = 0 || alg = 2)
  | 8 => red = 0 && mode = 0 && din = 0 && dout = 0 && (alg = 0 || alg = 4)
  | _ => false

/-- AUTO (10 Table 10-4). -/
def resolveAlg (op red mode size outBytes alg : Nat) : Byte :=
  if alg ≠ 0 then BitVec.ofNat 8 alg
  else match op with
    | 8 | 9 => 4
    | 1 | 2 | 3 =>
      if op ≠ 3 && size ≤ 64 && red ≠ 9 then 4
      else if mode = 2 || mode = 3 || size ≤ 262144 then 2 else 1
    | 5 => if size ≤ 64 then 4 else 3
    | 4 => if outBytes ≤ 1048576 then 3 else 1
    | _ => 2

/-- The operation has a ROOT. -/
def rooted (op : Nat) : Bool := op = 2 || op = 5

/-- The status that refuses the addresses of a collective, which all name this node (10:R261, 06:R155). -/
def addrsCheck (s : State) (m : Nat) (l : List (W64 × Nat)) : Option Byte :=
  addrsBad s m (l.map fun a => (false, a.1, a.2))

/-- SRC and DST overlap in a way that R262 forbids; a DST of 0 that writes nothing is no destination (10:R267). -/
def overlapBad (x : Ctx) (src dst : Nat) : Bool :=
  let a := x.addr 24
  let b := x.addr 32
  let same := faSpace a = faSpace b && faOffset a = faOffset b
  let inPlace := same && (x.collOp = 1 || x.collOp = 2 || x.collOp = 5 || x.collOp = 9)
  faSpace a = faSpace b && decide (faOffset a < faOffset b + dst) && decide (faOffset b < faOffset a + src) && !inPlace &&
    !(scalarResult x && b = 0)

/-- CFLAGS, preload and fused outputs (10:R262; 12:R333, R335); `own` is the member's final segment. -/
def flagsBad (x : Ctx) (own : Nat × Nat) : Bool :=
  let fuse := natBits 1 3 x.cflags ≠ 0
  let red := x.collOp = 1 || x.collOp = 2 || x.collOp = 3
  (x.cflags ≠ 0 && !red) || (natBit 2 x.cflags && natBit 3 x.cflags) || (natBit 0 x.cflags && x.redOp ≠ 1) ||
  (fuse && (!isFloatType x.dout || !(1 ≤ x.redOp && x.redOp ≤ 3) || x.rowLen = 0 ||
    own.2 % (max 1 x.rowLen) ≠ 0))

/-- The send counts of an ALLTOALLV (10:R268). -/
def readCounts (s : State) (n : Nat) (a : W64) : List W64 :=
  (List.range n).map fun j => BitVec.ofNat 64 (leNat (localRead s (faAdd a (8 * j)) 8))

/-- The context of an entry with its algorithm resolved and, for an ALLTOALLV, its counts. -/
def prepCtx (s : State) (q : BitVec 6) (e : Entry) (c : Comm) : Ctx :=
  let x := blankCtx s q e
  let n := commSize s c
  let y := { x with scounts := if x.collOp = 7 then readCounts s n (x.addr 64) else []
                    count := if x.collOp = 8 then 0 else x.count }
  let outB := outElems y.collOp y.count n * elemIn y.redOp y.dout y.rowLen
  { y with alg := resolveAlg y.collOp y.redOp y.mode (ctxSize y n) outB y.alg.toNat }

/-- LANES (10:R264). -/
def lanesFor (x : Ctx) (n : Nat) : Nat :=
  if x.alg = 4 then 0
  else if x.f 10 1 = 0 then min 16 (max 1 (ceilDiv (ctxSize x n) 8192)) else x.f 10 1

/-- The static checks of COLL_SUBMIT (10:R262, R267). -/
def collBad (s : State) (c : Comm) (x : Ctx) : Bool :=
  let n := commSize s c
  let src := inElems x.collOp x.count n x.sends * elemIn x.redOp x.din x.rowLen
  let dst := outElems x.collOp x.count n * elemIn x.redOp x.dout x.rowLen
  let own := if x.collOp = 3 then (0, x.count) else if x.alg = 4 then (0, x.count)
    else (reduceRanges s c x (myOffs s c) 2).headD (0, 0)
  !comboOk x.collOp x.redOp x.mode x.din x.dout (x.f 7 1) (inElems x.collOp x.count n 0 * elemIn x.redOp x.din x.rowLen ≤ 64) ||
  (x.collOp ≠ 8 && x.count = 0) || (rooted x.collOp && decide (n ≤ x.root)) || decide (32 < x.f 10 1) ||
  flagsBad x own ||
  (x.collOp ≠ 8 && (x.collOp ≠ 2 || myRank s c = x.root) && (x.collOp ≠ 5 || myRank s c = x.root) && overlapBad x src dst)

/-- The check of a COLL_SUBMIT: the status that refuses it. -/
def collCheck (s : State) (c : Comm) (x : Ctx) : Option Byte :=
  if collBad s c x then some stBadDesc else addrsCheck s c.map.toNat (collAddrs s c x)

/-- The PCI Express reads of the inputs: SCOUNTS first, then SRC and the preload (log 4). -/
def collReads (q : BitVec 6) (e : Entry) (s : State) : List (Nat × Nat) :=
  match commHere (BitVec.ofNat 32 (bodyField e 0 4)) s with
  | none => []
  | some c =>
    let x := prepCtx s q e c
    let n := commSize s c
    if collBad s c { x with scounts := [] } then []
    else
      let sc := if x.collOp = 7 then localPieces s (x.addr 64) (8 * n) else []
      if !busReady sc s || collCheck s c x ≠ none then sc
      else
        let src := if x.collOp = 8 || (x.collOp = 5 && myRank s c ≠ x.root) then []
          else localPieces s (x.addr 24) (inElems x.collOp x.count n x.sends * elemIn x.redOp x.din x.rowLen)
        let pre := if natBit 0 x.cflags then localPieces s (x.addr 40) (x.count * dtypeSize x.dout) else []
        sc ++ src ++ pre

/-- The signature of a collective (09 Table 9-2, 10:R263). -/
def collSig (c : Comm) (x : Ctx) : W64 :=
  let codes : Bytes := [x.opcode, BitVec.ofNat 8 x.collOp, BitVec.ofNat 8 x.redOp, BitVec.ofNat 8 x.mode, BitVec.ofNat 8 x.din,
    BitVec.ofNat 8 x.dout, x.alg]
  signature (sigBlock x.handle x.seq c.key codes (if rooted x.collOp then BitVec.ofNat 32 x.root else 0xFFFFFFFF)
    (if x.collOp = 7 || x.collOp = 8 then 0 else x.count) 0)

/-- Free thread contexts of a physical lane (13, "The lane": eight). -/
def freeThreads (s : State) (lane : Byte) : List (BitVec 3) :=
  ((List.range 8).map (BitVec.ofNat 3)).filter fun t => !s.threads.any fun y => y.id.lane = lane && y.id.thr = t

/-- An even SLOT_BASE with `n` free slots of 384 (13:R354). -/
def slotSpace (s : State) (lane : Byte) (n : Nat) : Option Nat :=
  ((List.range 193).map fun i => 2 * i).find? fun b => decide (b + n ≤ 384) &&
    s.threads.all fun t => t.id.lane ≠ lane || t.slots = 0 || n = 0 || t.slotBase + t.slots ≤ b || b + n ≤ t.slotBase

/-- The lane can take `thr` threads with `n` slots. -/
def laneFits (s : State) (thr n : Nat) (lane : Byte) : Bool :=
  decide (thr ≤ (freeThreads s lane).length) && (slotSpace s lane n).isSome

/-- The lanes of a collective: the first active logical lanes that fit (10:R264; log 28). -/
def chooseLanes (s : State) (k thr n : Nat) : Option (List Byte) :=
  let l := (s.boot.laneMap.filter (laneFits s thr n)).take k
  if l.length = k then some l else none

/-- The program that serves a collective: the most recently loaded one whose SERVES matches (13:R358). -/
def servingProg (s : State) (x : Ctx) : Option Program :=
  let fits (p : Program) : Bool :=
    let h := (p.words.headD 0).toNat
    let m (i v : Nat) : Bool := natBits (8 * i) 8 h = 0xFF || natBits (8 * i) 8 h = v
    natBits 0 32 h ≠ 0 && m 0 x.collOp && m 1 x.alg.toNat && m 2 x.mode && m 3 x.din
  let newest (l : List Program) : Option Program :=
    l.foldl (fun b p => match b with | none => some p | some o => if o.gen < p.gen then some p else some o) none
  newest ((s.progs.filter fun p => s.progs.all fun o => o.id ≠ p.id || o.gen ≤ p.gen).filter fits)

/-- THREADS, and slots per lane, of a program header (13 Table 13-5). -/
def headThreads (w : W64) : Nat := natBits 53 3 w.toNat + 1
def headSlots (w : W64) : Nat := 2 * natBits 44 8 w.toNat

/-- The arguments at spawn (13 Table 13-1). A field without a meaning for the operation, its CFLAGS or this member holds zero
(10:R263, Table 10-2). -/
def spawnArgs (s : State) (c : Comm) (x : Ctx) (logical thr thrs : Nat) : List W64 :=
  let o := myOffs s c
  let only (p : Bool) (v : W64) : W64 := if p then v else 0
  let atRoot : Bool := myRank s c = x.root
  let b (l : List (Nat × Nat)) : W64 := BitVec.ofNat 64 (l.foldl (fun n f => n + f.2 * 2 ^ f.1) 0)
  [b [(0, x.seq.toNat), (32, x.handle.toNat)],
   b [(0, logical), (8, thr), (16, x.lanes), (24, thrs - 1)],
   b [(0, x.collOp), (8, x.redOp), (16, x.mode), (24, x.alg.toNat), (32, x.din), (40, x.dout), (48, x.cflags)],
   b [(0, x.count)], only (x.collOp ≠ 5 || atRoot) (x.addr 24), only (x.collOp ≠ 2 || atRoot) (x.addr 32),
   only (natBit 0 x.cflags) (x.addr 40), only x.fused (x.addr 48),
   b [(0, if x.fused || x.redOp = 9 then x.rowLen else 0), (32, if rooted x.collOp then x.root else 0)],
   b [(0, myRank s c), (17, ext s c 0 - 1), (23, ext s c 1 - 1), (29, ext s c 2 - 1), (34, o.getD 0 0), (40, o.getD 1 0),
      (46, o.getD 2 0)],
   only (x.collOp = 7) (x.addr 64), only (x.collOp = 7) (x.addr 72)]

/-- Starts the threads of a collective on its lanes (13:R350): a loaded program runs; the threads of an Octoz program wait in
CRECV while the engine of Machine/Collectives.lean does its work (log 29). -/
def spawnAll (c : Comm) (x : Ctx) (prog : Option Program) (lanes : List Byte) (s : State) : State :=
  let head := (prog.map fun p => p.words.headD 0).getD 0
  let thrs := if prog.isSome then headThreads head else 1
  let slots := if prog.isSome then headSlots head else 0
  lanes.zipIdx.foldl
    (fun t l =>
      let base := (slotSpace t l.1 slots).getD 0
      let new := ((freeThreads t l.1).take thrs).zipIdx.map fun f =>
        let th : Thread :=
          { id := { lane := l.1, thr := f.1 }, ctx := x.idx, logical := BitVec.ofNat 8 l.2
            prog := (prog.map fun p => p.id).getD 0, gen := (prog.map fun p => p.gen).getD 0, pc := 1
            s := let a := spawnArgs t c x l.2 f.2 thrs; a ++ List.replicate (32 - a.length) 0
            v := List.replicate 8 0, st := if prog.isSome then .running else .inCrecv, waitArg := 0, slotBase := base
            slots := slots, stores := 0, missed := false, handles := [], pend := [], source := none }
        th
      { t with threads := t.threads ++ new }) s

/-- The slots of a lane range in the reset state of 12:R334: value 0, and in EXACT mode NEGZERO set in the flags (12 Table
12-4: the other modes hold only OVF there). -/
def resetSlots (lane : Byte) (base n mode : Nat) (s : State) : State :=
  let one : Bytes := List.replicate 480 0 ++ (List.range 6).flatMap (fun _ => leBytes 4 (if mode = 2 then 8 else 0)) ++
    slice 0 8 [BitVec.ofNat 8 mode]
  { s with slots := (List.range n).foldl (fun m i => memWrite 0 m (lane.toNat * 196608 + (base + i) * 512) one) s.slots }

/-- The slots of a new collective start in the reset state (12:R334, Edges). -/
def clearSlots (i : BitVec 9) (mode : Nat) (s : State) : State :=
  (s.threads.filter fun t => t.ctx = i).foldl (fun u t => resetSlots t.id.lane t.slotBase t.slots mode u) s

/-- The members whose coordinates are in the lost set: the lowest job-local rank (16:R469). -/
def lostRank (s : State) (c : Comm) : Option Nat :=
  let l := ((List.range (commSize s c)).filter fun r => s.ni.lost.contains (memberAt s c r)).map (jobRank s c)
  match l with
  | [] => none
  | r :: t => some (t.foldl min r)

/-- The packets that waited for a collective take effect, in order (11:R308, 10:R281). -/
def replayEarly (x : Ctx) (s : State) : State :=
  let mine (p : Packet) : Bool := chunkHandle p = x.handle && chunkSeq p = x.seq
  (s.ni.early.filter fun e => mine e.2).foldl (fun t e => if e.2.kind = 4 then chunkAct e.1 e.2 t else cinchAct e.1 e.2 t)
    { s with ni := { s.ni with early := s.ni.early.filter fun e => !mine e.2 } }

/-- Of the data that waited for a collective, the input whose SIGNATURE[15:0] differs from this member's, with the lowest job-local
rank of its sender (09:R248, R249). -/
def earlyMismatch (s : State) (c : Comm) (x : Ctx) : Option (BitVec 18 × W16) :=
  let sender (p : Packet) : Option (BitVec 18) :=
    if !crcOk p || pktPoison p then none
    else if p.kind = 4 then (if isGrant p || isRereq p then none else some (jobRank18 s c (chunkSender p)))
    else if [1, 2, 5, 6].contains (payField p 10 1 % 16) then some (jobAt s c p.src) else none
  let bad := s.ni.early.filterMap fun e =>
    let g : W16 := BitVec.ofNat 16 (payField e.2 8 2)
    if chunkHandle e.2 = x.handle && chunkSeq e.2 = x.seq && g ≠ sig16 x.sig then (sender e.2).map fun r => (r, g) else none
  match bad with
  | [] => none
  | b :: r => some (r.foldl (fun m y => if y.1.toNat < m.1.toNat then y else m) b)

/-- The agreement vote that runs beside a BROADCAST on AXIS_TREE, on an Octoz program or a loaded one (11:R306). -/
def startVote (c : Comm) (x : Ctx) (s : State) : State :=
  if x.collOp = 5 && 1 < commSize s c then startCinch true [.raw x.sig false] ((findCtx x.idx s).getD x) s else s

/-- A collective's own input is in place, and its work begins: Cinch, or grants and the plan, with the vote of a BROADCAST
(10 Life of a collective; 11:R306). -/
def runColl (c : Comm) (x : Ctx) (s : State) : State :=
  let vals := inputVals s c x
  let indexed := vals.zipIdx.map fun y => (y.2, y.1)
  if x.alg = 4 then startCinch false vals x s
  else
    let me := myRank s c
    let done := match x.collOp with
      | 4 => indexed.map fun y => (me * x.count + y.1, y.2)
      | 5 => indexed
      | 6 => (indexed.filter fun y => y.1 / (max 1 x.count) = me)
      | _ => []
    let y := { x with held := indexed, done := done, plan := planOf s c x }
    advance x.idx (startVote c y (grantAll c y (putCtx y s)))

/-- The start of a bound collective (sequence by log 30): the herald leaves and enters this node's own filter; a held notice
ends it at once (09:R250), then a lost member (16:R469), then a herald or held input whose signature differs (09:R248). -/
def launch (c : Comm) (x : Ctx) (run : Ctx → State → State) (s : State) : State :=
  let key : HeraldKey := .collective x.handle x.seq
  let prior := s.kp.filter.find? fun f => f.key = key
  let s1 := flood none c.lo c.hi (heraldPacket s 0 x.handle x.seq x.sig 0 c.lo c.hi) s
  let s2 := if prior.isSome then s1
    else startHold (.herald x.handle x.seq) s.kp.acting.heraldHold.toNat (filterAdd key x.sig (some (ownJob x s)) (myCoord s) s1)
  match c.notices.find? (fun n => n.seq = x.seq) with
  | some n =>
    completeCtx x n.cause (noticeResult n) true
      (modComm x.handle (fun c => { c with notices := c.notices.filter fun m => m.seq ≠ n.seq }) s2)
  | none =>
    match lostRank s2 c with
    | some r => completeCtx x stMemberLost (BitVec.ofNat 64 r) true s2
    | none =>
      match prior.filter fun f => f.sig ≠ x.sig with
      | some f => mismatch x (f.emitter.getD (jobAt s2 c f.src)) (sig16 f.sig) s2
      | none =>
        match earlyMismatch s2 c x with
        | some b => mismatch x b.1 b.2 s2
        | none => replayEarly x (run x s2)

/-- The lowest free context index, when one is free beside those that marked contexts take first (10:R282). -/
def freeContext (s : State) : Option (BitVec 9) :=
  if Config.contextMax ≤ s.ctxs.length + (s.saved.filter fun y => y.marked).length then none
  else ((List.range 512).map (BitVec.ofNat 9)).find? fun i => !s.ctxs.any fun x => x.idx = i

/-- Binds a context: the next COLL_SEQ (09:R244), the lanes and threads. The first collective bound after a RANKMAP_PATCH that moved a
member is degraded (06:R168). -/
def bindCtx (c : Comm) (x : Ctx) (i : BitVec 9) (prog : Option Program) (lanes : List Byte) (s : State) : Ctx × State :=
  let q := seqNext c.seq
  let me := jobRank18 s c (myRank s c)
  let y := { x with idx := i, seq := q, lanes := lanes.length, lag := (me, 0), serving := prog.map fun p => p.id
                    degraded := c.patched }
  let s1 := modComm x.handle (fun c => { c with seq := q, patched := false }) { s with ctxs := s.ctxs ++ [y] }
  (y, clearSlots i y.mode (spawnAll c y prog lanes s1))

/-- A loaded program's members send to whom its threads choose, so every other member may be a sender and is granted
at start (10:R275). -/
def grantServing (c : Comm) (x : Ctx) (s : State) : State := startVote c x (grantAll c x s)

/-- A waiting command of a drained communicator, or without a context or lanes, waits at its queue head (05:R142,
04:R104, 10:R264). -/
def startColl (c : Comm) (x : Ctx) (s : State) : Option State :=
  let prog := if x.alg = 4 then none else servingProg s x
  let head := (prog.map fun p => p.words.headD 0).getD 0
  let thrs := if prog.isSome then headThreads head else 1
  let slots := if prog.isSome then headSlots head else 0
  match freeContext s, chooseLanes s (lanesFor x (commSize s c)) thrs slots with
  | some i, some lanes =>
    let u := bindCtx c x i prog lanes s
    let y := { u.1 with sig := collSig c u.1 }
    some (launch c y (if prog.isSome then grantServing c else runColl c) (putCtx y u.2))
  | _, _ => none

/-- COLL_SUBMIT (10:R262; 09:R244; 04:R104). An unknown handle is NO_COMM whatever reserved value another field holds (DESIGN CHOICE,
log 98). -/
def execCollSubmit (q : BitVec 6) (e : Entry) (s : State) : Out :=
  live s (octozRead q e (entOpcode e = 0x20) collFields (collReads q e) fun s =>
    match commHere (BitVec.ofNat 32 (bodyField e 0 4)) s with
    | none => some (endEntry q e stNoComm s)
    | some c =>
      let x := prepCtx s q e c
      match collCheck s c x with
      | some st => some (endEntry q e st s)
      | none => if commHeld s c then none else startColl c x s)

end Sys2Proof.Machine
end

