-- ==== Sys2Proof/Machine/Tannery.lean ====
section
/-! DEFINITION. Machine/Tannery.lean: the Tannery tier (15): TM_OP, armed ranges, fences, session state, execution by the
modules, ECC, MODULE_DOWN and patrol scrub. -/

namespace Sys2Proof.Machine

/-- ROW_SPAN and SUBARRAY_SPAN (15:R407). -/
def rowSpan (s : State) : Nat := (runningPorts s).length * 524288
def subSpan (s : State) : Nat := 512 * rowSpan s

/-- The ticket of the lowest operation, and the running modules that an operation touches. -/
def tmRunning (s : State) : Byte := s.boot.runTpMask

/-- Two ranges of the same length overlap. -/
def overlaps (a b n m : Nat) : Bool := a < b + m && b < a + n && 0 < n && 0 < m

/-- A counted armed range overlaps `[a, a + n)` (15:R426, R427). -/
def armedOverlap (s : State) (a n : Nat) : Bool := s.tm.armed.any fun r => overlaps a r.dst n r.len

/-- The operation of an entry, before it takes a ticket. -/
def tmOpOf (e : Entry) : TmQueued :=
  let bank : Bool := bodyField e 1 1 = 1
  let addr (o : Nat) : Nat := if bank then bodyField e o 8 else natBits 0 44 (bodyField e o 8)
  { op := 0, ticket := none, top := BitVec.ofNat 8 (bodyField e 0 1), bankView := bank
    dtype := BitVec.ofNat 8 (bodyField e 2 1), bXor := BitVec.ofNat 8 (bodyField e 3 1)
    dXor := BitVec.ofNat 8 (bodyField e 4 1), dst := addr 8, srcA := addr 16, srcB := addr 24
    len := bodyField e 32 8, imm := BitVec.ofNat 64 (bodyField e 40 8)
    moduleMask := BitVec.ofNat 8 (bodyField e 48 1), pcMask := BitVec.ofNat 32 (bodyField e 52 4)
    bankMask := BitVec.ofNat 16 (bodyField e 56 2), todo := 0, failed := false, disturbed := false }

/-- An operand of the interleaved view names this node's Tannery space (15:R411). -/
def tmLocal (e : Entry) (o : Nat) : Bool :=
  let a : W64 := BitVec.ofNat 64 (bodyField e o 8)
  faRank a = rankSelf && faSpace a = 1

/-- Row operations, and bank-pair operations (15 Table 15-4). -/
def isRowOp (top : Byte) : Bool := 1 ≤ top.toNat && top.toNat ≤ 6
def isPairOp (top : Byte) : Bool := 0x10 ≤ top.toNat && top.toNat ≤ 0x15

/-- Element size of a bank-pair operation: 1 where it works on bytes or patterns. -/
def pairElem (o : TmQueued) : Nat := if 0x12 ≤ o.top.toNat then dtypeSize o.dtype.toNat else 1

/-- DTYPE and IMM are not reserved for the operation (15 Tables 15-4, 15-7). -/
def tmCodes (o : TmQueued) : Bool :=
  let d := o.dtype.toNat
  match o.top.toNat with
  | 0x02 => d = 0 && (o.imm.setWidth 8 = (0 : Byte) || o.imm.setWidth 8 = (0xFF : Byte))
  | 0x12 | 0x14 | 0x15 => d = 3 || d = 9 || d = 0xA
  | 0x13 => d = 3
  | _ => d = 0

/-- The operands of an operation that the operation uses, destination first. -/
def tmOperands (o : TmQueued) : List Nat :=
  [o.dst] ++ (if usesA o.top then [o.srcA] else []) ++ (if usesB o.top then [o.srcB] else [])

/-- Placement in the interleaved view (15 Table 15-5). -/
def placeInterleaved (s : State) (o : TmQueued) : Bool :=
  let ops := tmOperands o
  if isRowOp o.top then
    ops.all (fun a => a % rowSpan s = 0) && o.len % rowSpan s = 0 &&
    ops.all (fun a => a / subSpan s = o.dst / subSpan s && (o.len = 0 || (a + o.len - 1) / subSpan s = o.dst / subSpan s))
  else ops.all (fun a => a % 2097152 = o.dst % 2097152 && a % 256 = 0) && o.len % 256 = 0 && o.len % pairElem o = 0

/-- Placement in the bank view (15 Table 15-5, R412). -/
def placeBank (o : TmQueued) : Bool :=
  let ops := tmOperands o
  ops.all (fun a => a < 2 ^ 27 && a / 1024 < 98304) &&
  (if isRowOp o.top then
    ops.all (fun a => a % 1024 = 0 && a / 1024 / 512 = o.dst / 1024 / 512) && o.len = 1024 && o.bXor = 0 && o.dXor = 0
   else ops.all (fun a => a % 256 = 0 && a % 1024 + o.len ≤ 1024) && o.len % pairElem o = 0 &&
    o.bXor.toNat < 16 && o.dXor.toNat < 16)

/-- Banks of a set shifted by `x`. -/
def banksXor (m : W16) (x : Byte) : List Nat := ((List.range 16).filter fun b => m.getLsbD b).map fun b => b ^^^ x.toNat

/-- The destination overlaps a source, other than DST equal to SRC_A of a bank-pair operation (15:R411). -/
def tmOverlap (o : TmQueued) : Bool :=
  let meet (x : Byte) : Bool :=
    !o.bankView || (banksXor o.bankMask x).any fun b => (banksXor o.bankMask o.dXor).contains b
  let same : Bool := isPairOp o.top && o.dst = o.srcA && o.dXor = 0
  (usesA o.top && !same && meet 0 && overlaps o.dst o.srcA o.len o.len) ||
  (usesB o.top && meet o.bXor && overlaps o.dst o.srcB o.len o.len)

/-- The checks of TM_OP (15:R411, R427; 01:R28): the status that refuses it. Without a Tannery it is LIMIT whatever value a field
holds; nonzero reserved bits are BAD_DESC before that (DESIGN CHOICE, log 98). -/
def tmOpCheck (s : State) (e : Entry) : Option Byte :=
  let o := tmOpOf e
  let locals := [8] ++ (if usesA o.top then [16] else []) ++ (if usesB o.top then [24] else [])
  if (runningPorts s).isEmpty then some stLimit
  else if !(isRowOp o.top || isPairOp o.top) || decide (1 < bodyField e 1 1) || !tmCodes o then some stBadDesc
  else if o.bankView then
    if !placeBank o || tmOverlap o then some stBadDesc
    else if s.tm.armed.any (fun r => (List.range (ceilDiv r.len 256)).any fun i =>
        opCovers s o o.dst o.dXor.toNat (interleave s (r.dst + 256 * i))) then some stBadDesc
    else none
  else if !(locals.all (tmLocal e)) || (tmOperands o).any (fun a => decide (2 ^ 44 < a + o.len)) || !placeInterleaved s o ||
      tmOverlap o then some stBadDesc
  else if (tmOperands o).any (fun a => tmCapacity s < a + o.len) then some stLimit
  else if armedOverlap s o.dst o.len then some stBadDesc
  else none

/-- The running modules that an operation touches (15:R412, R414). -/
def tmTouches (s : State) (o : TmQueued) : Byte :=
  if o.bankView then o.moduleMask &&& tmRunning s else tmRunning s

/-- A module queue that the operation needs is full (10 Table 10-9). -/
def tmFull (s : State) (m : Byte) : Bool :=
  (List.range 8).any fun i => m.getLsbD i && decide (Config.tmQueueMax ≤ tmDepth s i)

/-- At the start of an operation (15:R415): dirty lines of the sources are written back, lines of the destination
are invalidated. -/
def tmPrepare (o : TmQueued) (s : State) : State :=
  let src (l : CacheLine) : Bool := inSrc s o (l.granule * 256)
  let dst (l : CacheLine) : Bool := inDst s o (l.granule * 256)
  { s with tm := { s.tm with
      mem := (s.tm.cache.filter src).foldl (fun m l => writeBack l m) s.tm.mem
      cache := (s.tm.cache.filter fun l => !dst l).map fun l => if src l then { l with dirty := false } else l } }

/-- Puts an operation into the queue of every module it touches; one that touches a module that is down has failed
there (15:R430), and those modules execute nothing. -/
def tmEnqueue (o : TmQueued) (s : State) : State :=
  let m := tmTouches s o
  let o1 : TmQueued := { o with op := s.tm.nextOp, todo := m &&& ~~~ s.tm.down, failed := (m &&& s.tm.down) != 0 }
  let s1 := tmPrepare o s
  { s1 with tm := { s1.tm with queue := s1.tm.queue ++ [o1], nextOp := s1.tm.nextOp + 1 } }

/-- Waiting fences whose tickets have all executed complete (15:R416, R431): the destination granules are no longer old
or new, and the lowest failed ticket is reported. -/
def fenceDone (c : Cmd) (t : W64) (s : State) : State :=
  let bad := s.tm.failedTickets.filter fun x => x.toNat ≤ t.toNat
  let s1 := { s with tm := { s.tm with
      stale := s.tm.stale.filter fun x => decide (t.toNat < x.2.2.toNat)
      failedTickets := s.tm.failedTickets.filter fun x => decide (t.toNat < x.toNat) } }
  match bad with
  | [] => endCmd c stOK 0 0 s1
  | x :: r => endCmd c stCheckFail 1 (r.foldl (fun a b => if b.toNat < a.toNat then b else a) x) s1

/-- Completes the fences and STATE_ commands whose operations have executed. -/
def tmSettle (s : State) : State :=
  s.cmds.foldl
    (fun t c => match c.kind with
      | .tmFence k => if k.toNat ≤ (tmDone t).toNat then fenceDone c k t else t
      | _ => t) s

/-- Operations that every module has executed leave the queue: a failed ticket waits for its fence, an armed range is
armed or disarmed, and a STATE_ command completes (15:R414, R425, R426, R431). -/
def tmRetire (o : TmQueued) (s : State) : State :=
  let s1 := { s with tm := { s.tm with queue := s.tm.queue.filter fun x => x.op ≠ o.op } }
  let s2 := match o.ticket with
    | some t => if o.failed then { s1 with tm := { s1.tm with failedTickets := t :: s1.tm.failedTickets } } else s1
    | none =>
      match s1.cmds.find? (fun c => c.kind = .tmState o.op) with
      | none => s1
      | some c => endCmd c (if o.failed then stCheckFail else stOK) 0 0 s1
  if o.top = 0x20 then
    { s2 with tm := { s2.tm with armed := updWhere (fun r => r.dst = o.dst && !r.armed) (fun r => { r with armed := true }) s2.tm.armed } }
  else if o.top = 0x21 then
    { s2 with tm := { s2.tm with armed := s2.tm.armed.filter fun r => !(r.dst = o.dst && r.disarm) } }
  else s2

/-- Retires operations with nothing left to do, in order, by fuel, then what waited for them. -/
def tmRetireAll : Nat → State → State
  | 0, s => tmSettle s
  | k + 1, s =>
    match s.tm.queue.find? (fun o => o.todo = 0) with
    | none => tmSettle s
    | some o => tmRetireAll k (tmRetire o s)

/-- Takes a ticket and queues the operation; the command completes with it (15:R414). -/
def tmStart (q : BitVec 6) (e : Entry) (o : TmQueued) (s : State) : State :=
  let t := s.tm.next
  let s1 := tmEnqueue { o with ticket := some t } { s with tm := { s.tm with next := t + 1 } }
  tmRetireAll s1.tm.queue.length (endResult q e t s1)

/-- Used bits of the TM_OP BODY (15 Table 15-7). -/
def tmOpFields : List (Nat × Nat) :=
  [(0, 8), (1, 8), (2, 8), (3, 8), (4, 8), (8, 64), (16, 64), (24, 64), (32, 64), (40, 64), (48, 8), (52, 32), (56, 16)]

/-- TM_OP (15:R411, R414): every TOP but the control operations, which have rows of their own. -/
def execTmOp (q : BitVec 6) (e : Entry) (s : State) : Out :=
  let top := bodyField e 0 1
  live s (octozRow q e (entOpcode e = 0x30 && top ≠ 0x20 && top ≠ 0x21) tmOpFields fun s =>
    match tmOpCheck s e with
    | some st => some (endEntry q e st s)
    | none =>
      let o := tmOpOf e
      if tmFull s (tmTouches s o) then none else some (tmStart q e o s))

/-- The common checks of the control operations (15 Table 15-5, R411). -/
def controlCheck (s : State) (e : Entry) (codes : Bool) : Option Byte :=
  let o := tmOpOf e
  if (runningPorts s).isEmpty then some stLimit
  else if bodyField e 1 1 ≠ 0 || !tmLocal e 8 || 2 ^ 44 < o.dst + o.len || o.dst % 4096 ≠ 0 || o.len % 4096 ≠ 0 || !codes then some stBadDesc
  else if tmCapacity s < o.dst + o.len then some stLimit
  else none

/-- TM_OP ACCUM_ARM (15:R426). -/
def execAccumArm (q : BitVec 6) (e : Entry) (s : State) : Out :=
  live s (octozRow q e (entOpcode e = 0x30 && bodyField e 0 1 = 0x20) tmOpFields fun s =>
    let o := tmOpOf e
    let d := o.dtype.toNat
    let op : Byte := o.imm.setWidth 8
    match controlCheck s e ((d = 3 || d = 9 || d = 0xA) && 1 ≤ op.toNat && op.toNat ≤ 3) with
    | some st => some (endEntry q e st s)
    | none =>
      if armedOverlap s o.dst o.len then some (endEntry q e stBadDesc s)
      else if Config.armedMax ≤ s.tm.armed.length then some (endEntry q e stLimit s)
      else if tmFull s (tmRunning s) then none
      else
        let r : Armed := { dst := o.dst, len := o.len, dtype := o.dtype, op := op, armed := false, disarm := false }
        some (tmStart q e o { s with tm := { s.tm with armed := s.tm.armed ++ [r] } }))

/-- TM_OP ACCUM_DISARM (15:R426). -/
def execAccumDisarm (q : BitVec 6) (e : Entry) (s : State) : Out :=
  live s (octozRow q e (entOpcode e = 0x30 && bodyField e 0 1 = 0x21) tmOpFields fun s =>
    let o := tmOpOf e
    match controlCheck s e (o.dtype = 0) with
    | some st => some (endEntry q e st s)
    | none =>
      match s.tm.armed.find? (fun r => r.dst = o.dst && !r.disarm) with
      | none => some (endEntry q e stBadDesc s)
      | some r =>
        if o.len ≠ 0 && o.len ≠ r.len then some (endEntry q e stBadDesc s)
        else if tmFull s (tmRunning s) then none
        else
          let mark (x : Armed) : Armed := if x.dst = o.dst && !x.disarm then { x with disarm := true } else x
          some (tmStart q e o { s with tm := { s.tm with armed := s.tm.armed.map mark } }))

/-- TM_FENCE (15:R416, R431; 01:R28). -/
def execTmFence (q : BitVec 6) (e : Entry) (s : State) : Out :=
  live s (octozRow q e (entOpcode e = 0x31) [(0, 64)] fun s =>
    let k := bodyField e 0 8
    let last := s.tm.next.toNat - 1
    if (runningPorts s).isEmpty then some (endEntry q e stLimit s)
    else if last < k then some (endEntry q e stBadDesc s)
    else some (tmSettle (addCmd q e (.tmFence (BitVec.ofNat 64 (if k = 0 then last else k))) s)))

/-- Used bits of the STATE_ BODY (15 Table 15-8). -/
def stateFields : List (Nat × Nat) := [(0, 64), (8, 64), (16, 64), (24, 2), (28, 32)]

/-- The fabric address at BODY offset `o`. -/
def bodyAddr (e : Entry) (o : Nat) : W64 := BitVec.ofNat 64 (bodyField e o 8)

/-- Some byte of a local Tannery range lies in a module that is down (15:R430). -/
def tmDownIn (s : State) (a : W64) (n : Nat) : Bool :=
  faSpace a = 1 && s.tm.down != 0 && (List.range n).any fun i => !moduleUp s (bvModule (interleave s (faOffset a + i)))

/-- The checks of STATE_PARK and STATE_UNPARK (15:R422, R425; 06:R155, R159): `far` is the address outside Tannery
space, `tm` the one inside. -/
def parkCheck (s : State) (far tm : W64) (n : Nat) : Option Byte :=
  let fs := (faSpace far).toNat
  if (runningPorts s).isEmpty then some stLimit
  else if faRank far ≠ rankSelf || faRank tm ≠ rankSelf || faSpace tm ≠ 1 || !(fs = 0 || fs = 2) ||
      faOffset far % 64 ≠ 0 || faOffset tm % 64 ≠ 0 || n % 64 ≠ 0 || n < 64 || 17179869184 < n ||
      2 ^ 44 < faOffset far + n || 2 ^ 44 < faOffset tm + n then some stBadDesc
  else match localCheck s far n with
    | some st => some st
    | none => localCheck s tm n

/-- Moves session state and completes (15:R422): a poisoned source byte or a module that is down gives CHECK_FAIL with an undefined
destination. -/
def parkMove (q : BitVec 6) (e : Entry) (src dst : W64) (n : Nat) (check : Bool) (s : State) : State :=
  let bytes := localRead s src n
  let crc := crc32c bytes
  let want : W32 := BitVec.ofNat 32 (bodyField e 28 4)
  let hasCrc := natBit 0 (bodyField e 24 1)
  let result : W64 := if hasCrc then crc.setWidth 64 else 0
  if localPoison s src n || tmDownIn s src n || tmDownIn s dst n then
    endEntry q e stCheckFail (localUndefined dst n s)
  else if check && crc ≠ want then
    postCompletion q.toNat (plainC (entTag e) (entNoIrq e) stCheckFail result hasCrc) (localUndefined dst n s)
  else
    postCompletion q.toNat (plainC (entTag e) (entNoIrq e) stOK result hasCrc) (localWrite dst bytes s)

/-- STATE_PARK (15:R422). -/
def execStatePark (q : BitVec 6) (e : Entry) (s : State) : Out :=
  let src := bodyAddr e 0
  let dst := bodyAddr e 8
  let n := bodyField e 16 8
  live s (octozRead q e (entOpcode e = 0x32) stateFields
    (fun s => if parkCheck s src dst n = none then localPieces s src n else []) fun s =>
    match parkCheck s src dst n with
    | some st => some (endEntry q e st s)
    | none => some (parkMove q e src dst n false s))

/-- STATE_UNPARK (15:R422). -/
def execStateUnpark (q : BitVec 6) (e : Entry) (s : State) : Out :=
  let src := bodyAddr e 0
  let dst := bodyAddr e 8
  let n := bodyField e 16 8
  live s (octozRow q e (entOpcode e = 0x33) stateFields fun s =>
    match parkCheck s dst src n with
    | some st => some (endEntry q e st s)
    | none => some (parkMove q e src dst n (natBit 1 (bodyField e 24 1)) s))

/-- A queued copy or clear of a STATE_ command (15:R423, R424). -/
def stateOp (top : Byte) (dst src len : Nat) : TmQueued :=
  { op := 0, ticket := none, top := top, bankView := false, dtype := 0, bXor := 0, dXor := 0, dst := dst, srcA := src,
    srcB := 0, len := len, imm := 0, moduleMask := 0, pcMask := 0, bankMask := 0, todo := 0, failed := false,
    disturbed := false }

/-- Queues the operation of STATE_FORK or STATE_DROP, which completes at its execution (15:R425). -/
def stateStart (q : BitVec 6) (e : Entry) (o : TmQueued) (s : State) : State :=
  let s1 := addCmd q e (.tmState s.tm.nextOp) s
  let s2 := tmEnqueue o s1
  tmRetireAll s2.tm.queue.length s2

/-- STATE_FORK (15:R423). -/
def execStateFork (q : BitVec 6) (e : Entry) (s : State) : Out :=
  let src := bodyAddr e 0
  let dst := bodyAddr e 8
  let n := bodyField e 16 8
  live s (octozRow q e (entOpcode e = 0x34) stateFields fun s =>
    if (runningPorts s).isEmpty then some (endEntry q e stLimit s)
    else if faRank src ≠ rankSelf || faRank dst ≠ rankSelf || faSpace src ≠ 1 || faSpace dst ≠ 1 ||
        2 ^ 44 < faOffset src + n || 2 ^ 44 < faOffset dst + n || faOffset src % 2097152 ≠ faOffset dst % 2097152 || overlaps (faOffset src) (faOffset dst) n n || n % 256 ≠ 0
    then some (endEntry q e stBadDesc s)
    else if tmCapacity s < faOffset src + n || tmCapacity s < faOffset dst + n then some (endEntry q e stLimit s)
    else if tmFull s (tmRunning s) then none
    else some (stateStart q e (stateOp 0x10 (faOffset dst) (faOffset src) n) s))

/-- STATE_DROP (15:R424). -/
def execStateDrop (q : BitVec 6) (e : Entry) (s : State) : Out :=
  let dst := bodyAddr e 8
  let n := bodyField e 16 8
  live s (octozRow q e (entOpcode e = 0x35) stateFields fun s =>
    if (runningPorts s).isEmpty then some (endEntry q e stLimit s)
    else if faRank dst ≠ rankSelf || faSpace dst ≠ 1 || faOffset dst % 256 ≠ 0 || n % 256 ≠ 0 || 2 ^ 44 < faOffset dst + n
    then some (endEntry q e stBadDesc s)
    else if tmCapacity s < faOffset dst + n then some (endEntry q e stLimit s)
    else if tmFull s (tmRunning s) then none
    else some (stateStart q e (stateOp 0x11 (faOffset dst) 0 n) s))

/-- One element of a bank-pair operation (15:R420): FP32 by 12:R317, integers wrap, MAX and MIN by 12:R330. -/
def pairElement (top dtype c a b : Nat) : Nat :=
  if dtype = 3 then
    let x : W32 := BitVec.ofNat 32 a
    let y : W32 := BitVec.ofNat 32 b
    match top with
    | 0x12 => (fl32add x y).1.toNat
    | 0x13 => (fl32add x (fl32mul (BitVec.ofNat 32 c) y).1).1.toNat
    | 0x14 => (f32of (fmaxmin true (f32val x) (f32val y))).1.toNat
    | _ => (f32of (fmaxmin false (f32val x) (f32val y))).1.toNat
  else
    let w := 8 * dtypeSize dtype
    match top with
    | 0x14 => if sext w a < sext w b then b else a
    | 0x15 => if sext w b < sext w a then b else a
    | _ => (a + b) % 2 ^ w

/-- Bytes of a bank-pair operation, element by element, by fuel. -/
def pairBytes (top dtype c : Nat) : Nat → Bytes → Bytes → Bytes
  | 0, _, _ => []
  | k + 1, a, b =>
    let z := dtypeSize dtype
    if a.isEmpty then []
    else leBytes z (pairElement top dtype c (leNat (a.take z)) (leNat (b.take z))) ++ pairBytes top dtype c k (a.drop z) (b.drop z)

/-- The result bytes of an operation from its source bytes (15 Table 15-4). `at_` is the offset in the destination, for
the repeated pattern of BP_FILL. -/
def tmResult (o : TmQueued) (at_ n : Nat) (a b : Bytes) : Bytes :=
  match o.top.toNat with
  | 0x01 | 0x10 => a
  | 0x02 => List.replicate n (o.imm.setWidth 8)
  | 0x03 => List.zipWith (fun x y => x &&& y) a b
  | 0x04 => List.zipWith (fun x y => x ||| y) a b
  | 0x05 => List.zipWith (fun x y => x ^^^ y) a b
  | 0x06 => a.map fun x => ~~~ x
  | 0x11 => (List.range n).map fun i => BitVec.ofNat 8 (o.imm.toNat >>> (8 * ((at_ + i) % 8)))
  | t => pairBytes t o.dtype.toNat (natBits 0 32 o.imm.toNat) n a b

/-- One piece of an operation inside a granule: destination, source A and source B as bank addresses, the offset in the
destination range, and the length. -/
structure TmPiece where
  dst : Nat
  a : Nat
  b : Nat
  at_ : Nat
  n : Nat
deriving DecidableEq, Repr

/-- The pieces of an operation on module `m` (15:R406, R412). -/
def tmPieces (s : State) (o : TmQueued) (m : Nat) : List TmPiece :=
  let cuts := (List.range (o.len / 256 + 2)).filterMap fun i =>
    let off := if i = 0 then 0 else 256 * i - o.dst % 256
    let fin := min o.len (256 * (i + 1) - o.dst % 256)
    if off < fin then some (off, fin - off) else none
  if o.bankView then
    (List.range 32).flatMap fun pc => if !o.pcMask.getLsbD pc then [] else
    (List.range 16).flatMap fun bk => if !o.bankMask.getLsbD bk then [] else
    cuts.map fun (off, n) =>
      let base (x rc : Nat) : Nat := m * 2 ^ 36 + pc * 2 ^ 31 + (bk ^^^ x) * 2 ^ 27 + rc + off
      { dst := base o.dXor.toNat o.dst, a := base 0 o.srcA, b := base o.bXor.toNat o.srcB, at_ := off, n := n }
  else
    (cuts.filter fun (off, _) => bvModule (interleave s (o.dst + off)) = m).map fun (off, n) =>
      { dst := interleave s (o.dst + off), a := interleave s (o.srcA + off), b := interleave s (o.srcB + off), at_ := off, n := n }

/-- A part of a STATE_FORK or STATE_DROP made of whole rows in one subarray, which a row operation performs
(15:R423, R424). -/
def rowPart (s : State) (o : TmQueued) (at_ : Nat) : Bool :=
  let r := rowSpan s
  let d := (o.dst + at_) / r * r
  let a := d + o.srcA - o.dst
  o.dst ≤ d && d + r ≤ o.dst + o.len &&
  (!usesA o.top || (o.srcA % r = o.dst % r && a / subSpan s = d / subSpan s))

/-- The piece is performed by a row operation. -/
def byRow (s : State) (o : TmQueued) (p : TmPiece) : Bool := isRowOp o.top || (o.ticket.isNone && rowPart s o p.at_)

/-- A bank address as an error word of its module (15 Table 15-10). -/
def errAt (b : Nat) (cause : Byte) (unc : Bool) : TmError :=
  { pc := BitVec.ofNat 5 (natBits 31 5 b), bank := BitVec.ofNat 4 (natBits 27 4 b), row := BitVec.ofNat 17 (bvRow b)
    col := BitVec.ofNat 10 (b % 1024), cause := cause, uncorrectable := unc }

/-- The bank address of an error word. -/
def errAddr (m : Nat) (e : TmError) : Nat := bankAddr m e.pc.toNat e.bank.toNat e.row.toNat e.col.toNat

/-- DETAIL of a Tannery event (15 Table 15-10). -/
def tmDetail (s : State) (m : Nat) (e : TmError) (spares : Nat) (count : W32) (ticket : W64) : Bytes :=
  [BitVec.ofNat 8 m, e.pc.setWidth 8, e.bank.setWidth 8, e.cause] ++ leBytes 4 e.row.toNat ++ leBytes 2 e.col.toNat ++
  [BitVec.ofNat 8 spares, 0] ++ bvBytes 4 count ++ leBytes 8 (deinterleave s (errAddr m e)) ++ bvBytes 8 ticket

/-- ECC_UNCORRECTABLE (15:R430), with its ERR_STATUS bit (19 Table 19-3). -/
def eccBad (m : Nat) (e : TmError) (ticket : W64) (s : State) : State :=
  setErr errTannery (raiseEvent (0x3000 + m) 0x0302 (detailOf (tmDetail s m e 0 1 ticket)) s)

/-- A granule that an error poisons; the event is raised once per poisoned granule (15:R430). -/
def eccPoison (m : Nat) (e : TmError) (s : State) : State :=
  let g := bvGranule (errAddr m e)
  if s.tm.poison.contains g then s else eccBad m e 0 { s with tm := { s.tm with poison := g :: s.tm.poison } }

/-- ECC_CORRECTED (15:R430): counted, and raised at most once per 25,000 ticks. -/
def eccGood (m : Nat) (e : TmError) (ticket : W64) (s : State) : State :=
  let n := s.tm.corrections.getD m 0 + 1
  let due := match s.tm.corrAt.getD m none with | none => true | some t => decide (t + 25000 ≤ now s)
  if due then
    raiseEvent (0x3000 + m) 0x0301 (detailOf (tmDetail s m e 0 (BitVec.ofNat 32 n) ticket))
      { s with tm := { s.tm with corrections := setAt m 0 s.tm.corrections, corrAt := setAt m (some (now s)) s.tm.corrAt } }
  else { s with tm := { s.tm with corrections := setAt m n s.tm.corrections } }

/-- The rows that the test of row `r` copies to spares: r first, then its neighbours in the subarray (16:R453). -/
def testRows (r : Nat) : List Nat :=
  [r] ++ (if r % 512 = 0 then [] else [r - 1]) ++ (if r % 512 = 511 then [] else [r + 1])

/-- Starts the test of the rows around `row` (16:R453): as many go to spares as are free; `none` when no spare is free. -/
def startRows (m : BitVec 3) (pc : BitVec 5) (bank : BitVec 4) (row : Nat) (byError : Bool) (waiter : Option Nat)
    (log : State → State) (s : State) : Option State :=
  let u : TestUnit := .tannery m pc bank
  if testRunning s u then some (startTest u byError false (BitVec.ofNat 32 row) waiter s)
  else
    let free := 4 - sparedIn s m pc bank row
    if free = 0 then none
    else
      let moved := ((testRows row).take free).map fun r =>
        ({ module := m, pc := pc, bank := bank, row := r, forGood := false } : Spared)
      let s1 := { s with tm := { s.tm with spared := moved ++ s.tm.spared } }
      some (startTest u byError false (BitVec.ofNat 32 row) waiter (log s1))

/-- An ECC error that a unit met moves its rows and starts their test; with no spare row free the error counts as lasting
(16:R442, R453, R448). -/
def rowTest (m : Nat) (e : TmError) (ticket : W64) (s : State) : State :=
  let mb := BitVec.ofNat 3 m
  let u : TestUnit := .tannery mb e.pc e.bank
  let row := e.row.toNat
  let d := tmDetail s m e 0 1 ticket
  let s1 := { s with tree := { s.tree with errRow := (u, BitVec.ofNat 32 row) :: s.tree.errRow.filter fun x => x.1 ≠ u } }
  match startRows mb e.pc e.bank row true none (logError u (if e.uncorrectable then 0x0302 else 0x0301) d) s1 with
  | some t => t
  | none =>
    let lasting : Bytes := [2, 1, 0, 1] ++ leBytes 4 (unitIndex u) ++ leBytes 4 row ++ leBytes 12 0
    retireUnit u 3 row (logAppend 0x03 2 (unitIndex u) lasting s1)

/-- Marks and clears poison of granules. -/
def poisonGranule (g : Nat) (s : State) : State :=
  if s.tm.poison.contains g then s else { s with tm := { s.tm with poison := g :: s.tm.poison } }
def clearGranule (g : Nat) (s : State) : State := { s with tm := { s.tm with poison := s.tm.poison.filter fun x => x ≠ g } }

/-- The errors that an execution met, in addresses. -/
def badAddrs (m : Nat) (found : List TmError) : List Nat := (found.filter fun e => e.uncorrectable).map (errAddr m)

/-- A source granule, or for a row operation its row, is poisoned or met an uncorrectable error. -/
def srcBad (s : State) (bad : List Nat) (row : Bool) (a : Nat) : Bool :=
  let g := bvGranule a
  if row then s.tm.poison.any (fun x => x / 4 = g / 4) || bad.any fun x => x / 1024 = a / 1024
  else s.tm.poison.contains g || bad.any fun x => x / 256 = a / 256

/-- The error that poisons a piece: the uncorrectable one that the execution met in a source, else the source's poison. -/
def pieceError (m : Nat) (found : List TmError) (row : Bool) (p : TmPiece) : TmError :=
  let z := if row then 1024 else 256
  let e := (found.find? fun e => e.uncorrectable && (errAddr m e / z = p.a / z || errAddr m e / z = p.b / z)).getD (errAt p.a 0 true)
  { e with cause := if row then 0x02 else 0x03 }

/-- Performs one piece (15:R415 to R421): its destination granule gets the result, or is poisoned and keeps its bytes
when a source is bad; the old content stays readable until a fence covers a ticket. Source bytes were read before. The event
is raised once per poisoned row or granule (15:R430). -/
def tmDoPiece (m : Nat) (found : List TmError) (o : TmQueued) (w : TmPiece × Bool × Bool × Bytes) (s : State) : State :=

  let (p, row, bad, bytes) := w
  let g := bvGranule p.dst
  let old := (List.range 256).map fun i => tmByte s (g * 256 + i)
  let s1 := match o.ticket with
    | some t => { s with tm := { s.tm with stale := (g, old, t) :: s.tm.stale.filter fun x => x.1 ≠ g } }
    | none => s
  let s2 := { s1 with tm := { s1.tm with cache := s1.tm.cache.filter fun l => l.granule ≠ g } }
  if bad then
    let known := if row then s.tm.poison.any fun x => x / 4 = g / 4 else s.tm.poison.contains g
    let s3 := poisonGranule g { s2 with tm := { s2.tm with queue := updWhere (fun x => x.op = o.op) (fun x => { x with failed := true }) s2.tm.queue } }
    if known then s3 else eccBad m (pieceError m found row p) (o.ticket.getD 0) s3
  else clearGranule g { s2 with tm := { s2.tm with mem := memWrite 0 s2.tm.mem p.dst bytes } }

/-- The destination of an operation on modules `ms` becomes undefined, byte by byte (15:R417, 00:R11). -/
def tmSpoil (o : TmQueued) (ms : List Nat) (s : State) : State :=
  let ps := ms.flatMap (tmPieces s o)
  bumpFree (256 * ps.length)
    (ps.zipIdx.foldl (fun t p => { t with tm := { t.tm with
      mem := memWrite 0 t.tm.mem p.1.dst ((List.range p.1.n).map fun i => Config.freeByte (s.free + 256 * p.2 + i)) } }) s)

/-- Executes operation `o` on module `m` (15:R412, R415). Every source is read before any destination is written. A
normal write to its operands has left the destination undefined (15:R417), also where a module had executed before. -/
def tmExecute (m : Nat) (found : List TmError) (o : TmQueued) (s : State) : State :=
  let bad := badAddrs m found
  let work := (tmPieces s o m).map fun p =>
    let row := byRow s o p
    let rd (a : Nat) : Bytes := memRead 0 s.tm.mem a p.n
    let b := (usesA o.top && srcBad s bad row p.a) || (usesB o.top && srcBad s bad row p.b)
    (p, row, b, tmResult o p.at_ p.n (rd p.a) (rd p.b))
  let s1 := (found.filter fun e => !e.uncorrectable).foldl (fun t e => eccGood m e (o.ticket.getD 0) t) s
  let s2 := if writesDst o.top then work.foldl (fun t w => tmDoPiece m found o w t) s1 else s1
  let s2b := found.foldl (fun t e => rowTest m e (o.ticket.getD 0) t) s2
  let left := o.todo &&& ~~~ ((1 : Byte) <<< m)
  let s3 := if o.disturbed && writesDst o.top
    then tmSpoil o (if left = 0 then (List.range 8).filter fun i => (tmTouches s o).getLsbD i else [m]) s2b else s2b
  let rest := updWhere (fun x => x.op = o.op) (fun x => { x with todo := x.todo &&& ~~~ ((1 : Byte) <<< m) }) s3.tm.queue
  { s3 with tm := { s3.tm with queue := rest } }

/-- TM_OP_EXECUTE (15:R415): module `module` executes the next operation of its queue. -/
def execTmOpExecute (module : BitVec 3) (found : List TmError) (s : State) : Out :=
  let m := module.toNat
  live s fun s =>
    match s.tm.queue.find? (fun o => o.todo.getLsbD m) with
    | none => s
    | some o =>
      if !moduleUp s m then s
      else
        let s1 := tmExecute m found o s
        tmRetireAll s1.tm.queue.length s1

/-- A module goes down (15:R430): its queued operations count as failed there, and MODULE_DOWN is raised. An internal
cause of a module wakes the engine (02:R36, cause 0x8). -/
def takeDown (m : Nat) (cause : Byte) (s : State) : State :=
  let bit := (1 : Byte) <<< m
  let q := s.tm.queue.map fun o => if o.todo.getLsbD m then { o with todo := o.todo &&& ~~~ bit, failed := true } else o
  let s1 := { s with tm := { s.tm with down := s.tm.down ||| bit, queue := q
                                       cache := s.tm.cache.filter fun l => bvModule (l.granule * 256) ≠ m } }
  let d := [BitVec.ofNat 8 m, 0xFF, 0xFF, cause] ++ leBytes 8 0 ++ leBytes 4 1 ++ leBytes 16 0
  let s2 := setErr errTannery (raiseEvent (0x3000 + m) 0x0304 (detailOf d) s1)
  wakeSource 8 (tmRetireAll s2.tm.queue.length s2)

/-- MODULE_DOWN (15:R430): a running module stops answering after READY. -/
def execModuleDown (module : BitVec 3) (baseDie : Bool) (s : State) : Out :=
  live s (onlyIf (s.boot.phase = phReady && moduleUp s module.toNat)
    (takeDown module.toNat (if baseDie then 0x06 else 0x05)))

/-- PATROL_SCRUB (15:R432, R430): corrected errors are counted, uncorrectable ones poison their granule. -/
def execPatrolScrub (module : BitVec 3) (found : List TmError) (s : State) : Out :=
  let m := module.toNat
  live s (onlyIf (s.boot.phase = phReady && moduleUp s m) fun s =>
    found.foldl
      (fun t e =>
        let e4 := { e with cause := 0x04 }
        rowTest m e4 0 (if e.uncorrectable then eccPoison m e4 t else eccGood m e4 0 t)) s)

/-- TANNERY_ERROR (16 Table 16-1, R453; 15:R430): an ECC error that the base die or a bank-pair unit met. -/
def execTanneryError (module : BitVec 3) (e : TmError) (s : State) : Out :=
  let m := module.toNat
  live s (onlyIf (s.boot.phase = phReady && moduleUp s m) fun s =>
    rowTest m e 0 (if e.uncorrectable then eccPoison m e s else eccGood m e 0 s))

/-- Combines a packet's or lane store's bytes into an armed range (15:R427, R428): each covered element becomes old op
new; an element covered in part is undefined. -/
def armedElems (r : Armed) (o : Nat) (bs : Bytes) : Nat → Nat → State → State
  | 0, _, s => s
  | k + 1, i, s =>
    let z := dtypeSize r.dtype.toNat
    let top := if r.op = 1 then 0x12 else if r.op = 2 then 0x14 else 0x15
    let s1 :=
      if o ≤ i && i + z ≤ o + bs.length then
        let v := pairElement top r.dtype.toNat 0 (leNat (tmRead s i z)) (leNat (slice (i - o) z bs))
        tmWrite i (leBytes z v) s
      else bumpFree z (tmWrite i (freeBytes s z) s)
    armedElems r o bs k (i + z) s1

/-- A packet's or lane store's write to Tannery space: combined when it lands in an armed range (15:R427). -/
def tmStore (o : Nat) (bs : Bytes) (s : State) : State :=
  match s.tm.armed.find? (fun r => r.armed && overlaps o r.dst bs.length r.len) with
  | none => tmWrite o bs s
  | some r =>
    let z := dtypeSize r.dtype.toNat
    let first := o / z * z
    armedElems r o bs (ceilDiv (o + bs.length - first) z) first s

/-- A packet's or lane store's write to a local fabric address; poison travels with it where the destination holds
the mark (10:R548). -/
def storeBytes (a : W64) (bs : Bytes) (poison : Bool) (s : State) : State :=
  if faSpace a = 1 then
    let s1 := tmStore (faOffset a) bs s
    if poison then tmMarkPoison (faOffset a) bs.length s1 else s1
  else if poison then localWritePoison a bs s
  else localWrite a bs s

end Sys2Proof.Machine
end

