-- ==== Sys2Proof/Machine/Contexts.lean ====
section
/-! DEFINITION. Machine/Contexts.lean: the save and restore of collective contexts (10:R281, R282; 13:R361 to R363,
Tables 13-7 to 13-9; 15:R429). -/

namespace Sys2Proof.Machine

/-- The bytes of a lane's slot range. -/
def slotBytes (s : State) (t : Thread) : Bytes :=
  memRead 0 s.slots (t.id.lane.toNat * 196608 + t.slotBase * 512) (t.slots * 512)

/-- The lanes that a context's threads run on, in logical order, each with its threads. -/
def laneThreads (s : State) (x : Ctx) : List (List Thread) :=
  (List.range x.lanes).map fun l => s.threads.filter fun t => t.ctx = x.idx && t.logical.toNat = l

/-- A command waits at a queue head for a context, or a marked context does (10:R281, Edges). -/
def contextWanted (s : State) : Bool :=
  (s.saved.any fun y => y.marked) ||
  (List.range 64).any fun q =>
    let g := getPage q s
    match g.fetched with
    | [] => false
    | f :: _ =>
      let op := entOpcode f.entry
      !f.marked && (op = 0x20 || op = 0x40 || op = 0x41) && !queueHeld (BitVec.ofNat 6 q) s &&
      !(entFence f.entry && decide (0 < g.started)) &&
      (match commHere (BitVec.ofNat 32 (bodyField f.entry 0 4)) s with | none => false | some c => !commHeld s c)

/-- Every thread of the context is blocked in CRECV or SYNC with no store outstanding, or has ended (13:R361). -/
def threadsBlocked (s : State) (x : Ctx) : Bool :=
  s.threads.all fun t => t.ctx ≠ x.idx || t.st = .ended || ((t.st = .inCrecv || t.st = .inSync) && t.stores = 0 && t.pend.isEmpty)

/-- The context is eligible for saving (10:R281). -/
def canSave (s : State) (x : Ctx) : Bool :=
  !x.finished && decide (x.blockedSince + x.saveAfter.toNat ≤ now s) && threadsBlocked s x &&
  allConfirmed x && !(s.saved.any fun y => y.writing && y.ctx.idx = x.idx)

/-- The eligible context that has been blocked longest; the lowest index on a tie. -/
def pickSave (s : State) : Option Ctx :=
  (s.ctxs.filter (canSave s)).foldl
    (fun b x => match b with
      | none => some x
      | some y => if x.blockedSince < y.blockedSince || (x.blockedSince = y.blockedSince && x.idx.toNat < y.idx.toNat)
          then some x else some y) none

/-- The lowest free save record (15:R429). -/
def freeRecord (s : State) : Option (BitVec 9) :=
  ((List.range 512).map (BitVec.ofNat 9)).find? fun i => !s.saved.any fun y => y.record = i

/-- Where save record `i` lies (15:R429). -/
def recordAt (s : State) (i : BitVec 9) : Nat := tmCapacity s - 2 ^ 32 + i.toNat * 8388608

/-- Slots per lane of a context. -/
def laneSlots (l : List Thread) : Nat := (l.map fun t => t.slots).foldl max 0

/-- STATE of a thread record (13 Table 13-8). -/
def stateCode (t : TState) : Nat :=
  match t with
  | .ended => 1
  | .inCrecv => 2
  | .inSync => 3
  | _ => 0

/-- The blocking instruction word of a thread: the word at its program counter (13 Table 13-8). -/
def waitWord (s : State) (t : Thread) : W64 :=
  ((s.progs.find? fun p => p.id = t.prog && p.gen = t.gen).bind fun p => p.words[t.pc.toNat]?).getD 0

/-- A thread record, 832 bytes (13 Table 13-8). -/
def threadRecord (s : State) (t : Thread) : Bytes :=
  bvBytes 4 t.pc ++ bvBytes 2 t.prog ++ [BitVec.ofNat 8 (stateCode t.st), 0] ++ bvBytes 8 (waitWord s t) ++ leBytes 48 0 ++
  slice 0 256 (t.s.flatMap (bvBytes 8)) ++ slice 0 512 (t.v.flatMap (bvBytes 64))

/-- Accumulator slots (12 Table 12-4) of entries with their flags: `k` entries a slot, `per` of them in the place of one ENTRY,
by fuel. -/
def packSlots (mode k per : Nat) : Nat → List (Bytes × Nat) → List Bytes
  | 0, _ => []
  | f + 1, l =>
    if l.isEmpty then []
    else
      let here := l.take k
      let flag (e : Nat) : Nat := (((here.drop (e * per)).take per).map fun x => x.2).foldl (fun a b => a ||| b) 0
      (slice 0 480 (here.flatMap fun x => x.1) ++ ((List.range 6).flatMap fun e => leBytes 4 (flag e)) ++
        [BitVec.ofNat 8 mode, BitVec.ofNat 8 (ceilDiv here.length per)] ++ leBytes 6 0) :: packSlots mode k per f (l.drop k)

/-- The slots that hold the partials of a collective that Octoz's own programs run: LAC entries, 128-bit integers and binary32 values
(12:R322, Table 12-4; log 103). -/
def heldSlots (x : Ctx) : List Bytes :=
  let vs := x.held.map fun e => e.2
  let ovf (o : Bool) : Nat := if o then 16 else 0
  packSlots x.mode 6 1 vs.length (vs.filterMap fun v => match v with | .lac a fl => some (leBytes 80 a.toNat, fl.toNat) | _ => none) ++
  packSlots x.mode 30 5 vs.length (vs.filterMap fun v => match v with | .int i o => some (leBytes 16 (twos 128 i), ovf o) | _ => none) ++
  packSlots x.mode 120 20 vs.length (vs.filterMap fun v => match v with | .f32 b o => some (bvBytes 4 b, ovf o) | _ => none)

/-- The slots of one lane: those of its threads, or its share of Octoz's partials, at most 384 (log 103). -/
def laneImage (s : State) (x : Ctx) (logical : Nat) (l : List Thread) : Bytes :=
  if x.serving.isSome then (match l with | [] => [] | t :: _ => slotBytes s { t with slots := laneSlots l })
  else ((((heldSlots x).zipIdx.filter fun b => b.2 % max 1 x.lanes = logical).map fun b => b.1).take 384).flatten

/-- A lane record with its eight thread records and its slots (13 Table 13-8). -/
def laneRecord (s : State) (x : Ctx) (logical : Nat) (l : List Thread) : Bytes :=
  let n := (laneImage s x logical l).length / 512
  [BitVec.ofNat 8 logical, 0] ++ leBytes 2 n ++ leBytes 60 0 ++
  ((List.range 8).flatMap fun i => match l.find? (fun t => t.id.thr.toNat = i) with
    | none => leBytes 832 0
    | some t => threadRecord s t) ++
  laneImage s x logical l

/-- The save record (13 Tables 13-7 and 13-8). CSTATE is free: only the engine that wrote it reads it (log 10). -/
def saveImage (s : State) (x : Ctx) : Bytes :=
  let body := (laneThreads s x).zipIdx.flatMap fun l => laneRecord s x l.2 l.1
  bvBytes 4 (0x58435453 : W32) ++ bvBytes 4 x.handle ++ bvBytes 4 x.seq ++ leBytes 4 (256 + body.length) ++
  leBytes 8 x.startTick ++ leBytes 2 x.lanes ++ leBytes 2 0 ++ bvBytes 4 x.tag ++ freeBytes s 224 ++ body

/-- CONTEXT_SAVE (10:R281): the save of the longest-blocked eligible context begins. -/
def execContextSave (s : State) : Out :=
  live s (onlyIf (octozRuns s && contextWanted s && decide (Config.contextMax ≤ s.ctxs.length) &&
      !(runningPorts s).isEmpty) fun s =>
    match pickSave s, freeRecord s with
    | some x, some i =>
      { s with saved := s.saved ++ [{ record := i, ctx := x, threads := [], slots := [], at_ := now s, total := 0
                                      writing := true, marked := false, ending := none, image := [] }] }
    | _, _ => s)

/-- DETAIL of CONTEXT_SAVED and CONTEXT_RESTORED (13 Table 13-9). -/
def contextDetail (s : State) (y : Saved) (other : Nat) (ticks : Nat) : Bytes :=
  bvBytes 4 y.ctx.handle ++ bvBytes 4 y.ctx.seq ++ leBytes 4 y.total ++ leBytes 2 other ++ leBytes 2 y.ctx.lanes ++
  leBytes 8 (recordAt s y.record) ++ leBytes 4 ticks

/-- The threads of a context leave their lanes, and their slots are free. -/
def releaseLanes (i : BitVec 9) (s : State) : State :=
  let mine := s.threads.filter fun t => t.ctx = i
  { s with
      threads := s.threads.filter fun t => t.ctx ≠ i
      slots := mine.foldl (fun m t => memErase m (t.id.lane.toNat * 196608 + t.slotBase * 512) (t.slots * 512)) s.slots }

/-- CONTEXT_SAVED (13:R362): the record is complete in the save area, the event is raised and the context is free. A
context that a packet has woken since the save began stays bound (13:R361: only blocked threads are saved). -/
def execContextSaved (ctx : BitVec 9) (s : State) : Out :=
  live s fun s =>
    match s.saved.find? (fun y => y.writing && y.ctx.idx = ctx), findCtx ctx s with
    | some y, some x =>
      if !(threadsBlocked s x && allConfirmed x) || x.finished
      then { s with saved := s.saved.filter fun z => z.record ≠ y.record }
      else
        let image := saveImage s x
        let mine := s.threads.filter fun t => t.ctx = ctx
        let slots := (laneThreads s x).filterMap fun l => l.head?.map fun t => (t.id, slotBytes s { t with slots := laneSlots l })
        let z : Saved := { y with ctx := x, threads := mine, slots := slots, at_ := now s, total := image.length
                                  writing := false, image := image }
        let s1 := releaseLanes ctx
          { s with ctxs := s.ctxs.filter (fun c => c.idx ≠ ctx), saved := updWhere (fun w => w.record = y.record) (fun _ => z) s.saved }
        let s2 := tmWrite (recordAt s y.record) image (bumpFree 224 s1)
        raiseEvent (0x1000 + ctx.toNat) 0x0101 (detailOf (contextDetail s z 0xFFFF (now s - x.blockedSince))) s2
    | some y, none => { s with saved := s.saved.filter fun z => z.record ≠ y.record }
    | none, _ => s

/-- Lanes for a saved context: for each logical lane one with the threads and slots free (13:R362; log 28). -/
def restoreLanes (s : State) (y : Saved) : Option (List Byte) :=
  let thrs := ((List.range y.ctx.lanes).map fun l => (y.threads.filter fun t => t.logical.toNat = l).length).foldl max 0
  chooseLanes s y.ctx.lanes thrs (laneSlots y.threads)

/-- Puts the threads of a saved context on one lane, with its slots. -/
def placeLane (i : BitVec 9) (y : Saved) (logical : Nat) (lane : Byte) (s : State) : State :=
  let mine := y.threads.filter fun t => t.logical.toNat = logical
  let n := laneSlots mine
  let base := (slotSpace s lane n).getD 0
  let new := mine.zip (freeThreads s lane) |>.map fun p =>
    let t : Thread := { p.1 with id := { lane := lane, thr := p.2 }, ctx := i, slotBase := base }
    t
  let bytes := match mine with
    | [] => []
    | t :: _ => ((y.slots.find? fun b => b.1 = t.id).map fun b => b.2).getD []
  { s with threads := s.threads ++ new, slots := memWrite 0 s.slots (lane.toNat * 196608 + base * 512) bytes }

/-- The first field of the record that a change would make unusable: SMAGIC, COMM_HANDLE or COLL_SEQ (15:R429). -/
def recordKey (b : Bytes) : Bytes := slice 0 12 b

/-- Binds a saved context again (10:R282): the event, FLAGS.SAVED; one that only completes posts its completion; a changed
record gives INTERNAL or an undefined destination (15:R429); else it resumes and its waiting packets take effect. -/
def restoreCtx (y : Saved) (i : BitVec 9) (lanes : List Byte) (s : State) : State :=
  let at_ := recordAt s y.record
  let found := tmRead s at_ y.image.length
  let spoiled := found ≠ y.image || tmReadPoison s at_ y.image.length
  let x : Ctx := { y.ctx with idx := i, wasSaved := true, savedTicks := y.ctx.savedTicks + (now s - y.at_)
                              blockedSince := now s, waitSince := now s, tainted := y.ctx.tainted || spoiled }
  let s1 : State := { s with saved := s.saved.filter (fun z => z.record ≠ y.record), ctxs := s.ctxs ++ [x] }
  let s2 := raiseEvent (0x1000 + i.toNat) 0x0102
    (detailOf (contextDetail s y y.ctx.idx.toNat (now s - y.at_))) s1
  match y.ending with
  | some e => failCtx x e.1 e.2 s2
  | none =>
    if recordKey found ≠ recordKey y.image || tmReadPoison s at_ 12 then
      completeCtx x stInternal 0 false (spoilDest x stInternal s2)
    else replayEarly x (lanes.zipIdx.foldl (fun t l => placeLane i y l.2 l.1 t) s2)

/-- The lowest context index that no context uses. -/
def anyContext (s : State) : Option (BitVec 9) :=
  ((List.range 512).map (BitVec.ofNat 9)).find? fun i => !s.ctxs.any fun x => x.idx = i

/-- CONTEXT_RESTORE (10:R282): a marked context takes a free context before any waiting command does. -/
def execContextRestore (record : BitVec 9) (s : State) : Out :=
  live s (onlyIf (octozRuns s) fun s =>
    match s.saved.find? (fun y => y.record = record && y.marked && !y.writing), anyContext s with
    | some y, some i =>
      if y.ctx.isRein && decide (Config.reinMax ≤ (s.ctxs.filter fun x => x.isRein).length) then s
      else if y.ending.isSome then restoreCtx y i [] s
      else match restoreLanes s y with
        | none => s
        | some lanes => restoreCtx y i lanes s
    | _, _ => s)

end Sys2Proof.Machine
end

