-- ==== Sys2Proof/Machine/Onesided.lean ====
section
/-! DEFINITION. Machine/Onesided.lean: one-sided traffic (10:R283 to R286, R548; 06:R153 to R164; 08:R202; 16:R463 to R466):
the commands PUT, GET and ATOMIC, their packets at the source and at the target, and the timers of the NI. -/

namespace Sys2Proof.Machine

/-- The kinds of one-sided packets (08 Table 8-2). -/
def kPut : Nat := 5
def kGetReq : Nat := 6
def kAtomicReq : Nat := 7
def kLaneStore : Nat := 8
def kLaneLoad : Nat := 9
def kReadResp : Nat := 0xA
def kAtomicResp : Nat := 0xB
def kMissAck : Nat := 0xC

/-- A request packet that the NI can issue at once: an entry of 10 Table 10-9 is free, and the stream has room. -/
def reqRoom (s : State) (c : Coord) : Bool := decide (s.ni.reqs.length < Config.requestMax) && txRoom s c

/-- Issues a request packet: it takes an outstanding-request entry and a request number (10:R283, 06:R164). -/
def issueReq (owner : ReqOwner) (p : Packet) (rank : BitVec 18) (dst : W64) (s : State) : State :=
  let n := s.ni.nextReq
  let q := { p with tag := n }
  let r : Req := { num := n, owner := owner, pkt := q, rank := rank, localAddr := dst, sentAt := now s, reissued := false }
  sendStream q { s with ni := { s.ni with reqs := s.ni.reqs ++ [r], nextReq := n + 1 } }

/-- A request of this node with its payload; flagged or not (08:R202, R218). -/
def reqPacket (s : State) (kind : Nat) (job : BitVec 4) (dest : Coord) (payload : Bytes) (flag poison : Bool) : Packet :=
  { mkPacket kind job (myCoord s) dest 0 payload (BitVec.ofNat 8 (2 * b2n poison)) with flag := flag }

/-- PUT and LANE_STORE payload; GET_REQ and LANE_LOAD payload; ATOMIC_REQ payload (08:R202, 10:R293). -/
def storePayload (a : W64) (bs : Bytes) : Bytes := bvBytes 8 a ++ bs
def loadPayload (a : W64) (n : Nat) : Bytes := bvBytes 8 a ++ leBytes 4 n ++ leBytes 4 0
def atomicPayload (a : W64) (aop asize : Nat) (operand compare : W64) : Bytes :=
  bvBytes 8 a ++ [BitVec.ofNat 8 aop, BitVec.ofNat 8 asize] ++ leBytes 6 0 ++ bvBytes 8 operand ++ bvBytes 8 compare

/-- The new value of an atomic (10 Table 10-7): additions wrap, maximum and minimum are signed. -/
def atomicNew (aop n : Nat) (old operand compare : Nat) : Nat :=
  let w := 8 * n
  match aop with
  | 1 => (old + operand) % 2 ^ w
  | 2 => operand
  | 3 => if old = compare then operand else old
  | 4 => old &&& operand
  | 5 => old ||| operand
  | 6 => old ^^^ operand
  | 7 => if sext w old < sext w operand then operand else old
  | _ => if sext w operand < sext w old then operand else old

/-- Performs an atomic on a local operand: the old value, and the state with the new one (10:R285). -/
def doAtomic (a : W64) (aop n : Nat) (operand compare : W64) (s : State) : W64 × State :=
  let old := leNat (localRead s a n)
  let m := 2 ^ (8 * n)
  (BitVec.ofNat 64 old, localWrite a (leBytes n (atomicNew aop n old (operand.toNat % m) (compare.toNat % m))) s)

/-- A thread replaced through `f`. -/
def modThread (t : Tid) (f : Thread → Thread) (s : State) : State := { s with threads := updWhere (fun y => y.id = t) f s.threads }
def findThread (t : Tid) (s : State) : Option Thread := s.threads.find? fun y => y.id = t

/-- A thread fault (13:R360, Table 13-6); RESULT[15:8] is the physical thread index, or TRAP's byte. -/
def faultWith (t : Thread) (code arg : Nat) (s : State) : State :=
  match findCtx t.ctx s with
  | none => s
  | some x =>
    threadFault x (BitVec.ofNat 64 (code + (arg % 256) * 2 ^ 8 + t.prog.toNat * 2 ^ 16 + t.pc.toNat * 2 ^ 32)) s
def faultThread (t : Thread) (code : Nat) (s : State) : State :=
  faultWith t code (t.id.lane.toNat * 8 + t.id.thr.toNat) s

/-- The thread goes on behind its instruction. -/
def stepOn (t : Thread) : Thread := { t with pc := t.pc + 1, st := .running }

/-- The thread's instruction has issued and waits for what it needs. -/
def stall (t : Tid) (s : State) : State := modThread t (fun y => { y with st := .stalled }) s

/-- The memory as a thread sees it: its own stores since its last FENCE have taken place (13:R349). -/
def ownView (y : Thread) (s : State) : State := y.pend.foldl (fun t p => storeBytes p.1 p.2 false t) s

/-- The local stores of a thread become visible to every other (13:R349; log 102). -/
def commitStores (y : Thread) (s : State) : State := modThread y.id (fun z => { z with pend := [] }) (ownView y s)

/-- Every running thread of the collective has reached SYNC with this IMM (13:R368). -/
def syncMet (s : State) (i : BitVec 9) (imm : W32) : Bool :=
  s.threads.all fun t => t.ctx ≠ i || t.st = .ended || (t.st = .inSync && t.waitArg = imm)

/-- The threads of a collective that wait in SYNC go on once every running thread has reached it (13:R368). -/
def syncKick (i : BitVec 9) (s : State) : State :=
  match s.threads.find? fun t => t.ctx = i && t.st = .inSync with
  | none => s
  | some y =>
    if syncMet s i y.waitArg then { s with threads := updWhere (fun z => z.ctx = i && z.st = .inSync) stepOn s.threads } else s

/-- FENCE or END completes, with every store of the thread acknowledged (13:R349, R352); one that was missed faults (13:R360). -/
def storesDone (y : Thread) (end_ : Bool) (s : State) : State :=
  if y.missed then faultThread y 0x06 s
  else
    let s1 := commitStores y s
    if end_ then syncKick y.ctx (modThread y.id (fun z => { z with st := .ended }) s1) else modThread y.id stepOn s1

/-- A store of a thread is acknowledged, or missed (13:R349, R352, R360): FENCE and END end with the last one. -/
def storeSettled (t : Tid) (missed : Bool) (s : State) : State :=
  let s1 := modThread t (fun y => { y with stores := y.stores - 1, missed := y.missed || missed }) s
  match findThread t s1 with
  | none => s1
  | some y =>
    if y.stores = 0 && (y.st = .inFence || y.st = .inEnd) then storesDone y (y.st = .inEnd) s1 else s1

/-- A remote load returns its bytes (13:R353); those of a CSEND source wait for the CSEND. -/
def loadSettled (r : Req) (bytes : Bytes) (poison : Bool) (s : State) : State :=
  match r.owner with
  | .load t d n => modThread t (fun y => stepOn (y.setS d (BitVec.ofNat 64 (leNat (slice 0 n bytes))))) s
  | .vload t d => modThread t (fun y => stepOn (y.setV d.toNat (ofVbytes bytes))) s
  | .source t => modThread t (fun y => { y with st := .stalled, source := some (bytes, poison) }) s
  | _ => s

/-- An outstanding request leaves the list. -/
def dropReq (n : W32) (s : State) : State := { s with ni := { s.ni with reqs := s.ni.reqs.filter fun r => r.num ≠ n } }

/-- The transfer of a PUT or GET command, replaced through `f`. -/
def modXfer (id : Nat) (f : Xfer → Xfer) (s : State) : State :=
  modCmd id (fun c => { c with kind := match c.kind with | .put x => .put (f x) | .get x => .get (f x) | k => k }) s

/-- The command number that a request belongs to. -/
def ownerCmd (o : ReqOwner) : Option Nat :=
  match o with
  | .cmd i | .signal i => some i
  | _ => none

/-- The transfer is over: every packet has been acknowledged, answered or missed, and the signal has been answered
(10:R283, R284); its status (06:R161; 10:R548; 16:R459). -/
def settleXfer (id : Nat) (s : State) : State :=
  if s.ni.reqs.any fun r => ownerCmd r.owner = some id then s
  else match findCmd id s with
    | none => s
    | some c =>
      let fin (x : Xfer) : State :=
        if x.next < x.len || (x.signal.isSome && !x.sigSent) then s
        else match x.miss with
          | some r => unmapKick (endCmd c stCheckFail 1 (r.setWidth 64) s)
          | none =>
            if x.poison then unmapKick (endCmd c stCheckFail 0 0 s)
            else if x.sigFail then unmapKick (endCmd c stUnknown 0 0 s)
            else unmapKick (endCmd c (okStatus false false x.degraded) 0 0 s)
      match c.kind with
      | .put x => fin x
      | .get x => fin x
      | _ => s

/-- The coordinate that a job-local rank names. -/
def rankCoord (s : State) (m : Nat) (rank : BitVec 18) : Coord :=
  if rank = rankSelf then myCoord s else (translate s m rank.toNat).getD (myCoord s)

/-- The coordinate of a transfer's far end: fixed when its first packet is injected (06:R164). -/
def xferCoord (s : State) (x : Xfer) : Coord := x.coord.getD (rankCoord s x.job.toNat x.rank)

/-- One more packet of a PUT, if it can go now: at most 4,096 bytes, none across a 4 KiB boundary of the target offset
(08:R202); the data may wait for PCI Express reads. `none`: nothing more can go. -/
def putOne (id : Nat) (x : Xfer) (s : State) : Option State :=
  let n := min (x.len - x.next) (4096 - (faOffset x.dst + x.next) % 4096)
  let src := faAdd x.src x.next
  let ps := localPieces s src n
  let d := xferCoord s x
  if !reqRoom s d then none
  else if !busReady ps s then none
  else
    let bad := localPoison s src n
    let last := x.next + n = x.len
    let p := reqPacket s kPut x.job d (storePayload (faAdd x.dst x.next) (localRead s src n)) (last && x.flag) bad
    some (modXfer id (fun x => { x with coord := some d, next := x.next + n, poison := x.poison || bad })
      (useBus ps (issueReq (.cmd id) p x.rank 0 s)))

/-- The signal of a PUT whose data packets have all been sent (10:R284): a flagged FETCH_ADD of 1, or a local one. -/
def putSignal (id : Nat) (x : Xfer) (a : W64) (s : State) : Option State :=
  match isLocal s x.job.toNat a with
  | none => none
  | some true =>
    if busReady (localPieces s a 8) s then
      some (modXfer id (fun x => { x with sigSent := true }) (useBus (localPieces s a 8) (doAtomic a 1 8 1 0 s).2))
    else none
  | some false =>
    match translate s x.job.toNat (faRank a).toNat with
    | none => none
    | some d =>
      if !reqRoom s d then none
      else some (modXfer id (fun x => { x with sigSent := true })
        (issueReq (.signal id) (reqPacket s kAtomicReq x.job d (atomicPayload a 1 8 1 0) true false) (faRank a) 0 s))

/-- One more request of a GET (08:R202). -/
def getOne (id : Nat) (x : Xfer) (s : State) : Option State :=
  let n := min (x.len - x.next) 8192
  let d := xferCoord s x
  if !reqRoom s d then none
  else
    let p := reqPacket s kGetReq x.job d (loadPayload (faAdd x.src x.next) n) (x.next + n = x.len && x.flag) false
    some (modXfer id (fun x => { x with coord := some d, next := x.next + n }) (issueReq (.cmd id) p x.rank (faAdd x.dst x.next) s))

/-- One more packet of a command. -/
def xferOne (c : Cmd) (s : State) : Option State :=
  match c.kind with
  | .put x =>
    if x.next < x.len then putOne c.id x s
    else match x.signal with
      | some a => if x.sigSent then none else putSignal c.id x a s
      | none => none
  | .get x => if x.next < x.len then getOne c.id x s else none
  | _ => none

/-- Sends the packets of one command that can go now, by fuel. -/
def xferGo (id : Nat) : Nat → State → State
  | 0, s => s
  | f + 1, s =>
    match findCmd id s with
    | none => s
    | some c => match xferOne c s with
      | none => s
      | some t => xferGo id f t

/-- The PCI Express reads that the next packet of a command waits for. -/
def xferReads (c : Cmd) (s : State) : List (Nat × Nat) :=
  match c.kind with
  | .put x =>
    if x.next < x.len then
      localPieces s (faAdd x.src x.next) (min (x.len - x.next) (4096 - (faOffset x.dst + x.next) % 4096))
    else match x.signal with
      | some a => if !x.sigSent && isLocal s x.job.toNat a = some true then localPieces s a 8 else []
      | none => []
  | _ => []

/-- A command sends what it can, asks for the bytes it lacks, and completes when it is over. -/
def pumpCmd (id : Nat) (s : State) : State :=
  let s1 := xferGo id (2 * Config.streamMax) s
  let s2 := match findCmd id s1 with
    | none => s1
    | some c => askBus (xferReads c s1) s1
  settleXfer id s2

/-- Every command sends what it can. -/
def pumpCmds (s : State) : State := s.cmds.foldl (fun t c => pumpCmd c.id t) s

/-- OP and PERM bit of a request (06 Tables 6-3, 6-4). -/
def reqOp (p : Packet) : Nat :=
  match p.kind.toNat with
  | 5 => 0
  | 6 => 1
  | 7 => 2
  | 8 => 3
  | _ => 4
def reqPerm (p : Packet) : Nat :=
  match p.kind.toNat with
  | 5 | 8 => 1
  | 7 => 2
  | _ => 0

/-- Bytes that a request accesses. -/
def reqLen (p : Packet) : Nat :=
  match p.kind.toNat with
  | 5 | 8 => p.payload.length - 8
  | 7 => payField p 9 1
  | _ => payField p 8 4

/-- The first reason for which the target discards a request (06:R160, Table 6-4). -/
def missReason (s : State) (p : Packet) : Option Byte :=
  let a := payAddr p
  let o := faOffset a
  let n := reqLen p
  match (faSpace a).toNat with
  | 0 => if o + n ≤ Config.stagingOpen then none else some 4
  | 1 => if o + n ≤ tmCapacity s then none else some 5
  | 2 =>
    match windowOf s o with
    | none => some 1
    | some w => if !w.perm.getLsbD (reqPerm p) then some 3 else if w.offset + w.len < o + n then some 2 else none
  | _ => some 6

/-- DETAIL of WINDOW_MISS (06 Table 6-4). -/
def missDetail (p : Packet) (reason : Byte) : Bytes :=
  [reason, BitVec.ofNat 8 (reqOp p), p.job.setWidth 8, 0] ++ leBytes 4 p.src.toNat ++ bvBytes 8 (payAddr p) ++
  leBytes 4 (reqLen p) ++ bvBytes 4 p.tag

/-- A discarded request (06:R160): one event per request number, and a MISS_ACK that every covering ACK waits for. -/
def missRequest (p : Packet) (reason : Byte) (s : State) : State :=
  let seen := s.ni.missEvents.contains (p.src, p.tag)
  let s1 := if seen then s
    else raiseEvent 0 4 (detailOf (missDetail p reason))
      { s with ni := { s.ni with missEvents := ((p.src, p.tag) :: s.ni.missEvents).take 65536 } }
  let t := txOf s1 p.src
  let num : BitVec 15 := t.next + BitVec.ofNat 15 t.waiting.length
  let r := rxOf s1 p.src
  sendStream (mkPacket kMissAck p.job (myCoord s1) p.src p.tag [reason] 0) (setRx { r with missed := r.missed ++ [(p.seq, num)] } s1)

/-- Answers a read request (08:R202): the bytes asked for, poisoned when the read met poison. A read of accelerator space
first completes over PCI Express. -/
def answerRead (p : Packet) (s : State) : State :=
  let a := payAddr p
  let n := reqLen p
  sendStream (mkPacket kReadResp p.job (myCoord s) p.src p.tag (localRead s a n) (BitVec.ofNat 8 (2 * b2n (localPoison s a n)))) s

/-- The atomic journal of a source (16:R465). -/
def journalOf (s : State) (c : Coord) : List (W32 × W64) := ((s.ni.journal.find? fun j => j.1 = c).map fun j => j.2).getD []

/-- A source becomes the one whose journal was used last (16:R465). -/
def useJournal (c : Coord) (l : List (W32 × W64)) (s : State) : State :=
  { s with ni := { s.ni with journal := ((c, l) :: s.ni.journal.filter fun j => j.1 ≠ c).take 1024 } }

/-- Executes an ATOMIC_REQ, records it and answers (10:R285, 16:R465): 64 entries a source, 1,024 sources, the least
recently used one leaves. -/
def answerAtomic (p : Packet) (s : State) : State :=
  let r := doAtomic (payAddr p) (payField p 8 1) (payField p 9 1) (BitVec.ofNat 64 (payField p 16 8)) (BitVec.ofNat 64 (payField p 24 8)) s
  let mine := ((p.tag, r.1) :: journalOf r.2 p.src).take 64
  let s1 := useJournal p.src mine r.2
  sendStream (mkPacket kAtomicResp p.job (myCoord s1) p.src p.tag (bvBytes 8 r.1) 0) s1

/-- The answer to a duplicate ATOMIC_REQ, from the journal (16:R464, R465). -/
def answerAgain (p : Packet) (s0 : State) : State :=
  let mine := journalOf s0 p.src
  let s := if mine.isEmpty then s0 else useJournal p.src mine s0
  let hit := mine.find? fun e => e.1 = p.tag
  let body : Bytes := match hit with
    | some e => bvBytes 8 e.2 ++ [1] ++ leBytes 7 0
    | none => leBytes 8 0 ++ [2] ++ leBytes 7 0
  sendStream (mkPacket kAtomicResp p.job (myCoord s) p.src p.tag body 0) s

/-- What an accepted request does once its bytes can be reached. -/
def serveNow (p : Packet) (s : State) : State :=
  if p.kind.toNat = kAtomicReq then answerAtomic p s else answerRead p s

/-- Serves a read or an atomic, which may wait for PCI Express reads. -/
def serveReq (p : Packet) (s : State) : State :=
  let ps := localPieces s (payAddr p) (reqLen p)
  if busReady ps s then useBus ps (serveNow p s)
  else askBus ps { s with ni := { s.ni with serving := s.ni.serving ++ [p] } }

/-- The operands of a request are legal as the source checks them (10 Table 10-6, 08:R202). -/
def reqFormed (p : Packet) : Bool :=
  match p.kind.toNat with
  | 5 | 8 => 8 < p.payload.length && p.payload.length ≤ 4104
  | 7 => 1 ≤ payField p 8 1 && payField p 8 1 ≤ 8 && (payField p 9 1 = 4 || payField p 9 1 = 8)
  | _ => 1 ≤ payField p 8 4 && payField p 8 4 ≤ 8192

/-- What an accepted one-sided request does (06:R160; 10:R284, R285, R548). -/
def requestAct (p : Packet) (s : State) : State :=
  if !reqFormed p then s
  else match missReason s p with
    | some r => missRequest p r s
    | none =>
      if p.kind.toNat = kPut || p.kind.toNat = kLaneStore then storeBytes (payAddr p) (p.payload.drop 8) (pktPoison p) s
      else serveReq p s

/-- What a duplicate request still does (16:R464). -/
def requestDup (p : Packet) (s : State) : State :=
  match p.kind.toNat with
  | 6 | 9 => requestAct p s
  | 7 => if reqFormed p && missReason s p = none then answerAgain p s else s
  | _ => s

/-- Requests, chunk re-requests among them, that waited for PCI Express reads are served, in order; a window that they used may
go (05:R138). -/
def progress (s : State) : State :=
  let s1 := s.ni.serving.foldl (fun t p => if p.kind = 4 then chunkAct (now t) p t else serveReq p t) { s with ni := { s.ni with serving := [] } }
  unmapKick (pumpCmds s1)

/-- The row of a request packet. -/
def requestRow (kind : Nat) (p : Packet) (s : State) : Out :=
  live s (onlyIf (routerRuns s && p.kind.toNat = kind) fun s => progress (niArrive p (requestAct p) (requestDup p) s))

/-- PUT_PACKET (10:R284; 15:R427). -/
def execPutPacket (p : Packet) (s : State) : Out := requestRow kPut p s
/-- GET_REQ (08:R202). -/
def execGetReq (p : Packet) (s : State) : Out := requestRow kGetReq p s
/-- LANE_STORE (08:R202; 13:R353). -/
def execLaneStore (p : Packet) (s : State) : Out := requestRow kLaneStore p s
/-- LANE_LOAD (08:R202; 13:R353). -/
def execLaneLoad (p : Packet) (s : State) : Out := requestRow kLaneLoad p s
/-- ATOMIC_REQ (10:R285; 16:R465). -/
def execAtomicReq (p : Packet) (s : State) : Out := requestRow kAtomicReq p s

/-- The outstanding request that a response answers; `kinds` are the request kinds that such a response answers. -/
def reqFor (p : Packet) (kinds : List Nat) (s : State) : Option Req :=
  s.ni.reqs.find? fun r => r.num = p.tag && r.pkt.dest = p.src && kinds.contains r.pkt.kind.toNat

/-- A response came over a detour, or to a request that was issued again (16:R459). -/
def degradeOwner (r : Req) (rerouted : Bool) (s : State) : State :=
  match ownerCmd r.owner with
  | some i => modXfer i (fun x => { x with degraded := x.degraded || rerouted || r.reissued }) s
  | none => s

/-- A request's command or thread settles. -/
def settleOwner (r : Req) (s : State) : State :=
  match r.owner with
  | .cmd i | .signal i => settleXfer i s
  | .store t => storeSettled t false s
  | _ => s

/-- READ_RESP (10:R283, R548; 13:R353; 16:R464): one for no open request is discarded. -/
def readRespAct (p : Packet) (s : State) : State :=
  match reqFor p [kGetReq, kLaneLoad] s with
  | none => s
  | some r =>
    let s1 := degradeOwner r p.rerouted (dropReq r.num s)
    match r.owner with
    | .cmd i =>
      let s2 := if pktPoison p
        then modXfer i (fun x => { x with poison := true }) (localWritePoison r.localAddr p.payload s1)
        else localWrite r.localAddr p.payload s1
      settleXfer i s2
    | _ => loadSettled r p.payload (pktPoison p) s1

/-- ATOMIC_RESP (10:R285, 16:R466). -/
def atomicRespAct (p : Packet) (s : State) : State :=
  match reqFor p [kAtomicReq] s with
  | none => s
  | some r =>
    let long : Bool := p.payload.length = 16
    let unknown := long && payField p 8 1 = 2
    let journal := long && payField p 8 1 = 1
    let degraded := p.rerouted || r.reissued || journal
    let s1 := dropReq r.num s
    match r.owner with
    | .cmd i =>
      match findCmd i s1 with
      | none => s1
      | some c =>
        if unknown then endCmd c stUnknown 0 0 s1
        else endCmd c (okStatus false false degraded) (complFlags true false journal false) (BitVec.ofNat 64 (payField p 0 8)) s1
    | .signal i => settleXfer i (modXfer i (fun x => { x with degraded := x.degraded || degraded, sigFail := x.sigFail || unknown }) s1)
    | _ => s1

/-- MISS_ACK (06:R161; 13:R360). -/
def missAckAct (p : Packet) (s : State) : State :=
  match reqFor p [kPut, kGetReq, kAtomicReq, kLaneStore, kLaneLoad] s with
  | none => s
  | some r =>
    let reason : Byte := BitVec.ofNat 8 (payField p 0 1)
    let s1 := degradeOwner r p.rerouted (dropReq r.num s)
    match r.owner with
    | .cmd i =>
      match findCmd i s1 with
      | none => s1
      | some c => match c.kind with
        | .atomic _ _ _ => endCmd c stCheckFail 1 (reason.setWidth 64) s1
        | _ => settleXfer i (modXfer i (fun x => { x with miss := some (x.miss.getD reason) }) s1)
    | .signal i => settleXfer i (modXfer i (fun x => { x with miss := some (x.miss.getD reason) }) s1)
    | .store t => storeSettled t true s1
    | .load t _ _ | .vload t _ | .source t => match findThread t s1 with | none => s1 | some y => faultThread y 0x06 s1

/-- The row of a response. -/
def responseRow (kind : Nat) (act : Packet → State → State) (p : Packet) (s : State) : Out :=
  live s (onlyIf (routerRuns s && p.kind.toNat = kind) fun s => progress (niArrive p (act p) id s))

/-- READ_RESP (10:R283). -/
def execReadResp (p : Packet) (s : State) : Out := responseRow kReadResp readRespAct p s
/-- ATOMIC_RESP (16:R466). -/
def execAtomicResp (p : Packet) (s : State) : Out := responseRow kAtomicResp atomicRespAct p s
/-- MISS_ACK (06:R161). -/
def execMissAck (p : Packet) (s : State) : Out := responseRow kMissAck missAckAct p s

/-- The marker's fields (08 Table 8-2). -/
def markerReturn (p : Packet) : Bool := p.tag.getLsbD 0
def markerRound (p : Packet) : W32 := p.tag >>> 2

/-- What a drain marker does (08:R227): it returns unflagged, or its round loses a destination. -/
def markerAct (p : Packet) (s : State) : State :=
  if markerReturn p then
    let back := updWhere (fun r => r.num = markerRound p) (fun r => { r with dests := r.dests.filter fun d => d ≠ p.src }) s.ni.rounds
    let s1 := { s with ni := { s.ni with rounds := back } }
    if s1.ni.rounds.any fun r => r.num = markerRound p && r.dests.isEmpty then roundOver (markerRound p) s1 else s1
  else sendStream { mkPacket 0xE p.job (myCoord s) p.src (p.tag ||| 1) [] 0 with epoch := p.epoch } s

/-- DRAIN_MARKER (08:R227). -/
def execDrainMarker (p : Packet) (s : State) : Out :=
  live s (onlyIf (routerRuns s && p.kind = 0xE) (niArrive p (markerAct p) id))

/-- A PUT or lane store whose packet the target has acknowledged (10:R283, 13:R349). -/
def ackedReq (p : Packet) (s : State) : State :=
  match s.ni.reqs.find? fun r => r.num = p.tag && r.pkt.dest = p.dest && r.pkt.kind = p.kind &&
      (p.kind.toNat = kPut || p.kind.toNat = kLaneStore) with
  | none => s
  | some r => settleOwner r (degradeOwner r false (dropReq r.num s))

/-- E2E ACK (08:R217, R219, R220; 06:R160): packets below NEXT_SEQ leave the stream, the rates follow the echo, ACKs that
waited for a MISS_ACK may go, and more packets may follow. -/
def ackAct (p : Packet) (s : State) : State :=
  let n : BitVec 15 := BitVec.ofNat 15 (natBits 16 16 p.tag.toNat)
  let echo : BitVec 3 := p.tag.extractLsb' 8 3
  let t := txOf s p.src
  let gone := t.unacked.filter fun q => seqBelow q.seq n
  let s1 := setTx { t with unacked := t.unacked.filter fun q => !seqBelow q.seq n } s
  let s2 := if p.echo then echoRates echo p.src s1 else s1
  let s3 := gone.foldl (fun u q => ackedReq q u) s2
  let r := rxOf s3 p.src
  let left := r.missed.filter fun m => !seqBelow m.2 n
  let s4 := if r.missed.isEmpty then s3 else setRx { r with missed := left } s3
  let s5 := if left.length < r.missed.length && 0 < r.accepted then sendAck p.src s4 else s4
  pumpColls (pumpCmds (txPump p.src s5))

/-- E2E_ACK (08:R217). -/
def execE2eAck (p : Packet) (s : State) : Out :=
  live s (onlyIf (routerRuns s && p.kind = 3 && p.tag.setWidth 8 = (1 : Byte)) (ackAct p))

/-- E2E_ACK_SEND (08:R217): the acknowledgement of a stream leaves. -/
def execE2eAckSend (source : Coord) (s : State) : Out :=
  live s (onlyIf (routerRuns s && decide (0 < (rxOf s source).accepted)) (sendAck source))

/-- E2E_BUSY (08:R210): the request is to be sent again. -/
def busyAct (p : Packet) (s : State) : State :=
  match s.ni.reqs.find? fun r => r.pkt.dest = p.src && r.num.setWidth 16 = (p.tag >>> 16).setWidth 16 with
  | none => s
  | some r =>
    if s.ni.busy.any fun b => b.1 = r.num then s else { s with ni := { s.ni with busy := s.ni.busy ++ [(r.num, now s)] } }

/-- E2E_BUSY (08:R210). -/
def execE2eBusy (p : Packet) (s : State) : Out :=
  live s (onlyIf (routerRuns s && p.kind = 3 && p.tag.setWidth 8 = (2 : Byte)) (busyAct p))

/-- Sends a numbered packet again under its SEQ, FLAG and PRIOR, in the current epoch (08:R226). -/
def sendAgain (p : Packet) (s : State) : State := inject none { p with epoch := s.ni.epoch } s

/-- BUSY_RESEND (08:R210): 2 µs after the BUSY; not a reissue. -/
def execBusyResend (request : W32) (s : State) : Out :=
  live s (onlyIf (routerRuns s && s.ni.busy.any fun b => b.1 = request && decide (b.2 + 2 * Config.tick1us ≤ now s)) fun s =>
    let s1 := { s with ni := { s.ni with busy := s.ni.busy.filter fun b => b.1 ≠ request } }
    match s1.ni.reqs.find? fun r => r.num = request with
    | none => s1
    | some r => sendAgain r.pkt s1)

/-- Counts the one reissue of a request (16:R464), which degrades its command (16:R459). -/
def markReissued (n : W32) (s : State) : State :=
  let s1 := { s with ni := { s.ni with reqs := updWhere (fun r => r.num = n) (fun r => { r with reissued := true, sentAt := now s }) s.ni.reqs } }
  match s1.ni.reqs.find? fun r => r.num = n with
  | none => s1
  | some r => degradeOwner r false s1

/-- E2E REREQ (16:R463): the packet with that SEQ is issued again, if it is unacknowledged; a request whose command has ended by
TIMEOUT is not (10:R286). -/
def rereqAct (p : Packet) (s : State) : State :=
  let n : BitVec 15 := BitVec.ofNat 15 (natBits 16 16 p.tag.toNat)
  match (txOf s p.src).unacked.find? fun q => q.seq = n with
  | none => degradeRouting s
  | some q =>
    if !isRequest q then sendAgain q (degradeRouting s)
    else if s.ni.reqs.any fun r => r.num = q.tag then markReissued q.tag (sendAgain q (degradeRouting s))
    else degradeRouting s

/-- E2E_REREQ (16:R463). -/
def execE2eRereq (p : Packet) (s : State) : Out :=
  live s (onlyIf (routerRuns s && p.kind = 3 && p.tag.setWidth 8 = (3 : Byte)) (rereqAct p))

/-- REREQ_TIMEOUT (16:R463): NEXT_SEQ has not advanced for CHUNK_TIMEOUT while a later packet is marked or a flagged one is
held. -/
def execRereqTimeout (source : Coord) (s : State) : Out :=
  live s fun s =>
    let r := rxOf s source
    match r.next with
    | none => s
    | some n =>
      if routerRuns s && (r.bitmap != 0 || !r.held.isEmpty) && decide (r.stuckAt + s.cfg.chunkTimeout.toNat ≤ now s) then
        degradeRouting (sendRaw none (e2ePacket s source 3 0 n.toNat) (setRx { r with stuckAt := now s } s))
      else s

/-- An atomic ends without an answer (16:R466, R469). -/
def unknownAtomic (r : Req) (s : State) : State :=
  let s1 := dropReq r.num s
  match r.owner with
  | .cmd i => (match findCmd i s1 with | none => s1 | some c => endCmd c stUnknown 0 0 s1)
  | .signal i => settleXfer i (modXfer i (fun x => { x with sigFail := true }) s1)
  | _ => s1

/-- REISSUE_TIMEOUT (16:R464, R466): the first sends the request again under its SEQ; a second ends an atomic. -/
def execReissueTimeout (request : W32) (s : State) : Out :=
  live s fun s =>
    match s.ni.reqs.find? fun r => r.num = request with
    | none => s
    | some r =>
      let waits := (txOf s r.pkt.dest).waiting.any fun p => isRequest p && p.tag = request
      if !routerRuns s || waits || decide (now s < r.sentAt + s.cfg.chunkTimeout.toNat) then s
      else if r.reissued then (if r.pkt.kind.toNat = kAtomicReq then unknownAtomic r s else s)
      else markReissued request (degradeRouting (sendAgain r.pkt s))

/-- Held flagged packets of the stream whose turn has come act, in order (08:R218), by fuel. -/
def releaseGo (c : Coord) : Nat → State → State
  | 0, s => s
  | f + 1, s =>
    let r := rxOf s c
    match r.held.find? fun p => flagReady r p && servedAll s c with
    | none => s
    | some p =>
      let s1 := setRx { r with held := r.held.filter fun q => q.seq ≠ p.seq } s
      let s2 := if isRequest p then requestAct p s1 else if p.kind = 0xE then markerAct p s1 else s1
      releaseGo c f s2

/-- FLAG_RELEASE (08:R218): held flagged packets act, and the ACK that waited for them goes (06:R160, log 83). -/
def execFlagRelease (source : Coord) (s : State) : Out :=
  live s (onlyIf (routerRuns s) fun s =>
    let s1 := releaseGo source (rxOf s source).held.length s
    progress (if 0 < (rxOf s1 source).accepted then sendAck source s1 else s1))

/-- One rate replaced. -/
def modRate (k : RateClass) (f : Rate → Rate) (s : State) : State :=
  { s with ni := { s.ni with rates := modAt f (rateIndex k.vc2 k.dir.toNat) s.ni.rates } }
def rateOf (k : RateClass) (s : State) : Rate := s.ni.rates.getD (rateIndex k.vc2 k.dir.toNat) (Rate.reset k.vc2)

/-- RATE_RISE (08:R220): one microsecond without an echo since the last echo or rise. -/
def execRateRise (cls : RateClass) (s : State) : Out :=
  live s (onlyIf (decide (cls.dir.toNat < 6) &&
      decide (max (rateOf cls s).lastEcho (rateOf cls s).lastRise + Config.tick1us ≤ now s))
    (modRate cls fun r => { rateUp cls.vc2 r with lastRise := now s }))

/-- RATE_RESET (08:R220): 50 microseconds without an echo. -/
def execRateReset (cls : RateClass) (s : State) : Out :=
  live s (onlyIf (decide (cls.dir.toNat < 6) && decide ((rateOf cls s).lastEcho + 50 * Config.tick1us ≤ now s))
    (modRate cls fun r => { r with num := (rateDefault cls.vc2).1, sh := (rateDefault cls.vc2).2 }))

/-- Used bits of the PUT and GET BODY, and of the ATOMIC BODY (10 Table 10-6). -/
def xferFields : List (Nat × Nat) := [(0, 32), (4, 2), (8, 64), (16, 64), (24, 64), (32, 64)]
def atomicFields : List (Nat × Nat) := [(0, 32), (4, 8), (5, 8), (8, 64), (16, 64), (24, 64)]

/-- The coordinate that an address names. -/
def coordOf (s : State) (m : Nat) (a : W64) : Coord := rankCoord s m (faRank a)

/-- The remote target of an address is in the lost set (16:R469). -/
def lostTarget (s : State) (m : Nat) (a : W64) : Bool :=
  isLocal s m a = some false && s.ni.lost.contains (coordOf s m a)

/-- PUT and GET checks: the form, then every address (10 Table 10-6, R296; 06:R155). -/
def xferCheck (s : State) (c : Comm) (e : Entry) (get : Bool) : Option Byte :=
  let fl := bodyField e 4 1
  let n := bodyField e 8 8
  let m := c.map.toNat
  if n = 0 || 2 ^ 30 < n || (get && natBit 1 fl) || (natBit 1 fl && bodyField e 32 8 % 8 ≠ 0) then some stBadDesc
  else addrsBad s m ([(get, bodyAddr e 16, n), (!get, bodyAddr e 24, n)] ++ if natBit 1 fl then [(true, bodyAddr e 32, 8)] else [])

/-- A local copy, packet by packet as a PUT would be cut: armed ranges combine PUT data, and poison travels with it
(10 Edges; 15:R427; 10:R548). -/
def copyGo (put : Bool) : Nat → W64 → W64 → Nat → State → Bool × State
  | 0, _, _, _, s => (false, s)
  | f + 1, src, dst, n, s =>
    if n = 0 then (false, s)
    else
      let k := min n (4096 - faOffset dst % 4096)
      let bad := localPoison s src k
      let bytes := localRead s src k
      let s1 := if put then storeBytes dst bytes bad s else if bad then localWritePoison dst bytes s else localWrite dst bytes s
      let r := copyGo put f (faAdd src k) (faAdd dst k) (n - k) s1
      (bad || r.1, r.2)

/-- The transfer that a PUT or GET entry describes. -/
def xferOf (c : Comm) (e : Entry) (get : Bool) (far : W64) : Xfer :=
  { handle := c.handle, job := c.map, rank := faRank far, coord := none, src := bodyAddr e 16
    dst := bodyAddr e 24, len := bodyField e 8 8, next := 0, flag := natBit 0 (bodyField e 4 1)
    signal := if !get && natBit 1 (bodyField e 4 1) then some (bodyAddr e 32) else none
    sigSent := false, sigFail := false, miss := none, poison := false, degraded := false }

/-- Starts a PUT or GET (10:R283, R284): a local target is served at once, a lost one ends the command (16:R469). -/
def startXfer (q : BitVec 6) (e : Entry) (c : Comm) (get : Bool) (s : State) : State :=
  let m := c.map.toNat
  let far := if get then bodyAddr e 16 else bodyAddr e 24
  let x := xferOf c e get far
  let lost (a : W64) (s : State) : State :=
    postCompletion q.toNat (plainC (entTag e) (entNoIrq e) stMemberLost ((faRank a).setWidth 64) true) s
  if lostTarget s m far then lost far s
  else match x.signal.bind fun a => if lostTarget s m a then some a else none with
    | some a => lost a s
    | none =>
      let id := s.tree.nextCmd
      if isLocal s m far = some true then
        let r := copyGo (!get) (x.len / 4096 + 2) x.src x.dst x.len s
        let y := { x with next := x.len, poison := r.1 }
        pumpCmd id (addCmd q e (if get then .get y else .put y) r.2)
      else pumpCmd id (addCmd q e (if get then .get x else .put x) s)

/-- The PCI Express reads of a local copy; a remote PUT reads packet by packet. -/
def xferStartReads (e : Entry) (get : Bool) (s : State) : List (Nat × Nat) :=
  match commHere (BitVec.ofNat 32 (bodyField e 0 4)) s with
  | none => []
  | some c =>
    if xferCheck s c e get = none && isLocal s c.map.toNat (if get then bodyAddr e 16 else bodyAddr e 24) = some true
    then localPieces s (bodyAddr e 16) (bodyField e 8 8) else []

/-- The row of PUT and GET. An unknown handle is NO_COMM whatever reserved value another field holds (DESIGN CHOICE, log 98). -/
def xferRow (q : BitVec 6) (e : Entry) (get : Bool) (s : State) : State :=
  octozRead q e (entOpcode e = if get then 0x22 else 0x21) xferFields (xferStartReads e get) (fun s =>
    match commHere (BitVec.ofNat 32 (bodyField e 0 4)) s with
    | none => some (endEntry q e stNoComm s)
    | some c => match xferCheck s c e get with
      | some st => some (endEntry q e st s)
      | none => some (startXfer q e c get s)) s

/-- PUT (10:R283, R284). -/
def execPut (q : BitVec 6) (e : Entry) (s : State) : Out := live s (xferRow q e false)
/-- GET (10:R283). -/
def execGet (q : BitVec 6) (e : Entry) (s : State) : Out := live s (xferRow q e true)

/-- ATOMIC checks (10 Table 10-6; 06:R155): alignment first. -/
def atomicCheck (s : State) (c : Comm) (e : Entry) : Option Byte :=
  let aop := bodyField e 4 1
  let n := bodyField e 5 1
  if aop = 0 || 8 < aop || !(n = 4 || n = 8) || faOffset (bodyAddr e 8) % n ≠ 0 then some stBadDesc
  else addrsBad s c.map.toNat [(true, bodyAddr e 8, n)]

/-- Starts an ATOMIC (10:R285; 16:R469); `none`: it waits for a request entry or room in the stream. -/
def startAtomic (q : BitVec 6) (e : Entry) (c : Comm) (s : State) : Option State :=
  let a := bodyAddr e 8
  let m := c.map.toNat
  let aop := bodyField e 4 1
  let n := bodyField e 5 1
  let operand : W64 := BitVec.ofNat 64 (bodyField e 16 8)
  let compare : W64 := BitVec.ofNat 64 (bodyField e 24 8)
  if lostTarget s m a then
    some (postCompletion q.toNat (plainC (entTag e) (entNoIrq e) stMemberLost ((faRank a).setWidth 64) true) s)
  else if isLocal s m a = some true then
    let r := doAtomic a aop n operand compare s
    some (endResult q e r.1 r.2)
  else
    let d := coordOf s m a
    if !reqRoom s d then none
    else
      let id := s.tree.nextCmd
      let p := reqPacket s kAtomicReq c.map d (atomicPayload a aop n operand compare) false false
      some (issueReq (.cmd id) p (faRank a) 0 (addCmd q e (.atomic c.handle (faRank a) d) s))

/-- ATOMIC (10:R285). An unknown handle is NO_COMM whatever reserved value another field holds (DESIGN CHOICE, log 98). -/
def execAtomic (q : BitVec 6) (e : Entry) (s : State) : Out :=
  live s (octozRead q e (entOpcode e = 0x23) atomicFields
    (fun s => match commHere (BitVec.ofNat 32 (bodyField e 0 4)) s with
      | none => []
      | some c => if atomicCheck s c e = none && isLocal s c.map.toNat (bodyAddr e 8) = some true
          then localPieces s (bodyAddr e 8) (bodyField e 5 1) else [])
    fun s =>
    match commHere (BitVec.ofNat 32 (bodyField e 0 4)) s with
    | none => some (endEntry q e stNoComm s)
    | some c => match atomicCheck s c e with
      | some st => some (endEntry q e st s)
      | none => startAtomic q e c s)

/-- PCIE_READ_COMPLETION (04:R122): what waited for the bytes goes on. -/
def execPcieReadCompletion (tag : BitVec 10) (res : ReadResult) (data : Bytes) (s : State) : Out :=
  live s fun s => progress (readDone tag res data s)

end Sys2Proof.Machine
end

