-- ==== Sys2Proof/Machine/Rein.lean ====
section
/-! DEFINITION. Machine/Rein.lean: ROUTE_DISPATCH and COMBINE_ALLREDUCE (14): checks, INDIRECT fields, gate sets, route
slots, and their start as collectives. -/

namespace Sys2Proof.Machine

/-- Used bits of the two BODY layouts (14 Tables 14-1, 14-2). -/
def routeFields : List (Nat × Nat) :=
  [(0, 32), (4, 8), (5, 8), (6, 8), (7, 8), (8, 8), (9, 8), (10, 5), (11, 8), (12, 1), (13, 8), (14, 8), (16, 16), (18, 16),
    (20, 32), (24, 32), (28, 32), (32, 64), (40, 64), (48, 64), (56, 64), (64, 64), (72, 64), (80, 64), (88, 64), (96, 64),
    (104, 64)]
def combineFields : List (Nat × Nat) :=
  [(0, 32), (4, 8), (5, 8), (6, 8), (7, 2), (8, 8), (12, 32), (16, 32), (20, 32), (24, 64), (32, 64), (40, 64), (48, 64)]

/-- A BODY made of fields: byte offset and value. -/
def bodyOfFields (l : List (Nat × Nat)) : BitVec 896 := BitVec.ofNat 896 (l.foldl (fun n f => n + f.2 * 2 ^ (8 * f.1)) 0)

/-- A BODY with the 32-bit field at byte `o` replaced. -/
def setWord (o v : Nat) (b : BitVec 896) : BitVec 896 :=
  (b &&& ~~~(BitVec.ofNat 896 (0xFFFFFFFF * 2 ^ (8 * o)))) ||| BitVec.ofNat 896 (v % 2 ^ 32 * 2 ^ (8 * o))

/-- The byte offsets of IND_MASK and SHAPE_SRC. -/
def indMask (route : Bool) (e : Entry) : Nat := if route then bodyField e 12 1 else bodyField e 7 1
def shapeSrc (route : Bool) (e : Entry) : W64 := BitVec.ofNat 64 (bodyField e (if route then 96 else 48) 8)

/-- A shape record that a consumer accepts (14:R380). -/
def shapeGood (b : Bytes) : Bool :=
  fieldAt 0 4 b = 0x44504853 && decide (fieldAt 4 1 b ≤ 3) && crc32c (b.take 60) = BitVec.ofNat 32 (fieldAt 60 4 b)

/-- The BODY with its INDIRECT fields resolved (14:R380). -/
def resolved (s : State) (route : Bool) (e : Entry) : BitVec 896 :=
  let b := entBody e
  let m := indMask route e
  if m = 0 then b
  else
    let r := localRead s (shapeSrc route e) 64
    let b1 := if natBit 0 m then setWord (if route then 20 else 12) (fieldAt 12 4 r) b else b
    if !route && natBit 1 m then setWord 16 (fieldAt 28 4 r) b1 else b1

/-- The virtual COLL_SUBMIT BODY of a Rein command: an ALLREDUCE, SUM, by DIRECT_AXIS, of T × H elements with the residual
as preload (14:R381, R396). -/
def reinBody (route : Bool) (b : BitVec 896) : BitVec 896 :=
  let f := bodyOf b
  let t := if route then f 20 4 else f 12 4
  let h := if route then f 24 4 else f 20 4
  let res := if route then f 40 8 else f 32 8
  bodyOfFields [(0, f 0 4), (4, 1), (5, 1), (6, f 4 1), (7, 2), (8, f 5 1), (9, f 6 1), (11, b2n (res ≠ 0)), (12, 0xFFFFFFFF),
    (16, t * h), (24, if route then f 32 8 else f 24 8), (32, if route then f 48 8 else f 40 8), (40, res)]

/-- The context of a Rein command, its INDIRECT fields resolved. -/
def reinCtx (s : State) (q : BitVec 6) (e : Entry) (route : Bool) : Ctx :=
  let b := resolved s route e
  let x := blankCtx s q e
  let t := bodyOf b (if route then 20 else 12) 4
  { x with body := reinBody route b, rein := b, alg := 2, tokens := t, count := t * bodyOf b (if route then 24 else 20) 4
           rows := if route then t else bodyOf b 16 4 }

/-- A row or gate type of 14:R376. -/
def rowTypeOk (t : Nat) : Bool := t = 1 || t = 4 || t = 5

/-- The size limits of 14 Table 14-5. -/
def reinSizesOk (x : Ctx) : Bool :=
  decide (1 ≤ x.tokens && x.tokens ≤ 4096) && decide (128 ≤ x.hid && x.hid ≤ 16384 && x.hid % 64 = 0) &&
  (!x.isRoute || decide (2 ≤ x.experts && x.experts ≤ 256 && x.tokens * x.experts ≤ 65536))

/-- What refuses a Rein command by its fields alone, before INDIRECT (14:R376). -/
def reinStaticBad (route : Bool) (e : Entry) : Bool :=
  let f := bodyField e
  let mode := f 4 1
  let common := !(mode = 1 || mode = 2) || !isFloatType (f 5 1) || !isFloatType (f 6 1) ||
    (indMask route e ≠ 0 && shapeSrc route e = 0) || decide (63 < f (if route then 14 else 8) 1)
  if !route then common
  else
    let sel := f 9 1
    let fl := f 10 1
    let eps := natBits 23 8 (f 28 4)
    common || !rowTypeOk (f 7 1) || !(1 ≤ sel && sel ≤ 3) ||
    (if sel = 3 then f 8 1 ≠ 0 || natBits 0 4 fl ≠ 0 else !rowTypeOk (f 8 1) || decide (7 < f 13 1)) ||
    natBits 2 2 fl = 3 || f 16 2 = 0 || decide (3 < f 11 1) || natBit 31 (f 28 4) || eps = 0 || eps = 255

/-- A bound or saved Rein command uses the route slot of `x` so that `x` waits (14:R379, R395). -/
def routeSlotBusy (s : State) (x : Ctx) : Bool :=
  (s.ctxs ++ s.saved.map fun y => y.ctx).any fun y => y.isRein && y.routeSlot = x.routeSlot && (x.isRoute || y.isRoute)

/-- The route record differs from what a COMBINE_ALLREDUCE states, or is missing (14:R395). -/
def combineBad (s : State) (x : Ctx) : Bool :=
  match s.rein.slots.find? fun r => r.slot = x.routeSlot with
  | none => true
  | some r => r.tokens ≠ x.tokens || r.totalRows ≠ x.rows || r.hidden ≠ x.hid

/-- The status that refuses a Rein command: its fields, its INDIRECT fields (14:R380), its sizes, addresses, gate set. -/
def reinCheck (s : State) (c : Comm) (route : Bool) (e : Entry) (x : Ctx) : Option Byte :=
  let m := c.map.toNat
  let sh := addrsCheck s m [(shapeSrc route e, 64)]
  if reinStaticBad route e then some stBadDesc
  else if indMask route e ≠ 0 && sh ≠ none then sh
  else if indMask route e ≠ 0 && !shapeGood (localRead s (shapeSrc route e) 64) then some stBadDesc
  else if !reinSizesOk x then some stBadDesc
  else if route && faOffset (x.gaddr 88) % 64 ≠ 0 then some stBadDesc
  else match addrsCheck s m (reinAddrs x) with
    | some st => some st
    | none => if route && x.selMode ≠ 3 && decide (4194304 < gateBytes x) then some stLimit else none

/-- The resident set that a command may use without a new read (14:R383). -/
def gateHit (s : State) (x : Ctx) : Bool :=
  !natBit 4 (x.g 10 1) && s.rein.gates.any fun g =>
    g.id.toNat = x.g 13 1 && g.src = x.gaddr 64 && g.h = x.hid && g.e = x.experts && g.type.toNat = x.g 8 1

/-- A bound command uses the set under `id`. -/
def gateUsed (s : State) (id : BitVec 3) : Bool :=
  (s.ctxs ++ s.saved.map fun y => y.ctx).any fun y => y.isRoute && y.selMode ≠ 3 && y.g 13 1 = id.toNat

/-- Evicts the least recently used unbound sets until `n` bytes fit in 4 MiB, by fuel (14:R383). -/
def evictGo (s : State) (n : Nat) : Nat → List GateSet → Option (List GateSet)
  | 0, l => if (l.map fun g => g.data.length).foldl (fun a b => a + b) n ≤ 4194304 then some l else none
  | f + 1, l =>
    if (l.map fun g => g.data.length).foldl (fun a b => a + b) n ≤ 4194304 then some l
    else
      let free := l.filter fun g => !gateUsed s g.id
      match free with
      | [] => none
      | g :: r =>
        let old := r.foldl (fun a b => if b.lastUse < a.lastUse then b else a) g
        evictGo s n f (l.filter fun g => g.id ≠ old.id)

/-- The gate region with the command's set in it; none while it cannot take the set (14:R379, R383). -/
def takeGate (s : State) (x : Ctx) : Option Rein :=
  let id := BitVec.ofNat 3 (x.g 13 1)
  let r := s.rein
  if !x.isRoute || x.selMode = 3 then some r
  else if gateHit s x then
    some { r with gates := updWhere (fun g => g.id = id) (fun g => { g with lastUse := r.uses }) r.gates, uses := r.uses + 1 }
  else if gateUsed s id then none
  else
    match evictGo s (gateBytes x) 8 (r.gates.filter fun g => g.id ≠ id) with
    | none => none
    | some l =>
      let new : GateSet :=
        { id := id, src := x.gaddr 64, h := x.hid, e := x.experts, type := BitVec.ofNat 8 (x.g 8 1)
          data := localRead s (x.gaddr 64) (gateBytes x), lastUse := r.uses }
      some { r with gates := new :: l, uses := r.uses + 1 }

/-- The PCI Express reads of the inputs: the shape record first, then the rest (14:R380; log 4). -/
def reinReads (q : BitVec 6) (e : Entry) (route : Bool) (s : State) : List (Nat × Nat) :=
  match commHere (BitVec.ofNat 32 (bodyField e 0 4)) s with
  | none => []
  | some c =>
    if reinStaticBad route e then []
    else
      let sh := if indMask route e ≠ 0 then localPieces s (shapeSrc route e) 64 else []
      let x := reinCtx s q e route
      if !busReady sh s || reinCheck s c route e x ≠ none then sh
      else
        let own := (reduceRanges s c x (myOffs s c) 2).headD (0, 0)
        let z := dtypeSize x.dout
        let src := localPieces s (x.addr 24) ((if route then x.count else x.rows * x.hid) * dtypeSize x.din)
        let res := if x.addr 40 = 0 then [] else localPieces s (faAdd (x.addr 40) (own.1 * z)) (own.2 * z)
        let gate := if !route then []
          else localPieces s (x.gaddr 56) (x.hid * z) ++
            (if x.selMode = 3 then localPieces s (x.gaddr 64) (8 + 8 * x.tokens)
             else if gateHit s x then [] else localPieces s (x.gaddr 64) (gateBytes x))
        sh ++ src ++ res ++ gate

/-- The signature of a Rein command (14:R378, Table 14-3). -/
def reinSig (c : Comm) (x : Ctx) : W64 :=
  let codes : Bytes :=
    [x.opcode, 0, 1, BitVec.ofNat 8 x.mode, BitVec.ofNat 8 x.din, BitVec.ofNat 8 x.dout, 2]
  let extra := if x.isRoute then
      x.experts + x.hid / 64 * 2 ^ 9 + x.g 16 2 * 2 ^ 18 + x.selMode * 2 ^ 34 + x.g 11 1 * 2 ^ 36 +
      (natBits 0 2 (x.g 10 1) + 4 * x.array) * 2 ^ 38 + x.rowType * 2 ^ 42 + x.g 8 1 * 2 ^ 46
    else x.rows + x.hid / 64 * 2 ^ 32
  signature (sigBlock x.handle x.seq c.key codes 0xFFFFFFFF x.count extra)

/-- The work of a Rein command begins: its terms, grants and the plan of an ALLREDUCE by DIRECT_AXIS (14:R381, R396). -/
def runRein (c : Comm) (x : Ctx) (s : State) : State :=
  let vals := if x.isRoute then inputVals s c x else combineVals s x
  let y := { x with held := vals.zipIdx.map fun v => (v.2, v.1), plan := planOf s c x }
  advance x.idx (grantAll c y (putCtx y s))

/-- A Rein command starts, or waits at its queue head (14:R379). -/
def startRein (c : Comm) (x : Ctx) (s : State) : Option State :=
  if Config.reinMax ≤ (s.ctxs.filter fun y => y.isRein).length then none
  else
    match takeGate s x, freeContext s, chooseLanes s (lanesFor x (commSize s c)) 1 0 with
    | some r, some i, some lanes =>
      let u := bindCtx c x i none lanes { s with rein := r }
      let y := { u.1 with sig := reinSig c u.1 }
      some (launch c y (runRein c) (putCtx y u.2))
    | _, _, _ => none

/-- A row of a Rein command. -/
def reinRow (q : BitVec 6) (e : Entry) (route : Bool) (s : State) : State :=
  octozRead q e (entOpcode e = (if route then 0x40 else 0x41)) (if route then routeFields else combineFields)
    (reinReads q e route) (fun s =>
      match commHere (BitVec.ofNat 32 (bodyField e 0 4)) s with
      | none => some (endEntry q e stNoComm s)
      | some c =>
        let x := reinCtx s q e route
        match reinCheck s c route e x with
        | some st => some (endEntry q e st s)
        | none =>
          if commHeld s c || routeSlotBusy s x then none
          else if !route && combineBad s x then some (endEntry q e stBadDesc s)
          else startRein c x s) s

/-- ROUTE_DISPATCH (14:R375 to R394). -/
def execRouteDispatch (q : BitVec 6) (e : Entry) (s : State) : Out := live s (reinRow q e true)

/-- COMBINE_ALLREDUCE (14:R395, R396). -/
def execCombineAllreduce (q : BitVec 6) (e : Entry) (s : State) : Out := live s (reinRow q e false)

end Sys2Proof.Machine
end

