-- ==== Sys2Proof/Machine/Recovery.lean ====
section
/-! DEFINITION. Machine/Recovery.lean: errors, spares and recovery (16): lane and staging moves, Tree failover, the end of
targeted self-tests, probes, the lost set and degraded routing. -/

namespace Sys2Proof.Machine

/-- The Tree is powered and runs. -/
def treeRuns (s : State) : Bool := routerRuns s && !s.tree.halted

/-! ## Lanes -/

/-- Slots are copied to another lane, and the old ones cleared (13:R364). -/
def moveSlots (src dst : Byte) (base base2 n : Nat) (s : State) : State :=
  let a := src.toNat * 196608 + base * 512
  let bytes := memRead 0 s.slots a (n * 512)
  { s with slots := memWrite 0 (memErase s.slots a (n * 512)) (dst.toNat * 196608 + base2 * 512) bytes }

/-- A request of a moved thread belongs to the thread at its new place. -/
def moveOwner (f : Tid → Tid) (o : ReqOwner) : ReqOwner :=
  match o with
  | .load t d n => .load (f t) d n
  | .vload t d => .vload (f t) d
  | .store t => .store (f t)
  | .source t => .source (f t)
  | k => k

/-- Moves the threads of one logical lane of a context from a physical lane to another (13:R364, R365): registers, relative slots,
program counters and the logical lane stay; the collective is degraded. `none` when they do not fit. -/
def moveGroup (src dst : Byte) (g : BitVec 9 × Byte) (s : State) : Option State :=
  let mine (t : Thread) : Bool := t.ctx = g.1 && t.logical = g.2 && t.id.lane = src
  let ts := s.threads.filter mine
  let n := (ts.map fun t => t.slots).foldl max 0
  let base := (ts.map fun t => t.slotBase).headD 0
  let free := freeThreads s dst
  match slotSpace s dst n with
  | none => none
  | some b =>
    if free.length < ts.length then none
    else
      let names := List.zip (ts.map fun t => t.id) free
      let f (t : Tid) : Tid := ((names.find? fun m => m.1 = t).map fun m => ({ lane := dst, thr := m.2 } : Tid)).getD t
      let s1 := { s with
        threads := updWhere mine (fun t => { t with id := f t.id, slotBase := b }) s.threads
        ni := { s.ni with reqs := s.ni.reqs.map fun r => { r with owner := moveOwner f r.owner } } }
      some (modCtx g.1 (fun x => { x with degraded := true }) (if n = 0 then s1 else moveSlots src dst base b n s1))

/-- The contexts with threads on a lane. -/
def laneCtxs (s : State) (p : Byte) : List (BitVec 9) :=
  ((s.threads.filter fun t => t.id.lane = p).map fun t => t.ctx).eraseDups

/-- Moves all work of a lane to another: the logical lanes of collectives that run there, one by one. -/
def moveAll (src dst : Byte) (s : State) : Option State :=
  (((s.threads.filter fun t => t.id.lane = src).map fun t => (t.ctx, t.logical)).eraseDups).foldl
    (fun t g => t.bind (moveGroup src dst g)) (some s)

/-- The bench library of a lane holds every loaded program that another lane runs (13:R364). -/
def libraryHolds (s : State) (src dst : Byte) : Bool :=
  (s.threads.filter fun t => t.id.lane = src && decide (0xFF < t.prog.toNat)).all fun t =>
    s.progs.any fun p => p.id = t.prog && p.gen = t.gen && p.benches.getLsbD (dst.toNat / 14)

/-- The lowest-numbered lane of a list. -/
def lowestLane (l : List Byte) : Option Byte :=
  match l with
  | [] => none
  | p :: r => some (r.foldl (fun a b => if b.toNat < a.toNat then b else a) p)

/-- The spare that takes over a lane (13:R364): the lowest on the same bench, else the lowest whose library fits. -/
def spareFor (s : State) (p : Byte) : Option Byte :=
  match lowestLane (s.boot.spares.filter fun q => q.toNat / 14 = p.toNat / 14) with
  | some q => some q
  | none => lowestLane (s.boot.spares.filter (libraryHolds s p))

/-- An active lane leaves service (13:R364, R365; 16:R449): its work and its logical index go to a spare, or its work to
an active lane, which leaves fewer than 160. `none` when no lane can take its work. -/
def moveLane (p : Byte) (s : State) : Option State :=
  match spareFor s p with
  | some q =>
    (moveAll p q s).map fun t =>
      { t with boot := { t.boot with laneMap := t.boot.laneMap.map fun l => if l = p then q else l
                                     spares := t.boot.spares.filter fun l => l ≠ q } }
  | none =>
    ((s.boot.laneMap.filter fun l => l ≠ p).findSome? fun q => moveAll p q s).map fun t =>
      { t with boot := { t.boot with laneMap := t.boot.laneMap.filter fun l => l ≠ p } }

/-- A collective that used a lost word of a lane memory: the notice ABORTED, and INTERNAL without a result (16 Table
16-1). -/
def laneWordLost (i : BitVec 9) (s : State) : State :=
  match findCtx i s with
  | none => s
  | some x => match findComm x.handle s with
    | none => s
    | some c =>
      let n : Notice := { seq := x.seq, rank := ownJob x s, cause := stAborted, namedSig := 0, detSig := 0, value := 0 }
      completeCtx x stInternal 0 false (spoilDest x stInternal (raiseNotice c x.sig n s))

/-- No lane can take a lane's work: its collectives end with fault INTERNAL_MOVE (13:R365, R360). -/
def laneStuck (p : Byte) (s : State) : State :=
  let s1 := (laneCtxs s p).foldl
    (fun t i => match t.threads.find? fun y => y.ctx = i && y.id.lane = p with
      | none => t
      | some y => faultThread y 0x0A t) s
  { s1 with boot := { s1.boot with laneMap := s1.boot.laneMap.filter fun l => l ≠ p } }

/-- The work of an erring lane moves (13:R364). -/
def clearLane (p : Byte) (s : State) : State :=
  if s.boot.spares.contains p then { s with boot := { s.boot with spares := s.boot.spares.filter fun l => l ≠ p } }
  else match moveLane p s with
    | some t => t
    | none => laneStuck p s

/-- LANE_ERROR (16 Table 16-1; 13:R364, R365): an uncorrectable word ends each collective that uses it (which of those on the
lane do is not in the command: free values, log 10), the work moves, and the test starts. -/
def execLaneError (lane : Byte) (kind : LaneErrorKind) (s : State) : Out :=
  live s (onlyIf (treeRuns s && s.boot.phase = phReady &&
      (s.boot.laneMap.contains lane || s.boot.spares.contains lane)) fun s =>
    let u : TestUnit := .lane lane
    let s1 := startTest u true false 0 none (logError u 0 [] (setErr errLane s))
    let hit := (laneCtxs s1 lane).zipIdx.filter fun i => Config.freeBool (s1.free + i.2)
    let s2 := if kind = .memUncorrectable
      then hit.foldl (fun t i => laneWordLost i.1 t) (bumpFree (laneCtxs s1 lane).length s1) else s1
    clearLane lane s2)

/-! ## Staging banks -/

/-- A staging bank test runs. -/
def stagingTest (s : State) : Bool := s.tree.tests.any fun t => match t.unit with | .staging _ => true | _ => false

/-- Logical bank `b` is copied to the spare bank, and maps there (16:R450). -/
def copyBank (b sp : Nat) (s : State) : State :=
  let old := (s.stg.map.getD b 0).toNat
  let z := Config.stagingBank
  let mine (a : Nat) : Bool := a / z = old
  let go (a : Nat) : Nat := sp * z + a % z
  let rest := s.stg.mem.filter fun c => !mine c.1 && c.1 / z ≠ sp
  let moved := (s.stg.mem.filter fun c => mine c.1).foldl (fun m c => memPut 0 m (go c.1) c.2) rest
  { s with stg := { s.stg with
      mem := moved
      poison := (s.stg.poison.filter fun w => w * 8 / z ≠ sp).map fun w => if mine (w * 8) then go (w * 8) / 8 else w
      map := setAt b (BitVec.ofNat 5 sp) s.stg.map, spare := none } }

/-- An error in a logical bank moves it and tests the old physical bank; while the spare is in use it waits, and with the
spare retired the bank stays in service (16:R450). -/
def bankError (b : BitVec 4) (s : State) : State :=
  let u : TestUnit := .staging (s.stg.map.getD b.toNat 0)
  match s.stg.spare with
  | some sp => copyBank b.toNat sp.toNat (startTest u true false 0 none (logError u 0 [] s))
  | none =>
    if stagingTest s && !s.stg.waiting.contains b then { s with stg := { s.stg with waiting := s.stg.waiting ++ [b] } } else s

/-- The banks whose error waited are handled as far as a spare is free (16:R450). -/
def bankNext (s : State) : State :=
  match s.stg.waiting with
  | [] => s
  | b :: r => if stagingTest s then s else bankError b { s with stg := { s.stg with waiting := r } }

/-- An uncorrectable word of the Octoz-owned area (16:R451): in ejection space its chunk fails, elsewhere Octoz starts a
warm reset. The manual does not say where each structure lies, so a free value says which one holds the word. -/
def octozWord (s : State) : State :=
  let s1 := bumpFree 1 s
  if Config.freeBool s.free then
    match s1.ni.early with
    | [] => s1
    | (t, p) :: r => { s1 with ni := { s1.ni with early := (t, { p with tflags := p.tflags ||| 2 }) :: r } }
  else askReset .stagingPoison s1

/-- STAGING_ERROR (16:R450, R451): word `word` of logical bank `bank`. -/
def execStagingError (bank : BitVec 4) (word : W32) (uncorrectable : Bool) (s : State) : Out :=
  live s (onlyIf (treeRuns s && s.boot.phase = phReady && decide (word.toNat * 8 < Config.stagingBank)) fun s =>
    let o := bank.toNat * Config.stagingBank + word.toNat * 8
    let s1 := setErr errStaging s
    let s2 := if uncorrectable then
        (if o < Config.stagingOpen then stgMarkPoison o 8 s1 else octozWord s1)
      else s1
    bankError bank s2)

/-! ## Tree pairs -/

/-- DETAIL of TREE_FAILOVER (16 Table 16-4); TAKEOVER_TICKS, at most 500 (16:R452), is a free value (log 10). -/
def failoverDetail (s : State) (cause : Nat) : Bytes :=
  let o := s.tree.active.toNat
  let started := s.qs.foldl (fun n g => n + g.started) 0
  [BitVec.ofNat 8 o, BitVec.ofNat 8 (1 - o), BitVec.ofNat 8 cause, 0] ++ leBytes 4 (leNat (freeBytes s 2) % 501) ++
  leBytes 4 started

/-- Every started command goes on and reports OK_DEGRADED in place of OK (16:R452, R459). -/
def degradeAll (s : State) : State :=
  { s with ctxs := s.ctxs.map fun x => { x with degraded := true }
           saved := s.saved.map fun y => { y with ctx := { y.ctx with degraded := true } }
           cmds := s.cmds.map fun c => { c with degraded := true } }

/-- The active Tree pair stops (16:R452): the standby goes on, and the failed pair is tested; during boot the boot ROM
starts again on the surviving pair (03 Edges); with no standby a warm reset starts. -/
def failover (cause : Nat) (s : State) : State :=
  if !s.tree.standby then askReset .treeNoStandby s
  else
    let u : TestUnit := .treePair s.tree.active
    let swap := { s.tree with active := s.tree.active ^^^ 1, standby := false, wdAt := now s }
    if s.boot.phase = phReady then
      let d := failoverDetail s cause
      let s1 := degradeAll (bumpFree 2 { s with tree := { swap with tests := swap.tests.map fun t => { t with since := now s } } })
      let s2 := setErr errTree (raiseEvent 0 5 (detailOf d) s1)
      startTest u true false 0 none (logError u 5 d (logAppend 0x06 3 (unitIndex u) d s2))
    else
      let s1 := { s with tree := swap, kp := { s.kp with bootWd := none } }
      if s.boot.warm then selectSlot s1 else setPhase phRom 0 s1

/-- The Tree runs code: not in RECOVERY or FAULT, and not before the boot ROM. -/
def treeUp (s : State) : Bool :=
  treeRuns s && decide (phRom.toNat ≤ s.boot.phase.toNat) && decide (s.boot.phase.toNat ≤ phReady.toNat)

/-- LOCKSTEP_MISMATCH and TREE_WATCHDOG (16:R452). -/
def execLockstepMismatch (s : State) : Out := live s (onlyIf (treeUp s) (failover 1))
def execTreeWatchdog (s : State) : Out :=
  live s (onlyIf (treeUp s && decide (s.tree.wdAt + 125000 ≤ now s)) (failover 2))

/-! ## The end of a targeted self-test -/

/-- Transients of a unit in the last 15,000,000,000 ticks (16:R444). -/
def transientsOf (s : State) (u : TestUnit) : Nat :=
  (s.tree.transients.filter fun x => x.1 = u && decide (now s < x.2 + Config.tick600s)).length

/-- DETAIL of SELFTEST_DONE (16 Table 16-4). -/
def doneDetail (s : State) (t : UnitTest) (pass : Bool) (transients : Nat) : Bytes :=
  [BitVec.ofNat 8 (unitClass t.unit), if pass then 0 else 1, BitVec.ofNat 8 transients, if t.threshold then 2 else 1] ++
  leBytes 4 (unitIndex t.unit) ++ bvBytes 4 t.row ++ leBytes 4 (now s - t.since)

/-- A row stays on its spare for good: the event, and its record (16:R453, Table 16-8). -/
def rowSpared (m : BitVec 3) (pc : BitVec 5) (bank : BitVec 4) (s : State) (row : Nat) : State :=
  let s1 := { s with tm := { s.tm with spared := { module := m, pc := pc, bank := bank, row := row, forGood := true } :: s.tm.spared } }
  let e : TmError := { pc := pc, bank := bank, row := BitVec.ofNat 17 row, col := 0, cause := 0, uncorrectable := false }
  let d := tmDetail s1 m.toNat e (4 - sparedIn s1 m pc bank row) 1 0
  raiseEvent (0x3000 + m.toNat) 0x0303 (detailOf d) (logAppend 0x09 2 (unitIndex (.tannery m pc bank)) d s1)

/-- The rows of a bank that a test holds on spares go back, or those that stay remain there for good (16:R453): of a test that
failed the failing ones, which the command does not name (free values, log 10); else the row of the error. -/
def rowsDone (m : BitVec 3) (pc : BitVec 5) (bank : BitVec 4) (row : Nat) (stay failed : Bool) (s : State) : State :=
  let here (x : Spared) : Bool := x.module = m && x.pc = pc && x.bank = bank && !x.forGood
  let s1 := { s with tm := { s.tm with spared := s.tm.spared.filter fun x => !here x } }
  if !stay then s1
  else
    let tested := (s.tm.spared.filter here).map fun x => x.row
    let bad := (tested.zipIdx.filter fun r => failed && Config.freeBool (s.free + r.2)).map fun r => r.1
    (if bad.isEmpty then [row] else bad).foldl (rowSpared m pc bank) (bumpFree tested.length s1)

/-- A unit that passed returns: a lane, pair or bank as the spare, a link to training, rows to their places; a retired
one is reinstated (16:R446, Table 16-2). -/
def unitPassed (t : UnitTest) (s0 : State) : State :=
  let s := if isRetired s0 t.unit then reinstateUnit t.unit s0 else s0
  match t.unit with
  | .lane p => { s with boot := { s.boot with spares := s.boot.spares ++ [p] } }
  | .link i =>
    if (getPort i.toNat s).st = .down && portBuilt s i.toNat && !axisOff s i.toNat
    then modPort i.toNat (beginTraining false false) s else s
  | .tannery m pc b => rowsDone m pc b t.row.toNat false false s
  | .treePair p => if p = s.tree.active then s else { s with tree := { s.tree with standby := true } }
  | .staging p => bankNext { s with stg := { s.stg with spare := some p } }

/-- A unit with a lasting fault is retired (16:R446, Table 16-2); the second lasting staging fault starts a warm reset
(16:R450). -/
def unitRetired (t : UnitTest) (verdict : Nat) (s0 : State) : State :=
  let s := match t.unit with
    | .tannery m pc b => rowsDone m pc b t.row.toNat true (verdict = 1) s0
    | _ => s0
  let second : Bool := match t.unit with | .staging _ => decide (s.boot.stagingRetired ≠ (0 : BitVec 17)) | _ => false
  let s1 := retireUnit t.unit verdict t.row.toNat s
  let s2 := match t.unit with | .staging _ => bankNext s1 | _ => s1
  if second then askReset .secondStagingFault s2 else s2

/-- SELFTEST commands that wait for a test complete with its result (05:R144). -/
def testAnswers (t : UnitTest) (pass : Bool) (s : State) : State :=
  t.waiters.foldl
    (fun u i => match findCmd i u with
      | none => u
      | some c => endHeld c stOK 1 (if pass then 0 else 1) u) s

/-- TARGETED_SELFTEST_END (16:R444 to R447): the event of a test that an error started, or whose SELFTEST commands have all ended
by TIMEOUT (05:R148; log 104). -/
def execTargetedSelftestEnd (unit : TestUnit) (pass : Bool) (s : State) : Out :=
  live s (onlyIf (treeRuns s) fun s =>
    match s.tree.tests.find? fun t => t.unit = unit with
    | none => s
    | some t =>
      let counts := t.byError && pass
      let old := s.tree.transients.filter fun x => decide (now s < x.2 + Config.tick600s)
      let s1 := { s with tree := { s.tree with
        tests := s.tree.tests.filter fun x => x.unit ≠ unit
        transients := if counts then (unit, now s) :: old else old } }
      let n := transientsOf s1 unit
      let lasting := !pass || (counts && decide (3 ≤ n))
      let d := doneDetail s1 t pass n
      let orphan := !t.byError && !(t.waiters.any fun i => (findCmd i s).isSome)
      let s1b := if t.byError || (lasting && !isRetired s1 unit)
        then logAppend (if lasting then 3 else 2) (unitClass unit) (unitIndex unit) d s1 else s1
      let s2 := if t.byError || orphan then raiseEvent 0 7 (detailOf d) s1b else s1b
      let s3 := testAnswers t pass s2
      if lasting then (if pass then unitRetired t 2 s3 else if isRetired s3 unit then s3 else unitRetired t 1 s3)
      else unitPassed t s3)

/-- The unit of a SELFTEST command is taken out of service, and its test starts (05:R144; 16:R443, R446, R448); `none`
when nothing can carry its load. -/
def beginSelftest (u : TestUnit) (id : Nat) (s : State) : Option State :=
  let go (t : State) : Option State := some (startTest u false false 0 (some id) t)
  if testRunning s u || isRetired s u then go s
  else match u with
    | .lane p =>
      if s.boot.spares.contains p then go (clearLane p s)
      else (moveLane p s).bind go
    | .link i =>
      let d := i.toNat % 6
      let sister := if i.toNat < 6 then i.toNat + 6 else i.toNat - 6
      let st := (getPort i.toNat s).st
      if st = .off || st = .dark then none
      else if st = .down then go s
      else if portUp s sister || !dirDead s (oppDir d) then go (linkDown i.toNat 7 s)
      else none
    | .tannery m pc b =>
      if !moduleUp s m.toNat then none
      else
        let row := ((s.tree.errRow.find? fun x => x.1 = u).map fun x => x.2.toNat).getD 0
        startRows m pc b row false (some id) (fun t => t) s
    | .treePair p => if p = s.tree.active then none else go { s with tree := { s.tree with standby := false } }
    | .staging p =>
      if s.stg.spare = some p then go { s with stg := { s.stg with spare := none } }
      else match s.stg.spare with
        | none => none
        | some sp => go (copyBank (s.stg.map.findIdx fun q => q = p) sp.toNat s)

/-! ## Node loss -/

/-- Packets of a request that have not been numbered are given up, with the request. -/
def forgetReq (n : W32) (s : State) : State :=
  { s with ni := { s.ni with
      reqs := s.ni.reqs.filter fun r => r.num ≠ n
      tx := s.ni.tx.map fun t => { t with waiting := t.waiting.filter fun p => !(isRequest p && p.tag = n) } } }

/-- Every request of a command is given up. -/
def forgetCmd (id : Nat) (s : State) : State :=
  (s.ni.reqs.filter fun r => ownerCmd r.owner = some id).foldl (fun t r => forgetReq r.num t) s

/-- The lowest job-local rank of a communicator that translates to a lost coordinate (16:R469). -/
def lostRankIn (s : State) (lost : List Coord) (c : Comm) : Option Nat :=
  let l := ((List.range (commSize s c)).filter fun r => lost.contains (memberAt s c r)).map (jobRank s c)
  match l with
  | [] => none
  | r :: t => some (t.foldl min r)

/-- Bound and saved collectives with a member at a lost coordinate end with MEMBER_LOST (16:R469). -/
def lostCollectives (lost : List Coord) (s : State) : State :=
  let s1 := s.ctxs.foldl
    (fun t x => match findComm x.handle t with
      | none => t
      | some c => match lostRankIn t lost c with
        | none => t
        | some r => match findCtx x.idx t with
          | none => t
          | some y => failCtx y stMemberLost (BitVec.ofNat 64 r) t) s
  s1.saved.foldl
    (fun t y => match findComm y.ctx.handle t with
      | none => t
      | some c => match lostRankIn t lost c with
        | none => t
        | some r => markSaved y.ctx.handle y.ctx.seq (some (stMemberLost, BitVec.ofNat 64 r)) t) s1

/-- Outstanding one-sided commands to a lost coordinate end (16:R469; 10:R284). -/
def lostCmd (c : Coord) (s : State) (m : Cmd) : State :=
  let rankEnd (rank : BitVec 18) : State := unmapKick (endCmd m stMemberLost 1 (rank.setWidth 64) (forgetCmd m.id s))
  match m.kind with
  | .get x => if xferCoord s x = c then rankEnd x.rank else s
  | .put x =>
    let dataOut := x.next < x.len || s.ni.reqs.any fun r => r.owner = .cmd m.id
    let sig := match x.signal with
      | none => false
      | some a => isLocal s x.job.toNat a = some false && coordOf s x.job.toNat a = c
    if xferCoord s x = c && dataOut then rankEnd x.rank
    else if sig then
      let s1 := (s.ni.reqs.filter fun r => r.owner = .signal m.id).foldl (fun t r => forgetReq r.num t) s
      settleXfer m.id (modXfer m.id (fun y => { y with sigSent := true, sigFail := true }) s1)
    else s
  | .atomic _ _ d => if d = c then endCmd m stUnknown 0 0 (forgetCmd m.id s) else s
  | _ => s

/-- A coordinate leaves the destination sets of the marker rounds (08:R227). -/
def lostRounds (c : Coord) (s : State) : State :=
  let cut (r : Round) : Round := { r with dests := r.dests.filter fun d => d ≠ c }
  let s1 := { s with ni := { s.ni with rounds := s.ni.rounds.map cut } }
  (s1.ni.rounds.filter fun r => r.dests.isEmpty).foldl (fun t r => roundOver r.num t) s1

/-- A node adds a coordinate to its lost set (16:R469, R470, R472). -/
def addLost (c : Coord) (s : State) : State :=
  let s1 := degradeRouting s
  let s2 := if s1.ni.lost.length < Config.lostMax
    then setErr errNodeLost { s1 with ni := { s1.ni with lost := c :: s1.ni.lost } } else s1
  let s3 := lostCollectives (c :: s2.ni.lost) s2
  lostRounds c (s3.cmds.foldl (lostCmd c) s3)

/-- The direction of a neighbour coordinate whose every member is DOWN with a cause that can mean its loss. -/
def goneDir (s : State) (c : Coord) : Option Nat :=
  (List.range 6).find? fun d => neighbour s (myCoord s) d = c && memberGone s d && memberGone s (d + 6)

/-- A MGMT packet of a type. -/
def isMgmt (mtype : Nat) (p : Packet) : Bool := p.kind = 0xD && natBits 0 8 p.tag.toNat = mtype && p.payload.length = 16

/-- PROBE (16:R467): answered under its number. -/
def probeAct (p : Packet) (s : State) : State :=
  sendStream (mgmtPacket s p.src 2 (natBits 8 24 p.tag.toNat) (BitVec.ofNat 32 (payField p 0 4)) s.cfg.coord 0) s
def execProbe (p : Packet) (s : State) : Out :=
  live s (onlyIf (treeRuns s && isMgmt 1 p) (niArrive p (probeAct p) id))

/-- PROBE_ANSWER (16:R467): a link fault only. -/
def answerAct (p : Packet) (s : State) : State :=
  { s with ni := { s.ni with probes := s.ni.probes.filter fun b => !(b.1 = p.src && b.2.1.toNat = natBits 8 24 p.tag.toNat) } }
def execProbeAnswer (p : Packet) (s : State) : Out :=
  live s (onlyIf (treeRuns s && isMgmt 2 p) (niArrive p (answerAct p) id))

/-- PROBE_TIMEOUT (16:R467, R468): an unanswered probe of a neighbour whose links are all DOWN declares it lost. -/
def execProbeTimeout (coord : Coord) (s : State) : Out :=
  live s (onlyIf (treeRuns s && s.ni.probes.any fun b => b.1 = coord && decide (b.2.2 + Config.tick200us ≤ now s)) fun s =>
    let s1 := { s with ni := { s.ni with probes := s.ni.probes.filter fun b => b.1 ≠ coord } }
    if (goneDir s1 coord).isNone || s1.ni.lost.contains coord then s1
    else
      let w : W32 := coord.setWidth 32
      let s2 := logAppend 0x07 5 coord.toNat (noticePayload w s1.cfg.coord s1.kp.timestamp) s1
      addLost coord (floodMgmt none 3 w s2.cfg.coord s2.kp.timestamp s2))

/-- LOSS_NOTICE (16:R468). -/
def lossAct (port : Nat) (p : Packet) (s : State) : State :=
  let c := BitVec.ofNat 17 (payField p 0 4)
  if s.ni.lost.contains c then degradeRouting s
  else addLost c (floodMgmt (some (port % 6)) 3 (c.setWidth 32) (BitVec.ofNat 32 (payField p 4 4)) (BitVec.ofNat 64 (payField p 8 8)) s)
def execLossNotice (port : BitVec 4) (p : Packet) (s : State) : Out :=
  live s (onlyIf (treeRuns s && isMgmt 3 p) (niArrive p (lossAct port.toNat p) id))

/-- REJOIN_NOTICE (16:R470): a node that holds the coordinate removes it and forwards the notice. -/
def rejoinAct (port : Nat) (p : Packet) (s : State) : State :=
  let c := BitVec.ofNat 17 (payField p 0 4)
  if !s.ni.lost.contains c then s
  else rejoinLocal c
    (floodMgmt (some (port % 6)) 4 (c.setWidth 32) (BitVec.ofNat 32 (payField p 4 4)) (BitVec.ofNat 64 (payField p 8 8)) s)
def execRejoinNotice (port : BitVec 4) (p : Packet) (s : State) : Out :=
  live s (onlyIf (treeRuns s && isMgmt 4 p) (niArrive p (rejoinAct port.toNat p) id))

/-- DEGRADED_ROUTING_END (16:R472): after 25,000 ticks without another trigger; held packets go. -/
def execDegradedRoutingEnd (s : State) : Out :=
  live s (fun s => match s.ni.degradedAt with
    | none => s
    | some t =>
      if t + Config.tick1ms ≤ now s then
        let s1 := { s with ni := { s.ni with degradedAt := none } }
        s1.ni.tx.foldl (fun u x => txPump x.dst u) s1
      else s)

end Sys2Proof.Machine
end

