-- ==== Sys2Proof/Machine/Mgmt.lean ====
section
/-! DEFINITION. Machine/Mgmt.lean: the Octoz management commands (05) other than COMM_CREATE, the end of a flash write
(03:R79, R80), and the bound of 04:R108. -/

namespace Sys2Proof.Machine

/-- A bus address where `n` bytes are read, in the reads that carry them. -/
def busPieces (e : Entry) (o n : Nat) (s : State) : List (Nat × Nat) := pieces s (bodyField e o 8) n

/-! ## Node and power -/

/-- The IDENT record (05 Table 5-3). -/
def identRecord (s : State) : Bytes :=
  let variant : Nat := match s.board with | .vn2s => 0 | .vn4s => 1 | .vn8s => 2 | .vn4d => 3 | .vn8d => 4
  leBytes 4 0x160 ++ [fusePartRev s, BitVec.ofNat 8 (b2n s.boot.runSlot), BitVec.ofNat 8 variant, s.boot.runTpMask,
    s.boot.runRails.setWidth 8, BitVec.ofNat 8 (s.tree.active.toNat + 128 * b2n (!s.tree.standby)),
    BitVec.ofNat 8 s.boot.spares.length, 0] ++
  bvBytes 4 s.boot.fwVersion ++ bvBytes 8 (fuseDieId s) ++ bvBytes 4 s.cfg.coord ++ bvBytes 4 s.cfg.dims ++
  leBytes 1 (fuseSvn s) ++ leBytes 31 0

/-- IDENT (05:R133). -/
def execIdent (q : BitVec 6) (e : Entry) (s : State) : Out :=
  live s (octozRow q e (entOpcode e = 0x01) [(0, 64)] fun s =>
    let dest := bodyField e 0 8
    if dest % 64 ≠ 0 then some (endEntry q e stBadDesc s)
    else some (endResult q e (s.boot.fwVersion.setWidth 64) (busWrite dest (identRecord s) s)))

/-- Ports follow a change of TORUS_DIMS (07:R179): an axis of size 1 is OFF, and one no longer held OFF trains. What waited for
a port that is OFF now is handled as on its entry into DOWN (log 93). -/
def axisPorts (old : State) (s0 : State) : State :=
  let off := (List.range 12).filter fun i => axisOff s0 i && (getPort i s0).st != .off
  let s := off.foldl (fun t i => abandonPort i (modPort i (fun p => { p with st := .off, width := 0, training := none, ident := .off }) t)) s0
  { s with ports := s.ports.mapIdx fun i p =>
      if axisOff s i then p
      else if axisOff old i && portBuilt s i then (if p.retired then { p with st := .down } else beginTraining false false p)
      else p }

/-- IDENTITY goes out again on every port that carries control flits, and the check follows the new value (07:R181;
log 37). -/
def resendIdentity (s : State) : State := (portsWhere carries s).foldl (fun t i => settleIdentity i (sendIdentity i t)) s

/-- CONFIG_SET sets an item, and its consequences for the ports. -/
def applyConfig (item v : Nat) (s : State) : State :=
  let s1 := setConfig item v s
  let s2 := if item = 2 then axisPorts s s1 else s1
  if item = 1 || item = 2 then resendIdentity s2 else s2

/-- CONFIG_SET (05:R134, R152; 07:R179, R181). Whether a write to the configuration store fails is a free choice (log 94); one
that fails gives INTERNAL, and the running value stays. -/
def execConfigSet (q : BitVec 6) (e : Entry) (s : State) : Out :=
  live s (octozRow q e (entOpcode e = 0x02) [(0, 16), (2, 1), (8, 64)] fun s =>
    let item := bodyField e 0 2
    let v := bodyField e 8 8
    if !configOk item v || ((item = 1 || item = 2) && s.maps.any fun m => m.isSome) then some (endEntry q e stBadDesc s)
    else if !natBit 0 (bodyField e 2 1) then some (endEntry q e stOK (applyConfig item v s))
    else if Config.freeBool s.free then some (endEntry q e stInternal (bumpFree 1 s))
    else some (endEntry q e stOK (applyConfig item v (storeItem item v (bumpFree 1 s)))))

/-- The fields of POWER_POLICY with their values. -/
def policyFields (e : Entry) : List (Nat × TimerField × Nat) :=
  [(0, .dozeAfter, bodyField e 4 4), (1, .napAfter, bodyField e 8 4), (2, .deepAfter, bodyField e 12 4),
    (3, .heraldHold, bodyField e 16 4), (4, .floor, bodyField e 20 1)]

/-- POWER_POLICY (05:R135). -/
def execPowerPolicy (q : BitVec 6) (e : Entry) (s : State) : Out :=
  live s (octozRow q e (entOpcode e = 0x03) [(0, 5), (4, 32), (8, 32), (12, 32), (16, 32), (20, 8)] fun s =>
    let on := (policyFields e).filter fun f => natBit f.1 (bodyField e 0 1)
    if on.all fun f => timerOk f.2.1 f.2.2
    then some (endEntry q e stOK (on.foldl (fun t f => setTimer f.2.1 (BitVec.ofNat 32 f.2.2) t) s))
    else some (endEntry q e stBadDesc s))

/-- PREWARM (02:R46, R47; 05:R136): Octoz runs, so the engine is ACTIVE; the hold starts, and the command completes once its
heralds have left. A hold out of range is BAD_DESC before the handle is looked up (DESIGN CHOICE, log 98). -/
def execPrewarm (q : BitVec 6) (e : Entry) (s : State) : Out :=
  live s (octozRow q e (entOpcode e = 0x04) [(0, 32), (4, 32)] fun s =>
    let h := BitVec.ofNat 32 (bodyField e 0 4)
    let hold := bodyField e 4 4
    if !decide (25 ≤ hold && hold ≤ 250000000) then some (endEntry q e stBadDesc s)
    else match commHere h s with
      | none => some (endEntry q e stNoComm s)
      | some c =>
        let n := seqNext c.prewarms
        let s1 := filterAdd (.prewarm h s.cfg.coord n) 0 none (myCoord s) (modComm h (fun c => { c with prewarms := n }) s)
        let p := heraldPacket s1 1 h n (s.cfg.coord.setWidth 64) (BitVec.ofNat 32 hold) c.lo c.hi
        some (prewarmKick (addCmd q e (.prewarm h n)
          (startHold (.prewarm h) hold (flood none c.lo c.hi p (wakeSource 8 s1))))))

/-! ## Windows and rank maps -/

/-- The lowest WINDOW_ID that no window and no waiting WINDOW_UNMAP holds. -/
def freeWindow (s : State) : Option (BitVec 10) :=
  let held (w : Window) : Bool := !w.closing || s.cmds.any fun c => c.kind = .windowUnmap w.offset w.len
  ((List.range 1024).map (BitVec.ofNat 10)).find? fun i => !s.wins.any fun w => w.id = i && held w

/-- WINDOW_MAP (05:R137). -/
def execWindowMap (q : BitVec 6) (e : Entry) (s : State) : Out :=
  live s (octozRow q e (entOpcode e = 0x05) [(0, 64), (8, 64), (16, 64), (24, 4)] fun s =>
    let o := bodyField e 0 8
    let a := bodyField e 8 8
    let n := bodyField e 16 8
    let hit := s.wins.any fun w => !w.closing && overlaps w.offset o w.len n
    if o % 4096 ≠ 0 || a % 4096 ≠ 0 || n % 4096 ≠ 0 || n = 0 || decide (2 ^ 44 < o + n) || hit then
      some (endEntry q e stBadDesc s)
    else match freeWindow s with
      | none => some (endEntry q e stLimit s)
      | some i =>
        let w : Window := { id := i, offset := o, bus := a, len := n, perm := BitVec.ofNat 4 (bodyField e 24 1), closing := false }
        some (endResult q e (i.setWidth 64) { s with wins := s.wins ++ [w] }))

/-- WINDOW_UNMAP (05:R138): the window leaves the lookup at once, and the command ends when nothing uses it any more. -/
def execWindowUnmap (q : BitVec 6) (e : Entry) (s : State) : Out :=
  live s (octozRow q e (entOpcode e = 0x06) [(0, 32)] fun s =>
    match s.wins.find? fun w => !w.closing && w.id.toNat = bodyField e 0 4 with
    | none => some (endEntry q e stBadDesc s)
    | some w =>
      let shut := s.wins.map fun x => if x = w then { x with closing := true } else x
      some (unmapKick (addCmd q e (.windowUnmap w.offset w.len) { s with wins := shut })))

/-- The coordinate words of a list of bytes, when every one lies inside TORUS_DIMS (05:R139, R151). -/
def mapWords (s : State) (n : Nat) (b : Bytes) : Option (List Coord) :=
  let l := (List.range n).map fun i => fieldAt (4 * i) 4 b
  if l.all (coordOk s) then some (l.map (BitVec.ofNat 17)) else none

/-- A map index is used by a communicator. -/
def mapUsed (s : State) (m : Nat) : Bool := s.comms.any fun c => c.map.toNat = m

/-- The fields of RANKMAP_LOAD that refuse it before it reads (05:R139, R131). -/
def mapLoadBad (e : Entry) (s : State) : Bool :=
  let n := bodyField e 4 4
  decide (15 < bodyField e 0 1) || n = 0 || decide (131072 < n) || bodyField e 8 8 % 4 ≠ 0 || mapUsed s (bodyField e 0 1)

/-- RANKMAP_LOAD (05:R139). Words of a read that came back poisoned count as read, which the manual leaves open (DESIGN CHOICE,
log 95). -/
def execRankmapLoad (q : BitVec 6) (e : Entry) (s : State) : Out :=
  live s (octozRead q e (entOpcode e = 0x07) [(0, 8), (4, 32), (8, 64)]
    (fun s => if mapLoadBad e s then [] else busPieces e 8 (4 * bodyField e 4 4) s)
    fun s =>
      let n := bodyField e 4 4
      if mapLoadBad e s then some (endEntry q e stBadDesc s)
      else match mapWords s n (busRead s (bodyField e 8 8) (4 * n)) with
        | none => some (endEntry q e stBadDesc s)
        | some l => some (endEntry q e stOK { s with maps := setAt (bodyField e 0 1) (some l) s.maps }))

/-- DETAIL of RANK_REMAP (06 Table 6-5). -/
def remapDetail (m first count : Nat) (old new : Coord) : Bytes :=
  [BitVec.ofNat 8 m, 0, 0, 0] ++ leBytes 4 first ++ leBytes 4 count ++ leBytes 4 old.toNat ++ leBytes 4 new.toNat

/-- A communicator has a member that a patch moves (06:R168). -/
def patchHits (s : State) (m first : Nat) (new : List Coord) (c : Comm) : Bool :=
  c.map.toNat = m && (List.range (commSize s c)).any fun r =>
    decide (first ≤ jobRank s c r) && decide (jobRank s c r < first + new.length) &&
    new[jobRank s c r - first]? ≠ translate s m (jobRank s c r)

/-- RANKMAP_PATCH (05:R140; 06:R168, Table 6-5). A word that 05:R139 would refuse is refused here too: 05:R140 gives no such check
(DESIGN CHOICE, log 96). -/
def execRankmapPatch (q : BitVec 6) (e : Entry) (s : State) : Out :=
  let count := bodyField e 8 4
  live s (octozRow q e (entOpcode e = 0x08) [(0, 8), (4, 32), (8, 32), (16, 32 * min count 24)] fun s =>
    let m := bodyField e 0 1
    let first := bodyField e 4 4
    match s.maps.getD m none with
    | none => some (endEntry q e stBadDesc s)
    | some old =>
      let words := mapWords s count (leBytes (4 * count) (bodyField e 16 (4 * count)))
      if count = 0 || decide (24 < count) || decide (old.length < first + count) then some (endEntry q e stBadDesc s)
      else match words with
        | none => some (endEntry q e stBadDesc s)
        | some l =>
          let new := old.take first ++ l ++ old.drop (first + count)
          let comms := s.comms.map fun c => if patchHits s m first l c then { c with patched := true } else c
          let d := remapDetail m first count (old.getD first 0) (l.headD 0)
          some (endEntry q e stOK
            (raiseEvent 0 8 (detailOf d) { s with maps := setAt m (some new) s.maps, comms := comms })))

/-! ## Communicators and routing -/

/-- A saved collective is aborted: the notice leaves, and the context is marked to end with ABORTED (10:R282). -/
def abortSaved (cause : Byte) (status : Byte) (y : Saved) (s : State) : State :=
  match findComm y.ctx.handle s with
  | none => s
  | some c =>
    let n : Notice := { seq := y.ctx.seq, rank := ownJob y.ctx s, cause := cause, namedSig := 0, detSig := 0, value := 0 }
    markSaved y.ctx.handle y.ctx.seq (some (status, noticeResult n)) (raiseNotice c y.ctx.sig n s)

/-- Every bound or saved collective of a handle is aborted on all members (05:R141). -/
def abortHandle (h : W32) (s : State) : State :=
  let s1 := (s.ctxs.filter fun x => x.handle = h).foldl
    (fun t x => match findCtx x.idx t with
      | none => t
      | some y => abortColl y stAborted (ownJob y t) 0 0 stAborted none t) s
  (s1.saved.filter fun y => y.ctx.handle = h).foldl (fun t y => abortSaved stAborted stAborted y t) s1

/-- COMM_DESTROY (05:R141, Edges): a waiting DRAIN of the handle ends with ABORTED; new collectives wait until the
handle is gone. A DRAIN of every communicator does not name the handle, and goes on (DESIGN CHOICE, log 97). -/
def execCommDestroy (q : BitVec 6) (e : Entry) (s : State) : Out :=
  live s (octozRow q e (entOpcode e = 0x0A) [(0, 32)] fun s =>
    let h := BitVec.ofNat 32 (bodyField e 0 4)
    match commHere h s with
    | none => some (endEntry q e stNoComm s)
    | some _ =>
      let drains := s.cmds.filter fun c => match c.kind with | .drain x _ => x = h | _ => false
      let s1 := drains.foldl (fun t c => endHeld c stAborted 0 0 t) s
      some (destroyKick (addCmd q e (.commDestroy h) (abortHandle h s1))))

/-- The communicators that a COMM_HANDLE of DRAIN or ROUTE_UPDATE names (05:R142, R143). -/
def named (h : W32) (s : State) : List Comm :=
  s.comms.filter fun c => (h = 0xFFFFFFFF || c.handle = h) && inBox s c.lo c.hi (myCoord s)

/-- The `drained` mark of the named communicators. -/
def markDrained (h : W32) (on : Bool) (s : State) : State :=
  let hit := (named h s).map fun c => c.handle
  { s with comms := s.comms.map fun c => if hit.contains c.handle then { c with drained := on } else c }

/-- A row of DRAIN, by MODE; MODE 0's row also refuses the reserved modes, before it looks for the handle (DESIGN CHOICE, log 98). A DRAIN of
every communicator of a node that has none completes with OK (DESIGN CHOICE, log 97). -/
def drainRow (q : BitVec 6) (e : Entry) (release : Bool) (s : State) : State :=
  let mode := bodyField e 4 1
  octozRow q e (entOpcode e = 0x0B && (if release then mode = 1 else mode ≠ 1)) [(0, 32), (4, 8)] (fun s =>
    let h := BitVec.ofNat 32 (bodyField e 0 4)
    if 1 < mode then some (endEntry q e stBadDesc s)
    else if h ≠ 0xFFFFFFFF && (named h s).isEmpty then some (endEntry q e stNoComm s)
    else if release then some (endEntry q e stOK (markDrained h false s))
    else some (drainKick (addCmd q e (.drain h none) (markDrained h true s)))) s

/-- DRAIN and its release (05:R142). -/
def execDrain (q : BitVec 6) (e : Entry) (s : State) : Out := live s (drainRow q e false)
def execDrainRelease (q : BitVec 6) (e : Entry) (s : State) : Out := live s (drainRow q e true)

/-- Reserved bits or values of an exception entry (08 Table 8-10; 00:R8): encoded fields count where VALID is set. -/
def routeWordOk (w : W64) : Bool :=
  natBits 46 18 w.toNat = 0 &&
  (!w.getLsbD 45 || (natBits 34 4 w.toNat ≤ 7 && natBits 38 3 w.toNat ≤ 5 && natBits 41 4 w.toNat ≠ 0))

/-- The fields and the precondition of ROUTE_UPDATE (05:R143). -/
def routeBad (e : Entry) (s : State) : Bool :=
  let n := bodyField e 4 2
  n = 0 || decide (1024 < n) || (named (BitVec.ofNat 32 (bodyField e 0 4)) s).any fun c => !c.drained

/-- The bank that the current epoch does not select still serves its epoch (05:R143, 08:R227). -/
def bankServes (s : State) : Bool := s.ni.rounds.any fun r => r.epoch = !s.ni.epoch

/-- ROUTE_UPDATE (05:R143; 08:R225 to R227). An unknown handle is NO_COMM whatever value another field holds (DESIGN CHOICE, log 98);
poisoned words count as read (DESIGN CHOICE, log 95). -/
def execRouteUpdate (q : BitVec 6) (e : Entry) (s : State) : Out :=
  let h := BitVec.ofNat 32 (bodyField e 0 4)
  let n := bodyField e 4 2
  live s (octozRead q e (entOpcode e = 0x0C) [(0, 32), (4, 16), (6, 1), (8, 64)]
    (fun s => if routeBad e s then [] else busPieces e 8 (8 * n) s)
    fun s =>
      if h ≠ 0xFFFFFFFF && (named h s).isEmpty then some (endEntry q e stNoComm s)
      else if routeBad e s then some (endEntry q e stBadDesc s)
      else if bankServes s then none
      else
        let b := busRead s (bodyField e 8 8) (8 * n)
        let words := (List.range n).map fun i => (BitVec.ofNat 64 (fieldAt (8 * i) 8 b) : W64)
        if !words.all routeWordOk then some (endEntry q e stBadDesc s)
        else
          let rt := if s.ni.epoch then { s.rt with bank0 := words } else { s.rt with bank1 := words }
          let s1 := { s with rt := rt }
          let s2 := if natBit 0 (bodyField e 6 1)
            then (startRound s.ni.epoch { s1 with ni := { s1.ni with epoch := !s1.ni.epoch } }).2 else s1
          some (endEntry q e stOK s2))

/-! ## Tests, log, firmware, programs -/

/-- The unit that SELFTEST names (05 Table 5-2; log 17): for a Tree pair the standby one. -/
def testUnit (s : State) (cls index : Nat) : Option TestUnit :=
  match cls with
  | 0 => if index ≤ 167 then some (.lane (BitVec.ofNat 8 index)) else none
  | 1 => if index ≤ 11 then some (.link (BitVec.ofNat 4 index)) else none
  | 2 => if index ≤ 4095
    then some (.tannery (BitVec.ofNat 3 (index / 512)) (BitVec.ofNat 5 (index % 512 / 16)) (BitVec.ofNat 4 index)) else none
  | 3 => some (.treePair (s.tree.active ^^^ 1))
  | 4 => if index ≤ 16 then some (.staging (BitVec.ofNat 5 index)) else none
  | _ => none

/-- SELFTEST (05:R144). -/
def execSelftest (q : BitVec 6) (e : Entry) (s : State) : Out :=
  live s (octozRow q e (entOpcode e = 0x0D) [(0, 8), (4, 32)] fun s =>
    match testUnit s (bodyField e 0 1) (bodyField e 4 4) with
    | none => some (endEntry q e stBadDesc s)
    | some u =>
      let id := s.tree.nextCmd
      match beginSelftest u id (addCmd q e (.selftest u) s) with
      | none => some (endEntry q e stLimit s)
      | some t => some t)

/-- LOG_READ (05:R145): whole records, oldest first, from START or the oldest held. A START above the newest record copies none
and comes back as the next START (DESIGN CHOICE, log 99). -/
def execLogRead (q : BitVec 6) (e : Entry) (s : State) : Out :=
  live s (octozRow q e (entOpcode e = 0x0E) [(0, 64), (8, 32), (12, 32)] fun s =>
    let dest := bodyField e 0 8
    let len := bodyField e 12 4
    if dest % 64 ≠ 0 || !decide (64 ≤ len && len ≤ 4194304) then some (endEntry q e stBadDesc s)
    else
      let next := s.boot.nextRecord.toNat
      let oldest := if next ≤ 63 * 1024 then 0 else ((next - 1) / 1024 - 62) * 1024
      let first := max (bodyField e 8 4) oldest
      let n := min (len / 64) (next - first)
      let bytes := (List.range n).flatMap fun i => flashRead s (logAddr (first + i)) 64
      some (endResult q e (BitVec.ofNat 64 (n + (first + n) * 2 ^ 32)) (busWrite dest bytes s)))

/-- A staged area that FW_UPDATE or PROG_LOAD names lies in the open area (06:R156). -/
def stageOk (o n align : Nat) : Bool := o % align = 0 && decide (o + n ≤ Config.stagingOpen)

/-- Used bits of FW_UPDATE. -/
def fwFields : List (Nat × Nat) := [(0, 8), (1, 1), (4, 32), (8, 64)]

/-- FW_UPDATE WRITE (03:R79, R80): its row also refuses the reserved actions. -/
def execFwUpdateWrite (q : BitVec 6) (e : Entry) (s : State) : Out :=
  let act := bodyField e 0 1
  live s (octozRow q e (entOpcode e = 0x0F && act ≠ 1 && act ≠ 2) fwFields fun s =>
    let n := bodyField e 4 4
    let o := bodyField e 8 8
    if act ≠ 0 || !stageOk o n 4096 then some (endEntry q e stBadDesc s)
    else if 8388608 < n then some (endEntry q e stLimit s)
    else if fwWriting s then none
    else
      let img := stgRead s o n
      let len := fieldAt 8 4 img
      match authImage s (fun a k => slice a k img) with
      | none => some (endEntry q e stCheckFail s)
      | some _ =>
        if n < 4096 + len then some (endEntry q e stCheckFail s)
        else
          let slot := !s.boot.runSlot
          let base := slotBase slot
          let s1 := flashWrite (base + 4096) (slice 4096 len img) (flashErase base 8388608 s)
          some (addCmd q e (.fwWrite slot (slice 0 4096 img) false) s1))

/-- FLASH_WRITE_DONE (03:R79, R80): the header is written last and the slot read back; held log records follow. A failed
write of the error log is tried again from its copy (16:R473), which leaves the log as the model already has it. -/
def execFlashWriteDone (ok : Bool) (s : State) : Out :=
  live s fun s =>
    let isFw (c : Cmd) : Bool := match c.kind with | .fwWrite _ _ _ => true | _ => false
    match s.cmds.find? isFw with
    | none => s
    | some c => match c.kind with
      | .fwWrite slot header silent =>
        let s1 := if ok then flashWrite (slotBase slot) header s else s
        let s2 := if silent then { s1 with cmds := s1.cmds.filter fun x => x.id ≠ c.id }
          else endCmd c (if ok then stOK else stInternal) 0 0 s1
        logRelease s2
      | _ => s

/-- FW_UPDATE ACTIVATE (03:R79). -/
def execFwUpdateActivate (q : BitVec 6) (e : Entry) (s : State) : Out :=
  live s (octozRow q e (entOpcode e = 0x0F && bodyField e 0 1 = 1) fwFields fun s =>
    if fwWriting s then none
    else
      let (_, a, b) := bootState s
      let s1 := if s.boot.runSlot then bootAppend 0 0 b 0x03 s else bootAppend 1 a 0 0x03 s
      some (endEntry q e stOK s1))

/-- Blows the lowest intact SVN fuses until SVN has the value `v`, by fuel. -/
def blowSvn (v : Nat) : Nat → BitVec 1024 → BitVec 1024
  | 0, f => f
  | k + 1, f =>
    let n := popBits 64 (f.toNat >>> 770)
    if v ≤ n then f
    else match (List.range 64).find? fun i => !f.getLsbD (770 + i) with
      | none => f
      | some i => blowSvn v k (f ||| (1 : BitVec 1024) <<< (770 + i))

/-- FW_UPDATE COMMIT (03:R79). -/
def execFwUpdateCommit (q : BitVec 6) (e : Entry) (s : State) : Out :=
  live s (octozRow q e (entOpcode e = 0x0F && bodyField e 0 1 = 2) fwFields fun s =>
    if fwWriting s then none
    else
      let f := blowSvn s.boot.imageSvn.toNat 64 s.fuses
      let g := if natBit 0 (bodyField e 1 1) && s.boot.imageKey then f ||| (1 : BitVec 1024) <<< 768 else f
      some (endEntry q e stOK { s with fuses := g }))

/-- A copy of a program that a running thread of a bench still uses. -/
def progRuns (s : State) (p : Program) (b : Nat) : Bool :=
  let runs (t : Thread) : Bool := t.prog = p.id && t.gen = p.gen && t.st ≠ .ended
  s.threads.any (fun t => runs t && t.id.lane.toNat / 14 = b) || s.saved.any fun y => y.threads.any runs

/-- The libraries after a program takes the place of its older copies on the benches of `mask` (13:R357): copies that run
stay until their threads end. -/
def replaceProg (s : State) (id : W16) (mask : BitVec 12) : List Program :=
  let keep (p : Program) (b : Nat) : Bool :=
    p.benches.getLsbD b && !((p.id = id && mask.getLsbD b || s.progs.any fun o => o.id = p.id && p.gen < o.gen && o.benches.getLsbD b) &&
      !progRuns s p b)
  let cut (p : Program) : Program :=
    { p with benches := BitVec.ofNat 12 ((List.range 12).foldl (fun n b => n + (if keep p b then 2 ^ b else 0)) 0) }
  (s.progs.map cut).filter fun p => p.benches ≠ 0

/-- Bytes that programs of PROG_LOAD take in a bench library (13:R357). -/
def libraryUsed (l : List Program) (b : Nat) : Nat :=
  (l.filter fun p => p.benches.getLsbD b).foldl (fun n p => n + 8 * p.words.length) 0

/-- A program header that PROG_LOAD accepts with a BENCH_MASK (13:R356, Table 13-5). -/
def headOk (w : W64) (mask : Nat) : Bool :=
  let n := w.toNat
  let alg := natBits 8 8 n
  natBits 56 8 n = 0xF0 && !natBit 52 n && natBits 44 8 n ≤ 192 && natBits 32 12 n = 0 &&
  (natBits 0 32 n = 0 || (alg ≠ 0 && alg ≠ 4 && mask = 0xFFF))

/-- PROG_LOAD (05:R147; 13:R356, R357). -/
def execProgLoad (q : BitVec 6) (e : Entry) (s : State) : Out :=
  live s (octozRow q e (entOpcode e = 0x10) [(0, 16), (2, 12), (4, 32), (8, 64)] fun s =>
    let id := BitVec.ofNat 16 (bodyField e 0 2)
    let mask := bodyField e 2 2
    let n := bodyField e 4 4
    let o := bodyField e 8 8
    if decide (id.toNat < 0x100) || mask = 0 || !decide (8 ≤ n && n ≤ 65536 && n % 8 = 0) || !stageOk o n 8 then
      some (endEntry q e stBadDesc s)
    else
      let b := stgRead s o n
      let words := (List.range (n / 8)).map fun i => (BitVec.ofNat 64 (fieldAt (8 * i) 8 b) : W64)
      if !headOk (words.headD 0) mask then some (endEntry q e stBadDesc s)
      else
        let rest := replaceProg s id (BitVec.ofNat 12 mask)
        let fits := (List.range 12).all fun i => !natBit i mask || decide (libraryUsed rest i + n ≤ 40960)
        if !fits then some (endEntry q e stLimit s)
        else
          let gen := (s.progs.map fun p => p.gen).foldl max 0 + 1
          let p : Program := { id := id, benches := BitVec.ofNat 12 mask, gen := gen, words := words }
          some (endEntry q e stOK { s with progs := rest ++ [p] }))

/-! ## The bound of 04:R108 -/

/-- A bound has passed. -/
def passed (d : Option Nat) (s : State) : Bool := match d with | none => false | some t => decide (t ≤ now s)

/-- The opcodes that wait at the head of their queue as 05 Table 5-1 states: RANKMAP_LOAD for its read, ROUTE_UPDATE for the old
bank, FW_UPDATE for an earlier one. -/
def waitsAtHead (op : Nat) : Bool := op = 0x07 || op = 0x0C || op = 0x0F

/-- The management command that waits at the head of a queue as 05 Table 5-1 states ends with TIMEOUT when its bound has passed
since it began to wait there (05:R130, R148). -/
def waitingTimeout (q : BitVec 6) (s0 : State) : State :=
  let s := settleHead q s0
  let g := getPage q.toNat s
  match g.fetched with
  | [] => s
  | f :: _ =>
    let e := f.entry
    let t := if entTimeout e = 0 then g.defTimeout.toNat else entTimeout e
    let held := queueHeld q s || fenceHolds q e s
    if octozRuns s && !held && waitsAtHead (entOpcode e) && t ≠ 0 && decide (g.headSince + t ≤ now s)
    then settleHead q (endEntry q e stTimeout (popHead q s)) else s

/-- The bytes that a GET has written become undefined (10:R286): the pieces that were asked and are no longer outstanding. -/
def spoilGet (id : Nat) (x : Xfer) (s : State) : State :=
  (List.range (ceilDiv x.next 8192)).foldl
    (fun t k =>
      let a := faAdd x.dst (8192 * k)
      if t.ni.reqs.any fun r => r.owner = .cmd id && r.localAddr = a then t
      else localUndefined a (min 8192 (x.next - 8192 * k)) t) s

/-- The end of a started command whose bound has passed (05:R148; 10:R286). -/
def startedTimeout (c : Cmd) (s : State) : State :=
  let stop (s : State) : State := endCmd c stTimeout 0 0 s
  match c.kind with
  | .get x => unmapKick (stop (forgetCmd c.id (spoilGet c.id x s)))
  | .put _ => unmapKick (stop (forgetCmd c.id s))
  | .atomic _ _ _ => stop (forgetCmd c.id s)
  | .windowUnmap _ _ => unmapKick (endHeld c stTimeout 0 0 s)
  | .drain _ _ | .commDestroy _ | .selftest _ => endHeld c stTimeout 0 0 s
  | .fwWrite slot h _ =>
    let t := stop s
    { t with cmds := t.cmds ++ [{ c with deadline := none, kind := .fwWrite slot h true }] }
  | _ => stop s

/-- COMMAND_TIMEOUT (04:R108; 10:R280, R282, R286). -/
def execCommandTimeout (target : TimeoutTarget) (s : State) : Out :=
  live s fun s =>
    match target with
    | .waiting q => waitingTimeout q s
    | .started i => match findCmd i s with
      | none => s
      | some c => if passed c.deadline s then settleHead c.q (startedTimeout c s) else s
    | .context i => match findCtx i s with
      | none => s
      | some x => if passed x.deadline s then abortColl x stAborted (ownJob x s) 0 0 stTimeout none s else s
    | .saved r => match s.saved.find? fun y => y.record = r && !y.writing with
      | none => s
      | some y => if passed y.ctx.deadline s && y.ending.isNone then abortSaved stAborted stTimeout y s else s

end Sys2Proof.Machine
end

