-- ==== Sys2Proof/Machine/Resets.lean ====
section
/-! DEFINITION. Machine/Resets.lean: the warm reset and the host-link reset (03:R60 to R63, R81), and the end of a wake
(02:R37, R38, R44). -/

namespace Sys2Proof.Machine

/-- Every bound or saved collective is aborted on all members, and completes with ABORTED (03:R62): a saved one at once, since no
restore follows. -/
def abortEverything (s : State) : State :=
  let s1 := s.ctxs.foldl
    (fun t x => match findCtx x.idx t with
      | none => t
      | some y => abortColl y stAborted (ownJob y t) 0 0 stAborted none t) s
  s1.saved.foldl
    (fun t y => abortColl y.ctx stAborted (ownJob y.ctx t) 0 0 stAborted none
      { t with saved := t.saved.filter fun z => z.record ≠ y.record }) s1

/-- The abort notices that wait for injection leave before the links go, on the UP member that their direction has (03:R62,
07:R178). -/
def sendNotices (s : State) : State :=
  (s.rt.inject.filter fun x => isAbort x.2).foldl
    (fun t x =>
      let d := match x.1 with | some d => some d.toNat | none => packetDir t x.2
      match d.bind (pickMember t 0) with
      | some i => emit (.packet (BitVec.ofNat 4 i) x.2) t
      | none => t) s

/-- The cache is invalidated without write-back: the granules of dirty lines are undefined (03:R62). -/
def dropCache (s : State) : State :=
  (s.tm.cache.filter fun l => l.dirty).foldl
    (fun t l => bumpFree 256 { t with tm := { t.tm with mem := memWrite 0 t.tm.mem (l.granule * 256) (freeBytes t 256) } })
    { s with tm := { s.tm with cache := [] } }

/-- The WARM_RESET record (16 Table 16-8); other sources log none. -/
def resetRecord (src : WarmSource) (s : State) : State :=
  let put (b : Byte) : State := logAppend 0x0C 6 0 [b] s
  match src with
  | .stagingPoison => put 1
  | .secondStagingFault => put 2
  | .treeNoStandby => put 3
  | .octozInternal => put 4
  | _ => s

/-- The keeper after a warm reset (03 Table 3-2): TIMESTAMP, LAST_WAKE, the sensors and what follows from them stay. -/
def warmKeeper (k : Keeper) : Keeper :=
  { Keeper.reset with
      timestamp := k.timestamp, lastWake := k.lastWake, stateSince := k.timestamp.toNat, idleSince := k.timestamp.toNat
      therm := k.therm, throttled := k.throttled, tripped := k.tripped, gbTemp := k.gbTemp, gbWarn := k.gbWarn
      gbStop := k.gbStop, latchSb := k.latchSb, sbBusy := k.sbBusy }

/-- The lowest physical staging bank that is neither mapped nor retired. -/
def restSpare (s : State) : Option (BitVec 5) :=
  ((List.range 17).map (BitVec.ofNat 5)).find? fun b => !s.stg.map.contains b && !s.boot.stagingRetired.getLsbD b.toNat

/-- Lanes whose test the reset cut short are spares again: the unit map is kept (03 Table 3-2). -/
def restLanes (s : State) : List Byte :=
  ((List.range 168).map (BitVec.ofNat 8)).filter fun p => !s.boot.laneMap.contains p && !s.boot.lanesRetired.getLsbD p.toNat

/-- What a warm reset leaves (03 Table 3-2, warm column; 16:R475). -/
def warmState (s : State) : State :=
  { State.reset with
      kp := warmKeeper s.kp
      boot := { s.boot with phase := 2, fault := 0, warm := true, failed := [false, false], spares := restLanes s
                            fwVersion := 0, runTpMask := 0, runRails := 0 }
      fuses := s.fuses, board := s.board, pins := { s.pins with tmRstN := 0, gbRstN := 0 }
      host := { HostPort.reset with cfg := s.host.cfg, busMaster := s.host.busMaster, relaxed := s.host.relaxed
                                    payload := s.host.payload, readReq := s.host.readReq, l1 := s.host.l1, msixOn := s.host.msixOn, msixMask := s.host.msixMask
                                    bar2Log := s.host.bar2Log, nextTag := s.host.nextTag, inReset := s.host.inReset }
      tree := { Tree.reset with active := s.tree.active, standby := s.boot.treeRetired = 0, nextCmd := s.tree.nextCmd
                                wdAt := s.kp.timestamp.toNat }
      ports := s.ports.map fun p => { Port.reset with savedEq := p.savedEq }
      tm := { Tannery.reset with mem := s.tm.mem, poison := s.tm.poison, temp := s.tm.temp
                                 savedEq := s.tm.savedEq, spared := s.tm.spared.filter fun x => x.forGood
                                 apertures := (List.range 8).map (Aperture.reset s.host.bar2Log.toNat) }
      stg := { Staging.reset with map := s.stg.map, spare := restSpare s }
      bus := s.bus, busPoison := s.busPoison, flash := s.flash, jtag := s.jtag, out := s.out, free := s.free
      pending := s.pending }

/-- The source's own steps come first: Octoz aborts collectives and writes the cache back, or the keeper drops the cache
(03:R62). -/
def warmFirst (src : WarmSource) (s : State) : State :=
  let octoz : Bool := match src with
    | .octozInternal | .stagingPoison | .secondStagingFault => true
    | .resetCtl => s.boot.phase = phReady
    | _ => false
  resetRecord src (if octoz then flushCache (sendNotices (abortEverything s)) else dropCache s)

/-- The reset has been asked for: by the model's own causes, or by Octoz on an INTERNAL error. -/
def resetAsked (src : WarmSource) (s : State) : Bool :=
  match s.tree.resetReq with
  | some r => r.1 = src
  | none => src = .octozInternal && octozRuns s

/-- WARM_RESET (03:R62, R81): the boot ROM then selects a slot (03:R71); no self-test runs (03:R65). With more than one staging
bank retired boot stops in FAULT STAGING (03:R69, 16:R450). -/
def execWarmReset (src : WarmSource) (s : State) : Out :=
  live s (onlyIf (resetAsked src s) fun s =>
    let s1 := warmState (warmFirst src s)
    if 1 < popBits 17 s1.boot.stagingRetired.toNat then bootFault 0x05 s1 else selectSlot s1)

/-- A collective that a host-link reset ends: the notice leaves, no completion is posted (03:R63). -/
def linkAbort (s : State) (x : Ctx) : State :=
  match findComm x.handle s with
  | none => dropCtx x s
  | some c =>
    let n : Notice := { seq := x.seq, rank := ownJob x s, cause := stAborted, namedSig := 0, detSig := 0, value := 0 }
    dropCtx x (spoilDest x stAborted (raiseNotice c x.sig n s))

/-- Commands that run on without a queue: an FW_UPDATE WRITE (03:R80). -/
def silentCmds (l : List Cmd) : List Cmd :=
  l.filterMap fun c => match c.kind with
    | .fwWrite slot h _ => some { c with deadline := none, kind := .fwWrite slot h true }
    | _ => none

/-- A sideband read that waits for the wake: the sideband is no part of the host link (02:R51). -/
def isSbRead : HostWait → Bool
  | .sbRead _ _ => true
  | _ => false

/-- HOST_LINK_RESET (03:R63, R81). -/
def execHostLinkReset (src : HostLinkSource) (s : State) : Out :=
  live s (fun s =>
    let s0 := { s with pins := { s.pins with perstN := if src = HostLinkSource.perst then false else s.pins.perstN } }
    let s1 := { s0 with host := { HostPort.reset with bar2Log := s.host.bar2Log, nextTag := s.host.nextTag
                                                      waits := s.host.waits.filter isSbRead
                                                      inReset := s.host.inReset || decide (src = HostLinkSource.perst) } }
    let s2 := s1.ctxs.foldl linkAbort s1
    let s3 := s2.saved.foldl (fun t y => (abortSaved stAborted stAborted y t)) s2
    let s4 := s3.cmds.foldl (fun t (c : Cmd) => forgetCmd c.id t) s3
    let away := s4.ni.serving.filter fun (p : Packet) => decide (p.kind ≠ 4) && decide (faSpace (payAddr p) = 2)
    let s5 := { s4 with saved := [], cmds := silentCmds s4.cmds, wins := [], rein := { s4.rein with slots := [] }
                        qs := List.replicate 64 QPage.reset, evq := QPage.reset
                        ni := { s4.ni with serving := s4.ni.serving.filter fun (p : Packet) => decide (p.kind ≠ 4) && decide (faSpace (payAddr p) ≠ 2) } }
    let s6 : State := away.foldl (fun t p => missRequest p 1 t) s5
    if s6.host.bar2Log = 30 then s6 else setBar2 30 s6)

/-- PERST_N_RISE (18:R502): the host-link reset ends, and configuration requests are answered. -/
def execPerstNRise (s : State) : Out :=
  live s (onlyIf (!s.pins.perstN) fun s =>
    { s with pins := { s.pins with perstN := true }, host := { s.host with inReset := false } })

/-- A host access that waited for the wake completes (02:R38). -/
def waitDone (s : State) (w : HostWait) : State :=
  match w with
  | .sbRead o n => sbAnswer o.toNat n s
  | _ => doWait w s

/-- Ports on which a wake sends RESUME (07:R547): the native ones in LPI or SLEEP, and a bridge port in LPI whose native sister is
not in sleep signalling (log 91). -/
def resumePorts (s : State) : List Nat :=
  let asleep (p : Port) : Bool := p.st = .lpi || p.st = .sleep
  (portsWhere asleep s).filter fun i => i < 6 || !asleep (getPort (i - 6) s)

/-- WAKE_DONE (02:R37, R38, R44, R55; 07:R547): ACTIVE, modules leave self-refresh, RESUME leaves after NAP or DEEP on the links
in sleep signalling. 02 Table 2-7 has those links retrain before ACTIVE, 07:R547 begins the exchange on reaching ACTIVE: the
model follows R547 (DESIGN CHOICE, log 92). Then events that waited are posted, the Tree reads the herald buffer, and waiting accesses complete. -/
def execWakeDone (s : State) : Out :=
  live s (fun s => match s.kp.trans with
    | .wake _ _ =>
      let s1 := setPower .active { s with kp := { s.kp with idleSince := now s } }
      let s2 := flushEvents { s1 with tm := { s1.tm with selfRefresh := s1.tm.selfRefresh &&& s1.tm.down } }
      let s3 := if asleep s then (resumePorts s2).foldl (fun t i => sendFrame i .resume t) s2 else s2
      let s4 := readBuffer s3
      s4.host.waits.foldl waitDone { s4 with host := { s4.host with waits := [] } }
    | _ => s)

/-- REFCLK_STOP (18:R500, Edges): the keeper stops, and the node is undefined until a cold reset. -/
def execRefclkStop (s : State) : Out := live s (onlyIf s.pins.pwrgood fun s => { s with undef := true })

end Sys2Proof.Machine
end

