-- ==== Sys2Proof/Machine/Board.lean ====
section
/-! DEFINITION. Machine/Board.lean: temperatures (18:R515 to R520) and the test port (18:R512, R525; 03:R77, R78). -/

namespace Sys2Proof.Machine

/-- MAX_TEMP: the hottest sensor of the node (18 Table 18-9). -/
def maxTemp (s : State) : W16 :=
  let l := (s.kp.therm.map fun t => t.temp) ++ s.tm.temp.filter (· ≠ 0x8000) ++ (if builtDual s then s.kp.gbTemp else [])
  l.foldl (fun a b => if a.toInt < b.toInt then b else a) 0x8000

/-- Raises THERMAL (18:R528, 19 Table 19-3). -/
def thermal (sensor level : Nat) (temp : W16) (s : State) : State :=
  setErr errThermal (raiseEvent 0x4000 0x0403
    (detailOf ([BitVec.ofNat 8 sensor, BitVec.ofNat 8 level] ++ bvBytes 2 temp ++ bvBytes 2 (maxTemp s))) s)

/-- Records an engine sensor. -/
def setSensor (i : BitVec 3) (temp : W16) (level : BitVec 3) (s : State) : State :=
  { s with kp := { s.kp with therm := setAt i.toNat { temp := temp, level := level } s.kp.therm } }

/-- The level that a sensor shows. -/
def sensorLevel (i : BitVec 3) (s : State) : BitVec 3 := (s.kp.therm.getD i.toNat { temp := 0, level := 0 }).level

/-- THERMAL_WARNING (18:R515). -/
def execThermalWarning (sensor : BitVec 3) (temp : W16) (s : State) : Out :=
  live s (onlyIf (atLeast temp 95) fun s =>
    if sensorLevel sensor s = 0 then thermal sensor.toNat 1 temp (setSensor sensor temp 1 s)
    else setSensor sensor temp (sensorLevel sensor s) s)

/-- THROTTLE (18:R515, R516). -/
def execThrottle (sensor : BitVec 3) (temp : W16) (s : State) : Out :=
  live s (onlyIf (atLeast temp 105) fun s =>
    let s1 := { s with kp := { s.kp with throttled := true } }
    if (sensorLevel sensor s).toNat < 2 then thermal sensor.toNat 2 temp (setSensor sensor temp 2 s1)
    else setSensor sensor temp (sensorLevel sensor s) s1)

/-- THERMAL_CLEAR (18:R515): a sensor below 100 °C leaves its level, and the engine its throttle once all are below. -/
def execThermalClear (sensor : BitVec 3) (temp : W16) (s : State) : Out :=
  live s (onlyIf (!atLeast temp 100) fun s =>
    let s1 := setSensor sensor temp (if atLeast temp 95 then 1 else 0) s
    if s1.kp.throttled && s1.kp.therm.all (fun t => !atLeast t.temp 100)
    then thermal sensor.toNat 3 temp { s1 with kp := { s1.kp with throttled := false } } else s1)

/-- THERMAL_TRIP (18:R515): every clock but the keeper's stops, and THERMTRIP_N stays low until PWRGOOD falls. -/
def execThermalTrip (sensor : BitVec 3) (temp : W16) (s : State) : Out :=
  live s (onlyIf (atLeast temp 115) fun s =>
    let s1 := setSensor sensor temp 3 s
    { s1 with kp := { s1.kp with tripped := true } })

/-- TM_TEMP_REPORT (18:R517, R520; 15:R430): refresh doubled from 85 °C until below 80 °C; at 95 °C the module enters
self-refresh and is down (its CAUSE: port down, log 34). -/
def execTmTempReport (module : BitVec 3) (temp : W16) (s : State) : Out :=
  let m := module.toNat
  let bit := (1 : Byte) <<< m
  live s (onlyIf (s.boot.phase = phReady && moduleUp s m) fun s =>
    let s1 := { s with tm := { s.tm with temp := setAt m temp s.tm.temp } }
    let s2 := if tmAtLeast temp 85 && !s1.tm.doubled.getLsbD m
      then thermal (8 + m) 1 temp { s1 with tm := { s1.tm with doubled := s1.tm.doubled ||| bit } } else s1
    if tmAtLeast temp 95 then
      takeDown m 0x05 (thermal (8 + m) 4 temp { s2 with tm := { s2.tm with selfRefresh := s2.tm.selfRefresh ||| bit } })
    else if s2.tm.doubled.getLsbD m && temp ≠ 0x8000 && !atLeast temp 80
    then thermal (8 + m) 3 temp { s2 with tm := { s2.tm with doubled := s2.tm.doubled &&& ~~~ bit } }
    else s2)

/-- A bridge's ports enter DOWN with GB2_FAULT (07:R191). -/
def bridgeDown (u : Nat) (s : State) : State :=
  [6 + 2 * u, 7 + 2 * u].foldl
    (fun t i => if (getPort i t).st = .down || (getPort i t).st = .off then t else linkDown i 0x0B t) s

/-- GB2_TEMPERATURE (18:R518, R520): a warning at 105 °C, the links stopped at 115 °C, both over below 100 °C. -/
def execGb2Temperature (unit : BitVec 2) (temp : W16) (s : State) : Out :=
  let u := unit.toNat
  live s (onlyIf (builtDual s && decide (u < 3)) fun s =>
    let s1 := { s with kp := { s.kp with gbTemp := setAt u temp s.kp.gbTemp } }
    let s2 := if atLeast temp 105 && !s1.kp.gbWarn.getD u false
      then thermal (16 + u) 1 temp { s1 with kp := { s1.kp with gbWarn := setAt u true s1.kp.gbWarn } } else s1
    if atLeast temp 115 && !s2.kp.gbStop.getD u false then
      thermal (16 + u) 4 temp (bridgeDown u { s2 with kp := { s2.kp with gbStop := setAt u true s2.kp.gbStop } })
    else if !atLeast temp 100 && (s2.kp.gbWarn.getD u false || s2.kp.gbStop.getD u false) then
      thermal (16 + u) 3 temp
        { s2 with kp := { s2.kp with gbWarn := setAt u false s2.kp.gbWarn, gbStop := setAt u false s2.kp.gbStop } }
    else s2)

/-! ## Test port -/

/-- The test port with an instruction and its data register loaded; the shifted bits go out. -/
def testShift (ir : Byte) (bits : List Bool) (s : State) : State :=
  emit (.test bits) { s with jtag := { s.jtag with ir := ir, dr := bits } }

/-- A row of the test port. The port answers while node operation is undefined too (03:R78): only a node without power does
not. -/
def testPort (s : State) (f : State → State) : Out := if s.kp.power = .off then .next s else .next (f s)

/-- The one-bit bypass register. -/
def bypassPort (s : State) : State := testShift 0xFF [false] s

/-- EXTEST (03:R78): the boundary register drives the pins, and node operation is undefined until a cold reset. -/
def execExtest (s : State) : Out :=
  testPort s fun s => { emit (.pins s.jtag.boundary) (testShift 0x00 s.jtag.boundary s) with undef := true }

/-- IDCODE (18:R512). -/
def execIdcode (s : State) : Out :=
  testPort s fun s =>
    testShift 0x01 (bitList ((0x001605AF : W32) ||| ((fusePartRev s).setWidth 32 <<< 28))) s

/-- SAMPLE/PRELOAD (18:R525): the pins are sampled, the boundary register preloaded. -/
def execSamplePreload (pins preload : List Bool) (s : State) : Out :=
  testPort s fun s =>
    let s1 := testShift 0x02 pins s
    { s1 with jtag := { s1.jtag with boundary := preload } }

/-- Codes that have an instruction of their own (18 Table 18-5): private ones only with DEBUG_OFF intact (03:R77). -/
def testDecoded (code : Byte) (s : State) : Bool :=
  code.toNat ≤ 2 || (!debugOff s && decide (0x10 ≤ code.toNat) && decide (code.toNat ≤ 0x13))

/-- BYPASS (18:R525; 03:R77). -/
def execBypass (code : Byte) (s : State) : Out :=
  testPort s fun s => if testDecoded code s then s else bypassPort s

/-- A private instruction: with DEBUG_OFF blown it is BYPASS (03:R77). -/
def privateTest (f : State → State) (s : State) : Out :=
  testPort s fun s => if debugOff s then bypassPort s else f s

/-- SCAN_CHAIN and MEM_ACCESS: the manual says that they give access, not what is read: the bits are free values (log 10). -/
def execScanChain (s : State) : Out := privateTest (fun s => bumpFree 1 (testShift 0x10 (Config.freeScan s.free) s)) s
def execMemAccess (s : State) : Out := privateTest (fun s => bumpFree 1 (testShift 0x11 (Config.freeScan s.free) s)) s

/-- TREE_HALT (18 Table 18-5): both Tree pairs halt. -/
def execTreeHalt (s : State) : Out :=
  privateTest (fun s => { testShift 0x12 [false] s with tree := { s.tree with halted := true } }) s

/-- FUSE_READ (18 Table 18-5): the fuses, bit 0 first. -/
def execFuseRead (s : State) : Out := privateTest (fun s => testShift 0x13 (bitList s.fuses) s) s

end Sys2Proof.Machine
end

