-- ==== Sys2Proof/Machine/Delivery.lean ====
section
/-! DEFINITION. Machine/Delivery.lean: PACKET_FORWARD: a router routes a packet head (08:R209, R219, R221 to R224;
16:R455 to R457) and ejects a packet to the unit that its KIND names (08:R202, R210). -/

namespace Sys2Proof.Machine

/-- What a row leaves; the state itself where it stops. -/
def ranOr (s : State) : Out → State
  | .next t => t
  | _ => s

/-- A CINCH packet ejected, by its CTYPE (11 Table 11-2). -/
def ejectCinch (port : BitVec 4) (p : Packet) (s : State) : Out :=
  match payField p 10 1 % 16 with
  | 1 => execCinchUp p s
  | 2 => execCinchDown p s
  | 3 => execAbortNotice port p s
  | 4 => execCinchRereq p s
  | 5 => execVoteUp p s
  | 6 => execVoteDown p s
  | _ => .next s

/-- An E2E packet ejected, by its subtype (08 Table 8-8). -/
def ejectE2e (p : Packet) (s : State) : Out :=
  match natBits 0 8 p.tag.toNat with
  | 1 => execE2eAck p s
  | 2 => execE2eBusy p s
  | 3 => execE2eRereq p s
  | _ => .next s

/-- A CHUNK packet ejected: a grant, counts, a re-request or data (10 Table 10-5). -/
def ejectChunk (p : Packet) (s : State) : Out :=
  if isGrant p then execChunkGrant p s
  else if isCounts p then execCountChunk p s
  else if isRereq p then execChunkRereq p s
  else execChunk p s

/-- A MGMT packet ejected, by its type (16 Table 16-3). -/
def ejectMgmt (port : BitVec 4) (p : Packet) (s : State) : Out :=
  match natBits 0 8 p.tag.toNat with
  | 1 => execProbe p s
  | 2 => execProbeAnswer p s
  | 3 => execLossNotice port p s
  | 4 => execRejoinNotice port p s
  | _ => .next s

/-- A herald ejected. The packet names no emitter: it is taken to be the member at SRC (log 11). -/
def ejectHerald (_port : BitVec 4) (p : Packet) (s : State) : Out :=
  live s (onlyIf (routerRuns s && p.kind = 1) (receiveHerald p none))

/-- The ejection of a packet by its KIND (08 Table 8-2); a reserved KIND names no unit. -/
def eject (port : BitVec 4) (p : Packet) (s : State) : Out :=
  match p.kind.toNat with
  | 0x1 => ejectHerald port p s
  | 0x2 => ejectCinch port p s
  | 0x3 => ejectE2e p s
  | 0x4 => ejectChunk p s
  | 0x5 => execPutPacket p s
  | 0x6 => execGetReq p s
  | 0x7 => execAtomicReq p s
  | 0x8 => execLaneStore p s
  | 0x9 => execLaneLoad p s
  | 0xA => execReadResp p s
  | 0xB => execAtomicResp p s
  | 0xC => execMissAck p s
  | 0xD => ejectMgmt port p s
  | 0xE => execDrainMarker p s
  | _ => .next s

/-- What a router does with a packet head at this moment. `wake` and `retrain` wait, and name the port they wait
for. -/
inductive Move where
  | stay
  | wake (port : Nat)
  | retrain (port : Nat)
  | frame (port : Nat)
  | deliver
  | forward (port need : Nat) (p : Packet) (copy : Bool)
  | lose (dir : Option Nat) (copy : Bool)
deriving DecidableEq, Repr

/-- A herald or an abort notice (02:R44, R45). -/
def isNotice (p : Packet) : Bool := p.kind = 1 || isAbort p

/-- The move of a packet toward a direction whose members are not UP: a link that sleeps is woken (07:R547) or carries
the notice as a frame (07:R194), on its bridge member where the native one is not in sleep signalling (log 91); a link that
retrains is waited for (07:R182). -/
def moveDown (s : State) (d : Nat) (p : Packet) : Move :=
  let n := (getPort d s).st
  if n = .lpi || n = .sleep || (getPort (d + 6) s).st = .lpi then
    if isNotice p then (match sleepPort s d with | some i => .frame i | none => .lose none false)
    else .wake (if n = .lpi || n = .sleep then d else d + 6)
  else if n = .training then .retrain d
  else if (getPort (d + 6) s).st = .training then .retrain (d + 6)
  else .stay

/-- The move of a packet toward a direction: the member that takes it, when it has the free slots (07:R178, 08:R209). A
port that has answered an LPI_REQ takes no packet (07:R192). -/
def moveOut (s : State) (d need : Nat) (copy : Bool) (p : Packet) : Move :=
  match pickMember s p.vc d with
  | none => moveDown s d p
  | some i =>
    if (getPort i s).lpiSent || !canTake (getPort i s) p.vc.toNat need then .stay else .forward i need p copy

/-- A multicast goes on in one direction, whatever the order (08:R221); a dead direction ends it (16:R457). -/
def moveMcast (s : State) (arr : Option Nat) (d : Nat) (p : Packet) : Move :=
  let copy := arr.isSome && decide (p.src ≠ myCoord s)
  if p.dest = myCoord s then .deliver
  else if dirDead s d then .lose none copy
  else moveOut s d (slotsNeeded arr d) copy p

/-- The move that a route gives. -/
def moveRoute (s : State) (p : Packet) : Route → Move
  | .eject => .deliver
  | .discard d => .lose (some d) false
  | .out d need r => moveOut s d need false { p with rerouted := r }

/-- A packet whose direction its sender chose leaves in it, or is reversed where it is dead (16:R455). -/
def moveForced (s : State) (d : Nat) (p : Packet) : Move :=
  if !dirDead s d then moveOut s d 2 false p
  else if p.rerouted || dirDead s (oppDir d) then .lose (some ((packetDir s p).getD d)) false
  else moveOut s (oppDir d) 2 false { p with rerouted := true }

/-- The move of a packet head that arrived from direction `arr`, or that the NI injects in a direction of its choice. -/
def moveOf (s : State) (arr forced : Option Nat) (p : Packet) : Move :=
  if p.mcast then
    moveMcast s arr (match arr, forced with
      | some a, _ => oppDir a
      | none, some d => d
      | none, none => (packetDir s p).getD 0) p
  else match forced with
    | some d => moveForced s d p
    | none => moveRoute s p (routePacket s arr p)

/-- The packet leaves its place: `take` removes it there. One that goes on keeps the input slot `from_` until its tail leaves; any
other frees it (08:R208). A copy counts as an ejection (08:R222). -/
def makeMove (port : BitVec 4) (from_ : Option (Nat × Nat)) (take : State → State) (p : Packet) (m : Move) (s : State) : State :=
  let copyTo (copy : Bool) (s : State) : State := if copy then ranOr s (eject port p s) else s
  match m with
  | .stay => s
  | .wake i => sendFrame i .wake s
  | .retrain i => if ((getPort i s).training.map (·.fromUp)) = some true then degradePacket p s else s
  | .frame i => kickFrames i (enqueueOut i 2 from_ p (take s))
  | .deliver => let t := freeFrom from_ (take s); ranOr t (eject port p t)
  | .forward i need q copy => copyTo copy (enqueueOut i need from_ q (take s))
  | .lose d copy =>
    let t := freeFrom from_ (take s)
    copyTo copy (match d with | some d => countDetour d t | none => t)

/-- The head of an input leaves it. -/
def takeInput (i v : Nat) (s : State) : State :=
  modPort i (fun q => { q with inq := modAt (fun l => l.drop 1) v q.inq }) s

/-- A router's turn at an input channel (08:R209, R219): a packet of VC1 to VC3 that leaves an input with 3 slots or more
in use, that of a packet still coming in and those of packets whose tails have not left among them, is marked. -/
def forwardInput (i v : Nat) (s : State) : State :=
  match (getPort i s).inq.getD v [] with
  | [] => s
  | p :: _ =>
    let p1 : Packet := { p with mark := p.mark || (decide (v ≠ 0) && decide (3 ≤ (getPort i s).rxHeld.getD v 0)) }
    makeMove (BitVec.ofNat 4 i) (some (i, v)) (takeInput i v) p1 (moveOf s (some (i % 6)) none p1) s

/-- The packet at a place of the injection queue leaves it. -/
def takeInjected (k : Nat) (s : State) : State := { s with rt := { s.rt with inject := s.rt.inject.eraseIdx k } }

/-- A move that the packet makes now. -/
def Move.goes : Move → Bool
  | .stay | .wake _ | .retrain _ => false
  | _ => true

/-- A packet that the NI would inject on a port waits while the rate of its class does not admit it (08:R220). -/
def paced (s : State) (m : Move) : Move :=
  match m with
  | .forward i _ p _ => if rateAdmits s (i % 6) p then m else .stay
  | _ => m

/-- The moves of what waits for injection, with their places. -/
def injectMoves (s : State) : List (Nat × Packet × Move) :=
  s.rt.inject.zipIdx.map fun x => (x.2, x.1.2, paced s (moveOf s none (x.1.1.map (·.toNat)) x.1.2))

/-- A packet injected on a port is charged to its class (08:R220). -/
def chargeMove (m : Move) (s : State) : State :=
  match m with
  | .forward i _ p _ => chargeRate (i % 6) p s
  | _ => s

/-- The NI's turn: the first packet that can leave does; when none can, what waits asks for the links it needs. -/
def forwardInjected (s : State) : State :=
  let ms := injectMoves s
  match ms.find? fun x => x.2.2.goes with
  | some (k, p, m) => chargeMove m (makeMove 0 none (takeInjected k) p m s)
  | none => ms.foldl (fun t x => makeMove 0 none id x.2.1 x.2.2 t) s

/-- PACKET_FORWARD (08:R223, R224). -/
def execPacketForward (from_ : ForwardSource) (s : State) : Out :=
  live s (onlyIf (routerRuns s) fun s =>
    match from_ with
    | .input port vc => prewarmKick (forwardInput port.toNat vc.toNat s)
    | .inject => prewarmKick (forwardInjected s))

end Sys2Proof.Machine
end

