-- ==== Sys2Proof/Machine/Lanes.lean ====
section
/-! DEFINITION. Machine/Lanes.lean: the lane instructions (13:R348 to R371): fetch, operands and faults, scalar, memory,
vector, accumulator and chunk instructions. -/

namespace Sys2Proof.Machine

/-- The program copy that a thread runs. -/
def threadProg (s : State) (t : Thread) : Option Program := s.progs.find? fun p => p.id = t.prog && p.gen = t.gen

/-- Opcodes that 13 Table 13-3 lists. -/
def opcListed (o : Nat) : Bool :=
  (1 ≤ o && o ≤ 0x0B) || o = 0x10 || (0x12 ≤ o && o ≤ 0x18) || (0x20 ≤ o && o ≤ 0x24) || o = 0x28 ||
  (0x30 ≤ o && o ≤ 0x34) || (0x40 ≤ o && o ≤ 0x46) || (0x50 ≤ o && o ≤ 0x52)

/-- What a thread fetches: the row's instruction, another one, or a condition that faults (13 Table 13-6). Threads of
Octoz programs, whose words the manual does not give, take the row's instruction (log 29). -/
inductive Fetch where
  | row | other | fault (code : Nat)
deriving DecidableEq, Repr

/-- The fetch of a thread for a row with word `w` (13:R350, R367, R368). -/
def fetchAt (s : State) (t : Thread) (w : W64) : Fetch :=
  if t.prog.toNat < 0x100 then .row
  else match (threadProg s t).bind fun p => p.words[t.pc.toNat]? with
    | none => .fault 0x02
    | some x =>
      let o := natBits 56 8 x.toNat
      if !opcListed o || (o = 0x28 && 1 < natBits 32 4 x.toNat) then .fault 0x01
      else if x = w then .row else .other

/-- The issue class of an opcode (13 Table 13-3). -/
def classOf (opc : Nat) : IssueClass :=
  if opc < 0x20 then .scalar else if 0x40 ≤ opc && opc < 0x50 then .accumulate else .memory

/-- The class of the instruction that a thread of a loaded program issues next; `none` where its fetch faults. -/
def nextClass (s : State) (t : Thread) : Option IssueClass :=
  if t.prog.toNat < 0x100 then none
  else ((threadProg s t).bind fun p => p.words[t.pc.toNat]?).map fun w => classOf (natBits 56 8 w.toNat)

/-- It is the thread's turn in its class: no ready thread of the lane comes before it in round-robin order, from the one behind
the last served (13:R348); a lane that has served none starts with thread 0 (log 101). -/
def myTurn (s : State) (t : Thread) (k : IssueClass) : Bool :=
  let start := match s.turns.find? fun u => u.lane = t.id.lane && u.cls = k with
    | none => 0
    | some u => u.thr.toNat + 1
  let dist (y : Thread) : Nat := (y.id.thr.toNat + 16 - start) % 8
  s.threads.all fun y => y.id.lane ≠ t.id.lane || y.st ≠ .running || nextClass s y ≠ some k || decide (dist t ≤ dist y)

/-- The lane has served the thread in the class. -/
def serve (t : Tid) (k : IssueClass) (s : State) : State :=
  { s with turns := { lane := t.lane, cls := k, thr := t.thr } :: s.turns.filter fun u => !(u.lane = t.lane && u.cls = k) }

/-- A running thread executes a row in its turn, a stalled one completes its instruction (log 2): an instruction that is not
legal faults with ILLEGAL; `run` gives the effect on the context, communicator and thread. -/
def lane (tid : Tid) (opc : Nat) (w : InsFields) (legal : Bool) (run : Comm → Ctx → Thread → State → State) (s : State) : State :=
  match findThread tid s with
  | none => s
  | some t =>
    match findCtx t.ctx s with
    | none => s
    | some x =>
      match findComm x.handle s with
      | none => s
      | some c =>
        if !octozRuns s || !(t.st = .running || t.st = .stalled) then s
        else match fetchAt s t (insWord opc w) with
          | .other => s
          | .fault k => faultThread t k s
          | .row =>
            if t.st = .running && !myTurn s t (classOf opc) then s
            else if !legal then faultThread t 0x01 s
            else run c x t (serve tid (classOf opc) <| modCtx x.idx (fun y => { y with blockedSince := now s }) s)

/-- Effect on the thread alone: it changes and goes on. -/
def onThread (f : Thread → Thread) (_c : Comm) (_x : Ctx) (t : Thread) (s : State) : State :=
  modThread t.id (fun y => stepOn (f y)) s

/-- The fields that an opcode does not use are zero (13:R367). -/
def unused (w : InsFields) (d a b c imm : Bool) : Bool :=
  (!d || w.d = 0) && (!a || w.a = 0) && (!b || w.b = 0) && (!c || w.c = 0) && (!imm || w.imm = 0)

/-- A vector field names V0 to V7 (13:R367). -/
def isV (r : BitVec 5) : Bool := r.toNat < 8

/-- Opcodes 0x01 to 0x09: MOD[0] replaces S[B] by IMM; the field that is not read is zero (13:R368). -/
def aluLegal (w : InsFields) : Bool := w.md.toNat ≤ 1 && unused w false false (w.md = 1) true (w.md = 0)

/-- A scalar operation of two operands. -/
def alu (tid : Tid) (opc : Nat) (w : InsFields) (f : W64 → W64 → W64) (s : State) : State :=
  lane tid opc w (aluLegal w) (onThread fun t => t.setS w.d (f (sreg t w.a) (operandB t w))) s

/-- Shift amounts are operand bits [5:0]. -/
def shiftAmount (b : W64) : Nat := natBits 0 6 b.toNat

/-- ADD (13:R368). -/
def execAdd (t : Tid) (w : InsFields) (s : State) : Out := live s (alu t 0x01 w fun a b => a + b)
/-- SUB (13:R368). -/
def execSub (t : Tid) (w : InsFields) (s : State) : Out := live s (alu t 0x02 w fun a b => a - b)
/-- AND (13:R368). -/
def execAnd (t : Tid) (w : InsFields) (s : State) : Out := live s (alu t 0x03 w fun a b => a &&& b)
/-- OR (13:R368). -/
def execOr (t : Tid) (w : InsFields) (s : State) : Out := live s (alu t 0x04 w fun a b => a ||| b)
/-- XOR (13:R368). -/
def execXor (t : Tid) (w : InsFields) (s : State) : Out := live s (alu t 0x05 w fun a b => a ^^^ b)
/-- MUL (13:R368): the low 64 bits. -/
def execMul (t : Tid) (w : InsFields) (s : State) : Out := live s (alu t 0x06 w fun a b => a * b)
/-- SHL (13:R368). -/
def execShl (t : Tid) (w : InsFields) (s : State) : Out := live s (alu t 0x07 w fun a b => a <<< shiftAmount b)
/-- SHR (13:R368). -/
def execShr (t : Tid) (w : InsFields) (s : State) : Out := live s (alu t 0x08 w fun a b => a >>> shiftAmount b)
/-- SAR (13:R368). -/
def execSar (t : Tid) (w : InsFields) (s : State) : Out := live s (alu t 0x09 w fun a b => a.sshiftRight (shiftAmount b))

/-- The second operand of CMP: S[B], or zero when MOD[0] is 1 (13:R368). -/
def cmpB (t : Thread) (w : InsFields) : W64 := if w.md = 1 then 0 else sreg t w.b

/-- CMP (13:R368, Table 13-4). -/
def execCmp (t : Tid) (w : InsFields) (s : State) : Out :=
  let code := natBits 0 4 w.imm.toNat
  live s (lane t 0x0A w (w.md.toNat ≤ 1 && unused w false false (w.md = 1) true false && code ≤ 5)
    (onThread fun y => y.setS w.d (BitVec.ofNat 64 (b2n ((condCmp code (sreg y w.a) (cmpB y w)).getD false)))))

/-- MOVI (13:R368): MOD 0 the sign-extended immediate, MOD 1 the high half alone. -/
def execMovi (t : Tid) (w : InsFields) (s : State) : Out :=
  live s (lane t 0x0B w (w.md.toNat ≤ 1 && unused w false true true true false)
    (onThread fun y => y.setS w.d (if w.md = 0 then simm w else w.imm ++ ((sreg y w.d).setWidth 32 : W32))))

/-- BR (13:R368, Table 13-4). -/
def execBr (t : Tid) (w : InsFields) (s : State) : Out :=
  live s (lane t 0x10 w (w.md.toNat ≤ 4 && unused w true false true true false)
    fun _ _ y s =>
      if (condBr w.md.toNat (sreg y w.a)).getD false
      then modThread y.id (fun z => { z with pc := z.pc + w.imm }) s
      else modThread y.id stepOn s)

/-- YIELD (13:R368): the issue turn alone. -/
def execYield (t : Tid) (w : InsFields) (s : State) : Out :=
  live s (lane t 0x12 w (w.md = 0 && unused w true true true true true) (onThread id))

/-- END (13:R352): waits for the acknowledgements of the thread's stores; a missed one faults (13:R360). -/
def execEndThread (t : Tid) (w : InsFields) (s : State) : Out :=
  live s (lane t 0x13 w (w.md = 0 && unused w true true true true true) fun _ _ y s =>
    if y.stores ≠ 0 then modThread y.id (fun z => { z with st := .inEnd }) s else storesDone y true s)

/-- A thread of a logical lane of a context: it names the physical lane and the slot range. -/
def sibling (s : State) (x : Ctx) (logical : Nat) : Option Thread :=
  s.threads.find? fun t => t.ctx = x.idx && t.logical.toNat = logical

/-- The newest copy of a program on the bench of a physical lane (13:R356, R357): 14 lanes a bench. -/
def progOn (s : State) (id : W16) (lane : Byte) : Option Program :=
  (s.progs.filter fun p => p.id = id && p.benches.getLsbD (lane.toNat / 14)).foldl
    (fun b p => match b with | none => some p | some o => if o.gen < p.gen then some p else some o) none

/-- The registers of a spawned thread (13:R351). -/
def childRegs (y : Thread) (w : InsFields) (idx : Nat) : List W64 :=
  let s1 := sreg y 1
  let copy := (List.range 12).map fun i => y.s.getD i 0
  setAt 1 ((s1 &&& ~~~ (0x700 : W64)) ||| BitVec.ofNat 64 ((idx % 8) * 256)) copy ++ [sreg y w.b] ++ List.replicate 19 0

/-- SPAWN (13:R351). -/
def execSpawn (t : Tid) (w : InsFields) (s : State) : Out :=
  live s (lane t 0x14 w (w.md.toNat ≤ 1 && unused w false true false (w.md = 0) false) fun _ x y s =>
    let logical := if w.md = 1 then (sreg y w.c).toNat else y.logical.toNat
    if x.lanes ≤ logical then faultThread y 0x0B s
    else match sibling s x logical with
      | none => modThread y.id (fun z => stepOn (z.setS w.d 1)) s
      | some sib =>
        match progOn s (w.imm.setWidth 16) sib.id.lane with
        | none => faultThread y 0x07 s
        | some p =>
          match freeThreads s sib.id.lane with
          | thr :: _ =>
            let idx := (s.threads.filter fun z => z.ctx = x.idx && z.logical = sib.logical).length
            let child : Thread :=
              { id := { lane := sib.id.lane, thr := thr }, ctx := x.idx, logical := sib.logical, prog := p.id, gen := p.gen, pc := 1
                s := childRegs y w idx, v := List.replicate 8 0, st := .running, waitArg := 0, slotBase := sib.slotBase
                slots := sib.slots, stores := 0, missed := false, handles := [], pend := [], source := none }
            modThread y.id (fun z => stepOn (z.setS w.d 0)) { s with threads := s.threads ++ [child] }
          | [] => modThread y.id (fun z => stepOn (z.setS w.d 1)) s)

/-- SYNC (13:R368). -/
def execSync (t : Tid) (w : InsFields) (s : State) : Out :=
  live s (lane t 0x15 w (w.md = 0 && unused w true true true true false) fun _ x y s =>
    syncKick x.idx (modThread y.id (fun z => { z with st := .inSync, waitArg := w.imm }) s))

/-- TIME (13:R368). -/
def execTime (t : Tid) (w : InsFields) (s : State) : Out :=
  live s (lane t 0x16 w (w.md = 0 && unused w false true true true true) fun _ _ y s =>
    modThread y.id (fun z => stepOn (z.setS w.d s.kp.timestamp)) s)

/-- SETRES (13:R368, R352). -/
def execSetres (t : Tid) (w : InsFields) (s : State) : Out :=
  live s (lane t 0x17 w (w.md = 0 && unused w true false true true true) fun _ x y s =>
    modThread y.id stepOn (modCtx x.idx (fun z => { z with result := sreg y w.a, hasResult := true }) s))

/-- TRAP (13:R368): IMM[7:0] stands in place of the thread index. -/
def execTrap (t : Tid) (w : InsFields) (s : State) : Out :=
  live s (lane t 0x18 w (w.md = 0 && unused w true true true true false) fun _ _ y s =>
    faultWith y 0x08 (natBits 0 8 w.imm.toNat) s)

/-- The fabric address of a load or store (13:R353). -/
def memAddr (y : Thread) (w : InsFields) : W64 := sreg y w.a + simm w

/-- A load or store at an address (13:R353): the faults ALIGN, TRANSLATE and WINDOW, then the local or the remote access. A
local range that the checks of commands refuse takes WINDOW (06:R155). -/
def access (c : Comm) (y : Thread) (a : W64) (n : Nat) (here : State → State) (far : Coord → State → State) (s : State) : State :=
  if faOffset a % n ≠ 0 then faultThread y 0x04 s
  else match isLocal s c.map.toNat a with
    | none => faultThread y 0x05 s
    | some true => if (localCheck s a n).isSome then faultThread y 0x06 s else here s
    | some false => far (coordOf s c.map.toNat a) s

/-- A step of a thread that needs bytes of host or accelerator memory: the thread stalls until their reads have completed. -/
def whenRead (y : Thread) (ps : List (Nat × Nat)) (f : State → State) (s : State) : State :=
  if busReady ps s then useBus ps (f s) else stall y.id (askBus ps s)

/-- A load: local bytes at once, or after their PCI Express reads, with the thread's own stores in place (13:R349); a remote load
waits for its READ_RESP, and stalls at the bound of 10 Table 10-9. -/
def loadAt (c : Comm) (y : Thread) (a : W64) (n : Nat) (owner : ReqOwner) (f : Bytes → Thread → Thread) (s : State) : State :=
  access c y a n
    (fun s => whenRead y (localPieces s a n) (fun s => modThread y.id (fun z => stepOn (f (localRead (ownView y s) a n) z)) s) s)
    (fun d s =>
      if !reqRoom s d then stall y.id s
      else modThread y.id (fun z => { z with st := .inLoad })
        (issueReq owner (reqPacket s kLaneLoad c.map d (loadPayload a n) false false) (faRank a) 0 s)) s

/-- A store: into local memory, where other threads see it from the thread's next FENCE on (13:R349), or as a LANE_STORE packet
that counts until acknowledged. -/
def storeAt (c : Comm) (y : Thread) (a : W64) (bytes : Bytes) (s : State) : State :=
  access c y a bytes.length
    (fun s => modThread y.id (fun z => stepOn { z with pend := z.pend ++ [(a, bytes)] }) s)
    (fun d s =>
      if !reqRoom s d then stall y.id s
      else modThread y.id (fun z => { stepOn z with stores := z.stores + 1 })
        (issueReq (.store y.id) (reqPacket s kLaneStore c.map d (storePayload a bytes) false false) (faRank a) 0 s)) s

/-- LD (13:R353). -/
def execLd (t : Tid) (w : InsFields) (s : State) : Out :=
  let n := 2 ^ w.md.toNat
  live s (lane t 0x20 w (w.md.toNat ≤ 3 && unused w false false true true false) fun c _ y s =>
    loadAt c y (memAddr y w) n (.load y.id w.d n) (fun b z => z.setS w.d (BitVec.ofNat 64 (leNat b))) s)

/-- ST (13:R353). -/
def execSt (t : Tid) (w : InsFields) (s : State) : Out :=
  live s (lane t 0x21 w (w.md.toNat ≤ 3 && unused w true false false true false) fun c _ y s =>
    storeAt c y (memAddr y w) (leBytes (2 ^ w.md.toNat) (sreg y w.b).toNat) s)

/-- A chunk handle that the thread holds, from S[A][15:0]. -/
def heldChunk (y : Thread) (a : BitVec 5) : Option Chunk :=
  (y.handles.find? fun h => h.1 = (sreg y a).setWidth 16).map fun h => h.2

/-- The bytes of a held chunk: header (10 Table 10-5) and data. -/
def chunkPayload (x : Ctx) (k : Chunk) : Bytes :=
  chunkHeader x k.sender.toNat k.phase k.step k.cflags k.wire (k.lagRank, k.lateness) k.count k.off ++ k.data

/-- VLD (13:R353, Table 13-3): 64 bytes at an address, or 64 payload bytes of a held chunk, zero behind its end. -/
def execVld (t : Tid) (w : InsFields) (s : State) : Out :=
  live s (lane t 0x22 w (w.md.toNat ≤ 1 && isV w.d && unused w false false (w.md = 0) true false) fun c x y s =>
    if w.md = 0 then loadAt c y (memAddr y w) 64 (.vload y.id w.d) (fun b z => z.setV w.d.toNat (ofVbytes b)) s
    else match heldChunk y w.a with
      | none => faultThread y 0x09 s
      | some k =>
        let o := (sreg y w.b + simm w).toNat
        modThread y.id (fun z => stepOn (z.setV w.d.toNat (ofVbytes (slice o 64 (chunkPayload x k))))) s)

/-- VST (13:R353). -/
def execVst (t : Tid) (w : InsFields) (s : State) : Out :=
  live s (lane t 0x23 w (w.md = 0 && isV w.b && unused w true false false true false) fun c _ y s =>
    storeAt c y (memAddr y w) (vbytes (vreg y w.b.toNat)) s)

/-- FENCE (13:R349, R360). -/
def execFence (t : Tid) (w : InsFields) (s : State) : Out :=
  live s (lane t 0x24 w (w.md = 0 && unused w true true true true true) fun _ _ y s =>
    if y.stores ≠ 0 then modThread y.id (fun z => { z with st := .inFence }) s else storesDone y false s)

/-- The key of byte `o` of a thread's slot range in the slot memory. -/
def slotKey (y : Thread) (o : Nat) : Nat := y.id.lane.toNat * 196608 + y.slotBase * 512 + o

/-- Slot bytes of a thread, and their write. -/
def slotRead (s : State) (y : Thread) (o n : Nat) : Bytes := memRead 0 s.slots (slotKey y o) n
def slotWrite (y : Thread) (o : Nat) (b : Bytes) (s : State) : State := { s with slots := memWrite 0 s.slots (slotKey y o) b }

/-- A relative byte range lies in the thread's SLOTS (13:R354). -/
def inSlots (y : Thread) (o n : Nat) : Bool := o + n ≤ y.slots * 512

/-- SLD (13:R354). -/
def execSld (t : Tid) (w : InsFields) (s : State) : Out :=
  live s (lane t 0x28 w (w.md = 0 && isV w.d && unused w false false true true false) fun _ _ y s =>
    let o := (memAddr y w).toNat
    if o % 64 ≠ 0 then faultThread y 0x04 s
    else if !inSlots y o 64 then faultThread y 0x03 s
    else modThread y.id (fun z => stepOn (z.setV w.d.toNat (ofVbytes (slotRead s y o 64)))) s)

/-- SST (13:R354). -/
def execSst (t : Tid) (w : InsFields) (s : State) : Out :=
  live s (lane t 0x28 w (w.md = 1 && isV w.b && unused w true false false true false) fun _ _ y s =>
    let o := (memAddr y w).toNat
    if o % 64 ≠ 0 then faultThread y 0x04 s
    else if !inSlots y o 64 then faultThread y 0x03 s
    else modThread y.id stepOn (slotWrite y o (vbytes (vreg y w.b.toNat)) s))

/-- Element `i` of `z` bytes of a vector register. -/
def velem (v : BitVec 512) (z i : Nat) : Nat := natBits (8 * z * i) (8 * z) v.toNat

/-- A vector register from elements of `z` bytes. -/
def ofElems (z : Nat) (l : List Nat) : BitVec 512 := ofVbytes (l.flatMap (leBytes z))

/-- Element-wise binary32 addition, and whether a sum of finite values rounds to an infinity (12:R317). -/
def vaddBits (a b : List Nat) : List Nat × Bool :=
  let l := List.zipWith (fun x y => fl32add (BitVec.ofNat 32 x) (BitVec.ofNat 32 y)) a b
  (l.map fun r => r.1.toNat, l.any fun r => r.2)
def elems (v : BitVec 512) (z : Nat) : List Nat := (List.range (64 / z)).map (velem v z)

/-- VADDF (13:R368; 12:R317). -/
def execVaddf (t : Tid) (w : InsFields) (s : State) : Out :=
  live s (lane t 0x30 w (w.md.toNat ≤ 2 && isV w.d && isV w.a && isV w.b && unused w false false false true true) fun _ x y s =>
    let d := w.d.toNat
    let a := w.a.toNat
    let ovf (o : Bool) : State := modCtx x.idx (fun v => { v with overflow := v.overflow || o }) s
    if w.md = 0 then
      let r := vaddBits (elems (vreg y a) 4) (elems (vreg y w.b.toNat) 4)
      modThread y.id (fun z => stepOn (z.setV d (ofElems 4 r.1))) (ovf r.2)
    else if d % 2 = 1 || a % 2 = 1 then faultThread y 0x04 s
    else
      let wide := (elems (vreg y w.b.toNat) 2).map fun e => (widen32 w.md.toNat e).toNat
      let lo := vaddBits (elems (vreg y a) 4) (wide.take 16)
      let hi := vaddBits (elems (vreg y (a + 1)) 4) (wide.drop 16)
      modThread y.id (fun z => stepOn ((z.setV d (ofElems 4 lo.1)).setV (d + 1) (ofElems 4 hi.1))) (ovf (lo.2 || hi.2)))

/-- VMM (13:R368; 12:R330): MOD[3:1] selects binary32, INT32 or INT64. -/
def execVmm (t : Tid) (w : InsFields) (s : State) : Out :=
  let kind := natBits 1 3 w.md.toNat
  let red := if w.md.getLsbD 0 then 3 else 2
  let dt := if kind = 0 then 3 else if kind = 1 then 9 else 0xA
  live s (lane t 0x31 w (kind ≤ 2 && isV w.d && isV w.a && isV w.b && unused w false false false true true)
    (onThread fun y =>
      let z := dtypeSize dt
      y.setV w.d.toNat (ofElems z (List.zipWith (maxMinCode red dt) (elems (vreg y w.a.toNat) z) (elems (vreg y w.b.toNat) z)))))

/-- Bytes of a vector register replaced from byte `o`. -/
def vpatch (v : BitVec 512) (o : Nat) (b : Bytes) : BitVec 512 :=
  let l := vbytes v
  ofVbytes (l.take o ++ b ++ l.drop (o + b.length))

/-- A group of `k` elements of `z` bytes at group `g` lies in a vector register. -/
def groupOk (k z g : Nat) : Bool := 0 < z && (g + 1) * k * z ≤ 64

/-- VCVT (13:R368; 12:R326): the 16 results fill group C of 16 elements. -/
def execVcvt (t : Tid) (w : InsFields) (s : State) : Out :=
  let dt := w.md.toNat
  let z := dtypeSize dt
  live s (lane t 0x32 w (isFloatType dt && isV w.d && isV w.a && groupOk 16 z w.c.toNat && unused w false false true false true)
    fun _ x y s =>
      let rs := (elems (vreg y w.a.toNat) 4).map fun e =>
        match fmtOf dt with | some f => fencode f (ctxSat x) (f32val (BitVec.ofNat 32 e)) | none => (0, false)
      let bytes := rs.flatMap fun r => leBytes z r.1
      modThread y.id (fun q => stepOn (q.setV w.d.toNat (vpatch (vreg y w.d.toNat) (16 * z * w.c.toNat) bytes)))
        (modCtx x.idx (fun v => { v with overflow := v.overflow || rs.any fun r => r.2 }) s))

/-- VBIT (13:R368). -/
def execVbit (t : Tid) (w : InsFields) (s : State) : Out :=
  live s (lane t 0x33 w (w.md.toNat ≤ 2 && isV w.d && isV w.a && isV w.b && unused w false false false true true)
    (onThread fun y =>
      let a := vreg y w.a.toNat
      let b := vreg y w.b.toNat
      y.setV w.d.toNat (if w.md = 0 then a &&& b else if w.md = 1 then a ||| b else a ^^^ b)))

/-- VBCAST (13:R368). -/
def execVbcast (t : Tid) (w : InsFields) (s : State) : Out :=
  live s (lane t 0x34 w (w.md = 0 && isV w.d && unused w false false true true true)
    (onThread fun y => y.setV w.d.toNat (ofElems 8 (List.replicate 8 (sreg y w.a).toNat))))

/-- Entry E of an accumulate instruction: S[D] + IMM, unsigned (13:R354). -/
def entryBase (y : Thread) (w : InsFields) : Nat := (sreg y w.d + simm w).toNat

/-- Where EXACT entry `n` and its flags lie, and INT entry `n` and its flags (13:R354; 12 Table 12-4). -/
def lacAt (n : Nat) : Nat × Nat := (n / 6 * 512 + n % 6 * 80, n / 6 * 512 + 480 + 4 * (n % 6))
def intAt (n : Nat) : Nat × Nat := (n / 30 * 512 + 16 * (n % 30), n / 30 * 512 + 480 + 4 * (n % 30 / 5))

/-- Entries `e .. e + k - 1` lie in the thread's SLOTS. -/
def entriesIn (y : Thread) (int : Bool) (e k : Nat) : Bool := (e + k - 1) / (if int then 30 else 6) < y.slots

/-- IN_USE of a slot counts up to the highest entry written (12 Table 12-4). -/
def markUse (y : Thread) (slot n : Nat) (s : State) : State :=
  let old := leNat (slotRead s y (slot * 512 + 505) 1)
  slotWrite y (slot * 512 + 505) [BitVec.ofNat 8 (max old (n + 1))] s

/-- Reads and writes an EXACT entry. -/
def lacGet (s : State) (y : Thread) (n : Nat) : BitVec 640 × BitVec 5 :=
  let p := lacAt n
  (BitVec.ofNat 640 (leNat (slotRead s y p.1 80)), BitVec.ofNat 5 (leNat (slotRead s y p.2 4)))
def lacPut (y : Thread) (n : Nat) (v : BitVec 640 × BitVec 5) (s : State) : State :=
  let p := lacAt n
  markUse y (n / 6) (n % 6) (slotWrite y p.2 (leBytes 4 v.2.toNat) (slotWrite y p.1 (leBytes 80 v.1.toNat) s))

/-- Reads an INT entry, with its OVF. -/
def intGet (s : State) (y : Thread) (n : Nat) : Int × Bool :=
  let p := intAt n
  (sext 128 (leNat (slotRead s y p.1 16)), natBit 4 (leNat (slotRead s y p.2 4)))

/-- Adds to an INT entry (12:R328). A sum outside 128 bits has no stated result: it is free (log 10). -/
def intAdd (y : Thread) (n : Nat) (v : Int) (s : State) : State :=
  let p := intAt n
  let sum := (intGet s y n).1 + v
  let fits := -((2 ^ 127 : Nat) : Int) ≤ sum ∧ sum < ((2 ^ 127 : Nat) : Int)
  let s1 := if fits then slotWrite y p.1 (leBytes 16 (twos 128 sum)) s
    else bumpFree 16 (slotWrite y p.1 (freeBytes s 16) s)
  markUse y (n / 30) (n % 30 / 5) s1

/-- Resets an entry: value 0, NEGZERO set and the other flags clear in an EXACT entry (12:R334). -/
def lacClear (y : Thread) (n : Nat) (s : State) : State :=
  let p := lacAt n
  slotWrite y p.2 (leBytes 4 lacNegZero.toNat) (slotWrite y p.1 (leBytes 80 0) s)
def intClear (y : Thread) (n : Nat) (s : State) : State :=
  let p := intAt n
  slotWrite y p.2 (leBytes 4 0) (slotWrite y p.1 (leBytes 16 0) s)

/-- The data types that accumulate instructions name. -/
def isAccType (dt : Nat) : Bool := isFloatType dt || isIntType dt

/-- Adds four terms to entries E to E + 3 (13:R355; 12:R320, R328). -/
def accumulate (dt : Nat) (term : Nat → FVal) (iterm : Nat → Int) (w : InsFields) (y : Thread) (s : State) : State :=
  let e := entryBase y w
  if !entriesIn y (isIntType dt) e 4 then faultThread y 0x03 s
  else
    modThread y.id stepOn
      ((List.range 4).foldl
        (fun u i =>
          if isIntType dt then intAdd y (e + i) (iterm i) u
          else let v := lacGet u y (e + i)
               lacPut y (e + i) (lacAdd v.1 v.2 (term i)) u) s)

/-- ACCX (13:R355): elements 4C to 4C + 3 of V[A]. -/
def execAccx (t : Tid) (w : InsFields) (s : State) : Out :=
  let dt := w.md.toNat
  let z := dtypeSize dt
  live s (lane t 0x40 w (isAccType dt && isV w.a && groupOk 4 z w.c.toNat && unused w false false true false false) fun _ _ y s =>
    let el (i : Nat) : Nat := velem (vreg y w.a.toNat) z (4 * w.c.toNat + i)
    accumulate dt (fun i => codeVal dt (el i)) (fun i => sext (8 * z) (el i)) w y s)

/-- ACCP (13:R355): products of elements of V[A] and V[B]. -/
def execAccp (t : Tid) (w : InsFields) (s : State) : Out :=
  let dt := w.md.toNat
  let z := dtypeSize dt
  live s (lane t 0x41 w (isAccType dt && isV w.a && isV w.b && groupOk 4 z w.c.toNat && unused w false false false false false)
    fun _ _ y s =>
      let a (i : Nat) : Nat := velem (vreg y w.a.toNat) z (4 * w.c.toNat + i)
      let b (i : Nat) : Nat := velem (vreg y w.b.toNat) z (4 * w.c.toNat + i)
      accumulate dt (fun i => fmul (codeVal dt (a i)) (codeVal dt (b i))) (fun i => sext (8 * z) (a i) * sext (8 * z) (b i)) w y s)

/-- Adds an LP128 entry; what an entry that 12:R325 rejects adds is not stated: the entry is free (log 10). -/
def addLp (y : Thread) (n : Nat) (b : Bytes) (s : State) : State :=
  match ofLp128 b with
  | some r => lacPut y n (let v := lacGet s y n; lacMerge v.1 v.2 r.1 r.2) s
  | none => bumpFree 80 (slotWrite y (lacAt n).1 (freeBytes s 80) s)

/-- ACCLP (13:R355; 12:R325). -/
def execAcclp (t : Tid) (w : InsFields) (s : State) : Out :=
  live s (lane t 0x42 w (w.md = 0 && isV w.a && unused w false false true true false) fun _ _ y s =>
    let e := entryBase y w
    let v := vbytes (vreg y w.a.toNat)
    if !entriesIn y false e 4 then faultThread y 0x03 s
    else modThread y.id stepOn ((List.range 4).foldl (fun u i => addLp y (e + i) (slice (16 * i) 16 v) u) s))

/-- The 80 bytes of an escape in V[A], V[A+1]. -/
def escapeOf (y : Thread) (a : Nat) : BitVec 640 := BitVec.ofNat 640 (leNat ((vbytes (vreg y a) ++ vbytes (vreg y (a + 1))).take 80))

/-- ACCESC (13:R355). -/
def execAccesc (t : Tid) (w : InsFields) (s : State) : Out :=
  live s (lane t 0x43 w (w.md = 0 && isV w.a && unused w false false true true false) fun _ _ y s =>
    let e := entryBase y w
    if w.a.toNat % 2 = 1 then faultThread y 0x04 s
    else if !entriesIn y false e 1 then faultThread y 0x03 s
    else
      let v := lacGet s y e
      let r := lacMerge v.1 v.2 (escapeOf y w.a.toNat) 0
      modThread y.id stepOn (lacPut y e r s))

/-- One drained entry: its bytes, and its overflow state (12:R326 to R328). -/
def drainEntry (s : State) (x : Ctx) (y : Thread) (dt n : Nat) : Bytes × Bool :=
  let z := dtypeSize dt
  if isIntType dt then
    let v := intGet s y n
    let r := satInt z v.1
    (leBytes z (twos (8 * z) r.1), v.2 || r.2)
  else
    let v := lacGet s y n
    match fmtOf dt with
    | some f => let r := fencode f (ctxSat x) (lacVal v.1 v.2); (leBytes z r.1, r.2 || v.2.getLsbD 4)
    | none => ([], false)

/-- ACC_DRAIN (13:R355, Table 13-3; 12:R326, R334): four entries into a type, or with MOD 0 one entry as an escape. -/
def execAccDrain (t : Tid) (w : InsFields) (s : State) : Out :=
  let dt := w.md.toNat
  let z := dtypeSize dt
  let legal := if dt = 0 then w.c = 0 else isAccType dt && groupOk 4 z w.c.toNat
  live s (lane t 0x44 w (legal && isV w.a && unused w false false true false false) fun _ x y s =>
    let e := entryBase y w
    let a := w.a.toNat
    if dt = 0 then
      if a % 2 = 1 then faultThread y 0x04 s
      else if !entriesIn y false e 1 then faultThread y 0x03 s
      else
        let v := lacGet s y e
        let b := leBytes 80 v.1.toNat
        modThread y.id (fun q => stepOn ((q.setV a (ofVbytes (b.take 64))).setV (a + 1) (vpatch (vreg y (a + 1)) 0 (b.drop 64))))
          (modCtx x.idx (fun z => { z with overflow := z.overflow || v.2.getLsbD 4 }) (lacClear y e s))
    else if !entriesIn y (isIntType dt) e 4 then faultThread y 0x03 s
    else
      let rs := (List.range 4).map fun i => drainEntry s x y dt (e + i)
      let s1 := (List.range 4).foldl (fun u i => if isIntType dt then intClear y (e + i) u else lacClear y (e + i) u) s
      modThread y.id (fun q => stepOn (q.setV a (vpatch (vreg y a) (4 * z * w.c.toNat) (rs.flatMap fun r => r.1))))
        (modCtx x.idx (fun v => { v with overflow := v.overflow || rs.any fun r => r.2 }) s1))

/-- TOLP (13:R355, Table 13-3; 12:R323, R324): entries that need escapes stay as they are. -/
def execTolp (t : Tid) (w : InsFields) (s : State) : Out :=
  live s (lane t 0x45 w (w.md = 0 && isV w.a && unused w false false false true false) fun _ x y s =>
    let e := entryBase y w
    if !entriesIn y false e 4 then faultThread y 0x03 s
    else
      let ls := (List.range 4).map fun i => let v := lacGet s y (e + i); (toLp128 v.1 v.2, v.2.getLsbD 4)
      let s1 := ls.zipIdx.foldl (fun u l => if l.1.1.isSome then lacClear y (e + l.2) u else u) s
      let esc := bitsNat (ls.map fun l => l.1.isNone)
      let out := ofVbytes (ls.flatMap fun l => l.1.getD (leBytes 16 0))
      modThread y.id (fun q => stepOn ((q.setV w.a.toNat out).setS w.b (BitVec.ofNat 64 esc)))
        (modCtx x.idx (fun v => { v with overflow := v.overflow || ls.any fun l => l.2 }) s1))

/-- SLOTCLR (13:R368; 12:R334). -/
def execSlotclr (t : Tid) (w : InsFields) (s : State) : Out :=
  live s (lane t 0x46 w (w.md = 0 && unused w true false true true false) fun _ x y s =>
    let first := (sreg y w.a).toNat
    let n := w.imm.toNat
    if y.slots < first + n then faultThread y 0x03 s
    else modThread y.id stepOn (resetSlots y.id.lane (y.slotBase + first) n x.mode s))

/-- The operands of CSEND (13:R368). -/
def csendWire (w : InsFields) : Nat := natBits 16 5 w.imm.toNat

/-- Bytes of a chunk that CSEND sends: elements, and with ESCAPES the bitmap and the escapes behind them (12:R324). -/
def csendLen (head : Bytes) (w : InsFields) (n : Nat) : Nat :=
  let z := csendWire w
  if natBit 21 w.imm.toNat then
    let words := 8 * ceilDiv n 64
    chunkBytes z n ((bitList (BitVec.ofNat n (leNat (slice (n * wireSize z) words head)))).countP id)
  else n * wireSize z

/-- The receivers of a CSEND: one rank, or the members of an axis up to the far end, with the multicast's direction
(08:R221). A moved member is not on the line; `none`: the rank is not a member on an axis of this node. -/
def csendTo (s : State) (c : Comm) (w : InsFields) (r : Nat) : Option (List Nat × Option (BitVec 3 × Coord)) :=
  if commSize s c ≤ r then none
  else if !w.md.getLsbD 1 then some ([r], none)
  else
    let o := rankOffs s c r
    let m := myOffs s c
    match (List.range 3).filter fun a => o.getD a 0 ≠ m.getD a 0 with
    | [a] =>
      let sides := lineSides s c a
      let up := sides.1.contains (o.getD a 0)
      let side := if up then sides.1 else sides.2
      let line := side.take (side.findIdx (fun d => d = o.getD a 0) + 1)
      some (line.map (lineRank s c a), some (BitVec.ofNat 3 (2 * a + (if up then 0 else 1)), memberAt s c r))
    | _ => none

/-- Reads the source of a CSEND: relative slot bytes, the bytes that a remote source has returned, or a local fabric address with
the thread's own stores in place. -/
def csendRead (s : State) (y : Thread) (w : InsFields) (n : Nat) : Bytes :=
  if w.md.getLsbD 0 then slotRead s y (sreg y w.a).toNat n
  else match y.source with
    | some b => slice 0 n b.1
    | none => localRead (ownView y s) (sreg y w.a) n

/-- The fault of a CSEND's source (13:R353, R354), if any. -/
def csendFault (s : State) (c : Comm) (y : Thread) (w : InsFields) (n : Nat) : Option Nat :=
  if w.md.getLsbD 0 then (if inSlots y (sreg y w.a).toNat n then none else some 0x03)
  else match isLocal s c.map.toNat (sreg y w.a) with
    | some true => if (localCheck s (sreg y w.a) n).isSome then some 0x06 else none
    | some false => none
    | none => some 0x05

/-- A CSEND's source is a fabric address of another node. -/
def csendFar (s : State) (c : Comm) (y : Thread) (w : InsFields) : Bool :=
  !w.md.getLsbD 0 && isLocal s c.map.toNat (sreg y w.a) = some false

/-- A step of a CSEND that needs the first `n` bytes of its source (13:R353, R354): they are there, or the thread waits for its
PCI Express reads, or for a LANE_LOAD where the source lies on another node. -/
def withSource (c : Comm) (y : Thread) (w : InsFields) (n : Nat) (f : State → State) (s : State) : State :=
  let a := sreg y w.a
  match csendFault s c y w n with
  | some k => faultThread y k s
  | none =>
    if csendFar s c y w then
      if (y.source.any fun b => decide (n ≤ b.1.length)) then f s
      else if !reqRoom s (coordOf s c.map.toNat a) then stall y.id s
      else modThread y.id (fun z => { z with st := .inLoad })
        (issueReq (.source y.id) (reqPacket s kLaneLoad c.map (coordOf s c.map.toNat a) (loadPayload a n) false false) (faRank a) 0 s)
    else
      let ps := if w.md.getLsbD 0 then [] else localPieces s a n
      if busReady ps s then f s else stall y.id (askBus ps s)

/-- The chunk that a CSEND sends from `n` bytes of source to the receivers `to_`. -/
def csendChunk (s : State) (c : Comm) (x : Ctx) (y : Thread) (w : InsFields) (to_ : List Nat × Option (BitVec 3 × Coord))
    (n : Nat) : OutChunk :=
  let a := sreg y w.a
  let here : Bool := !w.md.getLsbD 0 && !csendFar s c y w
  { rcvs := to_.1.map (BitVec.ofNat 17), mcast := to_.2, phase := w.imm.setWidth 8, step := (w.imm >>> 8).setWidth 8
    cflags := if natBit 21 w.imm.toNat then 4 else 0, wire := BitVec.ofNat 8 (csendWire w), count := (sreg y w.c).toNat
    off := (sreg y w.d).toNat, data := csendRead s y w n, ovf := x.overflow
    poison := if here then localPoison s a n else y.source.any fun b => b.2
    lag := x.lag, leg := none, src := if here then some (a, n) else none }

/-- Sends a CSEND's chunk once every receiver has granted it and its stream has room; else the thread waits (10:R275,
08:R215). -/
def csendGo (c : Comm) (x : Ctx) (y : Thread) (w : InsFields) (to_ : List Nat × Option (BitVec 3 × Coord)) (n : Nat)
    (s : State) : State :=
  let k := csendChunk s c x y w to_ n
  if (k.rcvs.all fun r => 0 < allowance x r) && chunkRoom s c k then
    modThread y.id (fun z => stepOn { z with source := none })
      (useBus (if k.src.isSome then localPieces s (sreg y w.a) n else [])
        (sendChunk c x k (modCtx x.idx (fun v => { v with sent := v.sent ++ [k] }) s)))
  else stall y.id s

/-- CSEND (13:R368): blocks until the chunk holds a grant of every receiver and its data has been read. -/
def execCsend (t : Tid) (w : InsFields) (s : State) : Out :=
  live s (lane t 0x50 w (w.md.toNat ≤ 3 && wireSize (csendWire w) ≠ 0) fun c x y s =>
    let cnt := (sreg y w.c).toNat
    let first := cnt * wireSize (csendWire w) + if natBit 21 w.imm.toNat then 8 * ceilDiv cnt 64 else 0
    match csendTo s c w (sreg y w.b).toNat with
    | none => faultThread y 0x05 s
    | some to_ =>
      if cnt = 0 || 8128 < first then faultThread y 0x01 s
      else withSource c y w first
        (fun s =>
          let n := csendLen (csendRead s y w first) w cnt
          if 8128 < n then faultThread y 0x01 s else withSource c y w n (csendGo c x y w to_ n) s) s)

/-- The lowest handle that the thread does not hold (log 32). -/
def freeHandle (y : Thread) : W16 :=
  BitVec.ofNat 16 (((List.range (y.handles.length + 1)).find? fun i => !y.handles.any fun h => h.1.toNat = i).getD 0)

/-- The chunk that a CRECV takes: the oldest accepted one of its PHASE, STEP and sender that no thread has taken. -/
def crecvChunk (x : Ctx) (y : Thread) (w : InsFields) : Option Chunk :=
  x.chunks.find? fun k => !k.taken && k.phase = w.imm.setWidth 8 && k.step = (w.imm >>> 8).setWidth 8 &&
    (w.md = 1 || k.sender.toNat = (sreg y w.b).toNat)

/-- CRECV (13:R368). -/
def execCrecv (t : Tid) (w : InsFields) (s : State) : Out :=
  live s (lane t 0x51 w (w.md.toNat ≤ 1 && unused w false true (w.md = 1) true false) fun _ x y s =>
    match crecvChunk x y w with
    | none =>
      modThread y.id (fun z => { z with st := .inCrecv, waitArg := w.imm })
        (modCtx x.idx (fun v => { v with waitSince := now s }) s)
    | some k =>
      let h := freeHandle y
      let word : W64 := BitVec.ofNat 64 (h.toNat + (k.count % 2 ^ 16) * 2 ^ 16 + k.sender.toNat * 2 ^ 32)
      let same (z : Chunk) : Bool := z.sender = k.sender && z.phase = k.phase && z.step = k.step && z.off = k.off
      modThread y.id (fun z => stepOn { z.setS w.d word with handles := z.handles ++ [(h, k)] })
        (modCtx x.idx (fun v => { v with chunks := updWhere same (fun z => { z with taken := true }) v.chunks }) s))

/-- The laggard pair of the lane with a confirmed chunk (13, "From collective to threads"; 09:R253, R254). -/
def confirmLag (k : Chunk) (x : Ctx) : Ctx :=
  if natBits 2 2 k.phase.toNat = 2 then { x with lag := lagMax x.lag (k.lagRank, k.lateness) }
  else { x with lag := lagOut [{ l := x.lagAt, pair := x.lag }, { l := k.tick, pair := (k.lagRank, k.lateness) }] x.lag
                lagAt := max x.lagAt k.tick }

/-- CDONE (10:R276): the chunk is confirmed, and one chunk of grant returns. -/
def execCdone (t : Tid) (w : InsFields) (s : State) : Out :=
  live s (lane t 0x52 w (w.md = 0 && unused w true false true true true) fun c x y s =>
    match heldChunk y w.a with
    | none => faultThread y 0x09 s
    | some k =>
      let drop (z : Thread) : Thread := { stepOn z with handles := z.handles.filter fun h => h.1 ≠ (sreg y w.a).setWidth 16 }
      grantKick (confirmChunk c x.idx k.sender
        (modThread y.id drop
          (modCtx x.idx (fun v => { confirmLag k v with overflow := v.overflow || k.ovf }) s))))

end Sys2Proof.Machine
end

