-- ==== Sys2Proof/Machine/Dispatch.lean ====
section
/-! DEFINITION. Machine/Dispatch.lean: one arm per command, each a direct call of that command's meaning. -/

namespace Sys2Proof.Machine

/-- What a command does to everything but the queue (95: each row is one step). -/
def exec (i : Instr) (s : State) : Host.Outcome State Fault Refusal :=
  match i with
  | .coldReset src saddr fuseOk => Sys2Proof.Machine.execColdReset src saddr fuseOk s
  | .powerLoss => Sys2Proof.Machine.execPowerLoss s
  | .warmReset src => Sys2Proof.Machine.execWarmReset src s
  | .hostLinkReset src => Sys2Proof.Machine.execHostLinkReset src s
  | .powerupSelftest lanesPass treePass stagingPass => Sys2Proof.Machine.execPowerupSelftest lanesPass treePass stagingPass s
  | .authentication => Sys2Proof.Machine.execAuthentication s
  | .octozReady tmTrained gbTrained => Sys2Proof.Machine.execOctozReady tmTrained gbTrained s
  | .bootWatchdog => Sys2Proof.Machine.execBootWatchdog s
  | .dozeEntry => Sys2Proof.Machine.execDozeEntry s
  | .napEntry => Sys2Proof.Machine.execNapEntry s
  | .deepEntry => Sys2Proof.Machine.execDeepEntry s
  | .deepEntryDone => Sys2Proof.Machine.execDeepEntryDone s
  | .wakeDone => Sys2Proof.Machine.execWakeDone s
  | .wakePin => Sys2Proof.Machine.execWakePin s
  | .alarmFire => Sys2Proof.Machine.execAlarmFire s
  | .heraldHoldExpiry => Sys2Proof.Machine.execHeraldHoldExpiry s
  | .sidebandWrite offset words => Sys2Proof.Machine.execSidebandWrite offset words s
  | .sidebandRead offset count => Sys2Proof.Machine.execSidebandRead offset count s
  | .sidebandTimeout => Sys2Proof.Machine.execSidebandTimeout s
  | .lowHalfRead path reg => Sys2Proof.Machine.execLowHalfRead path reg s
  | .registerWrite offset size value => Sys2Proof.Machine.execRegisterWrite offset size value s
  | .powerTimerWrite path field value => Sys2Proof.Machine.execPowerTimerWrite path field value s
  | .alarmWrite path half value => Sys2Proof.Machine.execAlarmWrite path half value s
  | .alarmArm path value => Sys2Proof.Machine.execAlarmArm path value s
  | .wakeGo path value => Sys2Proof.Machine.execWakeGo path value s
  | .resetCtl path value => Sys2Proof.Machine.execResetCtl path value s
  | .recoveryGo path value => Sys2Proof.Machine.execRecoveryGo path value s
  | .lagCtlClear value => Sys2Proof.Machine.execLagCtlClear value s
  | .tanneryApertureWrite aperture half value => Sys2Proof.Machine.execTanneryApertureWrite aperture half value s
  | .pcieConfigRequest req => Sys2Proof.Machine.execPcieConfigRequest req s
  | .bar2Access acc => Sys2Proof.Machine.execBar2Access acc s
  | .bar4Access acc => Sys2Proof.Machine.execBar4Access acc s
  | .sqTailWrite q value => Sys2Proof.Machine.execSqTailWrite q value s
  | .cqHeadWrite page value => Sys2Proof.Machine.execCqHeadWrite page value s
  | .queueEnable page qctrl => Sys2Proof.Machine.execQueueEnable page qctrl s
  | .queueDisable page qctrl => Sys2Proof.Machine.execQueueDisable page qctrl s
  | .fetch q => Sys2Proof.Machine.execFetch q s
  | .imodTimer page => Sys2Proof.Machine.execImodTimer page s
  | .ident q e => Sys2Proof.Machine.execIdent q e s
  | .configSet q e => Sys2Proof.Machine.execConfigSet q e s
  | .powerPolicy q e => Sys2Proof.Machine.execPowerPolicy q e s
  | .prewarm q e => Sys2Proof.Machine.execPrewarm q e s
  | .windowMap q e => Sys2Proof.Machine.execWindowMap q e s
  | .windowUnmap q e => Sys2Proof.Machine.execWindowUnmap q e s
  | .rankmapLoad q e => Sys2Proof.Machine.execRankmapLoad q e s
  | .rankmapPatch q e => Sys2Proof.Machine.execRankmapPatch q e s
  | .commCreate q e => Sys2Proof.Machine.execCommCreate q e s
  | .commDestroy q e => Sys2Proof.Machine.execCommDestroy q e s
  | .drain q e => Sys2Proof.Machine.execDrain q e s
  | .drainRelease q e => Sys2Proof.Machine.execDrainRelease q e s
  | .routeUpdate q e => Sys2Proof.Machine.execRouteUpdate q e s
  | .selftest q e => Sys2Proof.Machine.execSelftest q e s
  | .logRead q e => Sys2Proof.Machine.execLogRead q e s
  | .fwUpdateWrite q e => Sys2Proof.Machine.execFwUpdateWrite q e s
  | .fwUpdateActivate q e => Sys2Proof.Machine.execFwUpdateActivate q e s
  | .fwUpdateCommit q e => Sys2Proof.Machine.execFwUpdateCommit q e s
  | .progLoad q e => Sys2Proof.Machine.execProgLoad q e s
  | .collSubmit q e => Sys2Proof.Machine.execCollSubmit q e s
  | .collectiveComplete ctx => Sys2Proof.Machine.execCollectiveComplete ctx s
  | .commandTimeout target => Sys2Proof.Machine.execCommandTimeout target s
  | .put q e => Sys2Proof.Machine.execPut q e s
  | .get q e => Sys2Proof.Machine.execGet q e s
  | .atomic q e => Sys2Proof.Machine.execAtomic q e s
  | .tmOp q e => Sys2Proof.Machine.execTmOp q e s
  | .accumArm q e => Sys2Proof.Machine.execAccumArm q e s
  | .accumDisarm q e => Sys2Proof.Machine.execAccumDisarm q e s
  | .tmFence q e => Sys2Proof.Machine.execTmFence q e s
  | .statePark q e => Sys2Proof.Machine.execStatePark q e s
  | .stateUnpark q e => Sys2Proof.Machine.execStateUnpark q e s
  | .stateFork q e => Sys2Proof.Machine.execStateFork q e s
  | .stateDrop q e => Sys2Proof.Machine.execStateDrop q e s
  | .routeDispatch q e => Sys2Proof.Machine.execRouteDispatch q e s
  | .combineAllreduce q e => Sys2Proof.Machine.execCombineAllreduce q e s
  | .contextSave => Sys2Proof.Machine.execContextSave s
  | .contextSaved ctx => Sys2Proof.Machine.execContextSaved ctx s
  | .contextRestore record => Sys2Proof.Machine.execContextRestore record s
  | .add t w => Sys2Proof.Machine.execAdd t w s
  | .sub t w => Sys2Proof.Machine.execSub t w s
  | .and t w => Sys2Proof.Machine.execAnd t w s
  | .or t w => Sys2Proof.Machine.execOr t w s
  | .xor t w => Sys2Proof.Machine.execXor t w s
  | .mul t w => Sys2Proof.Machine.execMul t w s
  | .shl t w => Sys2Proof.Machine.execShl t w s
  | .shr t w => Sys2Proof.Machine.execShr t w s
  | .sar t w => Sys2Proof.Machine.execSar t w s
  | .cmp t w => Sys2Proof.Machine.execCmp t w s
  | .movi t w => Sys2Proof.Machine.execMovi t w s
  | .br t w => Sys2Proof.Machine.execBr t w s
  | .yield t w => Sys2Proof.Machine.execYield t w s
  | .endThread t w => Sys2Proof.Machine.execEndThread t w s
  | .spawn t w => Sys2Proof.Machine.execSpawn t w s
  | .sync t w => Sys2Proof.Machine.execSync t w s
  | .time t w => Sys2Proof.Machine.execTime t w s
  | .setres t w => Sys2Proof.Machine.execSetres t w s
  | .trap t w => Sys2Proof.Machine.execTrap t w s
  | .ld t w => Sys2Proof.Machine.execLd t w s
  | .st t w => Sys2Proof.Machine.execSt t w s
  | .vld t w => Sys2Proof.Machine.execVld t w s
  | .vst t w => Sys2Proof.Machine.execVst t w s
  | .fence t w => Sys2Proof.Machine.execFence t w s
  | .sld t w => Sys2Proof.Machine.execSld t w s
  | .sst t w => Sys2Proof.Machine.execSst t w s
  | .vaddf t w => Sys2Proof.Machine.execVaddf t w s
  | .vmm t w => Sys2Proof.Machine.execVmm t w s
  | .vcvt t w => Sys2Proof.Machine.execVcvt t w s
  | .vbit t w => Sys2Proof.Machine.execVbit t w s
  | .vbcast t w => Sys2Proof.Machine.execVbcast t w s
  | .accx t w => Sys2Proof.Machine.execAccx t w s
  | .accp t w => Sys2Proof.Machine.execAccp t w s
  | .acclp t w => Sys2Proof.Machine.execAcclp t w s
  | .accesc t w => Sys2Proof.Machine.execAccesc t w s
  | .accDrain t w => Sys2Proof.Machine.execAccDrain t w s
  | .tolp t w => Sys2Proof.Machine.execTolp t w s
  | .slotclr t w => Sys2Proof.Machine.execSlotclr t w s
  | .csend t w => Sys2Proof.Machine.execCsend t w s
  | .crecv t w => Sys2Proof.Machine.execCrecv t w s
  | .cdone t w => Sys2Proof.Machine.execCdone t w s
  | .chunk p => Sys2Proof.Machine.execChunk p s
  | .chunkGrant p => Sys2Proof.Machine.execChunkGrant p s
  | .countChunk p => Sys2Proof.Machine.execCountChunk p s
  | .chunkRereq p => Sys2Proof.Machine.execChunkRereq p s
  | .chunkTimeout ctx sender phase step elemOffset elemCount => Sys2Proof.Machine.execChunkTimeout ctx sender phase step elemOffset elemCount s
  | .cinchUp p => Sys2Proof.Machine.execCinchUp p s
  | .cinchDown p => Sys2Proof.Machine.execCinchDown p s
  | .cinchRereq p => Sys2Proof.Machine.execCinchRereq p s
  | .cinchSetTimeout ctx ctype axis sender => Sys2Proof.Machine.execCinchSetTimeout ctx ctype axis sender s
  | .voteUp p => Sys2Proof.Machine.execVoteUp p s
  | .voteDown p => Sys2Proof.Machine.execVoteDown p s
  | .abortNotice port p => Sys2Proof.Machine.execAbortNotice port p s
  | .herald port p emitter => Sys2Proof.Machine.execHerald port p emitter s
  | .heraldFrame port p emitter => Sys2Proof.Machine.execHeraldFrame port p emitter s
  | .creditFrame port => Sys2Proof.Machine.execCreditFrame port s
  | .busyFrame port => Sys2Proof.Machine.execBusyFrame port s
  | .heraldFrameTimeout port => Sys2Proof.Machine.execHeraldFrameTimeout port s
  | .wakeFrame port => Sys2Proof.Machine.execWakeFrame port s
  | .deepFrame port => Sys2Proof.Machine.execDeepFrame port s
  | .resumeFrame port => Sys2Proof.Machine.execResumeFrame port s
  | .group port g => Sys2Proof.Machine.execGroup port g s
  | .retryReq port f => Sys2Proof.Machine.execRetryReq port f s
  | .ack port f => Sys2Proof.Machine.execAck port f s
  | .ackTimeout port => Sys2Proof.Machine.execAckTimeout port s
  | .credit port f => Sys2Proof.Machine.execCredit port f s
  | .identity port f => Sys2Proof.Machine.execIdentity port f s
  | .lpiReq port f => Sys2Proof.Machine.execLpiReq port f s
  | .lpiAck port f => Sys2Proof.Machine.execLpiAck port f s
  | .signalDetect port => Sys2Proof.Machine.execSignalDetect port s
  | .trainingDone port lanesLocked => Sys2Proof.Machine.execTrainingDone port lanesLocked s
  | .trainingStepTimeout port => Sys2Proof.Machine.execTrainingStepTimeout port s
  | .trainingRetry port => Sys2Proof.Machine.execTrainingRetry port s
  | .lockLoss port lanesLost => Sys2Proof.Machine.execLockLoss port lanesLost s
  | .farGone port => Sys2Proof.Machine.execFarGone port s
  | .gb2Fault unit => Sys2Proof.Machine.execGb2Fault unit s
  | .arbitrationWindow port => Sys2Proof.Machine.execArbitrationWindow port s
  | .packetStart port => Sys2Proof.Machine.execPacketStart port s
  | .packetForward from_ => Sys2Proof.Machine.execPacketForward from_ s
  | .putPacket p => Sys2Proof.Machine.execPutPacket p s
  | .getReq p => Sys2Proof.Machine.execGetReq p s
  | .laneStore p => Sys2Proof.Machine.execLaneStore p s
  | .laneLoad p => Sys2Proof.Machine.execLaneLoad p s
  | .atomicReq p => Sys2Proof.Machine.execAtomicReq p s
  | .readResp p => Sys2Proof.Machine.execReadResp p s
  | .atomicResp p => Sys2Proof.Machine.execAtomicResp p s
  | .missAck p => Sys2Proof.Machine.execMissAck p s
  | .drainMarker p => Sys2Proof.Machine.execDrainMarker p s
  | .e2eAck p => Sys2Proof.Machine.execE2eAck p s
  | .e2eAckSend source => Sys2Proof.Machine.execE2eAckSend source s
  | .e2eBusy p => Sys2Proof.Machine.execE2eBusy p s
  | .busyResend request => Sys2Proof.Machine.execBusyResend request s
  | .e2eRereq p => Sys2Proof.Machine.execE2eRereq p s
  | .rereqTimeout source => Sys2Proof.Machine.execRereqTimeout source s
  | .reissueTimeout request => Sys2Proof.Machine.execReissueTimeout request s
  | .flagRelease source => Sys2Proof.Machine.execFlagRelease source s
  | .rateRise cls => Sys2Proof.Machine.execRateRise cls s
  | .rateReset cls => Sys2Proof.Machine.execRateReset cls s
  | .probe p => Sys2Proof.Machine.execProbe p s
  | .probeAnswer p => Sys2Proof.Machine.execProbeAnswer p s
  | .probeTimeout coord => Sys2Proof.Machine.execProbeTimeout coord s
  | .lossNotice port p => Sys2Proof.Machine.execLossNotice port p s
  | .rejoinNotice port p => Sys2Proof.Machine.execRejoinNotice port p s
  | .degradedRoutingEnd => Sys2Proof.Machine.execDegradedRoutingEnd s
  | .tmOpExecute module found => Sys2Proof.Machine.execTmOpExecute module found s
  | .moduleDown module baseDie => Sys2Proof.Machine.execModuleDown module baseDie s
  | .patrolScrub module found => Sys2Proof.Machine.execPatrolScrub module found s
  | .laneError lane kind => Sys2Proof.Machine.execLaneError lane kind s
  | .stagingError bank word uncorrectable => Sys2Proof.Machine.execStagingError bank word uncorrectable s
  | .tanneryError module e => Sys2Proof.Machine.execTanneryError module e s
  | .lockstepMismatch => Sys2Proof.Machine.execLockstepMismatch s
  | .treeWatchdog => Sys2Proof.Machine.execTreeWatchdog s
  | .targetedSelftestEnd unit pass => Sys2Proof.Machine.execTargetedSelftestEnd unit pass s
  | .thermalWarning sensor temp => Sys2Proof.Machine.execThermalWarning sensor temp s
  | .throttle sensor temp => Sys2Proof.Machine.execThrottle sensor temp s
  | .thermalClear sensor temp => Sys2Proof.Machine.execThermalClear sensor temp s
  | .thermalTrip sensor temp => Sys2Proof.Machine.execThermalTrip sensor temp s
  | .tmTempReport module temp => Sys2Proof.Machine.execTmTempReport module temp s
  | .gb2Temperature unit temp => Sys2Proof.Machine.execGb2Temperature unit temp s
  | .extest => Sys2Proof.Machine.execExtest s
  | .idcode => Sys2Proof.Machine.execIdcode s
  | .samplePreload pins preload => Sys2Proof.Machine.execSamplePreload pins preload s
  | .bypass code => Sys2Proof.Machine.execBypass code s
  | .scanChain => Sys2Proof.Machine.execScanChain s
  | .memAccess => Sys2Proof.Machine.execMemAccess s
  | .treeHalt => Sys2Proof.Machine.execTreeHalt s
  | .fuseRead => Sys2Proof.Machine.execFuseRead s
  | .keeperTick => Sys2Proof.Machine.execKeeperTick s
  | .wakeNRise => Sys2Proof.Machine.execWakeNRise s
  | .perstNRise => Sys2Proof.Machine.execPerstNRise s
  | .refclkStop => Sys2Proof.Machine.execRefclkStop s
  | .bar0Read offset size => Sys2Proof.Machine.execBar0Read offset size s
  | .pcieReadCompletion tag res data => Sys2Proof.Machine.execPcieReadCompletion tag res data s
  | .flashWriteDone ok => Sys2Proof.Machine.execFlashWriteDone ok s

end Sys2Proof.Machine
end

