-- ==== Sys2Proof/Safety.lean ====
section
/-! DEFINITION. Safety.lean: what the statements call a running node, a served queue and a running thread, and the
invariant of the state. -/

namespace Sys2Proof.Machine

/-- The node takes commands: its operation is defined (03:R78, 18 Edges), it has power (18:R496), and no thermal trip
has stopped its clocks (18:R515). -/
abbrev State.Runs (s : State) : Prop := s.undef = false ∧ s.kp.power ≠ .off ∧ s.kp.tripped = false

/-- The keeper takes commands: it runs on through a thermal trip (18:R515). -/
abbrev State.KeeperRuns (s : State) : Prop := s.undef = false ∧ s.kp.power ≠ .off

/-- A register path is served: BAR0 while the engine's clocks run, the sideband while the keeper runs (02:R31). -/
abbrev State.PathRuns (path : Path) (s : State) : Prop :=
  s.undef = false ∧ s.kp.power ≠ .off ∧ (path = .sideband ∨ s.kp.tripped = false)

/-- The node runs in ACTIVE (02 Table 2-1). -/
abbrev State.Awake (s : State) : Prop := s.undef = false ∧ s.kp.power = .active ∧ s.kp.tripped = false

/-- Octoz serves queues and runs programs: READY, ACTIVE, and the Tree not halted. -/
abbrev State.OctozServes (s : State) : Prop := s.Awake ∧ s.boot.phase = phReady ∧ s.tree.halted = false

/-- An access of the host to an engine in ACTIVE starts the DOZE_AFTER count anew (02:R36) and changes nothing else by
itself. -/
def State.touched (s : State) : State := { s with kp := { s.kp with idleSince := now s } }

/-- Entry `e` stands alone at the head of queue `q`, and may start (04:R104, R105): the Tree serves queues, completions can be written, the entry is not marked, no
command holds the queue, and its FENCE does not. -/
abbrev State.AtHead (q : BitVec 6) (e : Entry) (s : State) : Prop :=
  s.OctozServes ∧ s.host.busMaster = true ∧ s.qs.length = 64 ∧
  (getPage q.toNat s).fetched = [{ entry := e, marked := false }] ∧ queueHeld q s = false ∧
  (entFence e = false ∨ (getPage q.toNat s).started = 0)

/-- No request and no command waits for PCI Express reads or for room. -/
abbrev State.NothingWaits (s : State) : Prop := s.ni.serving = [] ∧ s.cmds = []

/-- Every cache line holds a whole granule, and the cache has room for one more (15:R410). -/
abbrev State.CacheRoom (s : State) : Prop :=
  (∀ l ∈ s.tm.cache, l.data.length = 256) ∧ s.tm.cache.length < Config.cacheLines

/-- A packet of a stream that the NI takes (08:R210, R216 to R218): its check holds, it is not flagged, `r` is the stream's
record with it taken, a request has room, and no acknowledgement falls due. -/
abbrev State.Accepts (p : Packet) (r : RxStream) (s : State) : Prop :=
  s.Runs ∧ routerRuns s = true ∧ inStream p = true ∧ crcOk p = true ∧ p.flag = false ∧ p.mark = false ∧ r.accepted < 15 ∧
  rxCase (now s) (rxOf s p.src) p = .take r ∧ (isRequest p = true → ejectHeld s + flitBytes p ≤ Config.ejectMax)

/-- The stream to a node can take one more packet at once (08:R215). -/
abbrev State.StreamOpen (c : Coord) (s : State) : Prop := (txOf s c).waiting = [] ∧ (txOf s c).unacked.length < 64

/-- The collective that a CHUNK or CINCH packet names is bound, on a registered communicator, and has its context index
alone. -/
abbrev State.Serves (p : Packet) (x : Ctx) (c : Comm) (s : State) : Prop :=
  findColl (chunkHandle p) (chunkSeq p) s = some x ∧ findComm x.handle s = some c ∧ ∀ y ∈ s.ctxs, y.idx = x.idx → y = x

/-- A port that the node has, in a state of twelve ports. -/
abbrev State.HasPort (i : Nat) (s : State) : Prop := i < 12 ∧ s.ports.length = 12

/-- Thread `y` of context `x` fetches the word that the row's opcode and fields spell (13:R350, R367), and may execute it: it runs
and has its turn in its class (13:R348), or the instruction has issued and waits (log 2). -/
abbrev State.Issues (t : Tid) (opc : Nat) (w : InsFields) (y : Thread) (x : Ctx) (c : Comm) (s : State) : Prop :=
  s.OctozServes ∧ findThread t s = some y ∧ findCtx y.ctx s = some x ∧ findComm x.handle s = some c ∧
  (y.st = .running ∧ myTurn s y (classOf opc) = true ∨ y.st = .stalled) ∧ fetchAt s y (insWord opc w) = .row

/-- A thread of the context executes an instruction: the context is not blocked at this tick (10:R281), and the lane has served
the thread in the instruction's class (13:R348). -/
def State.issued (t : Tid) (opc : Nat) (x : Ctx) (s : State) : State :=
  serve t (classOf opc) (modCtx x.idx (fun v => { v with blockedSince := now s }) s)

/-- The commands of the keeper, of its pins and of the sideband, which a thermal trip does not stop (18:R515; which rows those are
is the model's reading, log 46). -/
def keeperRow : Instr → Bool
  | .keeperTick | .wakePin | .wakeNRise | .alarmFire | .heraldHoldExpiry => true
  | .sidebandWrite _ _ | .sidebandRead _ _ | .sidebandTimeout => true
  | .lowHalfRead path _ | .powerTimerWrite path _ _ | .alarmWrite path _ _ | .alarmArm path _ | .wakeGo path _
  | .resetCtl path _ | .recoveryGo path _ => decide (path = .sideband)
  | _ => false

/-- The rows of the test port, which act while node operation is undefined too (03:R78, 18:R525). -/
def testRow : Instr → Bool
  | .extest | .idcode | .samplePreload _ _ | .bypass _ | .scanChain | .memAccess | .treeHalt | .fuseRead => true
  | _ => false

/-- The two commands that act whatever the state is: a cold reset and the fall of PWRGOOD. -/
def resetRow : Instr → Bool
  | .coldReset _ _ _ | .powerLoss => true
  | _ => false

/-- A port record keeps its four virtual channels. -/
abbrev Port.Sound (p : Port) : Prop :=
  p.inq.length = 4 ∧ p.outq.length = 4 ∧ p.txUsed.length = 4 ∧ p.txFreed.length = 4 ∧ p.rxFreed.length = 4 ∧ p.credit.length = 4 ∧
  p.rxHeld.length = 4

/-- A thread record keeps 32 scalar and 8 vector registers (13 Table 13-1). -/
abbrev Thread.Sound (y : Thread) : Prop := y.s.length = 32 ∧ y.v.length = 8

/-- The shape that every command keeps: 64 queue pages (04:R95), 12 ports (07), 16 rank maps, eight apertures, twelve rates and
the sensors; threads with all their registers; whole cache lines; and the five memories in their canonical form. -/
structure State.Sound (s : State) : Prop where
  pages : s.qs.length = 64
  ports : s.ports.length = 12
  port : ∀ p ∈ s.ports, p.Sound
  maps : s.maps.length = 16
  apertures : s.tm.apertures.length = 8
  rates : s.ni.rates.length = 12
  sensors : s.kp.therm.length = 8 ∧ s.tm.temp.length = 8 ∧ s.kp.gbTemp.length = 3 ∧ s.kp.gbWarn.length = 3 ∧ s.kp.gbStop.length = 3
  thread : ∀ y ∈ s.threads, y.Sound
  savedThread : ∀ x ∈ s.saved, ∀ y ∈ x.threads, y.Sound
  line : ∀ l ∈ s.tm.cache, l.data.length = 256
  busForm : Memory.wf 0 s.bus = true
  slotForm : Memory.wf 0 s.slots = true
  moduleForm : Memory.wf 0 s.tm.mem = true
  stagingForm : Memory.wf 0 s.stg.mem = true
  flashForm : Memory.wf 0xFF s.flash = true

end Sys2Proof.Machine
end

