-- ==== Sys2Proof/Certificates/Slice0/Obligations.lean ====
section
/-! DEFINITION. Certificates/Slice0/Obligations.lean: the statements for the provers. A command's statement has as its
conclusion that `exec` answers a next state and what that state holds; where the next state is written out as
`{ s with … }`, every field not named in it is unchanged. Rules are cited as file:rule of spec/. -/

open Sys2Proof Sys2Proof.Machine

/-! ## The block as a whole -/

/-- A step takes the command at the front of the queue and runs `exec` on it with the queue's rest (95 Commands: each row is
one step); on an empty queue the block idles (log 1). -/
def Obligations.StepRunsFrontCommand : Prop :=
  (∀ (c : Instr) (rest : List Instr) (s : State), s.pending = c :: rest →
    Machine.step s = Machine.exec c { s with pending := rest }) ∧
  (∀ s : State, s.pending = [] → Machine.step s = .next s)

/-- Every command answers a next state while operation is defined: none is refused, and none stops by a fault. -/
def Obligations.NoCommandStops : Prop :=
  ∀ (c : Instr) (s : State), s.undef = false → ∃ t, Machine.exec c s = .next t

/-- 03:R78 and 18 Edges: once EXTEST has been loaded or REFCLK has stopped, node operation is undefined until a cold reset:
every command but COLD_RESET, POWER_LOSS and the rows of the test port faults, and those two end the undefined operation
(CRST_N only while PWRGOOD is high, 18:R496).

18:R496: in OFF nothing answers: every command but COLD_RESET and POWER_LOSS leaves the state as it is.

18:R515 (Trip): after a thermal trip every clock but the keeper's stands: only commands of the keeper, of its pins, of
the sideband and of the test port act (log 46 says which rows those are). -/
def Obligations.DefinedOperation : Prop :=
  (∀ (c : Instr) (s : State), s.undef = true →
     (resetRow c = false → testRow c = false → Machine.exec c s = .fault .operationUndefined) ∧
     (resetRow c = true → s.pins.pwrgood = true → ∃ t, Machine.exec c s = .next t ∧ t.undef = false) ∧
     (testRow c = true → ∃ t, Machine.exec c s = .next t ∧ t.undef = true)) ∧
  (∀ (c : Instr) (s : State), s.kp.power = .off → resetRow c = false → (s.undef = false ∨ testRow c = true) →
     Machine.exec c s = .next s) ∧
  (∀ (c : Instr) (s : State), s.undef = false → s.kp.tripped = true → keeperRow c = false → testRow c = false →
     resetRow c = false → Machine.exec c s = .next s)

/-! ## The keeper, its pins and the sleep states -/

/-- KEEPER_TICK (02:R30, R33; 05:R135; 07 Table 7-8): TIMESTAMP + 1, and the policy written last applies from then on; while the
engine is not idle the DOZE_AFTER count starts anew; once a microsecond HALF_WIDTH_US of each port at width 4 counts on. After a
thermal trip, and in a sleep state in which no port carries flits and no PREWARM waits, nothing else changes.

WAKE_PIN, WAKE_N_RISE, PERST_N_RISE and REFCLK_STOP (18:R504, R502, Edges; 02:R36): a falling edge on WAKE_N starts a
wake with cause 0x4 from a sleep state in which none is under way, and in ACTIVE only restarts the DOZE_AFTER count;
the rise of WAKE_N ends the floor of the pin; the rise of PERST_N ends the host-link reset; a stopped REFCLK leaves
operation undefined. -/
def Obligations.TickAndPins : Prop :=
  ((∀ s : State, s.KeeperRuns → ∃ t, Machine.exec .keeperTick s = .next t ∧ t.kp.timestamp = s.kp.timestamp + 1) ∧
   (∀ s : State, s.KeeperRuns →
      (s.kp.tripped = true ∨ (asleep s = true ∧ (∀ p ∈ s.ports, carries p = false) ∧ s.ports.length = 12 ∧ s.cmds = [])) →
      ∃ t, Machine.exec .keeperTick s = .next t ∧
        t.kp = { s.kp with timestamp := s.kp.timestamp + 1, acting := s.kp.policy
                           idleSince := if idle s then s.kp.idleSince else (s.kp.timestamp + 1).toNat } ∧
        t.ports.length = s.ports.length ∧
        (∀ i, i < s.ports.length → getPort i t =
          if (s.kp.timestamp + 1).toNat % 25 = 0 ∧ (getPort i s).width = 4
          then { getPort i s with cnt := { (getPort i s).cnt with halfUs := satInc (getPort i s).cnt.halfUs } }
          else getPort i s) ∧
        t = { s with kp := t.kp, ports := t.ports })) ∧
  ((∀ s : State, s.KeeperRuns → s.pins.wakeN = true → s.kp.power ≠ .active → (∀ c k, s.kp.trans ≠ .wake c k) →
     Machine.exec .wakePin s = .next { s with
       pins := { s.pins with wakeN := false }
       kp := { s.kp with idleSince := now s, trans := .wake 4 (now s), lastWake := 4 } }) ∧
   (∀ s : State, s.KeeperRuns → s.pins.wakeN = true → s.kp.power = .active →
     Machine.exec .wakePin s =
       .next { s with pins := { s.pins with wakeN := false }, kp := { s.kp with idleSince := now s } }) ∧
   (∀ s : State, s.KeeperRuns → Machine.exec .wakeNRise s = .next { s with pins := { s.pins with wakeN := true } }) ∧
   (∀ s : State, s.Runs → s.pins.perstN = false →
     Machine.exec .perstNRise s =
       .next { s with pins := { s.pins with perstN := true }, host := { s.host with inReset := false } }) ∧
   (∀ s : State, s.Runs → s.pins.pwrgood = true → Machine.exec .refclkStop s = .next { s with undef := true }))

/-- ALARM_FIRE and HERALD_HOLD_EXPIRY (19:R533; 02:R36, R43): an alarm that is armed and due clears ARM and, in a sleep
state without a wake under way, starts a wake with cause 0x6; its event waits for the wake. An alarm that is not due
stays. Expired holds end, and no other.

ALARM_WRITE and ALARM_ARM (19:R531, R533, Table 19-2), over either path: a low half waits for its high half; the high
half, or a 64-bit write, sets ALARM; a write of ALARM_CTL sets ARM. -/
def Obligations.AlarmAndHolds : Prop :=
  ((∀ s : State, s.KeeperRuns → s.kp.armed = true → s.kp.alarm.toNat ≤ now s → s.kp.power ≠ .active →
     (∀ c k, s.kp.trans ≠ .wake c k) →
     ∃ t, Machine.exec .alarmFire s = .next t ∧
       t.kp = { s.kp with armed := false, idleSince := now s, trans := .wake 6 (now s), lastWake := 6 } ∧
       (∃ r ∈ t.evs, r.source = 0x4000 ∧ ∃ e ∈ r.held ++ r.last.toList, e.code = 0x0401 ∧ e.time = s.kp.timestamp) ∧
       t = { s with kp := t.kp, evs := t.evs, err := t.err }) ∧
   (∀ s : State, s.KeeperRuns → s.kp.armed = false ∨ now s < s.kp.alarm.toNat → Machine.exec .alarmFire s = .next s) ∧
   (∀ s : State, s.KeeperRuns → ∃ t, Machine.exec .heraldHoldExpiry s = .next t ∧
     (∀ h, h ∈ t.kp.holds ↔ h ∈ s.kp.holds ∧ now s < h.until_) ∧
     t = { s with kp := { s.kp with holds := t.kp.holds } })) ∧
  (∀ (path : Path) (v : W64) (w : W32) (s : State), s.PathRuns path →
     Machine.exec (.alarmWrite path .low v) s = .next { s with kp := { s.kp with alarmLow := some (v.setWidth 32) } } ∧
     Machine.exec (.alarmWrite path .both v) s = .next { s with kp := { s.kp with alarm := v, alarmLow := none } } ∧
     (∀ lo, s.kp.alarmLow = some lo →
       Machine.exec (.alarmWrite path .high v) s =
         .next { s with kp := { s.kp with alarm := (v.setWidth 32 : W32) ++ lo, alarmLow := none } }) ∧
     (s.kp.alarmLow = none →
       Machine.exec (.alarmWrite path .high v) s =
         .next { s with kp := { s.kp with alarm := (v.setWidth 32 : W32) ++ (s.kp.alarm.setWidth 32 : W32), alarmLow := none } }) ∧
     Machine.exec (.alarmArm path w) s = .next { s with kp := { s.kp with armed := w.getLsbD 0 } })

/-- 19:R532, on both paths: a write to DOZE_AFTER, NAP_AFTER, DEEP_AFTER, HERALD_HOLD or FLOOR sets that one field when the
value is zero or in the range of 02 Table 2-3, and leaves it unchanged otherwise. Of FLOOR's register, bits [31:2] are
reserved. The field written is the one that applies from the next tick on (05:R135). -/
def Obligations.TimerRegisterWrites : Prop :=
  ∀ (path : Path) (v : W32) (s : State), s.PathRuns path →
    let put (p : Policy) : State := { s with kp := { s.kp with policy := p } }
    (Machine.exec (.powerTimerWrite path .dozeAfter v) s = .next (if v = 0 ∨ (25 ≤ v.toNat ∧ v.toNat ≤ 25000)
      then put { s.kp.policy with dozeAfter := v } else s)) ∧
    (Machine.exec (.powerTimerWrite path .napAfter v) s = .next (if v = 0 ∨ (250 ≤ v.toNat ∧ v.toNat ≤ 25000000)
      then put { s.kp.policy with napAfter := v } else s)) ∧
    (Machine.exec (.powerTimerWrite path .deepAfter v) s = .next (if v = 0 ∨ (25000 ≤ v.toNat ∧ v.toNat ≤ 250000000)
      then put { s.kp.policy with deepAfter := v } else s)) ∧
    (Machine.exec (.powerTimerWrite path .heraldHold v) s = .next (if v.toNat ≤ 25000000
      then put { s.kp.policy with heraldHold := v } else s)) ∧
    Machine.exec (.powerTimerWrite path .floor v) s = .next (put { s.kp.policy with floor := v.setWidth 2 })

/-- 19:R534: a write to WAKE.GO starts a wake, with cause 0x5 from the sideband and 0x7 from BAR0 (02:R36: from a sleep
state; in ACTIVE only the DOZE_AFTER count starts anew). A write of 0 to GO does nothing. -/
def Obligations.WakeGoStartsWake : Prop :=
  ∀ (path : Path) (v : W32) (s : State), s.PathRuns path →
    (v.getLsbD 0 = true → s.kp.power ≠ .active → (∀ c k, s.kp.trans ≠ .wake c k) →
      Machine.exec (.wakeGo path v) s = .next { s with kp := { s.kp with
        idleSince := now s, trans := .wake (if path = .sideband then 5 else 7) (now s)
        lastWake := if path = .sideband then 5 else 7 } }) ∧
    (v.getLsbD 0 = true → s.kp.power = .active →
      Machine.exec (.wakeGo path v) s = .next { s with kp := { s.kp with idleSince := now s } }) ∧
    (v.getLsbD 0 = false → Machine.exec (.wakeGo path v) s = .next s)

/-- 19:R535: a write of 0x5752 to RESET_CTL.KEY asks the keeper for a warm reset (18 Edges: a request that stands is kept),
any other value has no effect, and a write to RECOVERY_GO outside RECOVERY is discarded. In RECOVERY (03:R74) an image
that fails its checks leaves the node there with the fault code 0x02. -/
def Obligations.ResetAndRecoveryWrites : Prop :=
  ∀ (path : Path) (v : W32) (s : State), s.PathRuns path →
    (v.setWidth 16 = (0x5752 : W16) → s.tree.resetReq = none →
      Machine.exec (.resetCtl path v) s = .next { s with tree := { s.tree with resetReq := some (.resetCtl, now s) } }) ∧
    (v.setWidth 16 ≠ (0x5752 : W16) → Machine.exec (.resetCtl path v) s = .next s) ∧
    (s.boot.phase ≠ phRecovery → Machine.exec (.recoveryGo path v) s = .next s) ∧
    (s.boot.phase = phRecovery →
      authImage s (fun o k => slice o k (stgRead s 0 (natBits 0 24 v.toNat))) = none →
      Machine.exec (.recoveryGo path v) s =
        .next { s with boot := { s.boot with phase := phRecovery, fault := 0x02 } }) ∧
    (s.boot.phase = phRecovery → s.tree.resetReq = none →
      authImage s (fun o k => slice o k (stgRead s 0 (natBits 0 24 v.toNat))) ≠ none →
      ∃ t, Machine.exec (.recoveryGo path v) s = .next t ∧ t.tree.resetReq = some (.recovery, now s) ∧
        t = { s with flash := t.flash, tree := { s.tree with resetReq := t.tree.resetReq } })

/-- DOZE_ENTRY, NAP_ENTRY and DEEP_ENTRY (02:R33 to R35, R39): each move is made once its timer, which is not zero, has run out
and the floor allows it: DOZE from an idle ACTIVE in READY; NAP from DOZE, and DEEP from NAP, with the router's buffers
empty (DEEP also with every link quiet: it then writes the Tannery cache back and puts the modules in self-refresh). The host
link is in L1 in NAP when the host has enabled it. NAP asks each port that still carries flits for LPI (07:R192), and the
engine is in NAP once none does (log 20). A move whose timer is zero is never made.

DEEP_ENTRY_DONE (02:R34, R55; 07:R193): the engine is in DEEP; native ports in LPI are in SLEEP and bridge ports DARK;
lane memories are lost, the cache is empty, and the congestion rates are the defaults; a floor that has come up ends the entry
in NAP. WAKE_DONE (02:R37, R39; 15:R432): the engine is ACTIVE, the host link in L0, and the modules that are not down leave
self-refresh. Without a transition under way either changes nothing. -/
def Obligations.SleepAndWake : Prop :=
  (∀ s : State, s.Runs → s.kp.trans = .none → s.boot.phase = phReady → s.kp.power = .active → idle s = true →
     s.kp.acting.dozeAfter ≠ 0 → s.kp.idleSince + s.kp.acting.dozeAfter.toNat ≤ now s → 1 ≤ floorEff s →
     Machine.exec .dozeEntry s = .next { s with
       kp := { s.kp with power := .doze, trans := .none, stateSince := now s }, host := { s.host with inL1 := false } }) ∧
  (∀ s : State, s.Runs → s.kp.trans = .none → s.kp.power = .doze → s.kp.acting.napAfter ≠ 0 →
     s.kp.stateSince + s.kp.acting.napAfter.toNat ≤ now s → 2 ≤ floorEff s → routerEmpty s = true →
     ((∀ i, i < 12 → carries (getPort i s) = false) →
       Machine.exec .napEntry s = .next { s with
         kp := { s.kp with power := .nap, trans := .none, stateSince := now s }, host := { s.host with inL1 := s.host.l1 } }) ∧
     ((∃ i, i < 12 ∧ carries (getPort i s) = true) → s.ports.length = 12 → ∃ t, Machine.exec .napEntry s = .next t ∧
       t.kp = s.kp ∧ t.host = s.host ∧
       ∀ i, i < 12 → getPort i t = if carries (getPort i s) then { getPort i s with lpiWanted := true } else getPort i s)) ∧
  (∀ s : State, s.Runs → s.kp.trans = .none → s.kp.power = .nap → s.kp.acting.deepAfter ≠ 0 →
     s.kp.stateSince + s.kp.acting.deepAfter.toNat ≤ now s → 3 ≤ floorEff s → routerEmpty s = true →
     (∀ p ∈ s.ports, p.st ≠ .training ∧ carries p = false) →
     ∃ t, Machine.exec .deepEntry s = .next t ∧ t.kp = { s.kp with trans := .deepEntry } ∧ t.tm.cache = [] ∧
       t.tm.selfRefresh = s.tm.selfRefresh ||| portMask (builtPorts s.board) ∧
       t = { s with kp := t.kp, tm := { s.tm with mem := t.tm.mem, cache := [], selfRefresh := t.tm.selfRefresh } }) ∧
  (∀ s : State, s.Runs → s.kp.trans = .none →
     (s.kp.acting.dozeAfter = 0 → Machine.exec .dozeEntry s = .next s) ∧
     (s.kp.acting.napAfter = 0 → Machine.exec .napEntry s = .next s) ∧
     (s.kp.acting.deepAfter = 0 → Machine.exec .deepEntry s = .next s)) ∧
  (∀ s : State, s.Runs → s.kp.trans = .deepEntry → s.ports.length = 12 →
     (3 ≤ floorEff s → routerEmpty s = true → (∀ p ∈ s.ports, p.st ≠ .training ∧ carries p = false) →
       ∃ t, Machine.exec .deepEntryDone s = .next t ∧ t.kp = { s.kp with power := .deep, trans := .none, stateSince := now s } ∧
         t.slots = [] ∧ t.tm.cache = [] ∧ t.ni = { s.ni with rates := NI.reset.rates } ∧
         (∀ i, i < 12 → (getPort i t).st =
           if (getPort i s).st = .lpi then (if i < 6 then .sleep else .dark) else (getPort i s).st)) ∧
     (floorEff s < 3 → Machine.exec .deepEntryDone s = .next { s with
       kp := { s.kp with trans := .none }, tm := { s.tm with selfRefresh := s.tm.selfRefresh &&& s.tm.down } })) ∧
  (∀ s : State, s.Runs → s.kp.trans ≠ .deepEntry → Machine.exec .deepEntryDone s = .next s) ∧
  (∀ (c : BitVec 4) (k : Nat) (s : State), s.Runs → s.kp.trans = .wake c k →
     s.host.waits = [] → s.kp.buffer = [] → s.kp.fullAt = none → s.evs = [] → resumePorts s = [] →
     Machine.exec .wakeDone s = .next { s with
       kp := { s.kp with power := .active, trans := .none, stateSince := now s, idleSince := now s }
       host := { s.host with inL1 := false }
       tm := { s.tm with selfRefresh := s.tm.selfRefresh &&& s.tm.down } }) ∧
  (∀ s : State, s.Runs → (∀ c k, s.kp.trans ≠ .wake c k) → Machine.exec .wakeDone s = .next s)

/-! ## Resets and boot -/

/-- 03:R81 (Table 3-2, cold column), R76; 18:R496, R506: what a cold reset leaves. Fuses, flash, the board, the modules'
lasting repairs and what lies outside the node are kept; every other field has its reset value; the boot ROM starts, or
boot stops in FAULT FUSE when the fuses cannot be sensed. CRST_N keeps the address strap, and acts only while PWRGOOD is
high. The fall of PWRGOOD leaves the same in OFF.

The values that the spec gives for reset: TIMESTAMP zero, ACTIVE, the timers of 02 Table 2-3, floor 3 (02:R30, R54), no queue
pair, window, rank map or communicator, both exception banks empty and epoch bit 0 (03:R89), full rate for VC1 and half
rate for VC2 (03:R89, 08 Table 8-9), staging memory and Tannery memory zero with bank 16 the spare (03:R89, 16:R450),
tickets from 1 (15:R414), FIRST 0xF (19 Table 19-3), empty laggard counters. -/
def Obligations.ColdResetLeaves : Prop :=
  (∀ (saddr : BitVec 2) (fuseOk : Bool) (s : State),
     let kept (strap : BitVec 2) : State := { State.reset with
       fuses := s.fuses, board := s.board, flash := s.flash, bus := s.bus, out := s.out, free := s.free
       pending := s.pending, host := { HostPort.reset with inReset := !s.pins.perstN }
       pins := { State.reset.pins with wakeN := s.pins.wakeN, perstN := s.pins.perstN, saddr := strap }
       tm := { Tannery.reset with spared := s.tm.spared.filter fun x => x.forGood } }
     let boot : Boot := { Boot.reset with phase := if fuseOk then phRom else phFault, fault := if fuseOk then 0 else 0x01 }
     Machine.exec (.coldReset .pwrgoodRise saddr fuseOk) s = .next { kept saddr with boot := boot } ∧
     (s.pins.pwrgood = true →
       Machine.exec (.coldReset .crstLow saddr fuseOk) s = .next { kept s.pins.saddr with boot := boot }) ∧
     (s.pins.pwrgood = false → Machine.exec (.coldReset .crstLow saddr fuseOk) s = .next s) ∧
     Machine.exec .powerLoss s = .next { kept s.pins.saddr with
       kp := { Keeper.reset with power := .off }
       pins := { State.reset.pins with pwrgood := false, wakeN := s.pins.wakeN, perstN := s.pins.perstN, saddr := s.pins.saddr } }) ∧
  (let s := State.reset
   s.kp.timestamp = 0 ∧ s.kp.power = .active ∧ s.kp.acting = s.kp.policy ∧
   s.kp.policy = { dozeAfter := 50, napAfter := 12500, deepAfter := 1250000, heraldHold := 25000, floor := 3 } ∧ s.kp.armed = false ∧ s.kp.lastWake = 0 ∧
   s.qs.length = 64 ∧ (∀ g ∈ s.qs, g.enable = false ∧ g.sqEntries = 16 ∧ g.cqEntries = 16 ∧ g.phase = true) ∧
   s.wins = [] ∧ s.maps = List.replicate 16 none ∧ s.comms = [] ∧ s.rt.bank0 = [] ∧ s.rt.bank1 = [] ∧
   s.ni.epoch = false ∧ (Rate.reset false).num = 1 ∧ (Rate.reset false).sh = 0 ∧ (Rate.reset true).num = 1 ∧
   (Rate.reset true).sh = 1 ∧ (∀ i, i < 12 → s.ni.rates[i]? = some (Rate.reset (decide (6 ≤ i)))) ∧
   s.stg.mem = [] ∧ s.stg.spare = some 16 ∧ s.tm.mem = [] ∧ s.tm.poison = [] ∧ s.tm.next = 1 ∧
   s.err.status = 0 ∧ s.err.first = 0xF ∧ s.lag = LagStats.reset ∧ s.lag.bins = [0, 0, 0, 0, 0, 0, 0, 0] ∧
   s.ports.length = 12 ∧ (∀ p ∈ s.ports, p.st = .off ∧ p.width = 0) ∧ s.pending = [] ∧ s.out = [])

/-- 03:R71: the boot ROM takes the slot PREFERRED while its ATTEMPTS count is below 3, else the other slot while that count
is below 3, and otherwise enters RECOVERY; starting a slot changes only the boot record in flash and the boot status.

POWERUP_SELFTEST (03:R68, R69): a lane, pair or bank that fails its test, or that the retirement map names, is out.
With fewer than 160 lanes boot stops in FAULT with code 3, with no Tree pair with 4, with two staging banks out with 5;
otherwise logical lanes 0 to 159 are the passing lanes in ascending order and the rest are spares, the lower passing pair
is active, and slot selection follows. The results are the baselines of later tests (03:R89). -/
def Obligations.SelftestAndSlots : Prop :=
  (∀ s : State,
     let pref : Bool := (bootState s).1 = 1
     let tries (slot : Bool) : Nat := if slot then (bootState s).2.2 else (bootState s).2.1
     (tries pref < 3 → (selectSlot s).boot.phase = phImage ∧ (selectSlot s).boot.runSlot = pref) ∧
     (3 ≤ tries pref → tries (!pref) < 3 → (selectSlot s).boot.phase = phImage ∧ (selectSlot s).boot.runSlot = !pref) ∧
     (3 ≤ tries pref → 3 ≤ tries (!pref) → (selectSlot s).boot.phase = phRecovery ∧ (selectSlot s).flash = s.flash) ∧
     selectSlot s = { s with flash := (selectSlot s).flash, boot := { s.boot with
       failed := [false, false], phase := (selectSlot s).boot.phase, fault := 0, runSlot := (selectSlot s).boot.runSlot } }) ∧
  (∀ (lanesPass : BitVec 168) (treePass : BitVec 2) (stagingPass : BitVec 17) (s : State), s.Runs → s.boot.phase = phRom →
     let lanes := ~~~ lanesPass ||| (mapLoad s).boot.lanesRetired
     let trees := ~~~ treePass ||| (mapLoad s).boot.treeRetired
     let banks := ~~~ stagingPass ||| (mapLoad s).boot.stagingRetired
     let pass := (List.range 168).filter fun i => !lanes.getLsbD i
     ∃ t, Machine.exec (.powerupSelftest lanesPass treePass stagingPass) s = .next t ∧
       t.boot.lanesRetired = lanes ∧ t.boot.laneMap = (pass.take 160).map (BitVec.ofNat 8) ∧
       t.boot.spares = (pass.drop 160).map (BitVec.ofNat 8) ∧
       t.boot.baseLanes = lanesPass ∧ t.boot.baseTree = treePass ∧ t.boot.baseStaging = stagingPass ∧
       (pass.length < 160 → t.boot.phase = phFault ∧ t.boot.fault = 0x03) ∧
       (160 ≤ pass.length → trees = 3 → t.boot.phase = phFault ∧ t.boot.fault = 0x04) ∧
       (160 ≤ pass.length → trees ≠ 3 → 1 < popBits 17 banks.toNat → t.boot.phase = phFault ∧ t.boot.fault = 0x05) ∧
       (160 ≤ pass.length → trees ≠ 3 → popBits 17 banks.toNat ≤ 1 →
         t.boot.phase = (selectSlot s).boot.phase ∧ t.boot.runSlot = (selectSlot s).boot.runSlot ∧ t.boot.fault = 0 ∧
         t.tree.active = (if trees.getLsbD 0 then 1 else 0) ∧ t.tree.standby = decide (trees = 0) ∧
         t.stg = bootStaging banks s.stg) ∧
       t = { s with boot := t.boot, tree := t.tree, stg := t.stg, flash := t.flash })

/-- AUTHENTICATION (03:R72, R73, R67): an image that passes puts boot in phase TRAIN, starts the boot watchdog and raises the
resets of the board's modules and bridges; a slot that fails hands over to the other, and when both have failed the node
is in RECOVERY.

OCTOZ_READY (03:R89; 01:R23; 19:R510): PHASE is READY, the running modules and rails are those that trained, FW_VERSION is
the image's, the boot watchdog has stopped, the engine is in ACTIVE and the DOZE_AFTER count starts. BOOT_WATCHDOG (03:R67):
1 s after the start of an image without READY the keeper is asked for a warm reset, and before that nothing happens. -/
def Obligations.ImageAndReady : Prop :=
  (∀ s : State, s.Runs → s.boot.phase = phImage →
     let auth := authImage s (fun o n => flashRead s (slotBase s.boot.runSlot + o) n)
     (∀ v svn key, auth = some (v, svn, key) → ∃ t, Machine.exec .authentication s = .next t ∧
       t.boot.phase = phTrain ∧ t.boot.fault = 0 ∧ t.boot.imageVersion = v ∧ t.boot.imageSvn = svn ∧ t.boot.imageKey = key ∧
       t.boot.runSlot = s.boot.runSlot ∧ t.kp = { s.kp with bootWd := some (now s) } ∧
       t.pins.tmRstN = portMask (builtPorts s.board) ∧ t.pins.gbRstN = (if builtDual s then 7 else 0)) ∧
     (auth = none → setAt (b2n s.boot.runSlot) true s.boot.failed = [true, true] →
       ∃ t, Machine.exec .authentication s = .next t ∧
         t = { s with boot := { s.boot with failed := [true, true], phase := phRecovery, fault := 0 } }) ∧
     (auth = none → setAt (b2n s.boot.runSlot) true s.boot.failed ≠ [true, true] →
       ∃ t, Machine.exec .authentication s = .next t ∧ t.boot.phase = phImage ∧ t.boot.runSlot = !s.boot.runSlot ∧
         t = { s with boot := t.boot, flash := t.flash })) ∧
  ((∀ (tm : BitVec 8) (gb : BitVec 3) (s : State), s.Runs → s.boot.phase = phTrain →
     ∃ t, Machine.exec (.octozReady tm gb) s = .next t ∧ t.boot.phase = phReady ∧ t.boot.fault = 0 ∧
       t.boot.runTpMask = portMask (runningPorts1 s.board tm) ∧
       t.boot.runRails = (if builtDual s && gb = 7 then 2 else 1) ∧ t.boot.fwVersion = s.boot.imageVersion ∧
       t.kp = { s.kp with bootWd := none, power := .active, stateSince := now s, idleSince := now s } ∧
       t.tree.wdAt = now s) ∧
   (∀ (k : Nat) (s : State), s.Runs → s.kp.bootWd = some k → s.boot.phase ≠ phReady → s.tree.resetReq = none →
     k + 25000000 ≤ now s →
     Machine.exec .bootWatchdog s = .next { s with
       kp := { s.kp with bootWd := none }, tree := { s.tree with resetReq := some (.bootWatchdog, now s) } }) ∧
   (∀ (k : Nat) (s : State), s.Runs → s.kp.bootWd = some k → now s < k + 25000000 →
     Machine.exec .bootWatchdog s = .next s))

/-- WARM_RESET that the keeper has been asked for (03:R62, R81, Table 3-2): queue pairs, windows, rank maps, communicators,
collectives, commands, threads and programs are gone; configuration, errors, counters and staging memory have their reset
values; the keeper keeps TIMESTAMP, and LAST_WAKE where no collective was under way; fuses, the board and the waiting commands
are kept; and the boot ROM selects a slot, or boot stops in FAULT STAGING with more than one staging bank retired (03:R69,
16:R450).

HOST_LINK_RESET (03:R63, R81) of a node without bound collectives, started commands or waiting host-port requests: queue
pairs, the event ring, windows and saved contexts are gone, the host port has its reset values but for a sideband read that
waits (02:R51), BAR2 its default size; PERST also holds the port in reset. All else is kept. With collectives or commands under
way, the windows and saved contexts are gone as well. -/
def Obligations.WarmAndLinkResets : Prop :=
  (∀ (src : WarmSource) (k : Nat) (s : State), s.Runs → s.tree.resetReq = some (src, k) →
     ∃ t, Machine.exec (.warmReset src) s = .next t ∧
       t.qs = List.replicate 64 QPage.reset ∧ t.evq = QPage.reset ∧ t.evs = [] ∧ t.wins = [] ∧
       t.maps = List.replicate 16 none ∧ t.comms = [] ∧ t.cmds = [] ∧ t.ctxs = [] ∧ t.saved = [] ∧ t.threads = [] ∧
       t.slots = [] ∧ t.progs = [] ∧ t.ni = NI.reset ∧ t.cfg = NodeCfg.reset ∧ t.lag = LagStats.reset ∧
       t.err = State.reset.err ∧ t.stg.mem = [] ∧ t.stg.poison = [] ∧ t.tm.cache = [] ∧ t.tm.queue = [] ∧
       t.tree.resetReq = none ∧ t.kp.power = .active ∧ t.kp.policy = Policy.reset ∧ t.kp.acting = Policy.reset ∧
       t.kp.timestamp = s.kp.timestamp ∧ t.fuses = s.fuses ∧ t.board = s.board ∧ t.pending = s.pending ∧ t.boot.warm = true ∧
       (t.boot.phase = phImage ∨ t.boot.phase = phRecovery ∨ (t.boot.phase = phFault ∧ t.boot.fault = 0x05)) ∧
       (s.ctxs = [] → s.saved = [] → t.kp.lastWake = s.kp.lastWake ∧
         (t.boot.phase = phFault ↔ 1 < popBits 17 s.boot.stagingRetired.toNat))) ∧
  ((∀ (src : HostLinkSource) (s : State), s.Runs → s.ctxs = [] → s.saved = [] → s.cmds = [] → s.ni.serving = [] →
     s.host.bar2Log = 30 →
     Machine.exec (.hostLinkReset src) s = .next { s with
       pins := { s.pins with perstN := if src = .perst then false else s.pins.perstN }
       host := { HostPort.reset with bar2Log := 30, nextTag := s.host.nextTag, waits := s.host.waits.filter isSbRead
                                     inReset := s.host.inReset || decide (src = .perst) }
       wins := [], rein := { s.rein with slots := [] }
       qs := List.replicate 64 QPage.reset, evq := QPage.reset }) ∧
   (∀ (src : HostLinkSource) (s : State), s.Runs → ∃ t, Machine.exec (.hostLinkReset src) s = .next t ∧
     t.wins = [] ∧ t.saved = [] ∧ t.host.busMaster = false ∧ t.host.bar2Log = 30 ∧ t.rein.slots = []))

/-! ## Registers, the host port and the sideband -/

/-- LOW_HALF_READ (02:R31, R36, R38, R51; 03:R61; 19:R530, R546), of any of the five registers: it returns the low half and latches
the high half for its own path; the next high-half read over that path returns the latched value and leaves the other path's
latch. TIMESTAMP and ALARM lie in the keeper block and answer in every power state. Each other one, in NAP or DEEP, starts a
wake, with cause 0x7 from BAR0 and 0x5 from the sideband, and waits for it. Before READY and outside RECOVERY, BAR0 answers
zero, and so do the sideband's mirrors outside the keeper block.

BAR0_READ (04:R92; 03:R61; 02:R36, R38; 19:R530): in ACTIVE an aligned read of 4 bytes returns the register's word, and one of 8 bytes
a 64-bit register whole; any other size or alignment returns zero; before READY and outside RECOVERY only BOOT_STATUS
answers. A read changes only the latches and the idle count. In NAP or DEEP a read outside the keeper block starts a wake
and waits for it. -/
def Obligations.RegisterReads : Prop :=
  ((∀ (r : Reg64) (s : State), s.Runs → barOpen s = true →
     (r = .timestamp ∨ r = .alarm → Machine.exec (.lowHalfRead .bar0 r) s = .next { s with
       kp := { s.kp with latch0 := some (r, (reg64 r s).extractLsb' 32 32) }
       out := .readData (bvBytes 4 ((reg64 r s).setWidth 32 : W32)) false :: s.out }) ∧
     (r = .dieId ∨ r = .tmDone ∨ r = .tmNext → s.kp.power = .active → Machine.exec (.lowHalfRead .bar0 r) s = .next { s with
       kp := { s.kp with idleSince := now s, latch0 := some (r, (reg64 r s).extractLsb' 32 32) }
       out := .readData (bvBytes 4 ((reg64 r s).setWidth 32 : W32)) false :: s.out })) ∧
   (∀ (r : Reg64) (s : State), s.Awake → barOpen s = false → ∃ t, Machine.exec (.lowHalfRead .bar0 r) s = .next t ∧
     t.out = .readData [0, 0, 0, 0] false :: s.out ∧ t.kp.latch0 = s.kp.latch0) ∧
   (∀ (r : Reg64) (s : State), s.KeeperRuns → r = .timestamp ∨ r = .alarm ∨ (barOpen s = true ∧ asleep s = false) →
     Machine.exec (.lowHalfRead .sideband r) s = .next { s with
       kp := { s.kp with latchSb := some (r, (reg64 r s).extractLsb' 32 32), sbBusy := false }
       out := .sideband [(reg64 r s).setWidth 32] :: s.out }) ∧
   (∀ (r : Reg64) (s : State), s.KeeperRuns → r = .dieId ∨ r = .tmDone ∨ r = .tmNext → barOpen s = false → asleep s = false →
     Machine.exec (.lowHalfRead .sideband r) s = .next { s with
       kp := { s.kp with sbBusy := false }, out := .sideband [0] :: s.out }) ∧
   (∀ (r : Reg64) (s : State), r = .dieId ∨ r = .tmDone ∨ r = .tmNext → asleep s = true → (∀ c k, s.kp.trans ≠ .wake c k) →
     (s.Runs → Machine.exec (.lowHalfRead .bar0 r) s = .next { s with
       kp := { s.kp with idleSince := now s, trans := .wake 7 (now s), lastWake := 7 }
       host := { s.host with waits := s.host.waits ++ [.read (BitVec.ofNat 32 (reg64Offset r)) 4] } }) ∧
     (s.KeeperRuns → Machine.exec (.lowHalfRead .sideband r) s = .next { s with
       kp := { s.kp with sbBusy := true, idleSince := now s, trans := .wake 5 (now s), lastWake := 5 }
       host := { s.host with waits := s.host.waits ++ [.sbRead (reg64Sideband r) 1] } })) ∧
   (∀ (r : Reg64) (h : W32) (s : State), s.Awake → barOpen s = true → s.kp.latch0 = some (r, h) →
     ∃ t, Machine.exec (.bar0Read (BitVec.ofNat 32 (reg64Offset r + 4)) 4) s = .next t ∧
       t.out = .readData (bvBytes 4 h) false :: s.out ∧ t.kp.latch0 = none ∧ t.kp.latchSb = s.kp.latchSb) ∧
   (∀ (h : W32) (s : State), s.KeeperRuns → s.kp.latchSb = some (.timestamp, h) →
     ∃ t, Machine.exec (.sidebandRead 0x0004 1) s = .next t ∧
       t.out = .sideband [h] :: s.out ∧ t.kp.latchSb = none ∧ t.kp.latch0 = s.kp.latch0)) ∧
  ((∀ (off : W32) (s : State), s.Awake →
     let answers (size : Nat) (d : Bytes) : Prop := ∃ t, Machine.exec (.bar0Read off size) s = .next t ∧
       t.out = .readData d false :: s.out ∧ t = { s with kp := t.kp, out := t.out }
     (∀ size, (size ≠ 4 ∧ size ≠ 8) ∨ off.toNat % size ≠ 0 → answers size (List.replicate size 0)) ∧
     (off.toNat % 4 = 0 → barOpen s = true → reg64At off.toNat = none → reg64HighAt off.toNat = none →
       answers 4 (bvBytes 4 (bar0Word s off.toNat))) ∧
     (∀ r, off.toNat = reg64Offset r → barOpen s = true → answers 8 (bvBytes 8 (reg64 r s))) ∧
     (off.toNat % 4 = 0 → barOpen s = false →
       answers 4 (bvBytes 4 (if off.toNat = 0x1040 then regBoot s else 0)))) ∧
   (∀ (off : W32) (size : Nat) (s : State), s.Runs → asleep s = true → (∀ c k, s.kp.trans ≠ .wake c k) →
     keeperOff off.toNat = false →
     Machine.exec (.bar0Read off size) s = .next { s with
       kp := { s.kp with idleSince := now s, trans := .wake 7 (now s), lastWake := 7 }
       host := { s.host with waits := s.host.waits ++ [.read off size] } }))

/-- SIDEBAND_READ, SIDEBAND_WRITE and SIDEBAND_TIMEOUT (18:R509, R510; 19:R540, R546; 02:R51): words at reserved offsets read zero; a word of a block
that needs the engine wakes it from NAP or DEEP with cause 0x5 and waits; a write to any block but the keeper's is
discarded, and one to the keeper block acts as over BAR0; a timeout abandons the transaction.

PCIE_CONFIG_REQUEST (18:R502; 04:R90, R91, Table 4-1; 15:R409; 02:R39), in every boot phase: configuration space reads what was
written last; a resize of BAR2 gives every aperture its default; the maximum payload size, 128 to 512 bytes, and the maximum
read request size, 128 to 4,096 bytes, take a value in range and keep theirs otherwise; the endpoint advertises sixteen lanes,
10-bit tags, 128 MSI-X vectors, ASPM L1 with an exit latency of 4 us, and its three 64-bit BARs; once the host enables L1 the
link is in it in NAP and DEEP. While PERST_N holds the port in reset nothing answers. -/
def Obligations.SidebandAndConfig : Prop :=
  ((∀ (o : W16) (s : State), s.KeeperRuns → 0x9000 ≤ o.toNat → ∃ t, Machine.exec (.sidebandRead o 1) s = .next t ∧
     t.out = .sideband [0] :: s.out ∧ t = { s with kp := { s.kp with sbBusy := false }, out := t.out }) ∧
   (∀ (s : State), s.KeeperRuns → ∃ t, Machine.exec (.sidebandRead 0x0040 1) s = .next t ∧
     t.out = .sideband [regBoot s] :: s.out ∧ t = { s with kp := { s.kp with sbBusy := false }, out := t.out }) ∧
   (∀ (o : W16) (s : State), s.KeeperRuns → asleep s = true → (∀ c k, s.kp.trans ≠ .wake c k) → o.toNat % 4 = 0 →
     0x2000 ≤ o.toNat → o.toNat < 0x9000 →
     Machine.exec (.sidebandRead o 1) s = .next { s with
       kp := { s.kp with sbBusy := true, idleSince := now s, trans := .wake 5 (now s), lastWake := 5 }
       host := { s.host with waits := s.host.waits ++ [.sbRead o 1] } }) ∧
   (∀ (o : W16) (v : W32) (s : State), s.KeeperRuns → 0x1000 ≤ o.toNat → Machine.exec (.sidebandWrite o [v]) s = .next s) ∧
   (∀ (v : W32) (s : State), s.KeeperRuns →
     Machine.exec (.sidebandWrite 0x0010 [v]) s = Machine.exec (.powerTimerWrite .sideband .dozeAfter v) s ∧
     Machine.exec (.sidebandWrite 0x0024 [v]) s = Machine.exec (.wakeGo .sideband v) s ∧
     Machine.exec (.sidebandWrite 0x0030 [v]) s = Machine.exec (.alarmArm .sideband v) s ∧
     Machine.exec (.sidebandWrite 0x0044 [v]) s = Machine.exec (.resetCtl .sideband v) s) ∧
   (∀ s : State, s.KeeperRuns → ∃ t, Machine.exec .sidebandTimeout s = .next t ∧ t.kp = { s.kp with sbBusy := false } ∧
     (∀ w, w ∈ t.host.waits ↔ w ∈ s.host.waits ∧ ∀ o n, w ≠ .sbRead o n) ∧
     t = { s with kp := t.kp, host := { s.host with waits := t.host.waits } })) ∧
  (∀ (d : BitVec 10) (v : W32) (on : Bool) (s : State), s.Runs →
     (s.host.inReset = false →
       (∃ t, Machine.exec (.pcieConfigRequest (.write d v)) s = .next t ∧ cfgGet t d = v ∧
         (∀ x, x ≠ d → cfgGet t x = cfgGet s x) ∧ t = { s with host := { s.host with cfg := t.host.cfg } }) ∧
       Machine.exec (.pcieConfigRequest (.read d)) s = .next { s with out := .cfgData (cfgGet s d) :: s.out } ∧
       Machine.exec (.pcieConfigRequest (.setL1 on)) s =
         .next { s with host := { s.host with l1 := on, inL1 := on && asleep s } } ∧
       (∀ l : BitVec 4, Machine.exec (.pcieConfigRequest (.setMaxPayload l)) s =
         .next (if 7 ≤ l.toNat ∧ l.toNat ≤ 9 then { s with host := { s.host with payload := l } } else s)) ∧
       (∀ l : BitVec 4, Machine.exec (.pcieConfigRequest (.setMaxReadRequest l)) s =
         .next (if 7 ≤ l.toNat ∧ l.toNat ≤ 12 then { s with host := { s.host with readReq := l } } else s)) ∧
       (∃ c : PcieCaps, Machine.exec (.pcieConfigRequest .readCaps) s = .next { s with out := .cfgCaps c :: s.out } ∧
         c.lanes = 16 ∧ c.tagBits = 10 ∧ c.msixVectors = 128 ∧ c.aspmL1 = true ∧ c.l1ExitNs = 4000 ∧ c.maxPayload = 512 ∧
         c.maxReadReq = 4096 ∧ c.bars = [(26, true, false), (s.host.bar2Log.toNat, true, true), (27, true, true)]) ∧
       Machine.exec (.pcieConfigRequest (.setRelaxedOrdering on)) s = .next { s with host := { s.host with relaxed := on } } ∧
       (∃ t, Machine.exec (.pcieConfigRequest (.setBusMaster true)) s = .next t ∧ t.host.busMaster = true) ∧
       Machine.exec (.pcieConfigRequest (.setBusMaster false)) s = .next
         (flushEvents { s with host := { s.host with busMaster := false } }) ∧
       Machine.exec (.pcieConfigRequest (.setMsix false false)) s = .next
         { s with host := { s.host with msixOn := false, msixMask := false } } ∧
       (∀ l : BitVec 6, 30 ≤ l.toNat → l.toNat ≤ 39 → ∃ t, Machine.exec (.pcieConfigRequest (.resizeBar2 l)) s = .next t ∧
         t.host.bar2Log = l ∧ (∀ a, a < 8 → getAperture t a =
           { bank := false, base := BitVec.ofNat 64 (a * (2 ^ l.toNat / 8)), low := none }))) ∧
     (s.host.inReset = true → ∀ req, Machine.exec (.pcieConfigRequest req) s = .next s))

/-- REGISTER_WRITE (00:R17; 04:R92, R94, Table 4-4; 19 Table 19-3) in ACTIVE with BAR0 open: ERR_STATUS and QERR clear the bits written as 1, ERR_MASK
and DEFAULT_TIMEOUT take the value; SQ_BASE takes it while the queue is disabled and sets QERR.CONFIG_BUSY otherwise; a write of a wrong size or
alignment, or to a read-only register, changes no register. Nothing else changes but the idle count. In NAP or DEEP the write waits for the wake.

LAG_CTL_CLEAR (19:R537) and TANNERY_APERTURE_WRITE (19:R531, R539; 15:R409) in ACTIVE with BAR0 open: a write of 1 to CLEAR
zeroes every laggard counter; a low half of an aperture is held, and the high half or a 64-bit write gives it its view and
its base, a multiple of the aperture's size. -/
def Obligations.RegisterWrites : Prop :=
  ((∀ (v : W64) (q : Nat) (s : State), s.Awake → barOpen s = true → q < 64 → s.qs.length = 64 →
     let w : W32 := v.setWidth 32
     let page (r : Nat) : W32 := BitVec.ofNat 32 (pageOff q r)
     let put (f : QPage → QPage) : State := { s.touched with qs := modAt f q s.qs }
     Machine.exec (.registerWrite 0x2000 4 v) s =
       .next { s.touched with err := { s.err with status := s.err.status &&& ~~~ (w.setWidth 11) } } ∧
     Machine.exec (.registerWrite 0x2004 4 v) s = .next { s.touched with err := { s.err with mask := w.setWidth 11 } } ∧
     Machine.exec (.registerWrite (page 0x30) 4 v) s = .next (put fun g => { g with defTimeout := w }) ∧
     Machine.exec (.registerWrite (page 0x2C) 4 v) s = .next (put fun g => { g with qerr := g.qerr &&& ~~~ (w.setWidth 4) }) ∧
     Machine.exec (.registerWrite (page 0x0C) 4 v) s = .next s.touched ∧
     ((getPage q s).enable = false → Machine.exec (.registerWrite (page 0x10) 4 v) s =
       .next (put fun g => { g with sqBase := (g.sqBase.extractLsb' 32 32 : W32) ++ (w &&& 0xFFFFF000) })) ∧
     ((getPage q s).enable = true → ∃ t, Machine.exec (.registerWrite (page 0x10) 4 v) s = .next t ∧
       getPage q t = { getPage q s with qerr := (getPage q s).qerr ||| 8 } ∧ t.err.status = s.err.status ||| 0x40 ∧
       t = { put (fun g => { g with qerr := g.qerr ||| 8 }) with err := t.err })) ∧
   (∀ (off : W32) (size : Nat) (v : W64) (s : State), s.Awake → keeperOff off.toNat = false →
     (size ≠ 4 ∧ size ≠ 8) ∨ off.toNat % size ≠ 0 → Machine.exec (.registerWrite off size v) s = .next s.touched) ∧
   (∀ (off : W32) (size : Nat) (v : W64) (s : State), s.Runs → asleep s = true → (∀ c k, s.kp.trans ≠ .wake c k) →
     keeperOff off.toNat = false → (off.toNat < 0x100000 ∨ 0x141000 ≤ off.toNat) →
     Machine.exec (.registerWrite off size v) s = .next { s with
       kp := { s.kp with idleSince := now s, trans := .wake 7 (now s), lastWake := 7 }
       host := { s.host with waits := s.host.waits ++ [.write off size v] } })) ∧
  ((∀ (v : W32) (s : State), s.Awake → barOpen s = true → Machine.exec (.lagCtlClear v) s =
     .next (if v.getLsbD 0 then { s.touched with lag := LagStats.reset } else s.touched)) ∧
   (∀ (a : BitVec 3) (v : W64) (s : State), s.Awake → barOpen s = true → s.tm.apertures.length = 8 →
     let size := 2 ^ s.host.bar2Log.toNat / 8
     let full (w : W64) : Aperture := { bank := w.getLsbD 0, base := BitVec.ofNat 64 (w.toNat / size * size), low := none }
     let put (x : Aperture) : State := { s.touched with tm := { s.tm with apertures := setAt a.toNat x s.tm.apertures } }
     Machine.exec (.tanneryApertureWrite a .both v) s = .next (put (full v)) ∧
     Machine.exec (.tanneryApertureWrite a .low v) s =
       .next (put { getAperture s a.toNat with low := some (v.setWidth 32) }) ∧
     (∀ lo, (getAperture s a.toNat).low = some lo →
       Machine.exec (.tanneryApertureWrite a .high v) s = .next (put (full ((v.setWidth 32 : W32) ++ lo))))))

/-- BAR2_ACCESS (15:R408 to R410, R418; 03:R61): a read returns what its aperture's view holds, and zero beyond the view's end; a
byte written to a running module is what later reads return, and no other byte of the tier changes. Before READY a
write is discarded.

BAR4_ACCESS (06:R156; 03:R61, R74): a write with the BARs open changes exactly its bytes of the open staging area; a read returns
them (before READY too: the model's choice, log 86). Staging memory is in its canonical form. -/
def Obligations.MemoryWindows : Prop :=
  ((∀ (o : W64) (n : Nat) (s : State), s.Runs → s.boot.phase = phReady →
     ∃ t, Machine.exec (.bar2Access (.read o n)) s = .next t ∧ t = { s with out := t.out } ∧
       ∃ bs p, t.out = .readData bs p :: s.out ∧ bs.length = n ∧ ∀ i, i < n →
         bs[i]? = some (viewByte s (bar2View s (o.toNat + i)).1 (bar2View s (o.toNat + i)).2).1) ∧
   (∀ (a : Nat) (s : State), viewByte s true a = (0, false) ∨
     (a < 2 ^ 39 ∧ bvRow a < 98304 ∧ s.boot.runTpMask.getLsbD (bvModule a) = true ∧ (viewByte s true a).1 = tmByte s a)) ∧
   (∀ (o : W64) (x : Byte) (s : State), s.Runs → s.boot.phase = phReady → s.CacheRoom → s.tm.stale = [] →
     (bar2View s o.toNat).1 = true → (bar2View s o.toNat).2 < 2 ^ 39 → bvRow (bar2View s o.toNat).2 < 98304 →
     moduleUp s (bvModule (bar2View s o.toNat).2) = true →
     ∃ t, Machine.exec (.bar2Access (.write o [x])) s = .next t ∧ tmByte t (bar2View s o.toNat).2 = x ∧
       (∀ b, b ≠ (bar2View s o.toNat).2 → tmByte t b = tmByte s b) ∧ t = { s with tm := t.tm }) ∧
   (∀ (o : W64) (d : Bytes) (s : State), s.Runs → s.boot.phase ≠ phReady →
     Machine.exec (.bar2Access (.write o d)) s = .next s)) ∧
  ((∀ (o : W64) (n : Nat) (s : State), s.Runs → o.toNat + n ≤ Config.stagingOpen →
     Machine.exec (.bar4Access (.read o n)) s =
       .next { s with out := .readData (stgRead s o.toNat n) (stgReadPoison s o.toNat n) :: s.out }) ∧
   (∀ (o : W64) (x : Byte) (s : State), s.Runs → barOpen s = true → o.toNat < Config.stagingOpen →
     Memory.wf 0 s.stg.mem = true →
     ∃ t, Machine.exec (.bar4Access (.write o [x])) s = .next t ∧ memGet 0 t.stg.mem (stgKey s o.toNat) = x ∧
       (∀ a, a ≠ stgKey s o.toNat → memGet 0 t.stg.mem a = memGet 0 s.stg.mem a) ∧
       t = { s with stg := { s.stg with mem := t.stg.mem, poison := t.stg.poison } }) ∧
   (∀ (o : W64) (d : Bytes) (s : State), s.Runs → barOpen s = false →
     Machine.exec (.bar4Access (.write o d)) s = .next s))

/-! ## Queue pairs, doorbells, fetching and interrupts -/

/-- 04:R101: a doorbell write to a queue whose ENABLE is 0, or whose QSTATUS.STOPPED is 1, is discarded without any error
indication: it changes nothing but the idle count. The engine is in ACTIVE. -/
def Obligations.DoorbellDiscarded : Prop :=
  (∀ (q : BitVec 6) (v : W32) (s : State), s.Awake → (getPage q.toNat s).enable = false ∨ (getPage q.toNat s).stopped = true →
    Machine.exec (.sqTailWrite q v) s = .next s.touched) ∧
  (∀ (p : BitVec 7) (v : W32) (s : State), s.Awake → (getPage p.toNat s).enable = false ∨ (getPage p.toNat s).stopped = true →
    Machine.exec (.cqHeadWrite p v) s = .next s.touched)

/-- SQ_TAIL_WRITE (04:R99, R107): in ACTIVE with BAR0 open, on a queue that takes doorbells, a tail inside the ring that
does not pass the head moves SQ_TAIL and, while the backlog has room, marks no entry; another one is discarded, sets
QERR.DOORBELL_RANGE and ERR_STATUS.QUEUE, and leaves the page as it is otherwise. In NAP or DEEP a doorbell starts a wake with
cause 0x1 and waits for it (02:R36). -/
def Obligations.SubmissionDoorbell : Prop :=
  (∀ (q : BitVec 6) (v : W32) (s : State), s.Awake → barOpen s = true → s.qs.length = 64 →
    (getPage q.toNat s).enable = true → (getPage q.toNat s).stopped = false →
    let g := getPage q.toNat s
    let n := g.sqEntries.toNat
    let new : BitVec 12 := v.setWidth 12
    let moved : State := { s.touched with qs := modAt (fun g => { g with sqTail := new }) q.toNat s.qs }
    (new.toNat < n → visible g ≤ (new.toNat + n - g.sqHead.toNat) % n → backlog moved ≤ Config.backlogMax →
      Machine.exec (.sqTailWrite q v) s = .next moved) ∧
    (n ≤ new.toNat ∨ (new.toNat + n - g.sqHead.toNat) % n < visible g → s.evs = [] → s.evq.enable = false →
      ∃ t, Machine.exec (.sqTailWrite q v) s = .next t ∧ getPage q.toNat t = { g with qerr := g.qerr ||| 1 } ∧
        (∀ p, p < 64 → p ≠ q.toNat → getPage p t = getPage p s) ∧ t.err.status = s.err.status ||| 0x40)) ∧
  (∀ (q : BitVec 6) (v : W32) (s : State), s.Runs → asleep s = true → (∀ c k, s.kp.trans ≠ .wake c k) →
    Machine.exec (.sqTailWrite q v) s = .next { s with
      kp := { s.kp with idleSince := now s, trans := .wake 1 (now s), lastWake := 1 }
      host := { s.host with waits := s.host.waits ++ [.bell (q.setWidth 7) false v] } })

/-- 04:R102, of a queue page or the event ring's page (there: without events that wait for room) in ACTIVE with BAR0 open: a write to CQ_HEAD is accepted only when the new value is less than N and
(new − old) mod N ≤ (tail − old) mod N; otherwise it is discarded and QERR.DOORBELL_RANGE is set. The other pages stay. -/
def Obligations.CompletionDoorbell : Prop :=
  ∀ (p : BitVec 7) (v : W32) (s : State), s.Awake → barOpen s = true → s.qs.length = 64 →
    p.toNat < 64 ∨ (p.toNat = 64 ∧ s.evs = []) → (getPage p.toNat s).enable = true → (getPage p.toNat s).stopped = false →
    let g := getPage p.toNat s
    let n := g.cqEntries.toNat
    let new : BitVec 12 := v.setWidth 12
    ∃ t, Machine.exec (.cqHeadWrite p v) s = .next t ∧
      (new.toNat < n ∧ (new.toNat + n - g.cqHead.toNat) % n ≤ (g.cqTail.toNat + n - g.cqHead.toNat) % n →
        getPage p.toNat t = { g with cqHead := new }) ∧
      (¬(new.toNat < n ∧ (new.toNat + n - g.cqHead.toNat) % n ≤ (g.cqTail.toNat + n - g.cqHead.toNat) % n) →
        getPage p.toNat t = { g with qerr := g.qerr ||| 1 }) ∧
      (∀ r, r < 64 → r ≠ p.toNat → getPage r t = getPage r s)

/-- QUEUE_ENABLE and QUEUE_DISABLE (04:R95, R96, Table 4-4) in ACTIVE with BAR0 open: ENABLE from 0 to 1 sets the ring indices to 0
and the expected phase to 1; ENABLE to 0 stops fetching and clears STOPPED, and the entries that the Tree has fetched stay. The
write also gives IRQ_EN, VECTOR and, on a queue page, a FETCH_BURST in range.

IMOD_TIMER (04:R114): when IMOD.TIME has passed since the first entry that no message has signalled, the page's MSI-X
message leaves and its count starts anew; before that nothing happens. -/
def Obligations.QueueControl : Prop :=
  (∀ (p : BitVec 7) (v : W32) (s : State), s.Awake → barOpen s = true → s.qs.length = 64 →
     p.toNat < 64 ∨ (p.toNat = 64 ∧ s.evs = []) →
     let g := getPage p.toNat s
     let burst : BitVec 4 := v.extractLsb' 4 4
     let g1 := { g with irqEn := v.getLsbD 1, vector := v.extractLsb' 8 7
                        burst := if p.toNat < 64 ∧ 1 ≤ burst.toNat ∧ burst.toNat ≤ 8 then burst else g.burst }
     (v.getLsbD 0 = true → g.enable = false → ∃ t, Machine.exec (.queueEnable p v) s = .next t ∧
       getPage p.toNat t = { g1 with enable := true, sqTail := 0, sqHead := 0, cqHead := 0, cqTail := 0, phase := true
                                     unsig := 0, unsigAt := none, marks := [], reading := 0 } ∧
       (∀ r, r < 64 → r ≠ p.toNat → getPage r t = getPage r s)) ∧
     (v.getLsbD 0 = false → g.enable = true → ∃ t, Machine.exec (.queueDisable p v) s = .next t ∧
       getPage p.toNat t = { g1 with enable := false, stopped := false, marks := [], reading := 0 } ∧
       (∀ r, r < 64 → r ≠ p.toNat → getPage r t = getPage r s))) ∧
  (∀ (p : BitVec 7) (k : Nat) (s : State), s.Runs → p.toNat ≤ 64 → s.qs.length = 64 → (getPage p.toNat s).unsigAt = some k →
     (getPage p.toNat s).irqEn = true →
     let g := getPage p.toNat s
     let e := s.host.msix.getD g.vector.toNat { addr := 0, data := 0, masked := true }
     (k + g.imodTime.toNat ≤ now s → s.host.msixOn = true → s.host.busMaster = true → s.host.msixMask = false →
       e.masked = false → ∃ t, Machine.exec (.imodTimer p) s = .next t ∧ t.out = .msix g.vector e.addr e.data :: s.out ∧
         getPage p.toNat t = { g with unsig := 0, unsigAt := none }) ∧
     (now s < k + g.imodTime.toNat → Machine.exec (.imodTimer p) s = .next s))

/-- FETCH (04:R103): the Tree's visit to the next queue in order issues one read of as many entries as FETCH_BURST, the visible entries
and the completion credit allow (a ring's end not reached), under a tag that no outstanding read holds, and moves on to the next queue.

PCIE_READ_COMPLETION (04:R122, Edges): the data of a read of data lies where it was read from, and nowhere else; the entry that a
one-entry fetch has read joins its queue and SQ_HEAD moves past it; a fetch that fails stops its queue with
QERR.SQ_FETCH and takes no entry; a completion that no read waits for is dropped. The bus image is in its canonical form, and
no request or command waits for reads. -/
def Obligations.FetchAndReads : Prop :=
  (∀ (q : BitVec 6) (s : State), s.OctozServes → s.host.busMaster = true → nextVisit s = some q.toNat → s.qs.length = 64 →
     let g := getPage q.toNat s
     let count := min (min g.burst.toNat (visible g)) (g.cqEntries.toNat - 1 - (pendingOf g + cqUsed g))
     let tag := freeTagGo s.host.reads Config.readMax s.host.nextTag
     (count = 0 → Machine.exec (.fetch q) s = .next { s with tree := { s.tree with rr := q + 1 } }) ∧
     (0 < count → g.sqHead.toNat + count ≤ g.sqEntries.toNat → Machine.exec (.fetch q) s = .next { s with
       tree := { s.tree with rr := q + 1 }
       qs := modAt (fun g => { g with reading := count }) q.toNat s.qs
       host := { s.host with
         reads := s.host.reads ++ [{ tag := tag, kind := .sqFetch q g.sqHead count
                                     addr := g.sqBase.toNat + 128 * g.sqHead.toNat, len := 128 * count, stale := false }]
         nextTag := tag + 1 } })) ∧
  ((∀ (tag : BitVec 10) (res : ReadResult) (data : Bytes) (s : State), s.Runs → s.NothingWaits → (∀ r ∈ s.host.reads, r.tag ≠ tag) →
     Machine.exec (.pcieReadCompletion tag res data) s = .next s) ∧
   (∀ (r : PcieRead) (data : Bytes) (s : State), s.Runs → s.NothingWaits → s.host.reads.find? (fun x => x.tag = r.tag) = some r →
     r.kind = .data → r.stale = false → data.length = r.len → Memory.wf 0 s.bus = true →
     ∃ t, Machine.exec (.pcieReadCompletion r.tag .ok data) s = .next t ∧
       busRead t r.addr r.len = data ∧ (∀ a, a < r.addr ∨ r.addr + r.len ≤ a → memGet 0 t.bus a = memGet 0 s.bus a) ∧
       (r.addr, r.len) ∈ t.host.got ∧ (∀ x ∈ t.host.reads, x.tag ≠ r.tag)) ∧
   (∀ (tag : BitVec 10) (q : BitVec 6) (data : Bytes) (s : State), s.Runs → s.NothingWaits → s.qs.length = 64 → Memory.wf 0 s.bus = true →
     let g := getPage q.toNat s
     s.host.reads = [{ tag := tag, kind := .sqFetch q g.sqHead 1, addr := g.sqBase.toNat + 128 * g.sqHead.toNat, len := 128, stale := false }] →
     g.reading = 1 → g.fetched = [] → g.sqHead.toNat < g.sqEntries.toNat → data.length = 128 →
     (opcodeKnown (entOpcode (BitVec.ofNat 1024 (leNat data))) = true → g.marks = [] →
       ∃ t, Machine.exec (.pcieReadCompletion tag .ok data) s = .next t ∧
         (getPage q.toNat t).fetched = [{ entry := BitVec.ofNat 1024 (leNat data), marked := false }] ∧
         (getPage q.toNat t).sqHead = BitVec.ofNat 12 ((g.sqHead.toNat + 1) % g.sqEntries.toNat) ∧
         (getPage q.toNat t).reading = 0 ∧ t.host.reads = []) ∧
     (s.evq.enable = false → s.evs = [] →
       ∃ t, Machine.exec (.pcieReadCompletion tag .error data) s = .next t ∧
         (getPage q.toNat t).stopped = true ∧ (getPage q.toNat t).qerr = g.qerr ||| 2 ∧
         (getPage q.toNat t).fetched = [] ∧ (getPage q.toNat t).sqHead = g.sqHead ∧ t.host.reads = [])))

/-! ## Commands of the queues: how they start and end -/

/-- A completion (04:R109 to R111, R113, Table 4-6): one 32-byte entry at the completion tail, whose PHASE is the pass's; the tail moves on, and the phase
inverts at the wrap; no other byte of host memory and no other page changes. An OK or a refusal without a result carries RESULT zero, LAGGARD_RANK 0x3FFFF and
FLAGS zero. -/
def Obligations.CompletionEntry : Prop :=
  ∀ (q : BitVec 6) (e : Entry) (status : Byte) (s : State), s.host.busMaster = true → s.qs.length = 64 →
    Memory.wf 0 s.bus = true →
    let g := getPage q.toNat s
    let t := endEntry q e status s
    let at_ := g.cqBase.toNat + 32 * g.cqTail.toNat
    busRead t at_ 32 = bvBytes 4 (entTag e) ++ [status, 0, q.setWidth 8, 0] ++ leBytes 8 0 ++ leBytes 4 0x3FFFF ++ leBytes 4 0 ++
      leBytes 4 s.kp.timestamp.toNat ++ leBytes 2 g.sqHead.toNat ++ [0, if g.phase then 1 else 0] ∧
    (∀ a, a < at_ ∨ at_ + 32 ≤ a → memGet 0 t.bus a = memGet 0 s.bus a) ∧
    (g.cqTail.toNat + 1 ≠ g.cqEntries.toNat →
      (getPage q.toNat t).cqTail = g.cqTail + 1 ∧ (getPage q.toNat t).phase = g.phase) ∧
    (g.cqTail.toNat + 1 = g.cqEntries.toNat → (getPage q.toNat t).cqTail = 0 ∧ (getPage q.toNat t).phase = !g.phase) ∧
    (getPage q.toNat t).started = g.started - 1 ∧ (getPage q.toNat t).fetched = g.fetched ∧
    (∀ r, r ≤ 64 → r ≠ q.toNat → getPage r t = getPage r s)

/-- 00:R7, 04:R104 to R106: an entry at the head of its queue whose reserved bits are not zero completes with BAD_DESC, whichever command it
spells, and has no other effect (04:R112).

04:R105: an entry with FENCE set does not start while an earlier command of its queue has not posted its completion. -/
def Obligations.EntryGuards : Prop :=
  (∀ (q : BitVec 6) (e : Entry) (s : State), s.AtHead q e →
     let op (n : Nat) : Bool := entOpcode e = n
     let act (n : Nat) : Bool := bodyField e 0 1 = n
     ∀ row ∈ ([
       (.ident q e, op 0x01, [(0, 64)]), (.configSet q e, op 0x02, [(0, 16), (2, 1), (8, 64)]),
       (.powerPolicy q e, op 0x03, [(0, 5), (4, 32), (8, 32), (12, 32), (16, 32), (20, 8)]),
       (.prewarm q e, op 0x04, [(0, 32), (4, 32)]), (.windowMap q e, op 0x05, [(0, 64), (8, 64), (16, 64), (24, 4)]),
       (.windowUnmap q e, op 0x06, [(0, 32)]), (.rankmapLoad q e, op 0x07, [(0, 8), (4, 32), (8, 64)]),
       (.commCreate q e, op 0x09, commFields), (.commDestroy q e, op 0x0A, [(0, 32)]),
       (.drainRelease q e, op 0x0B && bodyField e 4 1 = 1, [(0, 32), (4, 8)]),
       (.drain q e, op 0x0B && bodyField e 4 1 ≠ 1, [(0, 32), (4, 8)]),
       (.routeUpdate q e, op 0x0C, [(0, 32), (4, 16), (6, 1), (8, 64)]), (.selftest q e, op 0x0D, [(0, 8), (4, 32)]),
       (.logRead q e, op 0x0E, [(0, 64), (8, 32), (12, 32)]),
       (.fwUpdateWrite q e, op 0x0F && !act 1 && !act 2, fwFields), (.fwUpdateActivate q e, op 0x0F && act 1, fwFields),
       (.fwUpdateCommit q e, op 0x0F && act 2, fwFields), (.progLoad q e, op 0x10, [(0, 16), (2, 12), (4, 32), (8, 64)]),
       (.collSubmit q e, op 0x20, collFields), (.put q e, op 0x21, xferFields), (.get q e, op 0x22, xferFields),
       (.atomic q e, op 0x23, atomicFields), (.tmOp q e, op 0x30 && !act 0x20 && !act 0x21, tmOpFields),
       (.accumArm q e, op 0x30 && act 0x20, tmOpFields), (.accumDisarm q e, op 0x30 && act 0x21, tmOpFields),
       (.tmFence q e, op 0x31, [(0, 64)]), (.statePark q e, op 0x32, stateFields), (.stateUnpark q e, op 0x33, stateFields),
       (.stateFork q e, op 0x34, stateFields), (.stateDrop q e, op 0x35, stateFields),
       (.routeDispatch q e, op 0x40, routeFields), (.combineAllreduce q e, op 0x41, combineFields)] :
         List (Instr × Bool × List (Nat × Nat))),
       row.2.1 = true → noReserved row.2.2 e = false → Machine.exec row.1 s = .next (endEntry q e stBadDesc (popHead q s))) ∧
  (∀ (q : BitVec 6) (e : Entry) (s : State), s.OctozServes → (getPage q.toNat s).fetched = [{ entry := e, marked := false }] →
     opcodeKnown (entOpcode e) = true → entFence e = true → 0 < (getPage q.toNat s).started →
     ∀ c ∈ ([.ident q e, .configSet q e, .powerPolicy q e, .prewarm q e, .windowMap q e, .windowUnmap q e, .rankmapLoad q e,
       .rankmapPatch q e, .commCreate q e, .commDestroy q e, .drain q e, .drainRelease q e, .routeUpdate q e, .selftest q e,
       .logRead q e, .fwUpdateWrite q e, .fwUpdateActivate q e, .fwUpdateCommit q e, .progLoad q e, .collSubmit q e, .put q e,
       .get q e, .atomic q e, .tmOp q e, .accumArm q e, .accumDisarm q e, .tmFence q e, .statePark q e, .stateUnpark q e,
       .stateFork q e, .stateDrop q e, .routeDispatch q e, .combineAllreduce q e] : List Instr), Machine.exec c s = .next s)

/-! ## Management commands -/

/-- IDENT, CONFIG_SET and POWER_POLICY (05:R133 to R135) of an entry at the head of its queue: IDENT writes its record at DEST and returns FW_VERSION; CONFIG_SET sets its
item, stores it when asked to, ends with INTERNAL and sets nothing when the store's write fails, and refuses a value out of range and a change of coordinate or torus while a rank map is loaded; POWER_POLICY sets the fields that VALID names, which act from the next tick on, when all are in range,
and refuses the entry otherwise. Whether a write to the store fails is a free choice (log 94). -/
def Obligations.IdentConfigPolicy : Prop :=
  ∀ (q : BitVec 6) (e : Entry) (s : State), s.AtHead q e →
    let u := popHead q s
    (entOpcode e = 0x01 → noReserved [(0, 64)] e = true → bodyField e 0 8 % 64 = 0 →
      Machine.exec (.ident q e) s =
        .next (endResult q e (s.boot.fwVersion.setWidth 64) (busWrite (bodyField e 0 8) (identRecord s) u))) ∧
    (entOpcode e = 0x01 → noReserved [(0, 64)] e = true → bodyField e 0 8 % 64 ≠ 0 →
      Machine.exec (.ident q e) s = .next (endEntry q e stBadDesc u)) ∧
    (entOpcode e = 0x02 → noReserved [(0, 16), (2, 1), (8, 64)] e = true → bodyField e 0 2 = 4 → bodyField e 2 1 = 0 →
      Machine.exec (.configSet q e) s = .next (
        if 250 ≤ bodyField e 8 8 ∧ bodyField e 8 8 ≤ 2500000
        then endEntry q e stOK { u with cfg := { s.cfg with chunkTimeout := BitVec.ofNat 32 (bodyField e 8 8) } }
        else endEntry q e stBadDesc u)) ∧
    (entOpcode e = 0x02 → noReserved [(0, 16), (2, 1), (8, 64)] e = true → bodyField e 0 2 ≠ 1 → bodyField e 0 2 ≠ 2 →
      Machine.exec (.configSet q e) s = .next (
        if configOk (bodyField e 0 2) (bodyField e 8 8) = false then endEntry q e stBadDesc u
        else if natBit 0 (bodyField e 2 1) = false
        then endEntry q e stOK (setConfig (bodyField e 0 2) (bodyField e 8 8) u)
        else if Config.freeBool s.free then endEntry q e stInternal { u with free := s.free + 1 }
        else endEntry q e stOK (setConfig (bodyField e 0 2) (bodyField e 8 8)
          (storeItem (bodyField e 0 2) (bodyField e 8 8) { u with free := s.free + 1 })))) ∧
    (entOpcode e = 0x02 → noReserved [(0, 16), (2, 1), (8, 64)] e = true → bodyField e 2 1 = 0 → bodyField e 8 8 < 0x20000 →
      (∀ m ∈ s.maps, m = none) → (∀ i, i < 12 → carries (getPort i s) = false) →
      let w : W32 := BitVec.ofNat 32 (bodyField e 8 8)
      (bodyField e 0 2 = 1 → Machine.exec (.configSet q e) s = .next (endEntry q e stOK { u with cfg := { s.cfg with coord := w } })) ∧
      (bodyField e 0 2 = 2 → ∃ t, Machine.exec (.configSet q e) s = .next t ∧ t.cfg = { s.cfg with dims := w })) ∧
    (entOpcode e = 0x02 → noReserved [(0, 16), (2, 1), (8, 64)] e = true → bodyField e 0 2 = 1 ∨ bodyField e 0 2 = 2 →
      (∃ m ∈ s.maps, m.isSome = true) → Machine.exec (.configSet q e) s = .next (endEntry q e stBadDesc u)) ∧
    (entOpcode e = 0x03 → noReserved [(0, 5), (4, 32), (8, 32), (12, 32), (16, 32), (20, 8)] e = true →
      let v := bodyField e 0 1
      let f (i o n : Nat) : Option Nat := if natBit i v then some (bodyField e o n) else none
      let inRange (i o lo hi : Nat) : Prop := ∀ x, f i o 4 = some x → x = 0 ∨ (lo ≤ x ∧ x ≤ hi)
      let w (i o : Nat) (old : W32) : W32 := match f i o 4 with | some x => BitVec.ofNat 32 x | none => old
      let ok : Prop := inRange 0 4 25 25000 ∧ inRange 1 8 250 25000000 ∧ inRange 2 12 25000 250000000 ∧
        inRange 3 16 0 25000000 ∧ ∀ x, f 4 20 1 = some x → x ≤ 3
      let p := s.kp.policy
      (ok → Machine.exec (.powerPolicy q e) s = .next (endEntry q e stOK { u with kp := { s.kp with policy :=
        { dozeAfter := w 0 4 p.dozeAfter, napAfter := w 1 8 p.napAfter, deepAfter := w 2 12 p.deepAfter
          heraldHold := w 3 16 p.heraldHold
          floor := match f 4 20 1 with | some x => BitVec.ofNat 2 x | none => p.floor } } })) ∧
      (¬ok → Machine.exec (.powerPolicy q e) s = .next (endEntry q e stBadDesc u)))

/-- WINDOW_MAP and WINDOW_UNMAP (05:R137, R138): a window with legal bounds that overlaps no other takes the lowest free WINDOW_ID, which is the result; bounds
that are not, or an overlap, are refused with BAD_DESC and a full table with LIMIT; a window that is unmapped leaves the lookup at once, and with no command
that still uses it the unmapping completes in the same step.

RANKMAP_LOAD and RANKMAP_PATCH (05:R139, R140): a load whose words have been read replaces its map in full, or is refused with BAD_DESC when a word lies outside the
torus or a communicator uses the map; a patch replaces exactly the entries that it names, and is refused when they exceed the loaded size. -/
def Obligations.WindowsAndRankmaps : Prop :=
  ((∀ (q : BitVec 6) (e : Entry) (s : State), s.AtHead q e → entOpcode e = 0x05 →
     noReserved [(0, 64), (8, 64), (16, 64), (24, 4)] e = true →
     let o := bodyField e 0 8
     let a := bodyField e 8 8
     let n := bodyField e 16 8
     let ok : Prop := o % 4096 = 0 ∧ a % 4096 = 0 ∧ n % 4096 = 0 ∧ 4096 ≤ n ∧ o + n ≤ 2 ^ 44 ∧
       ∀ w ∈ s.wins, w.closing = false → ¬(w.offset < o + n ∧ o < w.offset + w.len)
     (∀ w ∈ s.wins, 0 < w.len) →
     (∀ i, ok → freeWindow s = some i → Machine.exec (.windowMap q e) s =
       .next (endResult q e (i.setWidth 64) { popHead q s with wins := s.wins ++
         [{ id := i, offset := o, bus := a, len := n, perm := BitVec.ofNat 4 (bodyField e 24 1), closing := false }] })) ∧
     (ok → freeWindow s = none → Machine.exec (.windowMap q e) s = .next (endEntry q e stLimit (popHead q s))) ∧
     (¬ok → Machine.exec (.windowMap q e) s = .next (endEntry q e stBadDesc (popHead q s)))) ∧
   (∀ (q : BitVec 6) (e : Entry) (s : State), s.AtHead q e → entOpcode e = 0x06 → noReserved [(0, 32)] e = true →
     ((∀ w ∈ s.wins, w.closing = false → w.id.toNat ≠ bodyField e 0 4) →
       Machine.exec (.windowUnmap q e) s = .next (endEntry q e stBadDesc (popHead q s))) ∧
     (∀ w, s.wins.find? (fun w => !w.closing && w.id.toNat = bodyField e 0 4) = some w →
       ∃ t, Machine.exec (.windowUnmap q e) s = .next t ∧ ∀ o, w.offset ≤ o → o < w.offset + w.len →
         (∀ v, windowOf t o = some v → v ∈ s.wins ∧ v ≠ w)) ∧
     (∀ w, s.wins.find? (fun w => !w.closing && w.id.toNat = bodyField e 0 4) = some w → s.cmds = [] → s.ni.serving = [] → s.ctxs = [] →
       s.saved = [] →
       ∃ t, Machine.exec (.windowUnmap q e) s = .next t ∧ t.cmds = [] ∧ w ∉ t.wins))) ∧
  ((∀ (q : BitVec 6) (e : Entry) (s : State), s.AtHead q e → entOpcode e = 0x07 → noReserved [(0, 8), (4, 32), (8, 64)] e = true →
     let m := bodyField e 0 1
     let n := bodyField e 4 4
     let ps := pieces s (bodyField e 8 8) (4 * n)
     (mapLoadBad e s = true → Machine.exec (.rankmapLoad q e) s = .next (useBus [] (endEntry q e stBadDesc (popHead q s)))) ∧
     (mapLoadBad e s = false → busReady ps s = false → Machine.exec (.rankmapLoad q e) s = .next (askBus ps s)) ∧
     (mapLoadBad e s = false → busReady ps s = true → mapWords s n (busRead s (bodyField e 8 8) (4 * n)) = none →
       Machine.exec (.rankmapLoad q e) s = .next (useBus ps (endEntry q e stBadDesc (popHead q s)))) ∧
     (∀ l, mapLoadBad e s = false → busReady ps s = true → mapWords s n (busRead s (bodyField e 8 8) (4 * n)) = some l →
       Machine.exec (.rankmapLoad q e) s =
         .next (useBus ps (endEntry q e stOK { popHead q s with maps := setAt m (some l) s.maps })))) ∧
   (∀ (q : BitVec 6) (e : Entry) (old l : List Coord) (s : State), s.AtHead q e → entOpcode e = 0x08 →
     let m := bodyField e 0 1
     let first := bodyField e 4 4
     let count := bodyField e 8 4
     noReserved [(0, 8), (4, 32), (8, 32), (16, 32 * min count 24)] e = true → s.maps.getD m none = some old → m < s.maps.length →
     mapWords s count (leBytes (4 * count) (bodyField e 16 (4 * count))) = some l →
     (1 ≤ count → count ≤ 24 → first + count ≤ old.length → ∃ t, Machine.exec (.rankmapPatch q e) s = .next t ∧
       t.maps = setAt m (some (old.take first ++ l ++ old.drop (first + count))) s.maps) ∧
     (count = 0 ∨ 24 < count ∨ old.length < first + count →
       Machine.exec (.rankmapPatch q e) s = .next (endEntry q e stBadDesc (popHead q s)))))

/-- COMM_CREATE and COMM_DESTROY (09:R241 to R244; 05:R141): a legal description registers a communicator with COLL_SEQ zero, and returns its handle; an illegal one is refused
with BAD_DESC, the 4,097th with LIMIT; destroying a communicator that no collective, command or prewarm uses removes it, and a handle that names none
ends with NO_COMM. -/
def Obligations.CommunicatorCommands : Prop :=
  (∀ (q : BitVec 6) (e : Entry) (s : State), s.AtHead q e → entOpcode e = 0x09 → noReserved commFields e = true →
    (commBad s e = true → Machine.exec (.commCreate q e) s = .next (endEntry q e stBadDesc (popHead q s))) ∧
    (commBad s e = false → 4096 ≤ s.comms.length →
      Machine.exec (.commCreate q e) s = .next (endEntry q e stLimit (popHead q s))) ∧
    (commBad s e = false → s.comms.length < 4096 →
      Machine.exec (.commCreate q e) s =
        .next (endResult q e ((commOf e).handle.setWidth 64) { popHead q s with comms := s.comms ++ [commOf e] }) ∧
      (commOf e).seq = 0 ∧ (commOf e).drained = false ∧ (commOf e).handle = BitVec.ofNat 32 (bodyField e 0 4))) ∧
  (∀ (q : BitVec 6) (e : Entry) (s : State), s.AtHead q e → entOpcode e = 0x0A → noReserved [(0, 32)] e = true →
    let h : W32 := BitVec.ofNat 32 (bodyField e 0 4)
    (commHere h s = none → Machine.exec (.commDestroy q e) s = .next (endEntry q e stNoComm (popHead q s))) ∧
    (∀ c, commHere h s = some c → s.ctxs = [] → s.saved = [] → s.cmds = [] →
      ∃ t, Machine.exec (.commDestroy q e) s = .next t ∧ findComm h t = none ∧ t.cmds = [] ∧
        (∀ k, k ≠ h → findComm k t = findComm k s)))

/-- DRAIN, DRAIN with MODE 1, and ROUTE_UPDATE (05:R142, R143; 08:R225 to R227): DRAIN marks the named communicators, and completes at once when no collective runs and no
packet needs a marker; its release clears the marks; ROUTE_UPDATE writes the bank that the current epoch does not select, with FLIP changes
the epoch, waits while that bank serves an open round, and is refused while a named communicator is not drained. -/
def Obligations.DrainAndRoutes : Prop :=
  (∀ (q : BitVec 6) (e : Entry) (s : State), s.AtHead q e → entOpcode e = 0x0B → noReserved [(0, 32), (4, 8)] e = true →
    let h : W32 := BitVec.ofNat 32 (bodyField e 0 4)
    let hit (c : Comm) : Prop := ∃ d ∈ named h s, d.handle = c.handle
    (bodyField e 4 1 = 0 → h ≠ 0xFFFFFFFF → named h s = [] →
      Machine.exec (.drain q e) s = .next (endEntry q e stNoComm (popHead q s))) ∧
    (1 < bodyField e 4 1 → Machine.exec (.drain q e) s = .next (endEntry q e stBadDesc (popHead q s))) ∧
    (bodyField e 4 1 = 0 → h = 0xFFFFFFFF ∨ named h s ≠ [] → s.ctxs = [] → s.saved = [] → s.cmds = [] → s.ni.sentTo = [] →
      s.ni.rounds = [] → ∃ t, Machine.exec (.drain q e) s = .next t ∧ t.cmds = [] ∧ t.comms.length = s.comms.length ∧
        (∀ (i : Nat) c, s.comms[i]? = some c → (hit c → t.comms[i]? = some { c with drained := true }) ∧
          (¬hit c → t.comms[i]? = some c))) ∧
    (bodyField e 4 1 = 1 → h = 0xFFFFFFFF ∨ named h s ≠ [] → ∃ t, Machine.exec (.drainRelease q e) s = .next t ∧
      t.comms.length = s.comms.length ∧
      (∀ (i : Nat) c, s.comms[i]? = some c → (hit c → t.comms[i]? = some { c with drained := false }) ∧
        (¬hit c → t.comms[i]? = some c)))) ∧
  (∀ (q : BitVec 6) (e : Entry) (s : State), s.AtHead q e → entOpcode e = 0x0C →
    noReserved [(0, 32), (4, 16), (6, 1), (8, 64)] e = true →
    let h : W32 := BitVec.ofNat 32 (bodyField e 0 4)
    let n := bodyField e 4 2
    let ps := pieces s (bodyField e 8 8) (8 * n)
    let words := (List.range n).map fun i => (BitVec.ofNat 64 (fieldAt (8 * i) 8 (busRead s (bodyField e 8 8) (8 * n))) : W64)
    h = 0xFFFFFFFF ∨ named h s ≠ [] →
    ((∃ c ∈ named h s, c.drained = false) → Machine.exec (.routeUpdate q e) s = .next (useBus [] (endEntry q e stBadDesc (popHead q s)))) ∧
    (routeBad e s = false → busReady ps s = true → bankServes s = true → Machine.exec (.routeUpdate q e) s = .next s) ∧
    (routeBad e s = false → busReady ps s = true → bankServes s = false → words.all routeWordOk = true →
      natBit 0 (bodyField e 6 1) = false → Machine.exec (.routeUpdate q e) s = .next (useBus ps (endEntry q e stOK { popHead q s with
        rt := if s.ni.epoch then { s.rt with bank0 := words } else { s.rt with bank1 := words } }))) ∧
    (routeBad e s = false → busReady ps s = true → bankServes s = false → words.all routeWordOk = true →
      natBit 0 (bodyField e 6 1) = true → s.ni.sentTo = [] → s.ni.rounds = [] →
      ∃ t, Machine.exec (.routeUpdate q e) s = .next t ∧ t.ni.epoch = !s.ni.epoch ∧
        t.rt = if s.ni.epoch then { s.rt with bank0 := words } else { s.rt with bank1 := words }))

/-- PREWARM (02:R46, R47; 05:R136): the communicator's prewarm count rises, and the hold of DOZE on this node runs HOLD ticks from now, in place of any earlier
hold of that communicator's prewarms; the command completes once its heralds have left; HOLD out of range is BAD_DESC and an unknown handle NO_COMM.

SELFTEST and LOG_READ (05:R144, R145): a reserved unit is BAD_DESC; the active Tree pair, and a module that is down, cannot be tested (LIMIT); the test of a spare lane or of the
spare staging bank takes the spare out of service, and the command waits for its end. LOG_READ writes whole records from START, and returns
their number and the next one. -/
def Obligations.PrewarmTestsLog : Prop :=
  (∀ (q : BitVec 6) (e : Entry) (s : State), s.AtHead q e → entOpcode e = 0x04 → noReserved [(0, 32), (4, 32)] e = true →
     let h : W32 := BitVec.ofNat 32 (bodyField e 0 4)
     let hold := bodyField e 4 4
     (hold < 25 ∨ 250000000 < hold → Machine.exec (.prewarm q e) s = .next (endEntry q e stBadDesc (popHead q s))) ∧
     (25 ≤ hold → hold ≤ 250000000 → commHere h s = none →
       Machine.exec (.prewarm q e) s = .next (endEntry q e stNoComm (popHead q s))) ∧
     (∀ c, 25 ≤ hold → hold ≤ 250000000 → commHere h s = some c →
       ∃ t, Machine.exec (.prewarm q e) s = .next t ∧ findComm h t = some { c with prewarms := seqNext c.prewarms } ∧
         { key := .prewarm h, until_ := now s + hold } ∈ t.kp.holds ∧
         (∀ x ∈ t.kp.holds, x.key = .prewarm h → x.until_ = now s + hold) ∧
         (s.cmds = [] → prewarmLeft t h (seqNext c.prewarms) = true → t.cmds = []) ∧
         (s.cmds = [] → prewarmLeft t h (seqNext c.prewarms) = false →
           ∃ x, t.cmds = [x] ∧ x.tag = entTag e ∧ x.q = q ∧ x.kind = .prewarm h (seqNext c.prewarms)))) ∧
  ((∀ (q : BitVec 6) (e : Entry) (s : State), s.AtHead q e → entOpcode e = 0x0D → noReserved [(0, 8), (4, 32)] e = true →
     let cls := bodyField e 0 1
     let i := bodyField e 4 4
     let added : Cmd → Prop := fun c => c.id = s.tree.nextCmd ∧ c.q = q ∧ c.tag = entTag e
     (4 < cls ∨ (cls = 0 ∧ 167 < i) ∨ (cls = 1 ∧ 11 < i) ∨ (cls = 2 ∧ 4095 < i) ∨ (cls = 4 ∧ 16 < i) →
       Machine.exec (.selftest q e) s = .next (endEntry q e stBadDesc (popHead q s))) ∧
     (cls = 0 → i ≤ 167 → BitVec.ofNat 8 i ∈ s.boot.spares → s.tree.tests = [] → s.boot.lanesRetired.getLsbD i = false →
       ∃ t, Machine.exec (.selftest q e) s = .next t ∧ t.boot.spares = s.boot.spares.filter (fun l => l ≠ BitVec.ofNat 8 i) ∧
         (∃ x, t.tree.tests = [x] ∧ x.unit = .lane (BitVec.ofNat 8 i) ∧ x.waiters = [s.tree.nextCmd] ∧ x.byError = false) ∧
         ∃ c ∈ t.cmds, added c) ∧
     (cls = 4 → i ≤ 16 → s.stg.spare = some (BitVec.ofNat 5 i) → s.tree.tests = [] → s.boot.stagingRetired.getLsbD i = false →
       ∃ t, Machine.exec (.selftest q e) s = .next t ∧ t.stg = { s.stg with spare := none } ∧
         (∃ x, t.tree.tests = [x] ∧ x.unit = .staging (BitVec.ofNat 5 i) ∧ x.waiters = [s.tree.nextCmd]) ∧ ∃ c ∈ t.cmds, added c) ∧
     (cls = 2 → i ≤ 4095 → moduleUp s (i / 512) = false → s.tree.tests = [] →
       Machine.exec (.selftest q e) s = .next (endEntry q e stLimit (popHead q s)))) ∧
   (∀ (q : BitVec 6) (e : Entry) (s : State), s.AtHead q e → entOpcode e = 0x0E → noReserved [(0, 64), (8, 32), (12, 32)] e = true →
     let len := bodyField e 12 4
     let next := s.boot.nextRecord.toNat
     let first := max (bodyField e 8 4) (if next ≤ 64512 then 0 else ((next - 1) / 1024 - 62) * 1024)
     let n := min (len / 64) (next - first)
     (bodyField e 0 8 % 64 ≠ 0 ∨ len < 64 ∨ 4194304 < len →
       Machine.exec (.logRead q e) s = .next (endEntry q e stBadDesc (popHead q s))) ∧
     (bodyField e 0 8 % 64 = 0 → 64 ≤ len → len ≤ 4194304 →
       Machine.exec (.logRead q e) s = .next (endResult q e (BitVec.ofNat 64 (n + (first + n) * 2 ^ 32))
         (busWrite (bodyField e 0 8) ((List.range n).flatMap fun i => flashRead s (logAddr (first + i)) 64) (popHead q s))))))

/-- FW_UPDATE and FLASH_WRITE_DONE (03:R79, R80): WRITE of an image that authenticates starts a flash write to the slot that does not run, and changes no byte of the running slot; one that
fails is CHECK_FAIL; ACTIVATE prefers the other slot; COMMIT blows fuses of SVN and KEY_REVOKE only, and never restores one; each waits while a
WRITE runs. A finished write puts the header in place and completes with OK, a failed one with INTERNAL.

PROG_LOAD (05:R147; 13:R356, R357): a program that is well formed and fits is in the libraries of the named benches, newer than every other copy; a PROG_ID of Octoz, an empty BENCH_MASK, a
bad length or a bad header is BAD_DESC, and a program that does not fit LIMIT. -/
def Obligations.FirmwareAndPrograms : Prop :=
  ((∀ (q : BitVec 6) (e : Entry) (s : State), s.AtHead q e → entOpcode e = 0x0F → noReserved fwFields e = true → fwWriting s = true →
     (bodyField e 0 1 = 1 → Machine.exec (.fwUpdateActivate q e) s = .next s) ∧
     (bodyField e 0 1 = 2 → Machine.exec (.fwUpdateCommit q e) s = .next s)) ∧
   (∀ (q : BitVec 6) (e : Entry) (s : State), s.AtHead q e → entOpcode e = 0x0F → noReserved fwFields e = true →
     bodyField e 0 1 = 0 → fwWriting s = false → stageOk (bodyField e 8 8) (bodyField e 4 4) 4096 = true →
     bodyField e 4 4 ≤ 8388608 → Memory.wf 0xFF s.flash = true →
     let img := stgRead s (bodyField e 8 8) (bodyField e 4 4)
     let auth := authImage s (fun a k => slice a k img)
     (auth = none → Machine.exec (.fwUpdateWrite q e) s = .next (endEntry q e stCheckFail (popHead q s))) ∧
     (∀ x, auth = some x → 4096 + fieldAt 8 4 img ≤ bodyField e 4 4 → ∃ t, Machine.exec (.fwUpdateWrite q e) s = .next t ∧
       (∃ c ∈ t.cmds, c.kind = .fwWrite (!s.boot.runSlot) (slice 0 4096 img) false ∧ c.q = q ∧ c.tag = entTag e) ∧
       (∀ a, slotBase s.boot.runSlot ≤ a → a < slotBase s.boot.runSlot + 8388608 → memGet 0xFF t.flash a = memGet 0xFF s.flash a) ∧
       flashRead t (slotBase (!s.boot.runSlot) + 4096) (fieldAt 8 4 img) = slice 4096 (fieldAt 8 4 img) img)) ∧
   (∀ (q : BitVec 6) (e : Entry) (s : State), s.AtHead q e → entOpcode e = 0x0F → noReserved fwFields e = true →
     bodyField e 0 1 = 1 → fwWriting s = false → Machine.exec (.fwUpdateActivate q e) s = .next (endEntry q e stOK
       (bootAppend (if s.boot.runSlot then 0 else 1) (if s.boot.runSlot then 0 else (bootState s).2.1)
         (if s.boot.runSlot then (bootState s).2.2 else 0) 0x03 (popHead q s)))) ∧
   (∀ (q : BitVec 6) (e : Entry) (s : State), s.AtHead q e → entOpcode e = 0x0F → noReserved fwFields e = true →
     bodyField e 0 1 = 2 → fwWriting s = false → ∃ f, Machine.exec (.fwUpdateCommit q e) s =
       .next (endEntry q e stOK { popHead q s with fuses := f }) ∧ (∀ i, s.fuses.getLsbD i = true → f.getLsbD i = true) ∧
       (∀ i, i ≠ 768 → i < 770 ∨ 834 ≤ i → f.getLsbD i = s.fuses.getLsbD i) ∧
       (natBit 0 (bodyField e 1 1) = true → s.boot.imageKey = true → f.getLsbD 768 = true) ∧
       (natBit 0 (bodyField e 1 1) = false → s.boot.imageSvn.toNat ≤ fuseSvn s → f = s.fuses)) ∧
   (∀ (ok : Bool) (c : Cmd) (slot : Bool) (header : Bytes) (s : State), s.Runs → s.host.busMaster = true → s.tree.heldLog = [] →
     s.cmds = [c] → c.kind = .fwWrite slot header false →
     Machine.exec (.flashWriteDone ok) s = .next (if ok then endCmd c stOK 0 0 (flashWrite (slotBase slot) header s)
       else endCmd c stInternal 0 0 s))) ∧
  (∀ (q : BitVec 6) (e : Entry) (s : State), s.AtHead q e → entOpcode e = 0x10 →
     noReserved [(0, 16), (2, 12), (4, 32), (8, 64)] e = true →
     let id := bodyField e 0 2
     let mask := bodyField e 2 2
     let n := bodyField e 4 4
     let o := bodyField e 8 8
     let words := (List.range (n / 8)).map fun i => (BitVec.ofNat 64 (fieldAt (8 * i) 8 (stgRead s o n)) : W64)
     let rest := replaceProg s (BitVec.ofNat 16 id) (BitVec.ofNat 12 mask)
     let form : Prop := 0x100 ≤ id ∧ mask ≠ 0 ∧ 8 ≤ n ∧ n ≤ 65536 ∧ n % 8 = 0 ∧ stageOk o n 8 = true
     let fits : Prop := ∀ b, b < 12 → natBit b mask = true → libraryUsed rest b + n ≤ 40960
     (¬form → Machine.exec (.progLoad q e) s = .next (endEntry q e stBadDesc (popHead q s))) ∧
     (form → headOk (words.headD 0) mask = false → Machine.exec (.progLoad q e) s = .next (endEntry q e stBadDesc (popHead q s))) ∧
     (form → headOk (words.headD 0) mask = true → ¬fits → Machine.exec (.progLoad q e) s = .next (endEntry q e stLimit (popHead q s))) ∧
     (form → headOk (words.headD 0) mask = true → fits → ∃ p : Program, p.id = BitVec.ofNat 16 id ∧
       p.benches = BitVec.ofNat 12 mask ∧ p.words = words ∧ (∀ x ∈ s.progs, x.gen < p.gen) ∧
       Machine.exec (.progLoad q e) s = .next (endEntry q e stOK { popHead q s with progs := rest ++ [p] })))

/-! ## The Tannery tier -/

/-- TM_OP with an operation, ACCUM_ARM, ACCUM_DISARM and TM_FENCE (15:R411, R414 to R416, R426, R431; 01:R28), of an entry at the head of its queue: an
operation takes the next ticket, completes with it as its result, and joins the queues of the modules it touches; without a Tannery they are refused with
LIMIT; a full module queue lets them wait at the head; arming registers the range, a 17th is refused with LIMIT; a fence above the last ticket is BAD_DESC, a fence whose tickets have
all executed completes at once, and another one waits. -/
def Obligations.TanneryCommands : Prop :=
  ∀ (q : BitVec 6) (e : Entry) (s : State), s.AtHead q e →
    let u := popHead q s
    let o := tmOpOf e
    let queued (p : State) (o : TmQueued) : State :=
      let v := tmPrepare { o with ticket := some s.tm.next } p
      { v with tm := { v.tm with
        queue := v.tm.queue ++ [{ o with
          op := s.tm.nextOp, ticket := some s.tm.next
          todo := tmTouches s o &&& ~~~ s.tm.down, failed := (tmTouches s o &&& s.tm.down) != 0 }]
        next := s.tm.next + 1
        nextOp := s.tm.nextOp + 1 } }
    (entOpcode e = 0x30 → noReserved tmOpFields e = true →
      (runningPorts s = [] → bodyField e 0 1 ≠ 0x20 → bodyField e 0 1 ≠ 0x21 →
        Machine.exec (.tmOp q e) s = .next (endEntry q e stLimit u)) ∧
      (runningPorts s = [] → bodyField e 0 1 = 0x20 → Machine.exec (.accumArm q e) s = .next (endEntry q e stLimit u)) ∧
      (runningPorts s = [] → bodyField e 0 1 = 0x21 → Machine.exec (.accumDisarm q e) s = .next (endEntry q e stLimit u)) ∧
      (bodyField e 0 1 ≠ 0x20 → bodyField e 0 1 ≠ 0x21 →
        (∀ st, tmOpCheck s e = some st → Machine.exec (.tmOp q e) s = .next (endEntry q e st u)) ∧
        (tmOpCheck s e = none → tmFull s (tmTouches s o) = true → Machine.exec (.tmOp q e) s = .next s) ∧
        (tmOpCheck s e = none → tmFull s (tmTouches s o) = false → tmTouches s o &&& ~~~ s.tm.down ≠ 0 →
          (∀ x ∈ s.tm.queue, x.todo ≠ 0) → s.cmds = [] →
          Machine.exec (.tmOp q e) s = .next (endResult q e s.tm.next (queued u o)))) ∧
      (bodyField e 0 1 = 0x20 → controlCheck s e (decide (o.dtype = 3 ∨ o.dtype = 9 ∨ o.dtype = 0xA) &&
          decide (1 ≤ natBits 0 8 o.imm.toNat ∧ natBits 0 8 o.imm.toNat ≤ 3)) = none →
        (armedOverlap s o.dst o.len = true → Machine.exec (.accumArm q e) s = .next (endEntry q e stBadDesc u)) ∧
        (armedOverlap s o.dst o.len = false → 16 ≤ s.tm.armed.length →
          Machine.exec (.accumArm q e) s = .next (endEntry q e stLimit u)) ∧
        (armedOverlap s o.dst o.len = false → s.tm.armed.length < 16 → tmFull s (tmRunning s) = true →
          Machine.exec (.accumArm q e) s = .next s) ∧
        (armedOverlap s o.dst o.len = false → s.tm.armed.length < 16 → tmFull s (tmRunning s) = false →
          tmRunning s &&& ~~~ s.tm.down ≠ 0 → (∀ x ∈ s.tm.queue, x.todo ≠ 0) → s.cmds = [] →
          Machine.exec (.accumArm q e) s = .next (endResult q e s.tm.next (queued { u with tm := { s.tm with
            armed := s.tm.armed ++ [{ dst := o.dst, len := o.len, dtype := o.dtype, op := o.imm.setWidth 8
                                      armed := false, disarm := false }] } } o)))) ∧
      (bodyField e 0 1 = 0x21 → controlCheck s e (decide (o.dtype = 0)) = none →
        ((∀ r ∈ s.tm.armed, r.dst = o.dst → r.disarm = true) →
          Machine.exec (.accumDisarm q e) s = .next (endEntry q e stBadDesc u)) ∧
        (∀ r, s.tm.armed.find? (fun r => decide (r.dst = o.dst) && !r.disarm) = some r →
          (o.len ≠ 0 → o.len ≠ r.len → Machine.exec (.accumDisarm q e) s = .next (endEntry q e stBadDesc u)) ∧
          (o.len = 0 ∨ o.len = r.len → tmFull s (tmRunning s) = false → tmRunning s &&& ~~~ s.tm.down ≠ 0 →
            (∀ x ∈ s.tm.queue, x.todo ≠ 0) → s.cmds = [] →
            Machine.exec (.accumDisarm q e) s = .next (endResult q e s.tm.next (queued { u with tm := { s.tm with
              armed := s.tm.armed.map fun x => if x.dst = o.dst ∧ x.disarm = false then { x with disarm := true } else x } } o)))))) ∧
    (entOpcode e = 0x31 → noReserved [(0, 64)] e = true →
      let k := bodyField e 0 8
      let last := s.tm.next.toNat - 1
      let cover := if k = 0 then last else k
      (runningPorts s = [] → Machine.exec (.tmFence q e) s = .next (endEntry q e stLimit u)) ∧
      (runningPorts s ≠ [] → last < k → Machine.exec (.tmFence q e) s = .next (endEntry q e stBadDesc u)) ∧
      (runningPorts s ≠ [] → k ≤ last → s.cmds = [] → cover ≤ (tmDone s).toNat → s.tm.failedTickets = [] →
        ∃ t, Machine.exec (.tmFence q e) s = .next t ∧ t.cmds = [] ∧
          t.tm = { s.tm with stale := s.tm.stale.filter fun x => decide (cover < x.2.2.toNat) }) ∧
      (runningPorts s ≠ [] → k ≤ last → s.cmds = [] → (tmDone s).toNat < cover →
        Machine.exec (.tmFence q e) s = .next (addCmd q e (.tmFence (BitVec.ofNat 64 cover)) u)))

/-- STATE_PARK, STATE_UNPARK, STATE_FORK and STATE_DROP (15:R422 to R425): a move with legal addresses, whose source reads are done and whose bytes are good, copies the
bytes and reports their CRC-32C when asked to; an unpark whose CRC is wrong ends with CHECK_FAIL; fork and drop wait in the module queues and complete at
their execution.

TM_OP_EXECUTE, MODULE_DOWN, PATROL_SCRUB and the Tannery error event (15:R415, R430, R432): a module with nothing queued stays as it is; a module that executes a bit operation in the bank view writes
the result into the destination and leaves every other byte; a module that goes down is down for good, sets ERR_STATUS.TANNERY, and
its queued operations fail there; a corrected error changes no byte, an uncorrectable one poisons its granule. -/
def Obligations.TanneryState : Prop :=
  (∀ (q : BitVec 6) (e : Entry) (s : State), s.AtHead q e → noReserved stateFields e = true →
     let u := popHead q s
     let src := bodyAddr e 0
     let dst := bodyAddr e 8
     let n := bodyField e 16 8
     let crc := crc32c (localRead s src n)
     let wants : Bool := natBit 0 (bodyField e 24 1)
     let result : W64 := if wants then crc.setWidth 64 else 0
     let ps := if entOpcode e = 0x32 then localPieces s src n else []
     let pass := fun t => Machine.exec (if entOpcode e = 0x32 then .statePark q e else .stateUnpark q e) s = .next (useBus ps t)
     let started (top : Byte) (a b : Nat) : State :=
       tmEnqueue (stateOp top a b n) (addCmd q e (.tmState s.tm.nextOp) u)
     (entOpcode e = 0x32 ∨ entOpcode e = 0x33 → busReady ps s = true →
       let far := if entOpcode e = 0x32 then src else dst
       let near := if entOpcode e = 0x32 then dst else src
       (∀ st, parkCheck s far near n = some st → entOpcode e = 0x33 → pass (endEntry q e st u)) ∧
       (parkCheck s far near n = none → localPoison s src n = false → s.tm.down = 0 →
         (entOpcode e = 0x32 ∨ natBit 1 (bodyField e 24 1) = false ∨ crc = BitVec.ofNat 32 (bodyField e 28 4) →
           pass (postCompletion q.toNat (plainC (entTag e) (entNoIrq e) stOK result wants) (localWrite dst (localRead s src n) u))) ∧
         (entOpcode e = 0x33 → natBit 1 (bodyField e 24 1) = true → crc ≠ BitVec.ofNat 32 (bodyField e 28 4) →
           pass (postCompletion q.toNat (plainC (entTag e) (entNoIrq e) stCheckFail result wants) (localUndefined dst n u))))) ∧
     (∀ st, entOpcode e = 0x32 → parkCheck s src dst n = some st →
       Machine.exec (.statePark q e) s = .next (useBus [] (endEntry q e st u))) ∧
     (tmRunning s &&& ~~~ s.tm.down ≠ 0 → (∀ x ∈ s.tm.queue, x.todo ≠ 0) → (∀ c ∈ s.cmds, ∀ t, c.kind ≠ .tmFence t) →
       tmFull s (tmRunning s) = false →
       (entOpcode e = 0x34 → faRank src = rankSelf → faRank dst = rankSelf → faSpace src = 1 → faSpace dst = 1 →
         faOffset src % 2097152 = faOffset dst % 2097152 → n % 256 = 0 →
         (faOffset src + n ≤ faOffset dst ∨ faOffset dst + n ≤ faOffset src) → faOffset src + n ≤ tmCapacity s →
         faOffset dst + n ≤ tmCapacity s →
         Machine.exec (.stateFork q e) s = .next (started 0x10 (faOffset dst) (faOffset src))) ∧
       (entOpcode e = 0x35 → faRank dst = rankSelf → faSpace dst = 1 → faOffset dst % 256 = 0 → n % 256 = 0 →
         faOffset dst + n ≤ tmCapacity s →
         Machine.exec (.stateDrop q e) s = .next (started 0x11 (faOffset dst) 0)))) ∧
  ((∀ (m : BitVec 3) (found : List TmError) (s : State), s.Runs → (∀ o ∈ s.tm.queue, o.todo.getLsbD m.toNat = false) →
     Machine.exec (.tmOpExecute m found) s = .next s) ∧
   (∀ (m : BitVec 3) (o : TmQueued) (pc : BitVec 5) (bank : BitVec 4) (s : State), s.Runs → moduleUp s m.toNat = true →
     s.tm.queue = [o] → o.todo = (1 : Byte) <<< m.toNat → o.bankView = true → o.failed = false → o.disturbed = false →
     (o.ticket = some (s.tm.next - 1)) → o.pcMask = (1 : BitVec 32) <<< pc.toNat → o.bankMask = (1 : BitVec 16) <<< bank.toNat →
     o.bXor = 0 → o.dXor = 0 → o.len = 1024 → o.dst % 1024 = 0 → o.srcA % 1024 = 0 → o.srcB % 1024 = 0 → o.dst < 2 ^ 27 →
     o.dst ≠ o.srcA → o.dst ≠ o.srcB → s.cmds = [] → s.tm.poison = [] → s.tm.cache = [] → Memory.wf 0 s.tm.mem = true →
     let base := m.toNat * 2 ^ 36 + pc.toNat * 2 ^ 31 + bank.toNat * 2 ^ 27
     let a := memRead 0 s.tm.mem (base + o.srcA) 1024
     let b := memRead 0 s.tm.mem (base + o.srcB) 1024
     ∃ t, Machine.exec (.tmOpExecute m []) s = .next t ∧ t.tm.queue = [] ∧
       (∀ x, x < base + o.dst ∨ base + o.dst + 1024 ≤ x → memGet 0 t.tm.mem x = memGet 0 s.tm.mem x) ∧
       (o.top = 0x01 → memRead 0 t.tm.mem (base + o.dst) 1024 = a) ∧
       (o.top = 0x03 → memRead 0 t.tm.mem (base + o.dst) 1024 = List.zipWith (fun x y => x &&& y) a b) ∧
       (o.top = 0x04 → memRead 0 t.tm.mem (base + o.dst) 1024 = List.zipWith (fun x y => x ||| y) a b) ∧
       (o.top = 0x05 → memRead 0 t.tm.mem (base + o.dst) 1024 = List.zipWith (fun x y => x ^^^ y) a b) ∧
       (o.top = 0x06 → memRead 0 t.tm.mem (base + o.dst) 1024 = a.map fun x => ~~~ x)) ∧
   (∀ (m : BitVec 3) (die : Bool) (s : State), s.Runs → s.boot.phase = phReady → moduleUp s m.toNat = true → s.tm.queue = [] →
     s.cmds = [] → ∃ t, Machine.exec (.moduleDown m die) s = .next t ∧ moduleUp t m.toNat = false ∧
       t.tm.down = s.tm.down ||| ((1 : Byte) <<< m.toNat) ∧ t.tm.mem = s.tm.mem ∧ t.err.status.getLsbD errTannery = true) ∧
   (∀ (m : BitVec 3) (s : State), s.Runs → Machine.exec (.patrolScrub m []) s = .next s) ∧
   (∀ (m : BitVec 3) (x : TmError) (s : State), s.Runs → s.boot.phase = phReady → moduleUp s m.toNat = true → s.tree.tests = [] →
     ∃ t, Machine.exec (.tanneryError m x) s = .next t ∧ t.tm.mem = s.tm.mem ∧
       (x.uncorrectable = true → bvGranule (errAddr m.toNat x) ∈ t.tm.poison) ∧
       (x.uncorrectable = true → bvGranule (errAddr m.toNat x) ∉ s.tm.poison → t.err.status.getLsbD errTannery = true) ∧
       (x.uncorrectable = false → t.tm.poison = s.tm.poison)))

/-! ## One-sided commands and collectives -/

/-- PUT and GET (10:R283, R284, Table 10-6; 06:R155, R163) of an entry at the head of its queue: without a communicator they end with NO_COMM, and an entry that the checks refuse with their status. A
transfer of one packet to this node copies the bytes and completes in the step; one to another node leaves as a request packet that carries the address and
the bytes, or the address and the length, and waits for its answer. -/
def Obligations.PutAndGet : Prop :=
  ∀ (q : BitVec 6) (e : Entry) (get : Bool) (s : State), s.AtHead q e → entOpcode e = (if get then 0x22 else 0x21) →
    noReserved xferFields e = true →
    let row : Instr := if get then .get q e else .put q e
    let u := popHead q s
    let h : W32 := BitVec.ofNat 32 (bodyField e 0 4)
    let src := bodyAddr e 16
    let dst := bodyAddr e 24
    let far := if get then src else dst
    let n := bodyField e 8 8
    (commHere h s = none → Machine.exec row s = .next (useBus [] (endEntry q e stNoComm u))) ∧
    (∀ c, commHere h s = some c →
      (∀ st, xferCheck s c e get = some st → Machine.exec row s = .next (useBus [] (endEntry q e st u))) ∧
      (n = 0 ∨ 2 ^ 30 < n → xferCheck s c e get = some stBadDesc) ∧
      (xferCheck s c e get = none → bodyField e 4 1 = 0 → s.cmds = [] → s.ni.reqs = [] →
        (isLocal s c.map.toNat far = some true → busReady (localPieces s src n) s = true → localPoison s src n = false →
          s.tm.armed = [] → n ≤ 4096 - faOffset dst % 4096 →
          ∃ t, Machine.exec row s = .next t ∧ t.cmds = [] ∧ t.stg = (localWrite dst (localRead s src n) s).stg ∧
            t.tm = (localWrite dst (localRead s src n) s).tm ∧
            (getPage q.toNat t).started = (getPage q.toNat s).started) ∧
        (isLocal s c.map.toNat far = some false → coordOf s c.map.toNat far ∉ s.ni.lost →
          (txOf s (coordOf s c.map.toNat far)).waiting = [] → (txOf s (coordOf s c.map.toNat far)).unacked.length < 64 →
          busReady (localPieces s src n) s = true → (get = true → n ≤ 8192) →
          (get = false → n ≤ 4096 - faOffset dst % 4096 ∧ localPoison s src n = false) →
          ∃ t p, Machine.exec row s = .next t ∧ t.rt.inject = s.rt.inject ++ [(none, p)] ∧
            p.kind = (if get then 6 else 5) ∧ p.dest = coordOf s c.map.toNat far ∧ p.tag = s.ni.nextReq ∧ p.flag = false ∧
            p.payload = (if get then bvBytes 8 src ++ leBytes 4 n ++ leBytes 4 0 else bvBytes 8 dst ++ localRead s src n) ∧
            t.ni.reqs.length = 1 ∧ ∃ cmd, t.cmds = [cmd] ∧ cmd.q = q ∧ cmd.tag = entTag e)))

/-- ATOMIC (10:R285, R294, Table 10-7): an operand on this node becomes the new value in the step, and the old one is the result; one on another node is asked for by an ATOMIC_REQ
packet, and the command waits. A misaligned operand, a reserved AOP and an ASIZE other than 4 and 8 are BAD_DESC. -/
def Obligations.AtomicCommand : Prop :=
  (∀ (q : BitVec 6) (e : Entry) (s : State), s.AtHead q e → entOpcode e = 0x23 → noReserved atomicFields e = true →
    let u := popHead q s
    let h : W32 := BitVec.ofNat 32 (bodyField e 0 4)
    let aop := bodyField e 4 1
    let n := bodyField e 5 1
    let a := bodyAddr e 8
    let operand : W64 := BitVec.ofNat 64 (bodyField e 16 8)
    let compare : W64 := BitVec.ofNat 64 (bodyField e 24 8)
    (commHere h s = none → Machine.exec (.atomic q e) s = .next (useBus [] (endEntry q e stNoComm u))) ∧
    (∀ c, commHere h s = some c →
      (aop = 0 ∨ 8 < aop ∨ (n ≠ 4 ∧ n ≠ 8) ∨ faOffset a % n ≠ 0 →
        Machine.exec (.atomic q e) s = .next (useBus [] (endEntry q e stBadDesc u))) ∧
      (∀ ps, atomicCheck s c e = none → isLocal s c.map.toNat a = some true → ps = localPieces s a n → busReady ps s = true →
        Machine.exec (.atomic q e) s = .next (useBus ps (endResult q e (BitVec.ofNat 64 (leNat (localRead s a n)))
          (localWrite a (leBytes n (atomicNew aop n (leNat (localRead s a n)) (operand.toNat % 2 ^ (8 * n))
            (compare.toNat % 2 ^ (8 * n)))) u)))) ∧
      (atomicCheck s c e = none → isLocal s c.map.toNat a = some false → coordOf s c.map.toNat a ∉ s.ni.lost →
        s.ni.reqs.length < 16384 → (txOf s (coordOf s c.map.toNat a)).waiting = [] →
        (txOf s (coordOf s c.map.toNat a)).unacked.length < 64 →
        ∃ t p, Machine.exec (.atomic q e) s = .next t ∧ t.rt.inject = s.rt.inject ++ [(none, p)] ∧ p.kind = 7 ∧
          p.dest = coordOf s c.map.toNat a ∧ p.tag = s.ni.nextReq ∧ p.payload = bvBytes 8 a ++ [BitVec.ofNat 8 aop, BitVec.ofNat 8 n] ++
            leBytes 6 0 ++ bvBytes 8 operand ++ bvBytes 8 compare ∧
          ∃ cmd, t.cmds = s.cmds ++ [cmd] ∧ cmd.q = q ∧ cmd.tag = entTag e))) ∧
  (∀ n old operand compare : Nat, n = 4 ∨ n = 8 → old < 2 ^ (8 * n) → operand < 2 ^ (8 * n) →
    atomicNew 1 n old operand compare = (old + operand) % 2 ^ (8 * n) ∧ atomicNew 2 n old operand compare = operand ∧
    atomicNew 3 n old operand compare = (if old = compare then operand else old) ∧
    atomicNew 4 n old operand compare = (old &&& operand) ∧ atomicNew 5 n old operand compare = (old ||| operand) ∧
    atomicNew 6 n old operand compare = (old ^^^ operand) ∧ atomicNew 7 n old operand compare + atomicNew 8 n old operand compare = old + operand ∧
    sext (8 * n) (atomicNew 8 n old operand compare) ≤ sext (8 * n) (atomicNew 7 n old operand compare))

/-- COLL_SUBMIT, ROUTE_DISPATCH and COMBINE_ALLREDUCE (10:R262, R264; 09:R244; 14:R376, R379, R395; 05:R142): without a communicator they end with NO_COMM; an entry that the checks
refuse ends with their status; while the communicator is drained or being destroyed, or no context or no lanes are free, the entry waits at the head; else it
starts. A collective that a loaded program serves, on a box of one node, binds a new context with the communicator's next COLL_SEQ, and its
threads run. -/
def Obligations.CollectivesStart : Prop :=
  (∀ (q : BitVec 6) (e : Entry) (s : State), s.AtHead q e → entOpcode e = 0x20 → noReserved collFields e = true →
    let u := popHead q s
    let h : W32 := BitVec.ofNat 32 (bodyField e 0 4)
    let ps := collReads q e s
    (commHere h s = none → Machine.exec (.collSubmit q e) s = .next (useBus [] (endEntry q e stNoComm u))) ∧
    (busReady ps s = false → Machine.exec (.collSubmit q e) s = .next (askBus ps s)) ∧
    (∀ c, commHere h s = some c → busReady ps s = true →
      let x := prepCtx u q e c
      (∀ st, collCheck u c x = some st → Machine.exec (.collSubmit q e) s = .next (useBus ps (endEntry q e st u))) ∧
      (collCheck u c x = none → commHeld s c = true ∨ startColl c x u = none → Machine.exec (.collSubmit q e) s = .next s) ∧
      (collCheck u c x = none → commHeld s c = false → ∀ v, startColl c x u = some v →
        Machine.exec (.collSubmit q e) s = .next (settleHead q (useBus ps v))) ∧
      (∀ p lanes i, collCheck u c x = none → commHeld s c = false → x.alg ≠ 4 → servingProg u x = some p → freeContext u = some i →
        chooseLanes u (lanesFor x (commSize s c)) (headThreads (p.words.headD 0)) (headSlots (p.words.headD 0)) = some lanes →
        c.lo = c.hi → boxDirs s c.lo c.hi = [] → c.notices = [] → c.patched = false → s.ni.lost = [] → s.ni.early = [] →
        (∀ f ∈ s.kp.filter, f.key ≠ .collective h (seqNext c.seq)) →
        ∃ t y new, Machine.exec (.collSubmit q e) s = .next t ∧ t.ctxs = s.ctxs ++ [y] ∧ y.idx = i ∧ y.handle = h ∧
          y.seq = seqNext c.seq ∧ y.q = q ∧ y.tag = entTag e ∧ findComm h t = some { c with seq := seqNext c.seq } ∧
          t.threads = s.threads ++ new ∧ ∀ th ∈ new, th.ctx = i ∧ th.st = .running ∧ th.pc = 1 ∧ th.prog = p.id))) ∧
  (∀ (q : BitVec 6) (e : Entry) (route : Bool) (s : State), s.AtHead q e → entOpcode e = (if route then 0x40 else 0x41) →
    noReserved (if route then routeFields else combineFields) e = true →
    let row : Instr := if route then .routeDispatch q e else .combineAllreduce q e
    let u := popHead q s
    let h : W32 := BitVec.ofNat 32 (bodyField e 0 4)
    let ps := reinReads q e route s
    (commHere h s = none → Machine.exec row s = .next (useBus [] (endEntry q e stNoComm u))) ∧
    (busReady ps s = false → Machine.exec row s = .next (askBus ps s)) ∧
    (∀ c, commHere h s = some c → busReady ps s = true →
      let x := reinCtx u q e route
      (∀ st, reinCheck u c route e x = some st → Machine.exec row s = .next (useBus ps (endEntry q e st u))) ∧
      (reinCheck u c route e x = none → commHeld s c = true ∨ routeSlotBusy u x = true → Machine.exec row s = .next s) ∧
      (reinCheck u c route e x = none → commHeld s c = false → routeSlotBusy u x = false → route = false → combineBad u x = true →
        Machine.exec row s = .next (useBus ps (endEntry q e stBadDesc u))) ∧
      (reinCheck u c route e x = none → commHeld s c = false → routeSlotBusy u x = false → (route = true ∨ combineBad u x = false) →
        (startRein c x u = none → Machine.exec row s = .next s) ∧
        (∀ v, startRein c x u = some v → Machine.exec row s = .next (settleHead q (useBus ps v))))))

/-- COLLECTIVE_COMPLETE and COMMAND_TIMEOUT (13:R352; 16:R462; 04:R108; 05:R148; 10:R280, R282): a collective that is over leaves its context and its threads, and one that is not stays; a bound that has
passed ends a waiting RANKMAP_LOAD, ROUTE_UPDATE or FW_UPDATE (05 Table 5-1; no other command at a head has a bound yet), the started command or the collective, and one that has not changes nothing.

CONTEXT_SAVE, CONTEXT_SAVED and CONTEXT_RESTORE (10:R281, R282; 13:R361, R362; 15:R429): when every context is bound and one is wanted, the eligible context that has been blocked longest
begins to be saved; once saved, its record holds its image, and its context and threads are free; a marked context whose record is
intact is bound again in a free context with its threads. -/
def Obligations.EndsAndSaves : Prop :=
  ((∀ (i : BitVec 9) (x : Ctx) (s : State), s.OctozServes → findCtx i s = some x →
     (x.serving = none → x.finished = false → Machine.exec (.collectiveComplete i) s = .next s) ∧
     (x.serving = none → x.finished = true → ∃ t, Machine.exec (.collectiveComplete i) s = .next t ∧ findCtx i t = none ∧
       (∀ y ∈ t.threads, y.ctx ≠ i) ∧ (∀ j, j ≠ i → findCtx j t = findCtx j s)) ∧
     (x.serving.isSome = true → (∃ y ∈ s.threads, y.ctx = i ∧ y.st ≠ .ended) → Machine.exec (.collectiveComplete i) s = .next s)) ∧
   (∀ (q : BitVec 6) (e : Entry) (s : State), s.AtHead q e → entOpcode e = 0x07 ∨ entOpcode e = 0x0C ∨ entOpcode e = 0x0F → 0 < entTimeout e →
     ((getPage q.toNat s).headSince + entTimeout e ≤ now s →
       Machine.exec (.commandTimeout (.waiting q)) s = .next (endEntry q e stTimeout (popHead q s))) ∧
     (now s < (getPage q.toNat s).headSince + entTimeout e → Machine.exec (.commandTimeout (.waiting q)) s = .next s)) ∧
   (∀ (q : BitVec 6) (e : Entry) (s : State), s.AtHead q e → opcodeKnown (entOpcode e) = true → entOpcode e ≠ 0x07 →
     entOpcode e ≠ 0x0C → entOpcode e ≠ 0x0F → Machine.exec (.commandTimeout (.waiting q)) s = .next s) ∧
   (∀ (c : Cmd) (k : Nat) (s : State), s.Runs → findCmd c.id s = some c → c.deadline = some k →
     (now s < k → Machine.exec (.commandTimeout (.started c.id)) s = .next s) ∧
     (k ≤ now s → (getPage c.q.toNat s).fetched = [] → (∃ t, c.kind = .tmFence t) →
       Machine.exec (.commandTimeout (.started c.id)) s = .next (endCmd c stTimeout 0 0 s)) ∧
     (k ≤ now s → ∃ t, Machine.exec (.commandTimeout (.started c.id)) s = .next t ∧
       ((∀ slot b w, c.kind ≠ .fwWrite slot b w) → findCmd c.id t = none))) ∧
   (∀ (i : BitVec 9) (x : Ctx) (c : Comm) (k : Nat) (s : State), s.Runs → findCtx i s = some x → findComm x.handle s = some c →
     x.deadline = some k →
     (now s < k → Machine.exec (.commandTimeout (.context i)) s = .next s) ∧
     (k ≤ now s → ∃ t, Machine.exec (.commandTimeout (.context i)) s = .next t ∧ findCtx i t = none)) ∧
   (∀ (r : BitVec 9) (y : Saved) (k : Nat) (s : State), s.Runs → s.saved.find? (fun y => decide (y.record = r) && !y.writing) = some y →
     y.ctx.deadline = some k → now s < k → Machine.exec (.commandTimeout (.saved r)) s = .next s)) ∧
  ((∀ (x : Ctx) (i : BitVec 9) (s : State), s.OctozServes → contextWanted s = true → 512 ≤ s.ctxs.length → runningPorts s ≠ [] →
     pickSave s = some x → freeRecord s = some i →
     ∃ y, Machine.exec .contextSave s = .next { s with saved := s.saved ++ [y] } ∧ y.record = i ∧ y.ctx = x ∧ y.writing = true ∧
       x ∈ s.ctxs ∧ canSave s x = true ∧ (∀ z ∈ s.ctxs, canSave s z = true → x.blockedSince ≤ z.blockedSince) ∧
       (∀ w ∈ s.saved, w.record ≠ i)) ∧
   (∀ s : State, s.OctozServes → contextWanted s = false ∨ s.ctxs.length < 512 → Machine.exec .contextSave s = .next s) ∧
   (∀ (i : BitVec 9) (y : Saved) (x : Ctx) (s : State), s.Runs → s.saved.find? (fun y => y.writing && decide (y.ctx.idx = i)) = some y →
     findCtx i s = some x →
     (threadsBlocked s x = true → allConfirmed x = true → x.finished = false →
       ∃ t z, Machine.exec (.contextSaved i) s = .next t ∧ findCtx i t = none ∧ (∀ w ∈ t.threads, w.ctx ≠ i) ∧ z ∈ t.saved ∧
         z.record = y.record ∧ z.ctx = x ∧ z.writing = false ∧ z.image = saveImage s x ∧
         z.threads = s.threads.filter fun w => w.ctx = i) ∧
     (threadsBlocked s x = false → Machine.exec (.contextSaved i) s =
       .next { s with saved := s.saved.filter fun z => z.record ≠ y.record })) ∧
   (∀ (r i : BitVec 9) (y : Saved) (lanes : List Byte) (s : State), s.OctozServes → s.ni.early = [] →
     s.saved.find? (fun y => decide (y.record = r) && y.marked && !y.writing) = some y → anyContext s = some i → y.ctx.isRein = false →
     y.ending = none → restoreLanes s y = some lanes → recordKey (tmRead s (recordAt s r) y.image.length) = recordKey y.image →
     tmReadPoison s (recordAt s r) 12 = false →
     ∃ t x, Machine.exec (.contextRestore r) s = .next t ∧ (∀ z ∈ t.saved, z.record ≠ r) ∧ findCtx i t = some x ∧
       x.handle = y.ctx.handle ∧ x.seq = y.ctx.seq ∧ x.wasSaved = true))

/-! ## Packets of collectives, heralds and notices -/

/-- CHUNK, COUNT_CHUNK, CHUNK_GRANT, CHUNK_REREQ and CHUNK_TIMEOUT (10:R274 to R279; 16:R460, R461), of a bound collective that a loaded program serves (the re-request: of
any): a good chunk is held and wakes the threads in CRECV; a chunk with another signature ends the collective; a poisoned one is asked for again, and the
fourth failed copy ends the collective; a grant adds its count; a re-request sends the chunk again; a chunk that is missing when the timeout has
passed is asked for. A duplicate changes no collective; grants that were owed may go with any of these packets. The timeout is the
one that stood when the collective started (05 Table 5-1). -/
def Obligations.ChunkPackets : Prop :=
  (∀ (p : Packet) (r : RxStream) (x : Ctx) (c : Comm) (s : State), s.Accepts p r → s.Serves p x c → p.kind = 4 →
    let k := chunkOf (now s) s c p
    let fails := failCount x (k.sender, k.phase, k.step, k.off)
    let row : Instr := if isCounts p then .countChunk p else .chunk p
    (isGrant p = false → isRereq p = false → x.serving.isSome = true →
      (pktPoison p = false → BitVec.ofNat 16 (payField p 8 2) = sig16 x.sig →
        chunkAt x k.sender.toNat k.phase k.step k.off = none → chunkGood x k = true →
        ∃ t y, Machine.exec row s = .next t ∧ findCtx x.idx t = some y ∧ y.chunks = x.chunks ++ [k] ∧
          (∀ w ∈ t.threads, w.ctx = x.idx → w.st ≠ .inCrecv)) ∧
      (pktPoison p = false → BitVec.ofNat 16 (payField p 8 2) ≠ sig16 x.sig →
        ∃ t, Machine.exec row s = .next t ∧ findCtx x.idx t = none) ∧
      (pktPoison p = true → fails < 3 → ∃ t y, Machine.exec row s = .next t ∧ findCtx x.idx t = some y ∧
        y.chunks = x.chunks ∧ y.retried = true ∧ failCount y (k.sender, k.phase, k.step, k.off) = fails + 1) ∧
      (pktPoison p = true → 3 ≤ fails → ∃ t, Machine.exec row s = .next t ∧ findCtx x.idx t = none)) ∧
    (isGrant p = true → x.serving.isSome = true → x.outq = [] →
      ∃ t y, Machine.exec (.chunkGrant p) s = .next t ∧ findCtx x.idx t = some y ∧
        countOf y.grants (BitVec.ofNat 17 (chunkSender p)) =
          countOf x.grants (BitVec.ofNat 17 (chunkSender p)) + payField p 28 4) ∧
    (∀ k : OutChunk, isRereq p = true → x.sent = [k] → k.poison = false → k.phase.toNat % 4 = payField p 10 1 % 4 →
      k.step.toNat = payField p 11 1 → k.off < payField p 32 8 + payField p 28 4 → payField p 32 8 < k.off + k.count →
      BitVec.ofNat 17 (chunkSender p) ∈ k.rcvs → s.StreamOpen (memberAt s c (chunkSender p)) →
      ∃ t q more, Machine.exec (.chunkRereq p) s = .next t ∧ t.rt.inject = s.rt.inject ++ (none, q) :: more ∧ q.kind = 4 ∧
        q.dest = memberAt s c (chunkSender p) ∧ q.payload.drop 64 = k.data)) ∧
  (∀ (p : Packet) (s : State), s.Runs → routerRuns s = true → inStream p = true → crcOk p = true → p.kind = 4 → isGrant p = false →
    isRereq p = false → rxCase (now s) (rxOf s p.src) p = .duplicate →
    ∃ t, Machine.exec (if isCounts p then .countChunk p else .chunk p) s = .next t ∧ t.ni.early = s.ni.early ∧
      ∀ i x, findCtx i s = some x → ∃ g, findCtx i t = some { x with given := g }) ∧
  (∀ (i : BitVec 9) (sender : BitVec 17) (phase step : Byte) (off : W64) (n : W32) (x : Ctx) (c : Comm) (s : State), s.Runs →
    findCtx i s = some x → findComm x.handle s = some c → x.serving.isSome = true →
    let passedBy : Prop := x.waitSince + x.chunkTimeout.toNat ≤ now s
    let waits : Prop := (∃ w ∈ s.threads, w.ctx = i ∧ w.st = .inCrecv ∧ w.waitArg.setWidth 16 = (step ++ phase : BitVec 16)) ∧
      chunkAt x sender.toNat phase step off.toNat = none
    (passedBy → waits → ∃ t y, Machine.exec (.chunkTimeout i sender phase step off n) s = .next t ∧ findCtx i t = some y ∧
      y.retried = true ∧ y.degraded = true ∧ y.waitSince = now s) ∧
    (¬passedBy ∨ ¬waits → Machine.exec (.chunkTimeout i sender phase step off n) s = .next s))

/-- CINCH_UP, CINCH_DOWN, VOTE_UP, VOTE_DOWN, CINCH_REREQ and CINCH_SET_TIMEOUT (11:R299 to R306): a fragment joins the set of its kind, axis and sender; another signature ends the
collective; a bad fragment counts as a failed copy, the fourth of which ends it; a whole result ends the member's part, and a whole vote gives its
agreement; a re-request sends the set again; a set that is missing when the timeout has passed is asked for; a packet of no collective changes
nothing. -/
def Obligations.CinchPackets : Prop :=
  (∀ (p : Packet) (x : Ctx) (c : Comm) (ct : Nat) (row : Instr) (s : State), s.Runs → routerRuns s = true → p.kind = 2 →
    payField p 10 1 % 16 = ct → s.Serves p x c →
    (ct, row) ∈ ([(1, .cinchUp p), (2, .cinchDown p), (5, .voteUp p), (6, .voteDown p)] : List (Nat × Instr)) →
    let vote : Bool := decide (5 ≤ ct)
    let k := setOf (now s) (x.crec vote) p
    let piece := (p.payload.drop 24).take (payField p 14 1)
    (crcOk p = true → pktPoison p = false → BitVec.ofNat 16 (payField p 8 2) ≠ sig16 x.sig →
      ∃ t, Machine.exec row s = .next t ∧ findCtx x.idx t = none) ∧
    (crcOk p = true → pktPoison p = false → BitVec.ofNat 16 (payField p 8 2) = sig16 x.sig → k.frags = [] → payField p 13 1 = 2 →
      ∃ t y n, Machine.exec row s = .next t ∧ findCtx x.idx t = some y ∧ n ∈ (y.crec vote).sets ∧ n.src = p.src ∧
        n.frags = [(BitVec.ofNat 8 (payField p 12 1), piece)] ∧ n.count = 2) ∧
    (crcOk p = false ∨ pktPoison p = true → k.bad = false →
      (k.copies < 3 → ∃ t y n, Machine.exec row s = .next t ∧ findCtx x.idx t = some y ∧ n ∈ (y.crec vote).sets ∧
        n.src = p.src ∧ n.frags = k.frags ∧ n.copies = k.copies + 1) ∧
      (3 ≤ k.copies → ∃ t, Machine.exec row s = .next t ∧ findCtx x.idx t = none)) ∧
    (crcOk p = true → pktPoison p = false → BitVec.ofNat 16 (payField p 8 2) = sig16 x.sig → k.frags = [] → payField p 13 1 = 1 →
      payField p 12 1 = 0 → (x.crec vote).downDone = false → relayAxes s c = [] →
      (ct = 2 → (cinchVals (payField p 11 1) x.count x.din piece).isSome = true →
        ∃ t, Machine.exec row s = .next t ∧ findCtx x.idx t = none) ∧
      (ct = 6 → x.plan = [] → x.outq ≠ [] → ∃ t y, Machine.exec row s = .next t ∧ findCtx x.idx t = some y ∧ y.agreed = true))) ∧
  (∀ (p : Packet) (x : Ctx) (c : Comm) (k : CinchSent) (s : State), s.Runs → routerRuns s = true → p.kind = 2 → payField p 10 1 % 16 = 4 →
    s.Serves p x c → crcOk p = true → x.cinch.sent = [k] → x.vote.sent = [] → k.axis.toNat = payField p 10 1 / 16 % 4 →
    p.src ∈ k.rcvs → k.stream.length ≤ 40 →
    ∃ t q, Machine.exec (.cinchRereq p) s = .next t ∧ t.rt.inject = s.rt.inject ++ [(none, q)] ∧ q.kind = 2 ∧ q.dest = p.src ∧
      q.mcast = false ∧ payField q 10 1 % 16 = k.ctype.toNat ∧ q.payload.drop 24 = k.stream) ∧
  (∀ (p : Packet) (ct : Nat) (row : Instr) (s : State), s.Runs → p.kind = 2 → payField p 10 1 % 16 = ct →
    (ct, row) ∈ ([(1, .cinchUp p), (2, .cinchDown p), (4, .cinchRereq p), (5, .voteUp p), (6, .voteDown p)] : List (Nat × Instr)) →
    findColl (chunkHandle p) (chunkSeq p) s = none → s.saved = [] → findComm (chunkHandle p) s = none →
    Machine.exec row s = .next s) ∧
  (∀ (i : BitVec 9) (ctype : BitVec 4) (axis : BitVec 2) (sender : Coord) (x : Ctx) (c : Comm) (s : State), s.Runs →
    findCtx i s = some x → findComm x.handle s = some c →
    let vote : Bool := decide (ctype = 5) || decide (ctype = 6)
    let down : Bool := decide (ctype = 2) || decide (ctype = 6)
    (x.crec vote).sets = [] → ctype = 1 ∨ ctype = 2 ∨ ctype = 5 ∨ ctype = 6 →
    (setExpected s c x vote down axis.toNat sender = true → x.startTick + x.chunkTimeout.toNat ≤ now s →
      ∃ t y q, Machine.exec (.cinchSetTimeout i ctype axis sender) s = .next t ∧ findCtx i t = some y ∧ y.retried = true ∧
        t.rt.inject = s.rt.inject ++ [(none, q)] ∧ q.kind = 2 ∧ q.dest = sender ∧ payField q 10 1 % 16 = 4) ∧
    (setExpected s c x vote down axis.toNat sender = false ∨ now s < x.startTick + x.chunkTimeout.toNat →
      Machine.exec (.cinchSetTimeout i ctype axis sender) s = .next s))

/-- HERALD, ABORT_NOTICE and HERALD_FRAME (02:R42 to R45; 07:R194; 09:R249, R250; 11:R305): one that the filter holds, or whose check fails, changes nothing; a new herald enters the filter and starts
its hold; a notice for a collective that has not started is kept, and one for a bound collective ends it. In NAP or DEEP the keeper answers BUSY while its
buffer is full and CREDIT for a key it has seen, and stores a new one. -/
def Obligations.HeraldsAndNotices : Prop :=
  (∀ (port : BitVec 4) (p : Packet) (emitter : BitVec 18) (k : HeraldKey) (s : State), s.Runs → routerRuns s = true →
    heraldKey p = some k →
    (filterHas s k = true ∨ crcOk p = false →
      (p.kind = 1 → Machine.exec (.herald port p emitter) s = .next s) ∧
      (isAbort p = true → Machine.exec (.abortNotice port p) s = .next s)) ∧
    (p.kind = 1 → filterHas s k = false → crcOk p = true →
      ∃ t, Machine.exec (.herald port p emitter) s = .next t ∧
        t.kp.filter = ({ key := k, sig := BitVec.ofNat 64 (payField p 8 8), emitter := some emitter, src := p.src } :: s.kp.filter).take 64 ∧
        (∀ h n, k = .collective h n → s.kp.acting.heraldHold ≠ 0 →
          { key := .herald h n, until_ := now s + s.kp.acting.heraldHold.toNat } ∈ t.kp.holds) ∧
        (∀ h c n, k = .prewarm h c n → 0 < payField p 20 4 →
          { key := .prewarm h, until_ := now s + payField p 20 4 } ∈ t.kp.holds)) ∧
    (∀ c, isAbort p = true → filterHas s k = false → crcOk p = true →
      findComm (BitVec.ofNat 32 (payField p 0 4)) s = some c →
      let n := noticeOf p
      (1 ≤ seqAhead c.seq n.seq → seqAhead c.seq n.seq < 2 ^ 31 → (∀ m ∈ c.notices, m.seq ≠ n.seq) →
        ∃ t d, Machine.exec (.abortNotice port p) s = .next t ∧ findComm (BitVec.ofNat 32 (payField p 0 4)) t = some d ∧
          n ∈ d.notices ∧ t.ctxs = s.ctxs) ∧
      (seqAhead c.seq n.seq = 0 → ∀ x, findColl (BitVec.ofNat 32 (payField p 0 4)) n.seq s = some x →
        ∃ t, Machine.exec (.abortNotice port p) s = .next t ∧ findCtx x.idx t = none))) ∧
  (∀ (port : BitVec 4) (p : Packet) (emitter : BitVec 18) (s : State), s.Runs → asleep s = true →
    (getPort port.toNat s).st = .lpi ∨ (getPort port.toNat s).st = .sleep → p.kind = 1 ∨ isAbort p = true →
    (16 ≤ s.kp.buffer.length → Machine.exec (.heraldFrame port p emitter) s =
      .next (sendFrame port.toNat .busy { s with kp := { s.kp with busySent := satInc s.kp.busySent } })) ∧
    (∀ k, s.kp.buffer.length < 16 → heraldKey p = some k → filterHas s k = true →
      Machine.exec (.heraldFrame port p emitter) s = .next (sendFrame port.toNat .credit s)) ∧
    (∀ k, s.kp.buffer.length < 16 → heraldKey p = some k → filterHas s k = false → s.kp.trans = .none →
      ∃ t, Machine.exec (.heraldFrame port p emitter) s = .next t ∧ t.kp.buffer = s.kp.buffer ++ [(port, p)] ∧
        t.kp.trans = .wake 2 (now s) ∧ filterHas t k = true))

/-- The frames of sleep signalling (07:R193, R194, R547; 02:R36): CREDIT and BUSY set the port's herald credit and busy mark, and a CREDIT after a BUSY sends the frame that was refused again (log 85); a herald frame that stays unanswered goes
again, four times at most; WAKE to a sleeping engine is a wake request with cause 0x3; a RESUME to an engine that is awake ends the sleep
signalling of its port; DEEP moves an LPI link to SLEEP and its bridge member to DARK. -/
def Obligations.SleepFrames : Prop :=
  ∀ (port : BitVec 4) (s : State), s.Runs → s.HasPort port.toNat →
    let i := port.toNat
    let p := getPort i s
    let quiet : Prop := p.st = .lpi ∨ p.st = .sleep
    (quiet → p.outq.getD 0 [] = [] → (p.heldFrame = none ∨ p.busy = false) → Machine.exec (.creditFrame port) s = .next (modPort i (fun p => { p with
      heraldCredit := true, heldFrame := none, frameTries := 0, busy := false }) s)) ∧
    (∀ o rest, quiet → p.outq.getD 0 [] = o :: rest → p.outq.length = 4 → (p.heldFrame = none ∨ p.busy = false) →
      ∃ t, Machine.exec (.creditFrame port) s = .next t ∧ t.out = .frame port (.herald o.pkt) :: s.out ∧
        (getPort i t).outq = setAt 0 rest p.outq ∧ (getPort i t).heraldCredit = false ∧ (getPort i t).heldFrame = some o.pkt ∧
        (getPort i t).frameTries = 0 ∧ (getPort i t).busy = false ∧ (getPort i t).st = p.st) ∧
    (∀ q, quiet → p.heldFrame = some q → p.busy = true → ∃ t, Machine.exec (.creditFrame port) s = .next t ∧
      t.out = .frame port (.herald q) :: s.out ∧
      getPort i t = { p with heraldCredit := false, frameTries := 0, busy := false }) ∧
    Machine.exec (.busyFrame port) s = .next (modPort i (fun p => { p with busy := p.heldFrame.isSome }) s) ∧
    (∀ q, p.heldFrame = some q →
      (quiet → p.busy = false → p.frameTries < 4 → ∃ t, Machine.exec (.heraldFrameTimeout port) s = .next t ∧
        t.out = .frame port (.herald q) :: s.out ∧ getPort i t = { p with frameTries := p.frameTries + 1 }) ∧
      (p.busy = true ∨ 4 ≤ p.frameTries → Machine.exec (.heraldFrameTimeout port) s = .next s)) ∧
    (quiet → asleep s = true → s.kp.trans = .none → Machine.exec (.wakeFrame port) s =
      .next { s with kp := { s.kp with idleSince := now s, trans := .wake 3 (now s), lastWake := 3 } }) ∧
    (p.st = .lpi → routerRuns s = true → ∃ t u, Machine.exec (.wakeFrame port) s = .next t ∧
      Machine.exec (.resumeFrame port) s = .next u ∧ (getPort i t).st = identityState s i ∧ (getPort i u).st = identityState s i) ∧
    (p.st = .sleep → routerRuns s = true → ∃ t, Machine.exec (.resumeFrame port) s = .next t ∧ (getPort i t).st = .training) ∧
    (asleep s = true → Machine.exec (.resumeFrame port) s = .next s) ∧
    (p.st = .lpi → ∃ t, Machine.exec (.deepFrame port) s = .next t ∧ (getPort i t).st = .sleep ∧ (getPort i t).heraldCredit = true ∧
      (i < 6 → (getPort (i + 6) s).st = .lpi → (getPort (i + 6) t).st = .dark)) ∧
    (p.st ≠ .lpi → Machine.exec (.deepFrame port) s = .next s)

/-! ## Links, routers and the network interface -/

/-- Control flits and groups on a port that is UP (07:R183 to R186, R188, R189, R192; 08:R204 to R208): a flit whose CRC fails is counted and dropped, and so is every
flit on a port that carries none; ACK_SEQ retires groups in every type; RETRY_REQ and ACK_TIMEOUT send every group that is kept, from the one named on, again, the 16th replay from one group and the fourth timeout in a row ending
the link; CREDIT gives the running totals; IDENTITY gives the far end's values and the check's state; LPI_REQ is answered once nothing is queued, and LPI_ACK ends in LPI; a good
group in order advances the receiver, and a bad one draws a RETRY_REQ. A group that comes as codewords of a bridge link acts as the group that
they decode to, and the near GB2 counts the symbols corrected and the codewords not correctable. -/
def Obligations.LinkFlits : Prop :=
  (∀ (port : BitVec 4) (f : CtrlFlit) (s : State), s.Runs → s.HasPort port.toNat →
    ∀ row ∈ ([.retryReq port f, .ack port f, .credit port f, .identity port f, .lpiReq port f, .lpiAck port f] : List Instr),
    ((getPort port.toNat s).st = .down ∨ (getPort port.toNat s).st = .lpi → Machine.exec row s = .next s) ∧
    ((getPort port.toNat s).st = .up → f ≠ ctrlFlit f.type f.ackSeq f.retrySeq f.body → (getPort port.toNat s).winErr < 31 →
      ∃ t, Machine.exec row s = .next t ∧
        (getPort port.toNat t).cnt.crcErr = satInc (getPort port.toNat s).cnt.crcErr ∧
        (getPort port.toNat t).txGroups = (getPort port.toNat s).txGroups ∧ (getPort port.toNat t).st = .up)) ∧
  (∀ (port : BitVec 4) (type : Byte) (ack retry : W16) (body : BitVec 416) (s : State), s.Runs → s.HasPort port.toNat →
    (getPort port.toNat s).st = .up →
    let i := port.toNat
    let f := ctrlFlit type ack retry body
    let p := getPort i s
    let q := ackGroups ack p
    let same := if q.replayFrom = retry ∧ q.replaySame ≠ 0 then q.replaySame + 1 else 1
    Machine.exec (.ack port f) s = .next (modPort i (ackGroups ack) s) ∧
    q.txGroups = p.txGroups.filter (fun g => !groupLe g.seq ack) ∧
    (same < 16 → ∃ t more, Machine.exec (.retryReq port f) s = .next t ∧ t.out = more ++ s.out ∧
      (∀ g ∈ q.txGroups, groupLe retry g.seq = true → ∃ x : FlitGroup, .group port x ∈ more ∧ x.data = g.data ∧ x.groupSeq = g.seq ∧
        x.crc = groupCrc x.data x.groupSeq x.ackSeq) ∧
      (getPort i t).txGroups = q.txGroups ∧ (getPort i t).st = .up ∧ (getPort i t).cnt.replays = satInc p.cnt.replays ∧ (getPort i t).replaySame = same) ∧
    (16 ≤ same → ∃ t, Machine.exec (.retryReq port f) s = .next t ∧ (getPort i t).st = .down ∧ (getPort i t).cause = 2) ∧
    Machine.exec (.credit port f) s = .next (modPort i (fun p => { ackGroups ack p with
      txFreed := [body.setWidth 16, body.extractLsb' 16 16, body.extractLsb' 32 16, body.extractLsb' 48 16]
      rxCover := some (body.extractLsb' 64 16, body.extractLsb' 80 8) }) s) ∧
    (∃ t, Machine.exec (.identity port f) s = .next t ∧ (getPort i t).farCoord = body.setWidth 32 ∧
      (getPort i t).farDims = body.extractLsb' 32 32 ∧ (getPort i t).farPort = body.extractLsb' 64 8 ∧
      (getPort i t).farRail = body.getLsbD 72 ∧ (getPort i t).st = identityState t i) ∧
    (p.outq.all (fun l => l.isEmpty) = true → p.txStream = [] → p.txIns = [] → ∃ t, Machine.exec (.lpiReq port f) s = .next t ∧
      (getPort i t).lpiSent = true ∧ (getPort i t).lpiAsked = false ∧
      ∃ g more, t.out = more ++ .ctrl port g :: s.out ∧ g.type = 6 ∧ (i < 6 → more = [])) ∧
    (p.outq.all (fun l => l.isEmpty) = false ∨ p.txStream ≠ [] ∨ p.txIns ≠ [] → ∃ t, Machine.exec (.lpiReq port f) s = .next t ∧
      (getPort i t).lpiAsked = true ∧ t.out = s.out) ∧
    (p.lpiWanted = true ∨ p.lpiSent = true → ∃ t, Machine.exec (.lpiAck port f) s = .next t ∧ (getPort i t).st = .lpi ∧
      (getPort i t).heraldCredit = true) ∧
    (p.lpiWanted = false → p.lpiSent = false → Machine.exec (.lpiAck port f) s = .next (modPort i (ackGroups ack) s))) ∧
  (∀ (port : BitVec 4) (s : State), s.Runs → s.HasPort port.toNat → (getPort port.toNat s).st = .up →
    let p := getPort port.toNat s
    (p.txGroups = [] → Machine.exec (.ackTimeout port) s = .next s) ∧
    (∀ g rest, p.txGroups = g :: rest →
      (p.ackTimeouts < 3 → p.replaySame < 15 → ∃ t more, Machine.exec (.ackTimeout port) s = .next t ∧ t.out = more ++ s.out ∧
        (∀ x ∈ p.txGroups, groupLe g.seq x.seq = true → ∃ y : FlitGroup, .group port y ∈ more ∧ y.data = x.data ∧ y.groupSeq = x.seq) ∧
        (getPort port.toNat t).ackTimeouts = p.ackTimeouts + 1) ∧
      (3 ≤ p.ackTimeouts → ∃ t, Machine.exec (.ackTimeout port) s = .next t ∧ (getPort port.toNat t).st = .down))) ∧
  (∀ (port : BitVec 4) (g : FlitGroup) (s : State), s.Runs → s.HasPort port.toNat →
    let i := port.toNat
    let p := getPort i s
    (p.st ≠ .up → ∀ x, Machine.exec (.group port x) s = .next s) ∧
    (∀ lanes start, p.st = .up →
      let x := groupInput i (.coded lanes start) s
      let d := decodeRun (fromLanes lanes).length (fromLanes lanes)
      Machine.exec (.group port (.coded lanes start)) s = Machine.exec (.group port (.frame x.1)) x.2 ∧
      x.1 = groupOf (symbolsNat d.1 >>> start) ∧ (i < 6 → x.2 = s) ∧
      (6 ≤ i → x.2 = modPort i (fun p => { p with cnt := { p.cnt with
        fecCorr := satAdd p.cnt.fecCorr d.2.1, fecUncorr := satAdd p.cnt.fecUncorr d.2.2 } }) s)) ∧
    (∀ q, p.st = .up → g.crc = groupCrc g.data g.groupSeq g.ackSeq → g.groupSeq = p.rxNext → insertionMark p g.groupSeq = some false →
      cutFlits p.rxFlits (groupFlits g.data) = ([q], []) → p.inq.length = 4 → ∃ t, Machine.exec (.group port (.frame g)) s = .next t ∧
      (getPort i t).rxNext = p.rxNext + 1 ∧ (getPort i t).rxFlits = [] ∧
      (getPort i t).inq.getD q.vc.toNat [] = p.inq.getD q.vc.toNat [] ++ [q]) ∧
    (p.st = .up → g.crc ≠ groupCrc g.data g.groupSeq g.ackSeq → p.rxWaitReplay = false → p.winErr < 31 →
      ∃ t, Machine.exec (.group port (.frame g)) s = .next t ∧ (getPort i t).rxNext = p.rxNext ∧ (getPort i t).rxWaitReplay = true ∧
        (getPort i t).inq = p.inq ∧ ∃ f, t.out = .ctrl port f :: s.out ∧ f.type = 2 ∧ f.retrySeq = p.rxNext))

/-- Training and the end of a link (07:R180 to R182, R191, R195; 02:R49; 16:R454): a DOWN port that may train begins full training at a signal and at each retry, and a retired one does not; trained lanes give its
width (those of the half that is left, after the loss of the other), their coefficients are saved beside those saved before, and the identity check gives its state; a step that times out falls back to full training, tries three times, and ends in DOWN; a loss of lock on one half retrains,
on both halves ends the link; a far end that is gone ends it; a fault of a bridge unit ends both its ports. A port in DOWN is dark: width 0. -/
def Obligations.LinkTraining : Prop :=
  ∀ (port : BitVec 4) (s : State), s.Runs → s.HasPort port.toNat →
    let i := port.toNat
    let p := getPort i s
    let down (t : State) (j : Nat) : Prop := (getPort j t).st = .down ∧ (getPort j t).width = 0
    (mayTrain s i = true → Machine.exec (.signalDetect port) s = .next (modPort i beginFull s) ∧
      Machine.exec (.trainingRetry port) s = .next (modPort i beginFull s) ∧ (beginFull p).st = .training ∧
      ((beginFull p).training.map fun t => (t.saved, t.attempt)) = some (false, 1)) ∧
    (p.retired = true ∨ p.st ≠ .down ∨ routerRuns s = false →
      Machine.exec (.signalDetect port) s = .next s ∧ Machine.exec (.trainingRetry port) s = .next s) ∧
    (∀ t lanes, p.training = some t → 0 < widthOf (lanesUsed p t lanes) → ∃ u, Machine.exec (.trainingDone port lanes) s = .next u ∧
      (getPort i u).width = widthOf (lanesUsed p t lanes) ∧ (getPort i u).training = none ∧ (getPort i u).st = identityState u i ∧
      (getPort i u).savedEq = p.savedEq ||| lanes) ∧
    (∀ lanes, p.training = none → Machine.exec (.trainingDone port lanes) s = .next s) ∧
    (∀ t lanes, p.training = some t → widthOf (lanesUsed p t lanes) = 0 → Machine.exec (.trainingDone port lanes) s = .next s) ∧
    widthOf 0xFF = 8 ∧ widthOf 0x0F = 4 ∧ widthOf 0xF0 = 4 ∧ widthOf 0x3C = 0 ∧
    (p.training = none → Machine.exec (.trainingStepTimeout port) s = .next s) ∧
    (∀ t, p.training = some t →
      (t.saved = true → ∃ u, Machine.exec (.trainingStepTimeout port) s = .next u ∧
        (getPort i u).training = some { t with saved := false, attempt := 1 }) ∧
      (t.saved = false → t.attempt < 3 → ∃ u, Machine.exec (.trainingStepTimeout port) s = .next u ∧
        (getPort i u).training = some { t with attempt := t.attempt + 1 } ∧ (getPort i u).st = p.st) ∧
      (t.saved = false → 3 ≤ t.attempt → ∃ u, Machine.exec (.trainingStepTimeout port) s = .next u ∧ down u i ∧
        (getPort i u).cause = 1)) ∧
    (p.st = .up → p.width = 8 →
      ∃ t u, Machine.exec (.lockLoss port 0x01) s = .next t ∧ (getPort i t).st = .training ∧
        Machine.exec (.lockLoss port 0x11) s = .next u ∧ down u i ∧ (getPort i u).cause = 4) ∧
    (Machine.exec (.lockLoss port 0) s = .next s) ∧
    (p.st = .up ∨ p.st = .lpi ∨ p.st = .sleep → ∃ t, Machine.exec (.farGone port) s = .next t ∧ down t i ∧ (getPort i t).cause = 6) ∧
    (p.st = .down → Machine.exec (.farGone port) s = .next s) ∧
    (s.boot.runRails = 2 → ∀ unit : BitVec 2, unit ≠ 3 → (getPort (6 + 2 * unit.toNat) s).st = .up →
      (getPort (7 + 2 * unit.toNat) s).st = .up → ∃ t, Machine.exec (.gb2Fault unit) s = .next t ∧
        down t (6 + 2 * unit.toNat) ∧ down t (7 + 2 * unit.toNat)) ∧
    (s.boot.runRails ≠ 2 → ∀ unit : BitVec 2, Machine.exec (.gb2Fault unit) s = .next s)

/-- ARBITRATION_WINDOW, PACKET_START and PACKET_FORWARD (08:R207 to R214, R220, R223, R224; 07:R183, R184, R192), while no PREWARM waits for its heralds: a window gives VC0 its cap and the others their weights and carried deficit, once; the packet that a link starts leaves
its queue, follows the flits that wait, and is kept for retry; a group that a port sends carries the next number and its check, and is kept;
a packet head at an input moves to the port of its route and keeps its slot until its tail leaves, stays while the port has no
room, and is delivered at its destination with its slot freed; a packet of this node's NI goes when the rate of its class admits it. -/
def Obligations.RouterMoves : Prop :=
  (∀ (port : BitVec 4) (s : State), s.Runs → s.HasPort port.toNat →
    let i := port.toNat
    let p := getPort i s
    (now s % 100 ≠ 0 ∨ p.window = now s / 100 + 1 → Machine.exec (.arbitrationWindow port) s = .next s) ∧
    (now s % 100 = 0 → p.window ≠ now s / 100 + 1 → ∃ t, Machine.exec (.arbitrationWindow port) s = .next t ∧
      (getPort i t).window = now s / 100 + 1 ∧ (getPort i t).credit = [((windowBytes p / 10 : Nat) : Int),
        ((windowBytes p * s.cfg.w1.toNat / 64 : Nat) : Int) + min 0 (p.credit.getD 1 0),
        ((windowBytes p * s.cfg.w2.toNat / 64 : Nat) : Int) + min 0 (p.credit.getD 2 0),
        ((windowBytes p * s.cfg.w3.toNat / 64 : Nat) : Int) + min 0 (p.credit.getD 3 0)]) ∧
    (p.st ≠ .up ∨ p.lpiSent = true → Machine.exec (.packetStart port) s = .next s) ∧
    (p.st = .up → p.lpiSent = false → p.outq = [[], [], [], []] → Machine.exec (.packetStart port) s = .next s) ∧
    (∀ o, p.st = .up → p.lpiSent = false → p.width = 8 ∨ p.width = 4 → p.outq = [[], [o], [], []] → o.need ≤ slotsFree p 1 →
      p.retry = [] → flitBytes o.pkt ≤ 65536 → p.txStream = [] → (∀ c ∈ s.cmds, ∀ h n, c.kind ≠ .prewarm h n) →
      ∃ t, Machine.exec (.packetStart port) s = .next t ∧
      t.out = .packet port o.pkt :: s.out ∧ (getPort i t).outq = [[], [], [], []] ∧ (getPort i t).retry = [(p.txPkt, o)] ∧
      (getPort i t).txStream = [{ num := p.txPkt, vc := o.pkt.vc, head := true, flits := flitsOf o.pkt }] ∧ (getPort i t).lastVc = 1) ∧
    (∃ x more g, (sendGroup i s).out = more ++ .group port x :: s.out ∧ x.groupSeq = p.txNext ∧
      x.crc = groupCrc x.data x.groupSeq x.ackSeq ∧ (getPort i (sendGroup i s)).txNext = p.txNext + 1 ∧
      (getPort i (sendGroup i s)).txGroups = p.txGroups ++ [g] ∧ g.seq = p.txNext ∧ g.data = x.data)) ∧
  (∀ (port : BitVec 4) (vc : BitVec 2) (s : State), s.Runs → s.HasPort port.toNat → routerRuns s = true →
    (∀ c ∈ s.cmds, ∀ h n, c.kind ≠ .prewarm h n) →
    let i := port.toNat
    let row : Instr := .packetForward (.input port vc)
    ((getPort i s).inq.getD vc.toNat [] = [] → Machine.exec row s = .next s) ∧
    (∀ (p : Packet) (d need j : Nat) (r : Bool) (rest : List Packet), (getPort i s).inq.getD vc.toNat [] = p :: rest →
      (getPort i s).rxHeld.getD vc.toNat 0 < 3 → p.mcast = false → routePacket s (some (i % 6)) p = .out d need r → pickMember s p.vc d = some j →
      (canTake (getPort j s) p.vc.toNat need = true → (getPort j s).lpiSent = false →
        Machine.exec row s = .next (enqueueOut j need (some (i, vc.toNat)) { p with rerouted := r } (takeInput i vc.toNat s))) ∧
      (canTake (getPort j s) p.vc.toNat need = false → Machine.exec row s = .next s)) ∧
    (∀ p rest, (getPort i s).inq.getD vc.toNat [] = p :: rest → (getPort i s).rxHeld.getD vc.toNat 0 < 3 → p.mcast = false →
      p.dest = myCoord s →
      (p.kind = 5 → ∀ t, Machine.exec (.putPacket p) (freeSlot i vc.toNat (takeInput i vc.toNat s)) = .next t →
        (∀ c ∈ t.cmds, ∀ h n, c.kind ≠ .prewarm h n) → Machine.exec row s = .next t) ∧
      (p.kind = 15 → Machine.exec row s = .next (freeSlot i vc.toNat (takeInput i vc.toNat s))))) ∧
  (∀ s : State, s.Runs → routerRuns s = true → s.rt.inject = [] → (∀ c ∈ s.cmds, ∀ h n, c.kind ≠ .prewarm h n) →
    Machine.exec (.packetForward .inject) s = .next s) ∧
  (∀ (p : Packet) (d need j : Nat) (r : Bool) (s : State), s.Runs → routerRuns s = true → s.rt.inject = [(none, p)] → p.mcast = false →
    routePacket s none p = .out d need r → pickMember s p.vc d = some j → canTake (getPort j s) p.vc.toNat need = true →
    (getPort j s).lpiSent = false → (∀ c ∈ s.cmds, ∀ h n, c.kind ≠ .prewarm h n) →
    (rateAdmits s (j % 6) { p with rerouted := r } = true → Machine.exec (.packetForward .inject) s =
      .next (chargeRate (j % 6) { p with rerouted := r }
        (enqueueOut j need none { p with rerouted := r } { s with rt := { s.rt with inject := [] } }))) ∧
    (rateAdmits s (j % 6) { p with rerouted := r } = false → Machine.exec (.packetForward .inject) s = .next s)) ∧
  (∀ (src : ForwardSource) (s : State), s.Runs → routerRuns s = false → Machine.exec (.packetForward src) s = .next s)

/-- The requests of one-sided traffic at their target (06:R160; 08:R202; 10:R284, R285, R548; 13:R353; 16:R464, R465): an accepted PUT or lane store writes its bytes; a read is answered with the bytes, an atomic with the
old value, which its journal keeps; a request that the checks refuse is answered with a MISS_ACK that names the reason, and writes nothing; a duplicate PUT writes
nothing. -/
def Obligations.RequestsServed : Prop :=
  (∀ (p : Packet) (r : RxStream) (row : Instr) (s : State), s.Accepts p r → s.NothingWaits → reqFormed p = true →
    (p.kind.toNat, row) ∈ ([(5, .putPacket p), (6, .getReq p), (7, .atomicReq p), (8, .laneStore p), (9, .laneLoad p)] : List (Nat × Instr)) →
    let a := payAddr p
    let n := reqLen p
    let ps := localPieces s a n
    let answered (kind : BitVec 4) (body : Bytes) (t : State) : Prop := ∃ q : Packet, t.rt.inject = s.rt.inject ++ [(none, q)] ∧
      q.kind = kind ∧ q.dest = p.src ∧ q.tag = p.tag ∧ q.payload = body
    (∀ reason, missReason s p = some reason → s.StreamOpen p.src → ∃ t, Machine.exec row s = .next t ∧
      answered 0xC [reason] t ∧ t.stg = s.stg ∧ t.tm.mem = s.tm.mem) ∧
    (missReason s p = none → p.kind = 5 ∨ p.kind = 8 → ∃ t, Machine.exec row s = .next t ∧
      t.stg = (storeBytes a (p.payload.drop 8) (pktPoison p) s).stg ∧ t.tm = (storeBytes a (p.payload.drop 8) (pktPoison p) s).tm ∧
      t.rt = s.rt) ∧
    (missReason s p = none → p.kind = 6 ∨ p.kind = 9 → busReady ps s = true → s.StreamOpen p.src →
      ∃ t, Machine.exec row s = .next t ∧ answered 0xA (localRead s a n) t ∧ t.stg = s.stg ∧ t.tm = s.tm) ∧
    (missReason s p = none → p.kind = 7 → busReady ps s = true → s.StreamOpen p.src →
      let old := localRead s a n
      let new := atomicNew (payField p 8 1) n (leNat old) (payField p 16 8 % 2 ^ (8 * n)) (payField p 24 8 % 2 ^ (8 * n))
      ∃ t, Machine.exec row s = .next t ∧ answered 0xB (leBytes 8 (leNat old)) t ∧
        t.stg = (localWrite a (leBytes n new) s).stg ∧ t.tm = (localWrite a (leBytes n new) s).tm ∧
        (p.tag, (BitVec.ofNat 64 (leNat old) : W64)) ∈ journalOf t p.src)) ∧
  (∀ (p : Packet) (row : Instr) (s : State), s.Runs → routerRuns s = true → s.NothingWaits → inStream p = true → crcOk p = true →
    (p.kind.toNat, row) ∈ ([(5, .putPacket p), (8, .laneStore p)] : List (Nat × Instr)) →
    ejectHeld s + flitBytes p ≤ Config.ejectMax → rxCase (now s) (rxOf s p.src) p = .duplicate →
    ∃ t, Machine.exec row s = .next t ∧ t.stg = s.stg ∧ t.tm = s.tm ∧ t.bus = s.bus) ∧
  (∀ (p : Packet) (row : Instr) (s : State), s.Runs → routerRuns s = true → s.NothingWaits → inStream p = true → crcOk p = true →
    (p.kind.toNat, row) ∈ ([(5, .putPacket p), (6, .getReq p), (7, .atomicReq p), (8, .laneStore p), (9, .laneLoad p)] : List (Nat × Instr)) →
    Config.ejectMax < ejectHeld s + flitBytes p →
    ∃ t q, Machine.exec row s = .next t ∧ t.stg = s.stg ∧ t.tm = s.tm ∧ t.rt.inject = s.rt.inject ++ [(none, q)] ∧ q.kind = 3 ∧
      q.dest = p.src ∧ natBits 0 8 q.tag.toNat = 2)

/-- The answers to one-sided requests at their source (06:R161; 08:R202, R227; 10:R283, R285; 13:R353, R360; 16:R466): the bytes of a read go to the register of the lane load, or to the destination of the GET, which ends with its last
answer; an atomic ends with the old value; a MISS_ACK ends an atomic with CHECK_FAIL; a drain marker returns marked, in its own
epoch, and a returned one leaves its round. An answer to nothing changes nothing. -/
def Obligations.ResponsesTaken : Prop :=
  (∀ (p : Packet) (r : RxStream) (s : State), s.Accepts p r → s.ni.serving = [] → p.kind = 0xA → s.host.busMaster = true →
    s.qs.length = 64 →
    (∀ tid d n y q, s.cmds = [] → reqFor p [6, 9] s = some q → q.owner = .load tid d n → findThread tid s = some y →
      (∀ w ∈ s.threads, w.id = tid → w = y) → y.s.length = 32 →
      ∃ t z, Machine.exec (.readResp p) s = .next t ∧ findThread tid t = some z ∧ z.pc = y.pc + 1 ∧ z.st = .running ∧
        sreg z d = BitVec.ofNat 64 (leNat (slice 0 n p.payload)) ∧ (∀ k : BitVec 5, k ≠ d → sreg z k = sreg y k)) ∧
    (∀ q c x, reqFor p [6, 9] s = some q → s.ni.reqs = [q] → s.cmds = [c] → q.owner = .cmd c.id → c.kind = .get x → x.len ≤ x.next →
      x.signal = none → x.miss = none → x.poison = false → pktPoison p = false → ∃ t, Machine.exec (.readResp p) s = .next t ∧ t.cmds = [] ∧
        t.stg = (localWrite q.localAddr p.payload s).stg ∧ t.tm = (localWrite q.localAddr p.payload s).tm ∧ t.ni.reqs = []) ∧
    (s.cmds = [] → reqFor p [6, 9] s = none → ∃ t, Machine.exec (.readResp p) s = .next t ∧ t.stg = s.stg ∧ t.tm = s.tm ∧
      t.threads = s.threads)) ∧
  (∀ (p : Packet) (r : RxStream) (c : Cmd) (q : Req) (h : W32) (rank : BitVec 18) (dest : Coord) (s : State), s.Accepts p r →
    s.ni.serving = [] → s.host.busMaster = true → s.qs.length = 64 → Memory.wf 0 s.bus = true → s.cmds = [c] →
    c.kind = .atomic h rank dest → q.owner = .cmd c.id →
    let g := getPage c.q.toNat s
    let at_ := g.cqBase.toNat + 32 * g.cqTail.toNat
    (p.kind = 0xB → reqFor p [7] s = some q → p.payload.length = 8 → ∃ t, Machine.exec (.atomicResp p) s = .next t ∧ t.cmds = [] ∧
      busRead t at_ 4 = bvBytes 4 c.tag ∧ busRead t (at_ + 8) 8 = leBytes 8 (payField p 0 8)) ∧
    (p.kind = 0xC → reqFor p [5, 6, 7, 8, 9] s = some q → ∃ t, Machine.exec (.missAck p) s = .next t ∧ t.cmds = [] ∧
      busRead t at_ 5 = bvBytes 4 c.tag ++ [stCheckFail] ∧ busRead t (at_ + 8) 1 = [BitVec.ofNat 8 (payField p 0 1)])) ∧
  (∀ (p : Packet) (r : RxStream) (s : State), s.Runs → routerRuns s = true → inStream p = true → crcOk p = true → p.kind = 0xE →
    rxCase (now s) (rxOf s p.src) p = .take r → (p.flag = true → flagReady r p = true ∧ servedAll s p.src = true) →
    (p.tag.getLsbD 0 = false → s.StreamOpen p.src → ∃ t q, Machine.exec (.drainMarker p) s = .next t ∧
      (none, q) ∈ t.rt.inject ∧ q.kind = 0xE ∧ q.dest = p.src ∧ q.tag = p.tag ||| 1 ∧ q.epoch = p.epoch) ∧
    (∀ w, s.ni.serving = [] → p.tag.getLsbD 0 = true → s.ni.rounds = [w] → w.num = p.tag >>> 2 → w.dests.length = 2 → p.src ∈ w.dests → w.dests.Nodup →
      ∃ t, Machine.exec (.drainMarker p) s = .next t ∧
        t.ni.rounds = [{ w with dests := w.dests.filter fun d => d ≠ p.src }]))

/-- Streams and rates (08:R210, R216 to R220, R226; 10:R286; 16:R459, R463 to R466, R472): an ACK retires the packets below
NEXT_SEQ; an acknowledgement carries NEXT_SEQ and starts the count anew, and waits while the NI holds a flagged packet below NEXT_SEQ (the model's
choice, log 83); a BUSY answer lets its request go again 2 µs later, in the current epoch and under its SEQ; a re-request repeats the packet that it names,
unless that is a request whose command has ended, and starts degraded routing; a request without an answer is issued once more, and then an atomic ends; held
flagged packets act when their turn has come, and the acknowledgement that is due goes; rates rise and return to their default when their time has passed. What is
not due changes nothing. -/
def Obligations.StreamsKept : Prop :=
  (∀ (p : Packet) (s : State), s.Runs → routerRuns s = true → p.kind = 3 →
    let n : BitVec 15 := BitVec.ofNat 15 (natBits 16 16 p.tag.toNat)
    let named := (txOf s p.src).unacked.find? fun q => decide (q.seq = n)
    (p.tag.setWidth 8 = (1 : Byte) → p.echo = false → s.cmds = [] → s.ni.reqs = [] → (∀ x ∈ s.ctxs, x.outq = []) →
      (txOf s p.src).waiting = [] → (rxOf s p.src).missed = [] → ∃ t, Machine.exec (.e2eAck p) s = .next t ∧
        (txOf t p.src).unacked = (txOf s p.src).unacked.filter (fun q => !seqBelow q.seq n) ∧ t.rt = s.rt) ∧
    (p.tag.setWidth 8 = (3 : Byte) → (named = none ∨ ∃ q, named = some q ∧ isRequest q = true ∧ ∀ r ∈ s.ni.reqs, r.num ≠ q.tag) →
      Machine.exec (.e2eRereq p) s = .next (degradeRouting s)) ∧
    (∀ q, p.tag.setWidth 8 = (3 : Byte) → named = some q → (isRequest q = true → ∃ r ∈ s.ni.reqs, r.num = q.tag) →
      ∃ t, Machine.exec (.e2eRereq p) s = .next t ∧ t.rt.inject = s.rt.inject ++ [(none, { q with epoch := s.ni.epoch })] ∧
        t.ni.degradedAt = some (now s) ∧ (isRequest q = true → ∀ r ∈ t.ni.reqs, r.num = q.tag → r.reissued = true)) ∧
    (p.tag.setWidth 8 = (2 : Byte) → s.ni.reqs = [] → Machine.exec (.e2eBusy p) s = .next s)) ∧
  (∀ (c : Coord) (s : State), s.Runs → routerRuns s = true →
    ((rxOf s c).accepted = 0 → Machine.exec (.e2eAckSend c) s = .next s) ∧
    (∀ n, (rxOf s c).next = some n → (∃ q ∈ (rxOf s c).held, seqBelow q.seq n = true) → Machine.exec (.e2eAckSend c) s = .next s) ∧
    (∀ n, 0 < (rxOf s c).accepted → (rxOf s c).src = c → (rxOf s c).next = some n → (rxOf s c).missed = [] → (rxOf s c).held = [] →
      ∃ t q, Machine.exec (.e2eAckSend c) s = .next t ∧ t.rt.inject = s.rt.inject ++ [(none, q)] ∧ q.kind = 3 ∧ q.dest = c ∧
        q.tag.setWidth 8 = (1 : Byte) ∧ natBits 16 16 q.tag.toNat = n.toNat ∧ (rxOf t c).accepted = 0)) ∧
  (∀ (p : Packet) (r : Req) (s : State), s.Runs → routerRuns s = true → p.kind = 3 → p.tag.setWidth 8 = (2 : Byte) → s.ni.reqs = [r] →
    r.pkt.dest = p.src → r.num.setWidth 16 = (p.tag >>> 16).setWidth 16 → s.ni.busy = [] →
    ∃ t, Machine.exec (.e2eBusy p) s = .next t ∧ t.ni.busy = [(r.num, now s)] ∧ t.rt = s.rt) ∧
  (∀ (r : Req) (at_ : Nat) (s : State), s.Runs → routerRuns s = true → s.ni.reqs = [r] → s.ni.busy = [(r.num, at_)] →
    (now s < at_ + 50 → Machine.exec (.busyResend r.num) s = .next s) ∧
    (at_ + 50 ≤ now s → ∃ u, Machine.exec (.busyResend r.num) s = .next u ∧ u.ni.busy = [] ∧ u.ni.reqs = s.ni.reqs ∧
      u.rt.inject = s.rt.inject ++ [(none, { r.pkt with epoch := s.ni.epoch })])) ∧
  (∀ (n : W32) (s : State), s.Runs → (∀ b ∈ s.ni.busy, b.1 ≠ n) → Machine.exec (.busyResend n) s = .next s) ∧
  (∀ (c : Coord) (n : BitVec 15) (s : State), s.Runs → routerRuns s = true → (rxOf s c).next = some n →
    let late : Prop := (rxOf s c).stuckAt + s.cfg.chunkTimeout.toNat ≤ now s
    ((rxOf s c).bitmap = 0 → (rxOf s c).held = [] → Machine.exec (.rereqTimeout c) s = .next s) ∧
    (¬late → Machine.exec (.rereqTimeout c) s = .next s) ∧
    (late → (rxOf s c).bitmap ≠ 0 ∨ (rxOf s c).held ≠ [] → ∃ t q, Machine.exec (.rereqTimeout c) s = .next t ∧
      t.rt.inject = s.rt.inject ++ [(none, q)] ∧ q.kind = 3 ∧ q.dest = c ∧ q.tag.setWidth 8 = (3 : Byte) ∧
      natBits 16 16 q.tag.toNat = n.toNat ∧ t.ni.degradedAt = some (now s))) ∧
  (∀ (r : Req) (s : State), s.Runs → routerRuns s = true → s.ni.reqs = [r] →
    let late : Prop := r.sentAt + s.cfg.chunkTimeout.toNat ≤ now s
    let waits : Prop := ∃ p ∈ (txOf s r.pkt.dest).waiting, isRequest p = true ∧ p.tag = r.num
    (¬late ∨ waits → Machine.exec (.reissueTimeout r.num) s = .next s) ∧
    (late → ¬waits → r.reissued = false → ∃ t q, Machine.exec (.reissueTimeout r.num) s = .next t ∧ t.ni.reqs = [q] ∧ q.num = r.num ∧
      q.reissued = true ∧ t.rt.inject = s.rt.inject ++ [(none, { r.pkt with epoch := s.ni.epoch })]) ∧
    (r.reissued = true → r.pkt.kind ≠ 7 → Machine.exec (.reissueTimeout r.num) s = .next s) ∧
    (∀ c, late → ¬waits → r.reissued = true → r.pkt.kind = 7 → r.owner = .cmd c.id → s.cmds = [c] →
      ∃ t, Machine.exec (.reissueTimeout r.num) s = .next t ∧ t.cmds = [] ∧ t.ni.reqs = [])) ∧
  (∀ (c : Coord) (s : State), s.Runs → routerRuns s = true → s.NothingWaits →
    ((rxOf s c).held = [] → (rxOf s c).accepted = 0 → (∀ w ∈ s.wins, w.closing = false) → Machine.exec (.flagRelease c) s = .next s) ∧
    (∀ p, (rxOf s c).held = [p] → (rxOf s c).src = c → flagReady (rxOf s c) p = true → p.kind = 5 → reqFormed p = true →
      missReason s p = none → ∃ t, Machine.exec (.flagRelease c) s = .next t ∧ (rxOf t c).held = [] ∧
        t.stg = (storeBytes (payAddr p) (p.payload.drop 8) (pktPoison p) s).stg ∧
        t.tm = (storeBytes (payAddr p) (p.payload.drop 8) (pktPoison p) s).tm ∧
        (∀ n, 0 < (rxOf s c).accepted → (rxOf s c).next = some n → (rxOf s c).missed = [] →
          ∃ q ∈ t.rt.inject, q.2.kind = 3 ∧ q.2.dest = c ∧ q.2.tag.setWidth 8 = (1 : Byte) ∧ natBits 16 16 q.2.tag.toNat = n.toNat))) ∧
  (∀ (k : RateClass) (s : State), s.Runs → k.dir.toNat < 6 → s.ni.rates.length = 12 →
    let r := rateOf k s
    (now s < r.lastEcho + 25 ∨ now s < r.lastRise + 25 → Machine.exec (.rateRise k) s = .next s) ∧
    (now s < r.lastEcho + 1250 → Machine.exec (.rateReset k) s = .next s) ∧
    (r.lastEcho + 25 ≤ now s → r.lastRise + 25 ≤ now s → ∃ t, Machine.exec (.rateRise k) s = .next t ∧
      rateOf k t = { rateUp k.vc2 r with lastRise := now s }) ∧
    (r.lastEcho + 1250 ≤ now s → ∃ t, Machine.exec (.rateReset k) s = .next t ∧ (rateOf k t).num = 1 ∧
      (rateOf k t).sh = if k.vc2 then 1 else 0))

/-- Node loss (16:R467 to R470, R472): a probe is answered under its number, and an answer ends the probe; a probe without an answer to a neighbour whose links are all gone declares it lost, and otherwise only ends; a notice of a loss adds the
coordinate, a notice of a rejoin takes it out; each loss notice starts degraded routing anew, which ends after 25,000 ticks. -/
def Obligations.NodeLoss : Prop :=
  (∀ (p : Packet) (r : RxStream) (s : State), s.Accepts p r → treeRuns s = true →
    let c : Coord := BitVec.ofNat 17 (payField p 0 4)
    (isMgmt 1 p = true → s.StreamOpen p.src → ∃ t q, Machine.exec (.probe p) s = .next t ∧
      t.rt.inject = s.rt.inject ++ [(none, q)] ∧ isMgmt 2 q = true ∧ q.dest = p.src ∧
      natBits 8 24 q.tag.toNat = natBits 8 24 p.tag.toNat ∧ payField q 0 4 = payField p 0 4 ∧ payField q 4 4 = s.cfg.coord.toNat) ∧
    (isMgmt 2 p = true → ∃ t, Machine.exec (.probeAnswer p) s = .next t ∧
      t.ni.probes = s.ni.probes.filter (fun b => !(decide (b.1 = p.src) && decide (b.2.1.toNat = natBits 8 24 p.tag.toNat))) ∧
      t.ni.lost = s.ni.lost) ∧
    (∀ port, isMgmt 3 p = true →
      (c ∉ s.ni.lost → s.ni.lost.length < 1024 → ∃ t, Machine.exec (.lossNotice port p) s = .next t ∧ c ∈ t.ni.lost ∧
        t.err.status.getLsbD errNodeLost = true ∧ t.ni.degradedAt = some (now s)) ∧
      (c ∈ s.ni.lost → ∃ t, Machine.exec (.lossNotice port p) s = .next t ∧ t.ni.lost = s.ni.lost ∧
        t.ni.degradedAt = some (now s))) ∧
    (∀ port, isMgmt 4 p = true → ∃ t, Machine.exec (.rejoinNotice port p) s = .next t ∧
      t.ni.lost = s.ni.lost.filter (fun x => decide (x ≠ c)))) ∧
  (∀ (c : Coord) (s : State), s.Runs → treeRuns s = true →
    ((∀ b ∈ s.ni.probes, b.1 = c → now s < b.2.2 + 5000) → Machine.exec (.probeTimeout c) s = .next s) ∧
    (∀ b ∈ s.ni.probes, b.1 = c → b.2.2 + 5000 ≤ now s →
      (goneDir s c = none ∨ c ∈ s.ni.lost → Machine.exec (.probeTimeout c) s =
        .next { s with ni := { s.ni with probes := s.ni.probes.filter fun b => b.1 ≠ c } }) ∧
      ((goneDir s c).isSome = true → c ∉ s.ni.lost → s.ni.lost.length < 1024 → ∃ t, Machine.exec (.probeTimeout c) s = .next t ∧
        c ∈ t.ni.lost ∧ t.err.status.getLsbD errNodeLost = true))) ∧
  (∀ s : State, s.Runs →
    (s.ni.degradedAt = none → Machine.exec .degradedRoutingEnd s = .next s) ∧
    (∀ k, s.ni.degradedAt = some k →
      (now s < k + 25000 → Machine.exec .degradedRoutingEnd s = .next s) ∧
      (k + 25000 ≤ now s → ∃ t, Machine.exec .degradedRoutingEnd s = .next t ∧ t.ni.degradedAt = none)))

/-! ## Errors, temperatures and the test port -/

/-- Errors of the engine's units and their tests (13:R364; 16:R443 to R446, R450 to R452; 05:R144): an erring spare lane leaves the spares, and an active one hands its logical index to a spare; an erring staging bank moves to the spare bank, and an uncorrectable word of the open area is
poisoned; a Tree pair that stops hands over to the standby, every started command goes on degraded, and without a standby a warm reset is asked for; the end of a
test returns a unit that passed and retires one that failed, and completes its SELFTEST command. -/
def Obligations.UnitsFail : Prop :=
  (∀ (lane : Byte) (kind : LaneErrorKind) (s : State), s.Runs → treeRuns s = true → s.boot.phase = phReady → s.threads = [] →
    s.tree.tests = [] →
    (lane ∉ s.boot.laneMap → lane ∉ s.boot.spares → Machine.exec (.laneError lane kind) s = .next s) ∧
    (lane ∈ s.boot.spares → ∃ t, Machine.exec (.laneError lane kind) s = .next t ∧
      t.boot.spares = s.boot.spares.filter (fun l => l ≠ lane) ∧ t.boot.laneMap = s.boot.laneMap ∧
      t.err.status.getLsbD errLane = true ∧ testRunning t (.lane lane) = true) ∧
    (∀ q, lane ∈ s.boot.laneMap → lane ∉ s.boot.spares → spareFor s lane = some q →
      ∃ t, Machine.exec (.laneError lane kind) s = .next t ∧
        t.boot.laneMap = s.boot.laneMap.map (fun l => if l = lane then q else l) ∧
        t.boot.spares = s.boot.spares.filter (fun l => l ≠ q) ∧ testRunning t (.lane lane) = true)) ∧
  (∀ (bank : BitVec 4) (word : W32) (unc : Bool) (s : State), s.Runs → treeRuns s = true → s.boot.phase = phReady →
    let o := bank.toNat * 6291456 + word.toNat * 8
    (6291456 ≤ word.toNat * 8 → Machine.exec (.stagingError bank word unc) s = .next s) ∧
    (word.toNat * 8 < 6291456 → s.stg.spare = none → stagingTest s = false →
      ∃ t, Machine.exec (.stagingError bank word unc) s = .next t ∧ t.stg.map = s.stg.map ∧ t.stg.mem = s.stg.mem ∧
        t.err.status.getLsbD errStaging = true ∧ (unc = false → t.stg = s.stg) ∧
        (unc = true → o < 0x04000000 → stgReadPoison t o 8 = true)) ∧
    (∀ sp, word.toNat * 8 < 6291456 → unc = false → s.stg.spare = some sp →
      ∃ t, Machine.exec (.stagingError bank word unc) s = .next t ∧ t.stg.map = setAt bank.toNat sp s.stg.map ∧ t.stg.spare = none ∧
        testRunning t (.staging (s.stg.map.getD bank.toNat 0)) = true)) ∧
  (∀ (row : Instr) (s : State), s.Runs → treeUp s = true → row = .lockstepMismatch ∨ (row = .treeWatchdog ∧ s.tree.wdAt + 125000 ≤ now s) →
    (s.tree.standby = false → Machine.exec row s = .next (askReset .treeNoStandby s)) ∧
    (s.tree.standby = true → s.boot.phase = phReady → ∃ t, Machine.exec row s = .next t ∧ t.tree.active = s.tree.active ^^^ 1 ∧
      t.tree.standby = false ∧ t.err.status.getLsbD errTree = true ∧ (∀ x ∈ t.ctxs, x.degraded = true) ∧
      (∀ c ∈ t.cmds, c.degraded = true) ∧ testRunning t (.treePair s.tree.active) = true)) ∧
  (∀ s : State, s.Runs → now s < s.tree.wdAt + 125000 → Machine.exec .treeWatchdog s = .next s) ∧
  (∀ (u : TestUnit) (pass : Bool) (s : State), s.Runs → testRunning s u = false → Machine.exec (.targetedSelftestEnd u pass) s = .next s) ∧
  (∀ (p : Byte) (x : UnitTest) (c : Cmd) (s : State), s.Runs → treeRuns s = true → s.tree.tests = [x] → x.unit = .lane p → x.byError = false →
    x.waiters = [c.id] → s.cmds = [c] → s.boot.lanesRetired.getLsbD p.toNat = false → p.toNat < 168 →
    (∃ t, Machine.exec (.targetedSelftestEnd (.lane p) true) s = .next t ∧ t.cmds = [] ∧ t.tree.tests = [] ∧
      t.boot.spares = s.boot.spares ++ [p] ∧ t.boot.lanesRetired = s.boot.lanesRetired) ∧
    (∃ t, Machine.exec (.targetedSelftestEnd (.lane p) false) s = .next t ∧ t.cmds = [] ∧ t.tree.tests = [] ∧
      t.boot.spares = s.boot.spares ∧ t.boot.lanesRetired.getLsbD p.toNat = true ∧ t.err.status.getLsbD errRetired = true))

/-- Temperatures (18:R515 to R520): a sensor at 95 degrees warns once, at 105 it throttles the engine, which goes on once every sensor is below 100, and at 115 it trips it; a module at 85 doubles its refresh and at 95 is
down; a bridge at 105 warns and at 115 stops its ports. Below its level a report only records the temperature, or nothing. A temperature is
in quarters of a degree.

The test port (18:R512, R525, Table 18-5; 03:R77, R78): IDCODE shifts out the identity, SAMPLE/PRELOAD the pins, BYPASS and undecoded codes one bit; the private instructions act while
DEBUG_OFF is intact (scan chains and memories give bits that the specification does not describe), and are BYPASS once it is blown; EXTEST drives the boundary
register and leaves node operation undefined, where the test port itself goes on answering. -/
def Obligations.BoardEvents : Prop :=
  ((∀ (i : BitVec 3) (temp : W16) (s : State), s.Runs → s.kp.therm.length = 8 →
     (temp.toInt < 380 → Machine.exec (.thermalWarning i temp) s = .next s) ∧
     (380 ≤ temp.toInt → sensorLevel i s = 0 → ∃ t, Machine.exec (.thermalWarning i temp) s = .next t ∧ sensorLevel i t = 1 ∧
       t.err.status.getLsbD errThermal = true) ∧
     (380 ≤ temp.toInt → sensorLevel i s ≠ 0 → Machine.exec (.thermalWarning i temp) s =
       .next (setSensor i temp (sensorLevel i s) s)) ∧
     (temp.toInt < 420 → Machine.exec (.throttle i temp) s = .next s) ∧
     (420 ≤ temp.toInt → ∃ t, Machine.exec (.throttle i temp) s = .next t ∧ t.kp.throttled = true) ∧
     (400 ≤ temp.toInt → Machine.exec (.thermalClear i temp) s = .next s) ∧
     (temp.toInt < 400 → s.kp.throttled = true → (∀ x ∈ s.kp.therm, x.temp.toInt < 400) →
       ∃ t, Machine.exec (.thermalClear i temp) s = .next t ∧ t.kp.throttled = false) ∧
     (temp.toInt < 400 → s.kp.throttled = true → (∃ j, j < 8 ∧ j ≠ i.toNat ∧ ∃ x, s.kp.therm[j]? = some x ∧ 400 ≤ x.temp.toInt) →
       ∃ t, Machine.exec (.thermalClear i temp) s = .next t ∧ t.kp.throttled = true) ∧
     (temp.toInt < 460 → Machine.exec (.thermalTrip i temp) s = .next s) ∧
     (460 ≤ temp.toInt → Machine.exec (.thermalTrip i temp) s = .next { s with kp := { s.kp with
       therm := setAt i.toNat { temp := temp, level := 3 } s.kp.therm, tripped := true } })) ∧
   (∀ (m : BitVec 3) (temp : W16) (s : State), s.Runs → s.boot.phase = phReady → moduleUp s m.toNat = true → s.tm.queue = [] →
     s.tm.temp.length = 8 →
     (temp.toInt < 320 → temp ≠ 0x8000 → ∃ t, Machine.exec (.tmTempReport m temp) s = .next t ∧ moduleUp t m.toNat = true ∧
       t.tm.doubled.getLsbD m.toNat = false ∧ t.tm.temp = setAt m.toNat temp s.tm.temp) ∧
     (340 ≤ temp.toInt → temp.toInt < 380 → ∃ t, Machine.exec (.tmTempReport m temp) s = .next t ∧ moduleUp t m.toNat = true ∧
       t.tm.doubled.getLsbD m.toNat = true) ∧
     (380 ≤ temp.toInt → s.cmds = [] → ∃ t, Machine.exec (.tmTempReport m temp) s = .next t ∧ moduleUp t m.toNat = false ∧
       t.tm.selfRefresh.getLsbD m.toNat = true)) ∧
   (∀ (u : BitVec 2) (temp : W16) (s : State), s.Runs → builtDual s = true → u ≠ 3 → s.kp.gbStop = [false, false, false] →
     s.kp.gbWarn = [false, false, false] → s.kp.gbTemp.length = 3 →
     (temp.toInt < 420 → Machine.exec (.gb2Temperature u temp) s =
       .next { s with kp := { s.kp with gbTemp := setAt u.toNat temp s.kp.gbTemp } }) ∧
     (460 ≤ temp.toInt → s.ports.length = 12 → (getPort (6 + 2 * u.toNat) s).st = .up → (getPort (7 + 2 * u.toNat) s).st = .up →
       ∃ t, Machine.exec (.gb2Temperature u temp) s = .next t ∧ t.kp.gbStop.getD u.toNat false = true ∧
         (getPort (6 + 2 * u.toNat) t).st = .down ∧ (getPort (7 + 2 * u.toNat) t).st = .down))) ∧
  (∀ s : State, s.kp.power ≠ .off →
     let shows (c : Instr) (ir : Byte) (bits : List Bool) : Prop := ∃ t, Machine.exec c s = .next t ∧ t.out = .test bits :: s.out ∧
       t.jtag.ir = ir ∧ t.jtag.dr = bits
     shows .idcode 0x01 (bitList ((0x001605AF : W32) ||| ((fusePartRev s).setWidth 32 <<< 28))) ∧
     (∀ pins pre, shows (.samplePreload pins pre) 0x02 pins ∧
       ∃ t, Machine.exec (.samplePreload pins pre) s = .next t ∧ t.jtag.boundary = pre) ∧
     (∀ code : Byte, 3 ≤ code.toNat → ¬(0x10 ≤ code.toNat ∧ code.toNat ≤ 0x13) ∨ debugOff s = true → shows (.bypass code) 0xFF [false]) ∧
     (∀ code : Byte, code.toNat ≤ 2 ∨ (0x10 ≤ code.toNat ∧ code.toNat ≤ 0x13 ∧ debugOff s = false) → Machine.exec (.bypass code) s = .next s) ∧
     (∃ t, Machine.exec .extest s = .next t ∧ t.undef = true ∧ t.out = .pins s.jtag.boundary :: .test s.jtag.boundary :: s.out ∧
       t.jtag = { s.jtag with ir := 0x00, dr := s.jtag.boundary }) ∧
     (debugOff s = true → ∀ c ∈ ([.scanChain, .memAccess, .treeHalt, .fuseRead] : List Instr), shows c 0xFF [false]) ∧
     (debugOff s = false → shows .fuseRead 0x13 (bitList s.fuses) ∧ shows .treeHalt 0x12 [false] ∧
       (∃ t, Machine.exec .treeHalt s = .next t ∧ t.tree.halted = true) ∧
       (∃ bits, shows .scanChain 0x10 bits) ∧ ∃ bits, shows .memAccess 0x11 bits))

/-! ## Lane instructions -/

/-- The arithmetic, logic and shift instructions, CMP, MOVI, BR, YIELD, TIME and SETRES (13:R348, R352, R367, R368, Tables 13-3, 13-4) of a thread that may issue: the register of field D, or for BR the
program counter and for SETRES the collective's result, has the new value, the program counter moves by one, and nothing else changes but the context's idle mark and the lane's turn. MOD 1 replaces S[B] by the sign-extended
immediate. -/
def Obligations.LaneScalars : Prop :=
  ∀ (t : Tid) (w : InsFields) (y : Thread) (x : Ctx) (c : Comm) (s : State),
    let b (z : Thread) : W64 := if w.md = 1 then w.imm.signExtend 64 else sreg z w.b
    let sh (z : Thread) : Nat := (b z).toNat % 64
    let set (o : Nat) (f : Thread → W64) : Host.Outcome State Fault Refusal :=
      .next (modThread t (fun z => stepOn (z.setS w.d (f z))) (s.issued t o x))
    (∀ row ∈ ([(0x01, .add t w, fun z => sreg z w.a + b z), (0x02, .sub t w, fun z => sreg z w.a - b z),
        (0x03, .and t w, fun z => sreg z w.a &&& b z), (0x04, .or t w, fun z => sreg z w.a ||| b z),
        (0x05, .xor t w, fun z => sreg z w.a ^^^ b z), (0x06, .mul t w, fun z => sreg z w.a * b z),
        (0x07, .shl t w, fun z => sreg z w.a <<< sh z), (0x08, .shr t w, fun z => sreg z w.a >>> sh z),
        (0x09, .sar t w, fun z => (sreg z w.a).sshiftRight (sh z))] : List (Nat × Instr × (Thread → W64))),
      s.Issues t row.1 w y x c → w.md.toNat ≤ 1 → w.c = 0 → (w.md = 1 → w.b = 0) → (w.md = 0 → w.imm = 0) →
      Machine.exec row.2.1 s = set row.1 row.2.2) ∧
    (s.Issues t 0x0A w y x c → w.md.toNat ≤ 1 → w.c = 0 → (w.md = 1 → w.b = 0) →
      let r (z : Thread) : W64 := if w.md = 1 then 0 else sreg z w.b
      ∀ row ∈ ([(0, fun z => sreg z w.a == r z), (1, fun z => sreg z w.a != r z), (2, fun z => (sreg z w.a).slt (r z)),
          (3, fun z => (sreg z w.a).ult (r z)), (4, fun z => (sreg z w.a).sle (r z)), (5, fun z => (sreg z w.a).ule (r z))] :
            List (Nat × (Thread → Bool))),
        w.imm.toNat % 16 = row.1 → Machine.exec (.cmp t w) s = set 0x0A (fun z => if row.2 z then 1 else 0)) ∧
    (s.Issues t 0x0B w y x c → w.a = 0 → w.b = 0 → w.c = 0 →
      (w.md = 0 → Machine.exec (.movi t w) s = set 0x0B (fun _ => w.imm.signExtend 64)) ∧
      (w.md = 1 → Machine.exec (.movi t w) s = set 0x0B (fun z => w.imm ++ ((sreg z w.d).setWidth 32 : W32)))) ∧
    (s.Issues t 0x10 w y x c → w.d = 0 → w.b = 0 → w.c = 0 →
      ∀ row ∈ ([(0, true), (1, sreg y w.a == 0), (2, sreg y w.a != 0), (3, (sreg y w.a).slt 0), (4, !(sreg y w.a).slt 0)] : List (Nat × Bool)),
        w.md.toNat = row.1 → Machine.exec (.br t w) s = .next (modThread t
          (fun z => if row.2 then { z with pc := z.pc + w.imm } else stepOn z) (s.issued t 0x10 x))) ∧
    (s.Issues t 0x12 w y x c → w = { d := 0, a := 0, b := 0, c := 0, md := 0, imm := 0 } →
      Machine.exec (.yield t w) s = .next (modThread t stepOn (s.issued t 0x12 x))) ∧
    (s.Issues t 0x16 w y x c → w.a = 0 → w.b = 0 → w.c = 0 → w.md = 0 → w.imm = 0 →
      Machine.exec (.time t w) s = set 0x16 (fun _ => s.kp.timestamp)) ∧
    (s.Issues t 0x17 w y x c → w.d = 0 → w.b = 0 → w.c = 0 → w.md = 0 → w.imm = 0 →
      Machine.exec (.setres t w) s = .next (modThread t stepOn
        (modCtx x.idx (fun z => { z with result := sreg y w.a, hasResult := true }) (s.issued t 0x17 x))))

/-- Where lane rows do not act, and the instructions that end, start and join threads (13:R348 to R352, R356, R360, R367, R368, Table 13-6): a thread that does not run, that another thread of its lane
and class comes before, or whose next word is another instruction, is not changed by a row; a fetch that fails and an illegal word fault; END ends a thread without open stores, whose local stores then take place, waits for open ones, or faults on a missed one; TRAP ends the collective with its
own byte; SYNC joins the running threads, and so does the END of the last of the others; SPAWN starts a child in a free thread
context of the logical lane that it names, or returns 1. -/
def Obligations.LaneThreads : Prop :=
  (∀ (t : Tid) (w : InsFields) (s : State), s.Runs →
    ∀ row ∈ ([(0x01, .add t w), (0x02, .sub t w), (0x03, .and t w), (0x04, .or t w), (0x05, .xor t w), (0x06, .mul t w), (0x07, .shl t w),
        (0x08, .shr t w), (0x09, .sar t w), (0x0A, .cmp t w), (0x0B, .movi t w), (0x10, .br t w), (0x12, .yield t w), (0x13, .endThread t w),
        (0x14, .spawn t w), (0x15, .sync t w), (0x16, .time t w), (0x17, .setres t w), (0x18, .trap t w), (0x20, .ld t w), (0x21, .st t w),
        (0x22, .vld t w), (0x23, .vst t w), (0x24, .fence t w), (0x28, .sld t w), (0x28, .sst t w), (0x30, .vaddf t w), (0x31, .vmm t w),
        (0x32, .vcvt t w), (0x33, .vbit t w), (0x34, .vbcast t w), (0x40, .accx t w), (0x41, .accp t w), (0x42, .acclp t w),
        (0x43, .accesc t w), (0x44, .accDrain t w), (0x45, .tolp t w), (0x46, .slotclr t w), (0x50, .csend t w), (0x51, .crecv t w),
        (0x52, .cdone t w)] : List (Nat × Instr)),
    (findThread t s = none → Machine.exec row.2 s = .next s) ∧
    (∀ y, findThread t s = some y → y.st ≠ .running → y.st ≠ .stalled → Machine.exec row.2 s = .next s) ∧
    (∀ y, findThread t s = some y → y.st = .running → myTurn s y (classOf row.1) = false → fetchAt s y (insWord row.1 w) = .row →
      Machine.exec row.2 s = .next s) ∧
    (∀ y, findThread t s = some y → fetchAt s y (insWord row.1 w) = .other → Machine.exec row.2 s = .next s) ∧
    (∀ y x c k, s.OctozServes → findThread t s = some y → findCtx y.ctx s = some x → findComm x.handle s = some c → y.st = .running ∨ y.st = .stalled →
      fetchAt s y (insWord row.1 w) = .fault k → ∃ u, Machine.exec row.2 s = .next u ∧ findCtx y.ctx u = none) ∧
    (∀ y x c, s.Issues t row.1 w y x c → 5 ≤ w.md.toNat → row.1 ≠ 0x32 → row.1 ≠ 0x31 → ¬(0x40 ≤ row.1 ∧ row.1 ≤ 0x44) →
      ∃ u, Machine.exec row.2 s = .next u ∧ findCtx y.ctx u = none)) ∧
  (∀ (t : Tid) (w : InsFields) (y : Thread) (x : Ctx) (c : Comm) (s : State),
    let u (o : Nat) : State := s.issued t o x
    let zero : InsFields := { d := 0, a := 0, b := 0, c := 0, md := 0, imm := 0 }
    (s.Issues t 0x13 w y x c → w = zero →
      (y.stores = 0 → y.missed = false → Machine.exec (.endThread t w) s = .next (syncKick y.ctx
        (modThread t (fun z => { z with st := .ended }) (commitStores y (u 0x13))))) ∧
      (∀ k, y.stores = 0 → y.missed = false →
        (∀ z ∈ s.threads, z.ctx = y.ctx → z.id = t ∨ z.st = .ended ∨ (z.st = .inSync ∧ z.waitArg = k)) →
        ∃ v, Machine.exec (.endThread t w) s = .next v ∧ ∀ z ∈ v.threads, z.ctx = y.ctx → z.st = .ended ∨ z.st = .running) ∧
      (y.stores ≠ 0 → Machine.exec (.endThread t w) s = .next (modThread t (fun z => { z with st := .inEnd }) (u 0x13))) ∧
      (y.stores = 0 → y.missed = true → Machine.exec (.endThread t w) s = .next (faultThread y 0x06 (u 0x13)))) ∧
    (s.Issues t 0x18 w y x c → w = { zero with imm := w.imm } →
      Machine.exec (.trap t w) s = .next (faultWith y 0x08 (w.imm.toNat % 256) (u 0x18)) ∧
        findCtx y.ctx (faultWith y 0x08 (w.imm.toNat % 256) (u 0x18)) = none) ∧
    (s.Issues t 0x15 w y x c → w = { zero with imm := w.imm } →
      ((∃ z ∈ s.threads, z.ctx = y.ctx ∧ z.id ≠ t ∧ z.st = .running) →
        Machine.exec (.sync t w) s = .next (modThread t (fun z => { z with st := .inSync, waitArg := w.imm }) (u 0x15))) ∧
      ((∀ z ∈ s.threads, z.ctx = y.ctx → z.id = t ∨ z.st = .ended ∨ (z.st = .inSync ∧ z.waitArg = w.imm)) →
        ∃ v, Machine.exec (.sync t w) s = .next v ∧ ∀ z ∈ v.threads, z.ctx = y.ctx → z.st = .ended ∨ z.st = .running)) ∧
    (s.Issues t 0x14 w y x c → w.md.toNat ≤ 1 → w.a = 0 → (w.md = 0 → w.c = 0) →
      let v := u 0x14
      let logical := if w.md = 1 then (sreg y w.c).toNat else y.logical.toNat
      let gives (d : W64) : Host.Outcome State Fault Refusal := .next (modThread t (fun z => stepOn (z.setS w.d d)) v)
      (x.lanes ≤ logical → Machine.exec (.spawn t w) s = .next (faultThread y 0x0B v)) ∧
      (logical < x.lanes → sibling s x logical = none → Machine.exec (.spawn t w) s = gives 1) ∧
      (∀ sib, logical < x.lanes → sibling s x logical = some sib →
        (progOn s (w.imm.setWidth 16) sib.id.lane = none → Machine.exec (.spawn t w) s = .next (faultThread y 0x07 v)) ∧
        (∀ p, progOn s (w.imm.setWidth 16) sib.id.lane = some p →
          (freeThreads s sib.id.lane = [] → Machine.exec (.spawn t w) s = gives 1) ∧
          (∀ thr rest, freeThreads s sib.id.lane = thr :: rest → ∃ v z child, Machine.exec (.spawn t w) s = .next v ∧
            v.threads.length = s.threads.length + 1 ∧ findThread t v = some z ∧ z.pc = y.pc + 1 ∧ (y.s.length = 32 → sreg z w.d = 0) ∧
            child ∈ v.threads ∧ child.id = { lane := sib.id.lane, thr := thr } ∧ child.pc = 1 ∧ child.prog = p.id ∧ child.st = .running ∧
            child.ctx = y.ctx ∧ child.logical = sib.logical ∧ child.slotBase = sib.slotBase ∧ child.slots = sib.slots ∧
            sreg child 12 = sreg y w.b ∧ (∀ i : BitVec 5, i ≠ 1 → i.toNat < 12 → sreg child i = sreg y i) ∧
            (sreg child 1).extractLsb' 11 53 = (sreg y 1).extractLsb' 11 53 ∧ (sreg child 1).setWidth 8 = (sreg y 1).setWidth 8)))))

/-- LD, ST, VLD, VST, FENCE, SLD and SST (13:R349, R353, R354, R360; 08:R202): local memory is read at the computed address, with the thread's own stores in place, or after its PCI Express reads; a store to local memory
stays with the thread until its FENCE, and takes place then; a remote address leaves a request, and a load waits for its answer; without room for
a request the thread waits; a misaligned address, an address without translation, a local range that the checks refuse and a slot outside the thread's
faults; VLD with MOD 1 reads a held chunk; FENCE waits for the thread's stores. -/
def Obligations.LaneMemory : Prop :=
  ∀ (t : Tid) (w : InsFields) (y : Thread) (x : Ctx) (c : Comm) (s : State),
    let u (o : Nat) : State := s.issued t o x
    let a := sreg y w.a + w.imm.signExtend 64
    let near (n : Nat) : Prop := faOffset a % n = 0 ∧ isLocal s c.map.toNat a = some true ∧ localCheck s a n = none
    let far (n : Nat) : Prop := faOffset a % n = 0 ∧ isLocal s c.map.toNat a = some false ∧ s.ni.reqs.length < 16384 ∧
      s.StreamOpen (coordOf s c.map.toNat a)
    let asks (kind : BitVec 4) (body : Bytes) (v : State) : Prop := ∃ q : Packet, v.rt.inject = s.rt.inject ++ [(none, q)] ∧ q.kind = kind ∧
      q.dest = coordOf s c.map.toNat a ∧ q.payload = body ∧ v.ni.reqs.length = s.ni.reqs.length + 1
    let at_ := y.id.lane.toNat * 196608 + y.slotBase * 512 + a.toNat
    (∀ row ∈ ([(0x20, 2 ^ w.md.toNat, .ld t w), (0x21, 2 ^ w.md.toNat, .st t w), (0x22, 64, .vld t w), (0x23, 64, .vst t w)] :
        List (Nat × Nat × Instr)),
      s.Issues t row.1 w y x c → w.c = 0 → (row.1 = 0x20 ∨ row.1 = 0x22 → w.b = 0) → (row.1 = 0x21 ∨ row.1 = 0x23 → w.d = 0) →
      (row.1 = 0x20 ∨ row.1 = 0x21 → w.md.toNat ≤ 3) → (row.1 = 0x22 ∨ row.1 = 0x23 → w.md = 0) →
      (row.1 = 0x22 → w.d.toNat < 8) → (row.1 = 0x23 → w.b.toNat < 8) →
      let n := row.2.1
      let body := if row.1 = 0x21 then leBytes n (sreg y w.b).toNat else vbytes (vreg y w.b.toNat)
      let v := u row.1
      (faOffset a % n ≠ 0 → Machine.exec row.2.2 s = .next (faultThread y 0x04 v)) ∧
      (faOffset a % n = 0 → isLocal s c.map.toNat a = none → Machine.exec row.2.2 s = .next (faultThread y 0x05 v)) ∧
      (faOffset a % n = 0 → isLocal s c.map.toNat a = some true → localCheck s a n ≠ none →
        Machine.exec row.2.2 s = .next (faultThread y 0x06 v)) ∧
      (faOffset a % n = 0 → isLocal s c.map.toNat a = some false → reqRoom s (coordOf s c.map.toNat a) = false →
        Machine.exec row.2.2 s = .next (stall t v)) ∧
      (near n → busReady (localPieces s a n) s = false → row.1 = 0x20 ∨ row.1 = 0x22 →
        Machine.exec row.2.2 s = .next (stall t (askBus (localPieces s a n) v))) ∧
      (near n → busReady (localPieces s a n) s = true → row.1 = 0x20 → Machine.exec row.2.2 s = .next (useBus (localPieces s a n)
        (modThread t (fun z => stepOn (z.setS w.d (BitVec.ofNat 64 (leNat (localRead (ownView y v) a n))))) v))) ∧
      (near n → busReady (localPieces s a n) s = true → row.1 = 0x22 → Machine.exec row.2.2 s = .next (useBus (localPieces s a n)
        (modThread t (fun z => stepOn (z.setV w.d.toNat (BitVec.ofNat 512 (leNat (localRead (ownView y v) a n))))) v))) ∧
      (near n → row.1 = 0x21 ∨ row.1 = 0x23 → Machine.exec row.2.2 s = .next (modThread t
        (fun z => stepOn { z with pend := z.pend ++ [(a, body)] }) v)) ∧
      (far n → row.1 = 0x20 ∨ row.1 = 0x22 → ∃ v z, Machine.exec row.2.2 s = .next v ∧
        asks 9 (bvBytes 8 a ++ leBytes 4 n ++ leBytes 4 0) v ∧ findThread t v = some z ∧ z.st = .inLoad ∧ z.pc = y.pc) ∧
      (far n → row.1 = 0x21 ∨ row.1 = 0x23 → ∃ v z, Machine.exec row.2.2 s = .next v ∧ asks 8 (bvBytes 8 a ++ body) v ∧
        findThread t v = some z ∧ z.stores = y.stores + 1 ∧ z.pc = y.pc + 1)) ∧
    (s.Issues t 0x22 w y x c → w.md = 1 → w.c = 0 → w.d.toNat < 8 → (heldChunk y w.a = none →
        Machine.exec (.vld t w) s = .next (faultThread y 0x09 (u 0x22))) ∧
      (∀ k, heldChunk y w.a = some k → Machine.exec (.vld t w) s = .next (modThread t (fun z => stepOn (z.setV w.d.toNat
        (ofVbytes (slice (sreg y w.b + w.imm.signExtend 64).toNat 64 (chunkPayload x k))))) (u 0x22)))) ∧
    (s.Issues t 0x24 w y x c → w = { d := 0, a := 0, b := 0, c := 0, md := 0, imm := 0 } →
      (y.stores = 0 → y.missed = false → Machine.exec (.fence t w) s = .next (modThread t stepOn
        (modThread t (fun z => { z with pend := [] }) (y.pend.foldl (fun v p => storeBytes p.1 p.2 false v) (u 0x24))))) ∧
      (y.stores ≠ 0 → Machine.exec (.fence t w) s = .next (modThread t (fun z => { z with st := .inFence }) (u 0x24))) ∧
      (y.stores = 0 → y.missed = true → Machine.exec (.fence t w) s = .next (faultThread y 0x06 (u 0x24)))) ∧
    (s.Issues t 0x28 w y x c → w.c = 0 →
      (w.md = 0 → w.b = 0 → w.d.toNat < 8 →
        (a.toNat % 64 ≠ 0 → Machine.exec (.sld t w) s = .next (faultThread y 0x04 (u 0x28))) ∧
        (a.toNat % 64 = 0 → y.slots * 512 < a.toNat + 64 → Machine.exec (.sld t w) s = .next (faultThread y 0x03 (u 0x28))) ∧
        (a.toNat % 64 = 0 → a.toNat + 64 ≤ y.slots * 512 → Machine.exec (.sld t w) s = .next (modThread t
          (fun z => stepOn (z.setV w.d.toNat (BitVec.ofNat 512 (leNat (memRead 0 s.slots at_ 64))))) (u 0x28)))) ∧
      (w.md = 1 → w.d = 0 → w.b.toNat < 8 →
        (a.toNat % 64 ≠ 0 → Machine.exec (.sst t w) s = .next (faultThread y 0x04 (u 0x28))) ∧
        (a.toNat % 64 = 0 → a.toNat + 64 ≤ y.slots * 512 → Machine.exec (.sst t w) s = .next (modThread t stepOn
          { u 0x28 with slots := memWrite 0 s.slots at_ (leBytes 64 (vreg y w.b.toNat).toNat) })) ∧
        (a.toNat % 64 = 0 → y.slots * 512 < a.toNat + 64 → Machine.exec (.sst t w) s = .next (faultThread y 0x03 (u 0x28)))))

/-- VADDF, VMM, VBIT, VBCAST and VCVT (13:R368; 12:R317, R326, R330): each element of the destination is the rounded sum, the maximum or minimum, the logical function or the copy of
its operands' elements, a conversion fills its group of elements and no other byte of the register, and a saturation or overflow in it marks the
collective; no other register changes. -/
def Obligations.LaneVectors : Prop :=
  ∀ (t : Tid) (w : InsFields) (y : Thread) (x : Ctx) (c : Comm) (s : State), y.v.length = 8 → w.d.toNat < 8 → w.a.toNat < 8 → w.b.toNat < 8 →
    let d := w.d.toNat
    let va := vreg y w.a.toNat
    let vb := vreg y w.b.toNat
    let done (row : Instr) (facts : Thread → State → Prop) : Prop := ∃ v z, Machine.exec row s = .next v ∧ findThread t v = some z ∧
      z.pc = y.pc + 1 ∧ z.s = y.s ∧ facts z v
    let others (z : Thread) (n : Nat) : Prop := ∀ i, i < 8 → i < d ∨ d + n ≤ i → vreg z i = vreg y i
    let marks (v : State) (o : Bool) : Prop := ∃ k, findCtx y.ctx v = some k ∧ k.overflow = (x.overflow || o)
    (s.Issues t 0x30 w y x c → w.c = 0 → w.imm = 0 →
      let sum (i : Nat) : W32 × Bool := fl32add (BitVec.ofNat 32 (velem va 4 i)) (BitVec.ofNat 32 (velem vb 4 i))
      let low (i : Nat) : W32 × Bool := fl32add (BitVec.ofNat 32 (velem va 4 i)) (widen32 w.md.toNat (velem vb 2 i))
      let high (i : Nat) : W32 × Bool := fl32add (BitVec.ofNat 32 (velem (vreg y (w.a.toNat + 1)) 4 i))
        (widen32 w.md.toNat (velem vb 2 (16 + i)))
      (w.md = 0 → done (.vaddf t w) fun z v => others z 1 ∧ (∀ i, i < 16 → velem (vreg z d) 4 i = (sum i).1.toNat) ∧
        marks v ((List.range 16).any fun i => (sum i).2)) ∧
      (w.md.toNat = 1 ∨ w.md.toNat = 2 → d % 2 = 0 → w.a.toNat % 2 = 0 → done (.vaddf t w) fun z v => others z 2 ∧
        (∀ i, i < 16 → velem (vreg z d) 4 i = (low i).1.toNat ∧ velem (vreg z (d + 1)) 4 i = (high i).1.toNat) ∧
        marks v ((List.range 16).any fun i => (low i).2 || (high i).2)) ∧
      (w.md.toNat = 1 ∨ w.md.toNat = 2 → d % 2 = 1 ∨ w.a.toNat % 2 = 1 →
        Machine.exec (.vaddf t w) s = .next (faultThread y 0x04 (s.issued t 0x30 x)))) ∧
    (s.Issues t 0x31 w y x c → w.c = 0 → w.imm = 0 →
      ∀ row ∈ ([(0, 2, 3, 4), (1, 3, 3, 4), (2, 2, 9, 4), (3, 3, 9, 4), (4, 2, 0xA, 8), (5, 3, 0xA, 8)] : List (Nat × Nat × Nat × Nat)),
        w.md.toNat = row.1 → done (.vmm t w) fun z _ => others z 1 ∧ ∀ i, i < 64 / row.2.2.2 →
          velem (vreg z d) row.2.2.2 i = maxMinCode row.2.1 row.2.2.1 (velem va row.2.2.2 i) (velem vb row.2.2.2 i)) ∧
    (s.Issues t 0x33 w y x c → w.c = 0 → w.imm = 0 → w.md.toNat ≤ 2 → done (.vbit t w) fun z _ => others z 1 ∧
      vreg z d = if w.md = 0 then va &&& vb else if w.md = 1 then va ||| vb else va ^^^ vb) ∧
    (s.Issues t 0x34 w y x c → w.b = 0 → w.c = 0 → w.imm = 0 → w.md = 0 → done (.vbcast t w) fun z _ => others z 1 ∧
      ∀ i, i < 8 → velem (vreg z d) 8 i = (sreg y w.a).toNat) ∧
    (∀ f, s.Issues t 0x32 w y x c → w.b = 0 → w.imm = 0 → fmtOf w.md.toNat = some f → isFloatType w.md.toNat = true →
      let zs := dtypeSize w.md.toNat
      0 < zs → (w.c.toNat + 1) * 16 * zs ≤ 64 →
      let r (i : Nat) : Nat × Bool := fencode f (ctxSat x) (f32val (BitVec.ofNat 32 (velem va 4 i)))
      done (.vcvt t w) fun z v => others z 1 ∧ (∀ i, i < 16 → velem (vreg z d) zs (16 * w.c.toNat + i) = (r i).1 % 2 ^ (8 * zs)) ∧
        (∀ i, i < 64 / zs → i < 16 * w.c.toNat ∨ 16 * w.c.toNat + 16 ≤ i → velem (vreg z d) zs i = velem (vreg y d) zs i) ∧
        marks v ((List.range 16).any fun i => (r i).2))

/-- The accumulate instructions (13:R354, R355, Table 13-3; 12:R320, R323 to R328, R334): entries outside the thread's slots fault; ACCX and ACCP add four terms or products to four entries, exactly; ACCLP and ACCESC merge an entry's encoded value; a drain gives the
entries' converted values and leaves them at zero; TOLP encodes the entries that need no escape, and names the others; SLOTCLR leaves whole slots in the reset state. -/
def Obligations.LaneAccumulators : Prop :=
  ∀ (t : Tid) (w : InsFields) (y : Thread) (x : Ctx) (c : Comm) (s : State), y.v.length = 8 → y.s.length = 32 → Memory.wf 0 s.slots = true →
    let u (o : Nat) : State := s.issued t o x
    let e := (sreg y w.d + w.imm.signExtend 64).toNat
    let dt := w.md.toNat
    let zs := dtypeSize dt
    let lacs := (e + 3) / 6 < y.slots
    let ints := (e + 3) / 30 < y.slots
    let done (row : Instr) (facts : Thread → State → Prop) : Prop := ∃ v z, Machine.exec row s = .next v ∧ findThread t v = some z ∧
      z.pc = y.pc + 1 ∧ facts z v
    let el (r : BitVec 5) (i : Nat) : Nat := velem (vreg y r.toNat) zs (4 * w.c.toNat + i)
    (∀ row ∈ ([(0x40, .accx t w, fun i => codeVal dt (el w.a i), fun i => sext (8 * zs) (el w.a i)),
        (0x41, .accp t w, fun i => fmul (codeVal dt (el w.a i)) (codeVal dt (el w.b i)),
          fun i => sext (8 * zs) (el w.a i) * sext (8 * zs) (el w.b i))] : List (Nat × Instr × (Nat → FVal) × (Nat → Int))),
      s.Issues t row.1 w y x c → w.a.toNat < 8 → (row.1 = 0x41 → w.b.toNat < 8) → (row.1 = 0x40 → w.b = 0) → 0 < zs →
      (w.c.toNat + 1) * 4 * zs ≤ 64 →
      (isFloatType dt = true → isIntType dt = false → ¬lacs → Machine.exec row.2.1 s = .next (faultThread y 0x03 (u row.1))) ∧
      (isIntType dt = true → ¬ints → Machine.exec row.2.1 s = .next (faultThread y 0x03 (u row.1))) ∧
      (isFloatType dt = true → isIntType dt = false → lacs → done row.2.1 fun _ v => ∀ i, i < 4 →
        lacGet v y (e + i) = lacAdd (lacGet s y (e + i)).1 (lacGet s y (e + i)).2 (row.2.2.1 i)) ∧
      (isIntType dt = true → ints → (∀ i, i < 4 → -(2 ^ 127 : Int) ≤ (intGet s y (e + i)).1 + row.2.2.2 i ∧
          (intGet s y (e + i)).1 + row.2.2.2 i < 2 ^ 127) →
        done row.2.1 fun _ v => ∀ i, i < 4 → intGet v y (e + i) = ((intGet s y (e + i)).1 + row.2.2.2 i, (intGet s y (e + i)).2))) ∧
    (s.Issues t 0x42 w y x c → w.md = 0 → w.a.toNat < 8 → w.b = 0 → w.c = 0 →
      (¬lacs → Machine.exec (.acclp t w) s = .next (faultThread y 0x03 (u 0x42))) ∧
      (∀ r : Nat → BitVec 640 × BitVec 5, lacs →
        (∀ i, i < 4 → ofLp128 (slice (16 * i) 16 (vbytes (vreg y w.a.toNat))) = some (r i)) →
        done (.acclp t w) fun _ v => ∀ i, i < 4 →
          lacGet v y (e + i) = lacMerge (lacGet s y (e + i)).1 (lacGet s y (e + i)).2 (r i).1 (r i).2)) ∧
    (s.Issues t 0x43 w y x c → w.md = 0 → w.a.toNat < 8 → w.b = 0 → w.c = 0 →
      (w.a.toNat % 2 = 1 → Machine.exec (.accesc t w) s = .next (faultThread y 0x04 (u 0x43))) ∧
      (w.a.toNat % 2 = 0 → y.slots ≤ e / 6 → Machine.exec (.accesc t w) s = .next (faultThread y 0x03 (u 0x43))) ∧
      (w.a.toNat % 2 = 0 → e / 6 < y.slots → done (.accesc t w) fun _ v =>
        lacGet v y e = lacMerge (lacGet s y e).1 (lacGet s y e).2 (escapeOf y w.a.toNat) 0)) ∧
    (s.Issues t 0x44 w y x c → w.a.toNat < 8 → w.b = 0 →
      (dt = 0 → w.c = 0 → w.a.toNat % 2 = 1 → Machine.exec (.accDrain t w) s = .next (faultThread y 0x04 (u 0x44))) ∧
      (dt = 0 → w.c = 0 → w.a.toNat % 2 = 0 → y.slots ≤ e / 6 → Machine.exec (.accDrain t w) s = .next (faultThread y 0x03 (u 0x44))) ∧
      (∀ f, fmtOf dt = some f → isFloatType dt = true → isIntType dt = false → (w.c.toNat + 1) * 4 * zs ≤ 64 → 0 < zs →
        (¬lacs → Machine.exec (.accDrain t w) s = .next (faultThread y 0x03 (u 0x44))) ∧
        (lacs → done (.accDrain t w) fun z v => ∀ i, i < 4 → velem (vreg z w.a.toNat) zs (4 * w.c.toNat + i) =
            (fencode f (ctxSat x) (lacVal (lacGet s y (e + i)).1 (lacGet s y (e + i)).2)).1 % 2 ^ (8 * zs) ∧
          lacGet v y (e + i) = (0, lacNegZero))) ∧
      (dt = 0 → w.c = 0 → w.a.toNat % 2 = 0 → e / 6 < y.slots → done (.accDrain t w) fun z v =>
        lacGet v y e = (0, lacNegZero) ∧ vbytes (vreg z w.a.toNat) ++ (vbytes (vreg z (w.a.toNat + 1))).take 16 = leBytes 80 (lacGet s y e).1.toNat) ∧
      (isIntType dt = true → (w.c.toNat + 1) * 4 * zs ≤ 64 → 0 < zs → ints → done (.accDrain t w) fun z v => ∀ i, i < 4 →
        velem (vreg z w.a.toNat) zs (4 * w.c.toNat + i) = twos (8 * zs) (satInt zs (intGet s y (e + i)).1).1 ∧ (intGet v y (e + i)).1 = 0)) ∧
    (s.Issues t 0x45 w y x c → w.md = 0 → w.a.toNat < 8 → w.c = 0 →
      (¬lacs → Machine.exec (.tolp t w) s = .next (faultThread y 0x03 (u 0x45))) ∧
      (lacs → done (.tolp t w) fun z v => ∀ i, i < 4 → if (toLp128 (lacGet s y (e + i)).1 (lacGet s y (e + i)).2).isSome
        then (sreg z w.b).getLsbD i = false ∧ lacGet v y (e + i) = (0, lacNegZero)
        else (sreg z w.b).getLsbD i = true ∧ lacGet v y (e + i) = lacGet s y (e + i)) ∧
      (∀ b : Nat → Bytes, lacs → (∀ i, i < 4 → toLp128 (lacGet s y (e + i)).1 (lacGet s y (e + i)).2 = some (b i)) →
        (∀ i, i < 4 → (b i).length = 16) → done (.tolp t w) fun z v => sreg z w.b = 0 ∧
          vbytes (vreg z w.a.toNat) = b 0 ++ b 1 ++ b 2 ++ b 3 ∧ ∀ i, i < 4 → lacGet v y (e + i) = (0, lacNegZero))) ∧
    (s.Issues t 0x46 w y x c → w.md = 0 → w.d = 0 → w.b = 0 → w.c = 0 →
      let first := (sreg y w.a).toNat
      (y.slots < first + w.imm.toNat → Machine.exec (.slotclr t w) s = .next (faultThread y 0x03 (u 0x46))) ∧
      (first + w.imm.toNat ≤ y.slots → Machine.exec (.slotclr t w) s = .next (modThread t stepOn
        (resetSlots y.id.lane (y.slotBase + first) w.imm.toNat x.mode (u 0x46)))))

/-- CSEND, CRECV and CDONE (10:R275, R276; 08:R202, R221; 13:R353, R354, R368): a chunk that each of its receivers has granted leaves as a CHUNK packet, to one
member or as a multicast along an axis, with its bytes from the thread's slots, from local memory, or from another node, which are loaded first; one
without a grant waits; CRECV takes the oldest chunk of its phase, step and sender, or the thread waits; CDONE gives up the handle and confirms the
chunk; a handle that the thread does not hold faults. -/
def Obligations.LaneChunks : Prop :=
  ∀ (t : Tid) (w : InsFields) (y : Thread) (x : Ctx) (c : Comm) (s : State),
    (s.Issues t 0x50 w y x c → w.md.toNat ≤ 3 → wireSize (csendWire w) ≠ 0 → natBit 21 w.imm.toNat = false →
      let u := s.issued t 0x50 x
      let r := (sreg y w.b).toNat
      let a := sreg y w.a
      let n := (sreg y w.c).toNat * wireSize (csendWire w)
      let slots : Prop := w.md.getLsbD 0 = true ∧ a.toNat + n ≤ y.slots * 512
      let near : Prop := w.md.getLsbD 0 = false ∧ isLocal s c.map.toNat a = some true ∧ localCheck s a n = none ∧
        busReady (localPieces s a n) s = true
      let data := if w.md.getLsbD 0 then memRead 0 s.slots (y.id.lane.toNat * 196608 + y.slotBase * 512 + a.toNat) n
        else localRead (ownView y u) a n
      let sends (dir : Option (BitVec 3)) (to_ : Coord) : Prop := ∃ v p z, Machine.exec (.csend t w) s = .next v ∧
        v.rt.inject = s.rt.inject ++ [(dir, p)] ∧ p.kind = 4 ∧ p.mcast = dir.isSome ∧ p.dest = to_ ∧ p.payload.drop 64 = data ∧
        findThread t v = some z ∧ z.pc = y.pc + 1 ∧ z.st = .running
      (commSize s c ≤ r ∨ csendTo s c w r = none → Machine.exec (.csend t w) s = .next (faultThread y 0x05 u)) ∧
      (∀ to_, csendTo s c w r = some to_ →
        (n = 0 ∨ 8128 < n → Machine.exec (.csend t w) s = .next (faultThread y 0x01 u)) ∧
        (0 < n → n ≤ 8128 →
          (w.md.getLsbD 0 = true → y.slots * 512 < a.toNat + n → Machine.exec (.csend t w) s = .next (faultThread y 0x03 u)) ∧
          (w.md.getLsbD 0 = false → isLocal s c.map.toNat a = some false → y.source = none → s.ni.reqs.length < 16384 →
            s.StreamOpen (coordOf s c.map.toNat a) → ∃ v q z, Machine.exec (.csend t w) s = .next v ∧
              v.rt.inject = s.rt.inject ++ [(none, q)] ∧ q.kind = 9 ∧ q.dest = coordOf s c.map.toNat a ∧
              q.payload = bvBytes 8 a ++ leBytes 4 n ++ leBytes 4 0 ∧ findThread t v = some z ∧ z.st = .inLoad ∧ z.pc = y.pc) ∧
          (slots ∨ near → (∃ k ∈ to_.1, allowance x (BitVec.ofNat 17 k) = 0) → Machine.exec (.csend t w) s = .next (stall t u)) ∧
          (slots ∨ near → y.source = none → (∀ k ∈ to_.1, 0 < allowance x (BitVec.ofNat 17 k)) →
            (∀ m, to_.2 = some m → sends (some m.1) m.2) ∧
            (to_.2 = none → s.StreamOpen (memberAt s c r) → commSize s c ≤ 2 ^ 17 → sends none (memberAt s c r)))))) ∧
    (s.Issues t 0x51 w y x c → w.md.toNat ≤ 1 → w.a = 0 → w.c = 0 → (w.md = 1 → w.b = 0) →
      (crecvChunk x y w = none → ∃ v z, Machine.exec (.crecv t w) s = .next v ∧ findThread t v = some z ∧ z.st = .inCrecv ∧
        z.pc = y.pc ∧ z.waitArg = w.imm) ∧
      (∀ k, crecvChunk x y w = some k → y.s.length = 32 → k.count < 2 ^ 16 → k ∈ x.chunks ∧ k.taken = false ∧
        ∃ v z h, Machine.exec (.crecv t w) s = .next v ∧ findThread t v = some z ∧ z.pc = y.pc + 1 ∧ z.handles = y.handles ++ [(h, k)] ∧
          sreg z w.d = BitVec.ofNat 64 (h.toNat + k.count * 2 ^ 16 + k.sender.toNat * 2 ^ 32))) ∧
    (s.Issues t 0x52 w y x c → w.md = 0 → w.d = 0 → w.b = 0 → w.c = 0 → w.imm = 0 →
      (heldChunk y w.a = none → Machine.exec (.cdone t w) s = .next (faultThread y 0x09 (s.issued t 0x52 x))) ∧
      (∀ k, heldChunk y w.a = some k → ∃ v z d, Machine.exec (.cdone t w) s = .next v ∧ findThread t v = some z ∧ z.pc = y.pc + 1 ∧
        heldChunk z w.a = none ∧ findCtx y.ctx v = some d ∧ countOf d.conf k.sender = countOf x.conf k.sender + 1))

/-! ## The machine over any command -/

/-- 02:R30: a cold reset sets the timestamp to zero, the keeper's tick adds one in every power state that has power, and
no other command changes it, be it a warm reset, a host-link reset, a Tree failover or a change of the power state.
(The fall of PWRGOOD leaves the state of OFF, whose timestamp is zero.) -/
def Obligations.TimestampKept : Prop :=
  (∀ (src : ColdSource) (saddr : BitVec 2) (ok : Bool) (s : State), src = .pwrgoodRise ∨ s.pins.pwrgood = true →
    ∃ t, Machine.exec (.coldReset src saddr ok) s = .next t ∧ t.kp.timestamp = 0) ∧
  (∀ s : State, s.KeeperRuns → ∃ t, Machine.exec .keeperTick s = .next t ∧ t.kp.timestamp = s.kp.timestamp + 1) ∧
  (∀ (c : Instr) (s t : State), resetRow c = false → c ≠ .keeperTick → Machine.exec c s = .next t →
    t.kp.timestamp = s.kp.timestamp)

/-- 95 Commands, 03 Fuses: no command touches the queue of waiting commands or the kind of board, and a fuse that is
blown stays blown. -/
def Obligations.CommandsKeep : Prop :=
  ∀ (c : Instr) (s t : State), Machine.exec c s = .next t →
    t.pending = s.pending ∧ t.board = s.board ∧ ∀ i, s.fuses.getLsbD i = true → t.fuses.getLsbD i = true

/-- 18:R496: a node in OFF, with no cold reset waiting, stays in OFF over every step, and a step changes nothing but the
queue. -/
def Obligations.OffStaysOff : Prop :=
  ∀ s t : State, s.undef = false → s.kp.power = .off → (∀ c ∈ s.pending, resetRow c = false) → Machine.step s = .next t →
    t = { s with pending := s.pending.tail } ∧ (∀ c ∈ t.pending, resetRow c = false)

/-- The shape of the state (`State.Sound`: 64 pages, 12 ports of four channels, threads with all their registers, whole
cache lines, memories in canonical form) is kept by every step of every command. -/
def Obligations.StepKeepsSound : Prop :=
  ∀ s t : State, s.Sound → Machine.step s = .next t → t.Sound

/-- The state after a cold reset has the shape that every step keeps. -/
def Obligations.ResetSound : Prop := State.reset.Sound
end

