-- ==== Sys2Proof/Laws/Guard.lean ====
section
/-! SUPPORT. Laws/Guard.lean: every command but the two resets goes through the guard `liveKeeper`, the rows of the test port
through `testPort`, and what the two guards answer. -/

namespace Sys2Proof.Laws

open Sys2Proof Sys2Proof.Machine

/-- The answer is the guard's, for a row of the keeper or not. -/
def Guarded (keeper : Bool) (s : State) (o : Out) : Prop := ∃ f, o = liveKeeper keeper s f

theorem guarded_live (s : State) (f : State → State) : Guarded false s (live s f) := ⟨f, rfl⟩
theorem guarded_keeper (k : Bool) (s : State) (f : State → State) : Guarded k s (liveKeeper k s f) := ⟨f, rfl⟩

/-- What the guard answers. -/
theorem liveKeeper_undef {k : Bool} {s : State} {f : State → State} (h : s.undef = true) :
    liveKeeper k s f = .fault .operationUndefined := by simp [liveKeeper, h]

theorem liveKeeper_off {k : Bool} {s : State} {f : State → State} (h : s.undef = false) (hp : s.kp.power = .off) :
    liveKeeper k s f = .next s := by simp [liveKeeper, h, hp]

theorem liveKeeper_tripped {s : State} {f : State → State} (h : s.undef = false) (ht : s.kp.tripped = true) :
    liveKeeper false s f = .next s := by simp [liveKeeper, h, ht]

theorem liveKeeper_runs {k : Bool} {s : State} {f : State → State} (h : s.undef = false) (hp : s.kp.power ≠ .off)
    (ht : k = true ∨ s.kp.tripped = false) : liveKeeper k s f = .next (f s) := by
  rcases ht with rfl | ht <;> simp_all [liveKeeper]

theorem live_runs {s : State} {f : State → State} (h : s.Runs) : live s f = .next (f s) :=
  liveKeeper_runs h.1 h.2.1 (.inr h.2.2)

theorem onlyIf_true {c : Bool} {f : State → State} {s : State} (h : c = true) : onlyIf c f s = f s := by simp [onlyIf, h]
theorem onlyIf_false {c : Bool} {f : State → State} {s : State} (h : c = false) : onlyIf c f s = s := by simp [onlyIf, h]

/-- Every command but the two resets and the rows of the test port answers through the guard. -/
theorem exec_guarded (c : Instr) (s : State) (h : resetRow c = false) (h2 : testRow c = false) : Guarded (keeperRow c) s (Machine.exec c s) := by
  cases c
  case coldReset => simp [resetRow] at h
  case powerLoss => simp [resetRow] at h
  case thermalWarning => unfold Machine.exec keeperRow execThermalWarning; exact guarded_live _ _
  case throttle => unfold Machine.exec keeperRow execThrottle; exact guarded_live _ _
  case thermalClear => unfold Machine.exec keeperRow execThermalClear; exact guarded_live _ _
  case thermalTrip => unfold Machine.exec keeperRow execThermalTrip; exact guarded_live _ _
  case tmTempReport => unfold Machine.exec keeperRow execTmTempReport; exact guarded_live _ _
  case gb2Temperature => unfold Machine.exec keeperRow execGb2Temperature; exact guarded_live _ _
  case extest => simp [testRow] at h2
  case idcode => simp [testRow] at h2
  case samplePreload => simp [testRow] at h2
  case bypass => simp [testRow] at h2
  case scanChain => simp [testRow] at h2
  case memAccess => simp [testRow] at h2
  case treeHalt => simp [testRow] at h2
  case fuseRead => simp [testRow] at h2
  case powerupSelftest => unfold Machine.exec keeperRow execPowerupSelftest; exact guarded_live _ _
  case authentication => unfold Machine.exec keeperRow execAuthentication; exact guarded_live _ _
  case octozReady => unfold Machine.exec keeperRow execOctozReady; exact guarded_live _ _
  case bootWatchdog => unfold Machine.exec keeperRow execBootWatchdog; exact guarded_live _ _
  case resetCtl => unfold Machine.exec keeperRow execResetCtl; exact guarded_keeper _ _ _
  case recoveryGo => unfold Machine.exec keeperRow execRecoveryGo; exact guarded_keeper _ _ _
  case cinchUp => unfold Machine.exec keeperRow execCinchUp; exact guarded_live _ _
  case cinchDown => unfold Machine.exec keeperRow execCinchDown; exact guarded_live _ _
  case cinchRereq => unfold Machine.exec keeperRow execCinchRereq; exact guarded_live _ _
  case voteUp => unfold Machine.exec keeperRow execVoteUp; exact guarded_live _ _
  case voteDown => unfold Machine.exec keeperRow execVoteDown; exact guarded_live _ _
  case cinchSetTimeout => unfold Machine.exec keeperRow execCinchSetTimeout; exact guarded_live _ _
  case chunk => unfold Machine.exec keeperRow execChunk; exact guarded_live _ _
  case chunkGrant => unfold Machine.exec keeperRow execChunkGrant; exact guarded_live _ _
  case countChunk => unfold Machine.exec keeperRow execCountChunk; exact guarded_live _ _
  case chunkRereq => unfold Machine.exec keeperRow execChunkRereq; exact guarded_live _ _
  case chunkTimeout => unfold Machine.exec keeperRow execChunkTimeout; exact guarded_live _ _
  case collectiveComplete => unfold Machine.exec keeperRow execCollectiveComplete; exact guarded_live _ _
  case herald => unfold Machine.exec keeperRow execHerald; exact guarded_live _ _
  case abortNotice => unfold Machine.exec keeperRow execAbortNotice; exact guarded_live _ _
  case heraldFrame => unfold Machine.exec keeperRow execHeraldFrame; exact guarded_live _ _
  case commCreate => unfold Machine.exec keeperRow execCommCreate; exact guarded_live _ _
  case contextSave => unfold Machine.exec keeperRow execContextSave; exact guarded_live _ _
  case contextSaved => unfold Machine.exec keeperRow execContextSaved; exact guarded_live _ _
  case contextRestore => unfold Machine.exec keeperRow execContextRestore; exact guarded_live _ _
  case packetForward => unfold Machine.exec keeperRow execPacketForward; exact guarded_live _ _
  case keeperTick => unfold Machine.exec keeperRow execKeeperTick; exact guarded_keeper _ _ _
  case dozeEntry => unfold Machine.exec keeperRow execDozeEntry; exact guarded_live _ _
  case napEntry => unfold Machine.exec keeperRow execNapEntry; exact guarded_live _ _
  case deepEntry => unfold Machine.exec keeperRow execDeepEntry; exact guarded_live _ _
  case deepEntryDone => unfold Machine.exec keeperRow execDeepEntryDone; exact guarded_live _ _
  case wakePin => unfold Machine.exec keeperRow execWakePin; exact guarded_keeper _ _ _
  case wakeNRise => unfold Machine.exec keeperRow execWakeNRise; exact guarded_keeper _ _ _
  case alarmFire => unfold Machine.exec keeperRow execAlarmFire; exact guarded_keeper _ _ _
  case heraldHoldExpiry => unfold Machine.exec keeperRow execHeraldHoldExpiry; exact guarded_keeper _ _ _
  case powerTimerWrite => unfold Machine.exec keeperRow execPowerTimerWrite; exact guarded_keeper _ _ _
  case alarmWrite => unfold Machine.exec keeperRow execAlarmWrite; exact guarded_keeper _ _ _
  case alarmArm => unfold Machine.exec keeperRow execAlarmArm; exact guarded_keeper _ _ _
  case wakeGo => unfold Machine.exec keeperRow execWakeGo; exact guarded_keeper _ _ _
  case add => unfold Machine.exec keeperRow execAdd; exact guarded_live _ _
  case sub => unfold Machine.exec keeperRow execSub; exact guarded_live _ _
  case and => unfold Machine.exec keeperRow execAnd; exact guarded_live _ _
  case or => unfold Machine.exec keeperRow execOr; exact guarded_live _ _
  case xor => unfold Machine.exec keeperRow execXor; exact guarded_live _ _
  case mul => unfold Machine.exec keeperRow execMul; exact guarded_live _ _
  case shl => unfold Machine.exec keeperRow execShl; exact guarded_live _ _
  case shr => unfold Machine.exec keeperRow execShr; exact guarded_live _ _
  case sar => unfold Machine.exec keeperRow execSar; exact guarded_live _ _
  case cmp => unfold Machine.exec keeperRow execCmp; exact guarded_live _ _
  case movi => unfold Machine.exec keeperRow execMovi; exact guarded_live _ _
  case br => unfold Machine.exec keeperRow execBr; exact guarded_live _ _
  case yield => unfold Machine.exec keeperRow execYield; exact guarded_live _ _
  case endThread => unfold Machine.exec keeperRow execEndThread; exact guarded_live _ _
  case spawn => unfold Machine.exec keeperRow execSpawn; exact guarded_live _ _
  case sync => unfold Machine.exec keeperRow execSync; exact guarded_live _ _
  case time => unfold Machine.exec keeperRow execTime; exact guarded_live _ _
  case setres => unfold Machine.exec keeperRow execSetres; exact guarded_live _ _
  case trap => unfold Machine.exec keeperRow execTrap; exact guarded_live _ _
  case ld => unfold Machine.exec keeperRow execLd; exact guarded_live _ _
  case st => unfold Machine.exec keeperRow execSt; exact guarded_live _ _
  case vld => unfold Machine.exec keeperRow execVld; exact guarded_live _ _
  case vst => unfold Machine.exec keeperRow execVst; exact guarded_live _ _
  case fence => unfold Machine.exec keeperRow execFence; exact guarded_live _ _
  case sld => unfold Machine.exec keeperRow execSld; exact guarded_live _ _
  case sst => unfold Machine.exec keeperRow execSst; exact guarded_live _ _
  case vaddf => unfold Machine.exec keeperRow execVaddf; exact guarded_live _ _
  case vmm => unfold Machine.exec keeperRow execVmm; exact guarded_live _ _
  case vcvt => unfold Machine.exec keeperRow execVcvt; exact guarded_live _ _
  case vbit => unfold Machine.exec keeperRow execVbit; exact guarded_live _ _
  case vbcast => unfold Machine.exec keeperRow execVbcast; exact guarded_live _ _
  case accx => unfold Machine.exec keeperRow execAccx; exact guarded_live _ _
  case accp => unfold Machine.exec keeperRow execAccp; exact guarded_live _ _
  case acclp => unfold Machine.exec keeperRow execAcclp; exact guarded_live _ _
  case accesc => unfold Machine.exec keeperRow execAccesc; exact guarded_live _ _
  case accDrain => unfold Machine.exec keeperRow execAccDrain; exact guarded_live _ _
  case tolp => unfold Machine.exec keeperRow execTolp; exact guarded_live _ _
  case slotclr => unfold Machine.exec keeperRow execSlotclr; exact guarded_live _ _
  case csend => unfold Machine.exec keeperRow execCsend; exact guarded_live _ _
  case crecv => unfold Machine.exec keeperRow execCrecv; exact guarded_live _ _
  case cdone => unfold Machine.exec keeperRow execCdone; exact guarded_live _ _
  case retryReq => unfold Machine.exec keeperRow execRetryReq; exact guarded_live _ _
  case ack => unfold Machine.exec keeperRow execAck; exact guarded_live _ _
  case ackTimeout => unfold Machine.exec keeperRow execAckTimeout; exact guarded_live _ _
  case credit => unfold Machine.exec keeperRow execCredit; exact guarded_live _ _
  case identity => unfold Machine.exec keeperRow execIdentity; exact guarded_live _ _
  case group => unfold Machine.exec keeperRow execGroup; exact guarded_live _ _
  case lpiReq => unfold Machine.exec keeperRow execLpiReq; exact guarded_live _ _
  case lpiAck => unfold Machine.exec keeperRow execLpiAck; exact guarded_live _ _
  case signalDetect => unfold Machine.exec keeperRow execSignalDetect; exact guarded_live _ _
  case trainingRetry => unfold Machine.exec keeperRow execTrainingRetry; exact guarded_live _ _
  case trainingDone => unfold Machine.exec keeperRow execTrainingDone; exact guarded_live _ _
  case trainingStepTimeout => unfold Machine.exec keeperRow execTrainingStepTimeout; exact guarded_live _ _
  case lockLoss => unfold Machine.exec keeperRow execLockLoss; exact guarded_live _ _
  case farGone => unfold Machine.exec keeperRow execFarGone; exact guarded_live _ _
  case gb2Fault => unfold Machine.exec keeperRow execGb2Fault; exact guarded_live _ _
  case creditFrame => unfold Machine.exec keeperRow execCreditFrame; exact guarded_live _ _
  case busyFrame => unfold Machine.exec keeperRow execBusyFrame; exact guarded_live _ _
  case heraldFrameTimeout => unfold Machine.exec keeperRow execHeraldFrameTimeout; exact guarded_live _ _
  case resumeFrame => unfold Machine.exec keeperRow execResumeFrame; exact guarded_live _ _
  case wakeFrame => unfold Machine.exec keeperRow execWakeFrame; exact guarded_live _ _
  case deepFrame => unfold Machine.exec keeperRow execDeepFrame; exact guarded_live _ _
  case arbitrationWindow => unfold Machine.exec keeperRow execArbitrationWindow; exact guarded_live _ _
  case packetStart => unfold Machine.exec keeperRow execPacketStart; exact guarded_live _ _
  case ident => unfold Machine.exec keeperRow execIdent; exact guarded_live _ _
  case configSet => unfold Machine.exec keeperRow execConfigSet; exact guarded_live _ _
  case powerPolicy => unfold Machine.exec keeperRow execPowerPolicy; exact guarded_live _ _
  case prewarm => unfold Machine.exec keeperRow execPrewarm; exact guarded_live _ _
  case windowMap => unfold Machine.exec keeperRow execWindowMap; exact guarded_live _ _
  case windowUnmap => unfold Machine.exec keeperRow execWindowUnmap; exact guarded_live _ _
  case rankmapLoad => unfold Machine.exec keeperRow execRankmapLoad; exact guarded_live _ _
  case rankmapPatch => unfold Machine.exec keeperRow execRankmapPatch; exact guarded_live _ _
  case commDestroy => unfold Machine.exec keeperRow execCommDestroy; exact guarded_live _ _
  case drain => unfold Machine.exec keeperRow execDrain; exact guarded_live _ _
  case drainRelease => unfold Machine.exec keeperRow execDrainRelease; exact guarded_live _ _
  case routeUpdate => unfold Machine.exec keeperRow execRouteUpdate; exact guarded_live _ _
  case selftest => unfold Machine.exec keeperRow execSelftest; exact guarded_live _ _
  case logRead => unfold Machine.exec keeperRow execLogRead; exact guarded_live _ _
  case fwUpdateWrite => unfold Machine.exec keeperRow execFwUpdateWrite; exact guarded_live _ _
  case flashWriteDone => unfold Machine.exec keeperRow execFlashWriteDone; exact guarded_live _ _
  case fwUpdateActivate => unfold Machine.exec keeperRow execFwUpdateActivate; exact guarded_live _ _
  case fwUpdateCommit => unfold Machine.exec keeperRow execFwUpdateCommit; exact guarded_live _ _
  case progLoad => unfold Machine.exec keeperRow execProgLoad; exact guarded_live _ _
  case commandTimeout => unfold Machine.exec keeperRow execCommandTimeout; exact guarded_live _ _
  case putPacket => unfold Machine.exec keeperRow execPutPacket; exact guarded_live _ _
  case getReq => unfold Machine.exec keeperRow execGetReq; exact guarded_live _ _
  case laneStore => unfold Machine.exec keeperRow execLaneStore; exact guarded_live _ _
  case laneLoad => unfold Machine.exec keeperRow execLaneLoad; exact guarded_live _ _
  case atomicReq => unfold Machine.exec keeperRow execAtomicReq; exact guarded_live _ _
  case readResp => unfold Machine.exec keeperRow execReadResp; exact guarded_live _ _
  case atomicResp => unfold Machine.exec keeperRow execAtomicResp; exact guarded_live _ _
  case missAck => unfold Machine.exec keeperRow execMissAck; exact guarded_live _ _
  case drainMarker => unfold Machine.exec keeperRow execDrainMarker; exact guarded_live _ _
  case e2eAck => unfold Machine.exec keeperRow execE2eAck; exact guarded_live _ _
  case e2eAckSend => unfold Machine.exec keeperRow execE2eAckSend; exact guarded_live _ _
  case e2eBusy => unfold Machine.exec keeperRow execE2eBusy; exact guarded_live _ _
  case busyResend => unfold Machine.exec keeperRow execBusyResend; exact guarded_live _ _
  case e2eRereq => unfold Machine.exec keeperRow execE2eRereq; exact guarded_live _ _
  case rereqTimeout => unfold Machine.exec keeperRow execRereqTimeout; exact guarded_live _ _
  case reissueTimeout => unfold Machine.exec keeperRow execReissueTimeout; exact guarded_live _ _
  case flagRelease => unfold Machine.exec keeperRow execFlagRelease; exact guarded_live _ _
  case rateRise => unfold Machine.exec keeperRow execRateRise; exact guarded_live _ _
  case rateReset => unfold Machine.exec keeperRow execRateReset; exact guarded_live _ _
  case put => unfold Machine.exec keeperRow execPut; exact guarded_live _ _
  case get => unfold Machine.exec keeperRow execGet; exact guarded_live _ _
  case atomic => unfold Machine.exec keeperRow execAtomic; exact guarded_live _ _
  case pcieReadCompletion => unfold Machine.exec keeperRow execPcieReadCompletion; exact guarded_live _ _
  case laneError => unfold Machine.exec keeperRow execLaneError; exact guarded_live _ _
  case stagingError => unfold Machine.exec keeperRow execStagingError; exact guarded_live _ _
  case lockstepMismatch => unfold Machine.exec keeperRow execLockstepMismatch; exact guarded_live _ _
  case treeWatchdog => unfold Machine.exec keeperRow execTreeWatchdog; exact guarded_live _ _
  case targetedSelftestEnd => unfold Machine.exec keeperRow execTargetedSelftestEnd; exact guarded_live _ _
  case probe => unfold Machine.exec keeperRow execProbe; exact guarded_live _ _
  case probeAnswer => unfold Machine.exec keeperRow execProbeAnswer; exact guarded_live _ _
  case probeTimeout => unfold Machine.exec keeperRow execProbeTimeout; exact guarded_live _ _
  case lossNotice => unfold Machine.exec keeperRow execLossNotice; exact guarded_live _ _
  case rejoinNotice => unfold Machine.exec keeperRow execRejoinNotice; exact guarded_live _ _
  case degradedRoutingEnd => unfold Machine.exec keeperRow execDegradedRoutingEnd; exact guarded_live _ _
  case bar0Read => unfold Machine.exec keeperRow execBar0Read; exact guarded_live _ _
  case lowHalfRead path r => cases path with
    | bar0 => exact guarded_live s _
    | sideband => exact guarded_keeper true s _
  case tanneryApertureWrite => unfold Machine.exec keeperRow execTanneryApertureWrite; exact guarded_live _ _
  case lagCtlClear => unfold Machine.exec keeperRow execLagCtlClear; exact guarded_live _ _
  case registerWrite => unfold Machine.exec keeperRow execRegisterWrite; exact guarded_live _ _
  case sqTailWrite => unfold Machine.exec keeperRow execSqTailWrite; exact guarded_live _ _
  case cqHeadWrite => unfold Machine.exec keeperRow execCqHeadWrite; exact guarded_live _ _
  case queueEnable => unfold Machine.exec keeperRow execQueueEnable; exact guarded_live _ _
  case queueDisable => unfold Machine.exec keeperRow execQueueDisable; exact guarded_live _ _
  case fetch => unfold Machine.exec keeperRow execFetch; exact guarded_live _ _
  case imodTimer => unfold Machine.exec keeperRow execImodTimer; exact guarded_live _ _
  case sidebandRead => unfold Machine.exec keeperRow execSidebandRead; exact guarded_keeper _ _ _
  case sidebandWrite => unfold Machine.exec keeperRow execSidebandWrite; exact guarded_keeper _ _ _
  case sidebandTimeout => unfold Machine.exec keeperRow execSidebandTimeout; exact guarded_keeper _ _ _
  case pcieConfigRequest => unfold Machine.exec keeperRow execPcieConfigRequest; exact guarded_live _ _
  case bar2Access => unfold Machine.exec keeperRow execBar2Access; exact guarded_live _ _
  case bar4Access => unfold Machine.exec keeperRow execBar4Access; exact guarded_live _ _
  case routeDispatch => unfold Machine.exec keeperRow execRouteDispatch; exact guarded_live _ _
  case combineAllreduce => unfold Machine.exec keeperRow execCombineAllreduce; exact guarded_live _ _
  case warmReset => unfold Machine.exec keeperRow execWarmReset; exact guarded_live _ _
  case hostLinkReset => unfold Machine.exec keeperRow execHostLinkReset; exact guarded_live _ _
  case perstNRise => unfold Machine.exec keeperRow execPerstNRise; exact guarded_live _ _
  case wakeDone => unfold Machine.exec keeperRow execWakeDone; exact guarded_live _ _
  case refclkStop => unfold Machine.exec keeperRow execRefclkStop; exact guarded_live _ _
  case collSubmit => unfold Machine.exec keeperRow execCollSubmit; exact guarded_live _ _
  case tmOp => unfold Machine.exec keeperRow execTmOp; exact guarded_live _ _
  case accumArm => unfold Machine.exec keeperRow execAccumArm; exact guarded_live _ _
  case accumDisarm => unfold Machine.exec keeperRow execAccumDisarm; exact guarded_live _ _
  case tmFence => unfold Machine.exec keeperRow execTmFence; exact guarded_live _ _
  case statePark => unfold Machine.exec keeperRow execStatePark; exact guarded_live _ _
  case stateUnpark => unfold Machine.exec keeperRow execStateUnpark; exact guarded_live _ _
  case stateFork => unfold Machine.exec keeperRow execStateFork; exact guarded_live _ _
  case stateDrop => unfold Machine.exec keeperRow execStateDrop; exact guarded_live _ _
  case tmOpExecute => unfold Machine.exec keeperRow execTmOpExecute; exact guarded_live _ _
  case moduleDown => unfold Machine.exec keeperRow execModuleDown; exact guarded_live _ _
  case patrolScrub => unfold Machine.exec keeperRow execPatrolScrub; exact guarded_live _ _
  case tanneryError => unfold Machine.exec keeperRow execTanneryError; exact guarded_live _ _

/-- A row of the test port answers through the port's own guard. -/
theorem exec_test (c : Instr) (s : State) (h : testRow c = true) : ∃ f, Machine.exec c s = testPort s f := by
  cases c
  case extest => unfold Machine.exec execExtest; exact ⟨_, rfl⟩
  case idcode => unfold Machine.exec execIdcode; exact ⟨_, rfl⟩
  case samplePreload => unfold Machine.exec execSamplePreload; exact ⟨_, rfl⟩
  case bypass => unfold Machine.exec execBypass; exact ⟨_, rfl⟩
  case scanChain => unfold Machine.exec execScanChain privateTest; exact ⟨_, rfl⟩
  case memAccess => unfold Machine.exec execMemAccess privateTest; exact ⟨_, rfl⟩
  case treeHalt => unfold Machine.exec execTreeHalt privateTest; exact ⟨_, rfl⟩
  case fuseRead => unfold Machine.exec execFuseRead privateTest; exact ⟨_, rfl⟩
  all_goals simp [testRow] at h

/-- What the test port's guard answers. -/
theorem testPort_off {s : State} {f : State → State} (h : s.kp.power = .off) : testPort s f = .next s := by simp [testPort, h]
theorem testPort_on {s : State} {f : State → State} (h : s.kp.power ≠ .off) : testPort s f = .next (f s) := by simp [testPort, h]

end Sys2Proof.Laws
end

