-- ==== Sys2Proof/Laws/Memory.lean ====
section
/-! SUPPORT. Laws/Memory.lean: reading after writing, and the canonical form, for the byte-addressed stores. -/

namespace Sys2Proof.Laws

open Sys2Proof Sys2Proof.Machine

/-- A lower bound of all addresses may be dropped or lowered. -/
theorem memWfFrom_mono {d : Byte} {lo lo' : Option Nat} {m : Memory} (h : memWfFrom d lo m = true)
    (hlo : ∀ l, lo' = some l → ∃ k, lo = some k ∧ l ≤ k) : memWfFrom d lo' m = true := by
  cases m with
  | nil => rfl
  | cons c r =>
    obtain ⟨k, b⟩ := c
    simp only [memWfFrom, Bool.and_eq_true] at h ⊢
    refine ⟨⟨?_, h.1.2⟩, h.2⟩
    cases lo' with
    | none => rfl
    | some l =>
      obtain ⟨j, rfl, hj⟩ := hlo l rfl
      have := h.1.1
      simp only [decide_eq_true_eq] at this ⊢
      omega

/-- Below the first address nothing is listed. -/
theorem memGet_below {d : Byte} {k : Nat} {m : Memory} (h : memWfFrom d (some k) m = true) {a : Nat} (ha : a ≤ k) :
    memGet d m a = d := by
  cases m with
  | nil => rfl
  | cons c r =>
    obtain ⟨j, b⟩ := c
    simp only [memWfFrom, Bool.and_eq_true, decide_eq_true_eq] at h
    have h1 : a ≠ j := by omega
    have h2 : a < j := by omega
    simp [memGet, h1, h2]

theorem memPut_wfFrom {d : Byte} {m : Memory} : ∀ {lo : Option Nat} {a : Nat} {b : Byte}, memWfFrom d lo m = true →
    (∀ l, lo = some l → l < a) → memWfFrom d lo (memPut d m a b) = true := by
  induction m with
  | nil =>
    intro lo a b _ hlo
    unfold memPut
    split
    · rfl
    · rename_i hb
      simp only [memWfFrom, Bool.and_eq_true, decide_eq_true_eq, ne_eq]
      refine ⟨⟨?_, hb⟩, trivial⟩
      cases lo with
      | none => rfl
      | some l => simpa using hlo l rfl
  | cons c r ih =>
    obtain ⟨k, x⟩ := c
    intro lo a b h hlo
    have hk := h
    simp only [memWfFrom, Bool.and_eq_true, decide_eq_true_eq, ne_eq] at hk
    unfold memPut
    split
    · rename_i he
      subst he
      split
      · refine memWfFrom_mono hk.2 fun l hl => ⟨a, rfl, ?_⟩
        exact Nat.le_of_lt (hlo l hl)
      · rename_i hb
        simp only [memWfFrom, Bool.and_eq_true, decide_eq_true_eq, ne_eq]
        exact ⟨⟨hk.1.1, hb⟩, hk.2⟩
    · split
      · rename_i hne hlt
        split
        · exact h
        · rename_i hb
          simp only [memWfFrom, Bool.and_eq_true, decide_eq_true_eq, ne_eq]
          refine ⟨⟨?_, hb⟩, ⟨hlt, hk.1.2⟩, hk.2⟩
          cases lo with
          | none => rfl
          | some l => simpa using hlo l rfl
      · rename_i hne hlt
        simp only [memWfFrom, Bool.and_eq_true, decide_eq_true_eq, ne_eq]
        refine ⟨hk.1, ih hk.2 fun l hl => ?_⟩
        cases hl
        omega

/-- A write keeps the canonical form. -/
theorem memPut_wf {d : Byte} {m : Memory} (h : Memory.wf d m = true) (a : Nat) (b : Byte) :
    Memory.wf d (memPut d m a b) = true := memPut_wfFrom h (by simp)

theorem memWrite_wf {d : Byte} (bs : Bytes) : ∀ {m : Memory} (a : Nat), Memory.wf d m = true →
    Memory.wf d (memWrite d m a bs) = true := by
  induction bs with
  | nil => intro m a h; exact h
  | cons b r ih => intro m a h; exact ih _ (memPut_wf h a b)

/-- Leaving out cells keeps the canonical form. -/
theorem filter_wfFrom {d : Byte} (p : Host.Cell → Bool) {m : Memory} : ∀ {lo : Option Nat}, memWfFrom d lo m = true →
    memWfFrom d lo (m.filter p) = true := by
  induction m with
  | nil => intro lo h; exact h
  | cons c r ih =>
    obtain ⟨k, x⟩ := c
    intro lo h
    have hk := h
    simp only [memWfFrom, Bool.and_eq_true, decide_eq_true_eq, ne_eq] at hk
    rw [List.filter_cons]
    split
    · simp only [memWfFrom, Bool.and_eq_true, decide_eq_true_eq, ne_eq]
      exact ⟨hk.1, ih hk.2⟩
    · refine ih (memWfFrom_mono hk.2 fun l hl => ⟨k, rfl, ?_⟩)
      subst hl
      have := hk.1.1
      simp only [decide_eq_true_eq] at this
      omega

theorem filter_wf {d : Byte} (p : Host.Cell → Bool) {m : Memory} (h : Memory.wf d m = true) :
    Memory.wf d (m.filter p) = true := filter_wfFrom p h

/-- Erasing a range keeps the canonical form. -/
theorem memErase_wf {d : Byte} {m : Memory} (h : Memory.wf d m = true) (a n : Nat) :
    Memory.wf d (memErase m a n) = true := filter_wf _ h

theorem memGet_memPut_from {d : Byte} {m : Memory} : ∀ {lo : Option Nat}, memWfFrom d lo m = true → ∀ (a : Nat) (b : Byte) (x : Nat),
    memGet d (memPut d m a b) x = if x = a then b else memGet d m x := by
  induction m with
  | nil =>
    intro lo _ a b x
    unfold memPut
    split
    · rename_i hb; subst hb; simp [memGet]
    · simp only [memGet]
      split <;> simp
  | cons c r ih =>
    obtain ⟨k, y⟩ := c
    intro lo h a b x
    simp only [memWfFrom, Bool.and_eq_true, decide_eq_true_eq, ne_eq] at h
    unfold memPut
    split
    · rename_i he
      subst he
      split
      · rename_i hb
        subst hb
        by_cases hx : x = a
        · subst hx; simp [memGet_below h.2 le_rfl]
        · by_cases hlt : x < a
          · simp [memGet, hx, hlt, memGet_below h.2 (Nat.le_of_lt hlt)]
          · simp [memGet, hx, hlt]
      · by_cases hx : x = a <;> simp [memGet, hx]
    · rename_i hne
      split
      · rename_i hlt
        split
        · rename_i hb
          subst hb
          by_cases hx : x = a
          · subst hx; simp [memGet, hne, hlt]
          · simp [hx]
        · by_cases hx : x = a
          · subst hx; simp [memGet]
          · by_cases hxa : x < a
            · have h1 : x ≠ k := by omega
              have h2 : x < k := by omega
              simp [memGet, hx, hxa, h1, h2]
            · simp [memGet, hx, hxa]
      · rename_i hlt
        have hi := ih h.2 a b x
        by_cases hx : x = k
        · subst hx
          have hxa : x ≠ a := fun e => hne e.symm
          simp [memGet, hxa]
        · by_cases hxk : x < k
          · have h1 : x ≠ a := by omega
            simp [memGet, hx, hxk, h1]
          · simp only [memGet, hx, hxk, if_false, hi]

/-- A read after a write of one byte. -/
theorem memGet_memPut {d : Byte} {m : Memory} (h : Memory.wf d m = true) (a : Nat) (b : Byte) (x : Nat) :
    memGet d (memPut d m a b) x = if x = a then b else memGet d m x := memGet_memPut_from h a b x

/-- A write of bytes leaves every other address as it was. -/
theorem memGet_memWrite_other {d : Byte} (bs : Bytes) : ∀ {m : Memory} {a x : Nat}, Memory.wf d m = true →
    x < a ∨ a + bs.length ≤ x → memGet d (memWrite d m a bs) x = memGet d m x := by
  induction bs with
  | nil => intros; rfl
  | cons b r ih =>
    intro m a x h hx
    simp only [List.length_cons] at hx
    unfold memWrite
    rw [ih (memPut_wf h a b) (by omega), memGet_memPut h]
    exact if_neg (by omega)

/-- A read after a write of bytes gives the bytes written. -/
theorem memGet_memWrite {d : Byte} (bs : Bytes) : ∀ {m : Memory} {a i : Nat}, Memory.wf d m = true → (hi : i < bs.length) →
    memGet d (memWrite d m a bs) (a + i) = bs[i] := by
  induction bs with
  | nil => intro m a i _ hi; simp at hi
  | cons b r ih =>
    intro m a i h hi
    unfold memWrite
    cases i with
    | zero =>
      rw [memGet_memWrite_other r (memPut_wf h a b) (by omega), memGet_memPut h]
      simp
    | succ i =>
      have := ih (memPut_wf h a b) (a := a + 1) (i := i) (by simpa using hi)
      simpa [Nat.add_assoc, Nat.add_comm 1 i] using this

/-- Reading a range byte by byte. -/
theorem memRead_eq_map {d : Byte} {m : Memory} (n : Nat) : ∀ a : Nat, memRead d m a n = (List.range n).map fun i => memGet d m (a + i) := by
  induction n with
  | zero => intro a; rfl
  | succ k ih =>
    intro a
    rw [memRead, ih, List.range_succ_eq_map, List.map_cons, List.map_map]
    simp only [Nat.add_zero, Function.comp_def, Nat.add_assoc, Nat.add_comm 1]

/-- What has been written is read back. -/
theorem memRead_memWrite {d : Byte} {m : Memory} (h : Memory.wf d m = true) (a : Nat) (bs : Bytes) :
    memRead d (memWrite d m a bs) a bs.length = bs := by
  rw [memRead_eq_map]
  refine List.ext_getElem (by simp) fun i h1 h2 => ?_
  simp [memGet_memWrite bs h h2]

/-- Memory with nothing listed is in the form. -/
theorem nil_wf (d : Byte) : Memory.wf d [] = true := rfl

/-- A fold of writes keeps the canonical form. -/
theorem foldl_wf {α : Type} {d : Byte} {f : Memory → α → Memory} (hf : ∀ m x, Memory.wf d m = true → Memory.wf d (f m x) = true)
    (l : List α) : ∀ {m : Memory}, Memory.wf d m = true → Memory.wf d (l.foldl f m) = true := by
  induction l with
  | nil => intro m h; exact h
  | cons x r ih => intro m h; exact ih (hf m x h)

end Sys2Proof.Laws
end

