-- ==== Sys2Proof/Laws/State.lean ====
section
/-! SUPPORT. Laws/State.lean: the fields of the state after each of the shared updates, one lemma per field. -/

namespace Sys2Proof.Laws

open Sys2Proof Sys2Proof.Machine

/-! `modPort` changes `ports` alone. -/

@[simp] theorem modPort_kp (p : Nat) (f : Port → Port) (s : State) : (modPort p f s).kp = s.kp := rfl
@[simp] theorem modPort_boot (p : Nat) (f : Port → Port) (s : State) : (modPort p f s).boot = s.boot := rfl
@[simp] theorem modPort_fuses (p : Nat) (f : Port → Port) (s : State) : (modPort p f s).fuses = s.fuses := rfl
@[simp] theorem modPort_board (p : Nat) (f : Port → Port) (s : State) : (modPort p f s).board = s.board := rfl
@[simp] theorem modPort_pins (p : Nat) (f : Port → Port) (s : State) : (modPort p f s).pins = s.pins := rfl
@[simp] theorem modPort_host (p : Nat) (f : Port → Port) (s : State) : (modPort p f s).host = s.host := rfl
@[simp] theorem modPort_err (p : Nat) (f : Port → Port) (s : State) : (modPort p f s).err = s.err := rfl
@[simp] theorem modPort_lag (p : Nat) (f : Port → Port) (s : State) : (modPort p f s).lag = s.lag := rfl
@[simp] theorem modPort_qs (p : Nat) (f : Port → Port) (s : State) : (modPort p f s).qs = s.qs := rfl
@[simp] theorem modPort_evq (p : Nat) (f : Port → Port) (s : State) : (modPort p f s).evq = s.evq := rfl
@[simp] theorem modPort_evs (p : Nat) (f : Port → Port) (s : State) : (modPort p f s).evs = s.evs := rfl
@[simp] theorem modPort_tree (p : Nat) (f : Port → Port) (s : State) : (modPort p f s).tree = s.tree := rfl
@[simp] theorem modPort_cfg (p : Nat) (f : Port → Port) (s : State) : (modPort p f s).cfg = s.cfg := rfl
@[simp] theorem modPort_wins (p : Nat) (f : Port → Port) (s : State) : (modPort p f s).wins = s.wins := rfl
@[simp] theorem modPort_maps (p : Nat) (f : Port → Port) (s : State) : (modPort p f s).maps = s.maps := rfl
@[simp] theorem modPort_comms (p : Nat) (f : Port → Port) (s : State) : (modPort p f s).comms = s.comms := rfl
@[simp] theorem modPort_cmds (p : Nat) (f : Port → Port) (s : State) : (modPort p f s).cmds = s.cmds := rfl
@[simp] theorem modPort_ctxs (p : Nat) (f : Port → Port) (s : State) : (modPort p f s).ctxs = s.ctxs := rfl
@[simp] theorem modPort_saved (p : Nat) (f : Port → Port) (s : State) : (modPort p f s).saved = s.saved := rfl
@[simp] theorem modPort_threads (p : Nat) (f : Port → Port) (s : State) : (modPort p f s).threads = s.threads := rfl
@[simp] theorem modPort_slots (p : Nat) (f : Port → Port) (s : State) : (modPort p f s).slots = s.slots := rfl
@[simp] theorem modPort_turns (p : Nat) (f : Port → Port) (s : State) : (modPort p f s).turns = s.turns := rfl
@[simp] theorem modPort_progs (p : Nat) (f : Port → Port) (s : State) : (modPort p f s).progs = s.progs := rfl
@[simp] theorem modPort_ni (p : Nat) (f : Port → Port) (s : State) : (modPort p f s).ni = s.ni := rfl
@[simp] theorem modPort_rt (p : Nat) (f : Port → Port) (s : State) : (modPort p f s).rt = s.rt := rfl
@[simp] theorem modPort_ports (p : Nat) (f : Port → Port) (s : State) : (modPort p f s).ports = modAt f p s.ports := rfl
@[simp] theorem modPort_rein (p : Nat) (f : Port → Port) (s : State) : (modPort p f s).rein = s.rein := rfl
@[simp] theorem modPort_tm (p : Nat) (f : Port → Port) (s : State) : (modPort p f s).tm = s.tm := rfl
@[simp] theorem modPort_stg (p : Nat) (f : Port → Port) (s : State) : (modPort p f s).stg = s.stg := rfl
@[simp] theorem modPort_bus (p : Nat) (f : Port → Port) (s : State) : (modPort p f s).bus = s.bus := rfl
@[simp] theorem modPort_busPoison (p : Nat) (f : Port → Port) (s : State) : (modPort p f s).busPoison = s.busPoison := rfl
@[simp] theorem modPort_flash (p : Nat) (f : Port → Port) (s : State) : (modPort p f s).flash = s.flash := rfl
@[simp] theorem modPort_jtag (p : Nat) (f : Port → Port) (s : State) : (modPort p f s).jtag = s.jtag := rfl
@[simp] theorem modPort_out (p : Nat) (f : Port → Port) (s : State) : (modPort p f s).out = s.out := rfl
@[simp] theorem modPort_free (p : Nat) (f : Port → Port) (s : State) : (modPort p f s).free = s.free := rfl
@[simp] theorem modPort_undef (p : Nat) (f : Port → Port) (s : State) : (modPort p f s).undef = s.undef := rfl
@[simp] theorem modPort_pending (p : Nat) (f : Port → Port) (s : State) : (modPort p f s).pending = s.pending := rfl

/-! `modComm` changes `comms` alone. -/

@[simp] theorem modComm_kp (h : W32) (f : Comm → Comm) (s : State) : (modComm h f s).kp = s.kp := rfl
@[simp] theorem modComm_boot (h : W32) (f : Comm → Comm) (s : State) : (modComm h f s).boot = s.boot := rfl
@[simp] theorem modComm_fuses (h : W32) (f : Comm → Comm) (s : State) : (modComm h f s).fuses = s.fuses := rfl
@[simp] theorem modComm_board (h : W32) (f : Comm → Comm) (s : State) : (modComm h f s).board = s.board := rfl
@[simp] theorem modComm_pins (h : W32) (f : Comm → Comm) (s : State) : (modComm h f s).pins = s.pins := rfl
@[simp] theorem modComm_host (h : W32) (f : Comm → Comm) (s : State) : (modComm h f s).host = s.host := rfl
@[simp] theorem modComm_err (h : W32) (f : Comm → Comm) (s : State) : (modComm h f s).err = s.err := rfl
@[simp] theorem modComm_lag (h : W32) (f : Comm → Comm) (s : State) : (modComm h f s).lag = s.lag := rfl
@[simp] theorem modComm_qs (h : W32) (f : Comm → Comm) (s : State) : (modComm h f s).qs = s.qs := rfl
@[simp] theorem modComm_evq (h : W32) (f : Comm → Comm) (s : State) : (modComm h f s).evq = s.evq := rfl
@[simp] theorem modComm_evs (h : W32) (f : Comm → Comm) (s : State) : (modComm h f s).evs = s.evs := rfl
@[simp] theorem modComm_tree (h : W32) (f : Comm → Comm) (s : State) : (modComm h f s).tree = s.tree := rfl
@[simp] theorem modComm_cfg (h : W32) (f : Comm → Comm) (s : State) : (modComm h f s).cfg = s.cfg := rfl
@[simp] theorem modComm_wins (h : W32) (f : Comm → Comm) (s : State) : (modComm h f s).wins = s.wins := rfl
@[simp] theorem modComm_maps (h : W32) (f : Comm → Comm) (s : State) : (modComm h f s).maps = s.maps := rfl
@[simp] theorem modComm_comms (h : W32) (f : Comm → Comm) (s : State) : (modComm h f s).comms = updWhere (fun c => c.handle = h) f s.comms := rfl
@[simp] theorem modComm_cmds (h : W32) (f : Comm → Comm) (s : State) : (modComm h f s).cmds = s.cmds := rfl
@[simp] theorem modComm_ctxs (h : W32) (f : Comm → Comm) (s : State) : (modComm h f s).ctxs = s.ctxs := rfl
@[simp] theorem modComm_saved (h : W32) (f : Comm → Comm) (s : State) : (modComm h f s).saved = s.saved := rfl
@[simp] theorem modComm_threads (h : W32) (f : Comm → Comm) (s : State) : (modComm h f s).threads = s.threads := rfl
@[simp] theorem modComm_slots (h : W32) (f : Comm → Comm) (s : State) : (modComm h f s).slots = s.slots := rfl
@[simp] theorem modComm_turns (h : W32) (f : Comm → Comm) (s : State) : (modComm h f s).turns = s.turns := rfl
@[simp] theorem modComm_progs (h : W32) (f : Comm → Comm) (s : State) : (modComm h f s).progs = s.progs := rfl
@[simp] theorem modComm_ni (h : W32) (f : Comm → Comm) (s : State) : (modComm h f s).ni = s.ni := rfl
@[simp] theorem modComm_rt (h : W32) (f : Comm → Comm) (s : State) : (modComm h f s).rt = s.rt := rfl
@[simp] theorem modComm_ports (h : W32) (f : Comm → Comm) (s : State) : (modComm h f s).ports = s.ports := rfl
@[simp] theorem modComm_rein (h : W32) (f : Comm → Comm) (s : State) : (modComm h f s).rein = s.rein := rfl
@[simp] theorem modComm_tm (h : W32) (f : Comm → Comm) (s : State) : (modComm h f s).tm = s.tm := rfl
@[simp] theorem modComm_stg (h : W32) (f : Comm → Comm) (s : State) : (modComm h f s).stg = s.stg := rfl
@[simp] theorem modComm_bus (h : W32) (f : Comm → Comm) (s : State) : (modComm h f s).bus = s.bus := rfl
@[simp] theorem modComm_busPoison (h : W32) (f : Comm → Comm) (s : State) : (modComm h f s).busPoison = s.busPoison := rfl
@[simp] theorem modComm_flash (h : W32) (f : Comm → Comm) (s : State) : (modComm h f s).flash = s.flash := rfl
@[simp] theorem modComm_jtag (h : W32) (f : Comm → Comm) (s : State) : (modComm h f s).jtag = s.jtag := rfl
@[simp] theorem modComm_out (h : W32) (f : Comm → Comm) (s : State) : (modComm h f s).out = s.out := rfl
@[simp] theorem modComm_free (h : W32) (f : Comm → Comm) (s : State) : (modComm h f s).free = s.free := rfl
@[simp] theorem modComm_undef (h : W32) (f : Comm → Comm) (s : State) : (modComm h f s).undef = s.undef := rfl
@[simp] theorem modComm_pending (h : W32) (f : Comm → Comm) (s : State) : (modComm h f s).pending = s.pending := rfl

/-! `modCtx` changes `ctxs` alone. -/

@[simp] theorem modCtx_kp (i : BitVec 9) (f : Ctx → Ctx) (s : State) : (modCtx i f s).kp = s.kp := rfl
@[simp] theorem modCtx_boot (i : BitVec 9) (f : Ctx → Ctx) (s : State) : (modCtx i f s).boot = s.boot := rfl
@[simp] theorem modCtx_fuses (i : BitVec 9) (f : Ctx → Ctx) (s : State) : (modCtx i f s).fuses = s.fuses := rfl
@[simp] theorem modCtx_board (i : BitVec 9) (f : Ctx → Ctx) (s : State) : (modCtx i f s).board = s.board := rfl
@[simp] theorem modCtx_pins (i : BitVec 9) (f : Ctx → Ctx) (s : State) : (modCtx i f s).pins = s.pins := rfl
@[simp] theorem modCtx_host (i : BitVec 9) (f : Ctx → Ctx) (s : State) : (modCtx i f s).host = s.host := rfl
@[simp] theorem modCtx_err (i : BitVec 9) (f : Ctx → Ctx) (s : State) : (modCtx i f s).err = s.err := rfl
@[simp] theorem modCtx_lag (i : BitVec 9) (f : Ctx → Ctx) (s : State) : (modCtx i f s).lag = s.lag := rfl
@[simp] theorem modCtx_qs (i : BitVec 9) (f : Ctx → Ctx) (s : State) : (modCtx i f s).qs = s.qs := rfl
@[simp] theorem modCtx_evq (i : BitVec 9) (f : Ctx → Ctx) (s : State) : (modCtx i f s).evq = s.evq := rfl
@[simp] theorem modCtx_evs (i : BitVec 9) (f : Ctx → Ctx) (s : State) : (modCtx i f s).evs = s.evs := rfl
@[simp] theorem modCtx_tree (i : BitVec 9) (f : Ctx → Ctx) (s : State) : (modCtx i f s).tree = s.tree := rfl
@[simp] theorem modCtx_cfg (i : BitVec 9) (f : Ctx → Ctx) (s : State) : (modCtx i f s).cfg = s.cfg := rfl
@[simp] theorem modCtx_wins (i : BitVec 9) (f : Ctx → Ctx) (s : State) : (modCtx i f s).wins = s.wins := rfl
@[simp] theorem modCtx_maps (i : BitVec 9) (f : Ctx → Ctx) (s : State) : (modCtx i f s).maps = s.maps := rfl
@[simp] theorem modCtx_comms (i : BitVec 9) (f : Ctx → Ctx) (s : State) : (modCtx i f s).comms = s.comms := rfl
@[simp] theorem modCtx_cmds (i : BitVec 9) (f : Ctx → Ctx) (s : State) : (modCtx i f s).cmds = s.cmds := rfl
@[simp] theorem modCtx_ctxs (i : BitVec 9) (f : Ctx → Ctx) (s : State) : (modCtx i f s).ctxs = updWhere (fun c => c.idx = i) f s.ctxs := rfl
@[simp] theorem modCtx_saved (i : BitVec 9) (f : Ctx → Ctx) (s : State) : (modCtx i f s).saved = s.saved := rfl
@[simp] theorem modCtx_threads (i : BitVec 9) (f : Ctx → Ctx) (s : State) : (modCtx i f s).threads = s.threads := rfl
@[simp] theorem modCtx_slots (i : BitVec 9) (f : Ctx → Ctx) (s : State) : (modCtx i f s).slots = s.slots := rfl
@[simp] theorem modCtx_turns (i : BitVec 9) (f : Ctx → Ctx) (s : State) : (modCtx i f s).turns = s.turns := rfl
@[simp] theorem modCtx_progs (i : BitVec 9) (f : Ctx → Ctx) (s : State) : (modCtx i f s).progs = s.progs := rfl
@[simp] theorem modCtx_ni (i : BitVec 9) (f : Ctx → Ctx) (s : State) : (modCtx i f s).ni = s.ni := rfl
@[simp] theorem modCtx_rt (i : BitVec 9) (f : Ctx → Ctx) (s : State) : (modCtx i f s).rt = s.rt := rfl
@[simp] theorem modCtx_ports (i : BitVec 9) (f : Ctx → Ctx) (s : State) : (modCtx i f s).ports = s.ports := rfl
@[simp] theorem modCtx_rein (i : BitVec 9) (f : Ctx → Ctx) (s : State) : (modCtx i f s).rein = s.rein := rfl
@[simp] theorem modCtx_tm (i : BitVec 9) (f : Ctx → Ctx) (s : State) : (modCtx i f s).tm = s.tm := rfl
@[simp] theorem modCtx_stg (i : BitVec 9) (f : Ctx → Ctx) (s : State) : (modCtx i f s).stg = s.stg := rfl
@[simp] theorem modCtx_bus (i : BitVec 9) (f : Ctx → Ctx) (s : State) : (modCtx i f s).bus = s.bus := rfl
@[simp] theorem modCtx_busPoison (i : BitVec 9) (f : Ctx → Ctx) (s : State) : (modCtx i f s).busPoison = s.busPoison := rfl
@[simp] theorem modCtx_flash (i : BitVec 9) (f : Ctx → Ctx) (s : State) : (modCtx i f s).flash = s.flash := rfl
@[simp] theorem modCtx_jtag (i : BitVec 9) (f : Ctx → Ctx) (s : State) : (modCtx i f s).jtag = s.jtag := rfl
@[simp] theorem modCtx_out (i : BitVec 9) (f : Ctx → Ctx) (s : State) : (modCtx i f s).out = s.out := rfl
@[simp] theorem modCtx_free (i : BitVec 9) (f : Ctx → Ctx) (s : State) : (modCtx i f s).free = s.free := rfl
@[simp] theorem modCtx_undef (i : BitVec 9) (f : Ctx → Ctx) (s : State) : (modCtx i f s).undef = s.undef := rfl
@[simp] theorem modCtx_pending (i : BitVec 9) (f : Ctx → Ctx) (s : State) : (modCtx i f s).pending = s.pending := rfl

/-! `modCmd` changes `cmds` alone. -/

@[simp] theorem modCmd_kp (i : Nat) (f : Cmd → Cmd) (s : State) : (modCmd i f s).kp = s.kp := rfl
@[simp] theorem modCmd_boot (i : Nat) (f : Cmd → Cmd) (s : State) : (modCmd i f s).boot = s.boot := rfl
@[simp] theorem modCmd_fuses (i : Nat) (f : Cmd → Cmd) (s : State) : (modCmd i f s).fuses = s.fuses := rfl
@[simp] theorem modCmd_board (i : Nat) (f : Cmd → Cmd) (s : State) : (modCmd i f s).board = s.board := rfl
@[simp] theorem modCmd_pins (i : Nat) (f : Cmd → Cmd) (s : State) : (modCmd i f s).pins = s.pins := rfl
@[simp] theorem modCmd_host (i : Nat) (f : Cmd → Cmd) (s : State) : (modCmd i f s).host = s.host := rfl
@[simp] theorem modCmd_err (i : Nat) (f : Cmd → Cmd) (s : State) : (modCmd i f s).err = s.err := rfl
@[simp] theorem modCmd_lag (i : Nat) (f : Cmd → Cmd) (s : State) : (modCmd i f s).lag = s.lag := rfl
@[simp] theorem modCmd_qs (i : Nat) (f : Cmd → Cmd) (s : State) : (modCmd i f s).qs = s.qs := rfl
@[simp] theorem modCmd_evq (i : Nat) (f : Cmd → Cmd) (s : State) : (modCmd i f s).evq = s.evq := rfl
@[simp] theorem modCmd_evs (i : Nat) (f : Cmd → Cmd) (s : State) : (modCmd i f s).evs = s.evs := rfl
@[simp] theorem modCmd_tree (i : Nat) (f : Cmd → Cmd) (s : State) : (modCmd i f s).tree = s.tree := rfl
@[simp] theorem modCmd_cfg (i : Nat) (f : Cmd → Cmd) (s : State) : (modCmd i f s).cfg = s.cfg := rfl
@[simp] theorem modCmd_wins (i : Nat) (f : Cmd → Cmd) (s : State) : (modCmd i f s).wins = s.wins := rfl
@[simp] theorem modCmd_maps (i : Nat) (f : Cmd → Cmd) (s : State) : (modCmd i f s).maps = s.maps := rfl
@[simp] theorem modCmd_comms (i : Nat) (f : Cmd → Cmd) (s : State) : (modCmd i f s).comms = s.comms := rfl
@[simp] theorem modCmd_cmds (i : Nat) (f : Cmd → Cmd) (s : State) : (modCmd i f s).cmds = updWhere (fun c => c.id = i) f s.cmds := rfl
@[simp] theorem modCmd_ctxs (i : Nat) (f : Cmd → Cmd) (s : State) : (modCmd i f s).ctxs = s.ctxs := rfl
@[simp] theorem modCmd_saved (i : Nat) (f : Cmd → Cmd) (s : State) : (modCmd i f s).saved = s.saved := rfl
@[simp] theorem modCmd_threads (i : Nat) (f : Cmd → Cmd) (s : State) : (modCmd i f s).threads = s.threads := rfl
@[simp] theorem modCmd_slots (i : Nat) (f : Cmd → Cmd) (s : State) : (modCmd i f s).slots = s.slots := rfl
@[simp] theorem modCmd_turns (i : Nat) (f : Cmd → Cmd) (s : State) : (modCmd i f s).turns = s.turns := rfl
@[simp] theorem modCmd_progs (i : Nat) (f : Cmd → Cmd) (s : State) : (modCmd i f s).progs = s.progs := rfl
@[simp] theorem modCmd_ni (i : Nat) (f : Cmd → Cmd) (s : State) : (modCmd i f s).ni = s.ni := rfl
@[simp] theorem modCmd_rt (i : Nat) (f : Cmd → Cmd) (s : State) : (modCmd i f s).rt = s.rt := rfl
@[simp] theorem modCmd_ports (i : Nat) (f : Cmd → Cmd) (s : State) : (modCmd i f s).ports = s.ports := rfl
@[simp] theorem modCmd_rein (i : Nat) (f : Cmd → Cmd) (s : State) : (modCmd i f s).rein = s.rein := rfl
@[simp] theorem modCmd_tm (i : Nat) (f : Cmd → Cmd) (s : State) : (modCmd i f s).tm = s.tm := rfl
@[simp] theorem modCmd_stg (i : Nat) (f : Cmd → Cmd) (s : State) : (modCmd i f s).stg = s.stg := rfl
@[simp] theorem modCmd_bus (i : Nat) (f : Cmd → Cmd) (s : State) : (modCmd i f s).bus = s.bus := rfl
@[simp] theorem modCmd_busPoison (i : Nat) (f : Cmd → Cmd) (s : State) : (modCmd i f s).busPoison = s.busPoison := rfl
@[simp] theorem modCmd_flash (i : Nat) (f : Cmd → Cmd) (s : State) : (modCmd i f s).flash = s.flash := rfl
@[simp] theorem modCmd_jtag (i : Nat) (f : Cmd → Cmd) (s : State) : (modCmd i f s).jtag = s.jtag := rfl
@[simp] theorem modCmd_out (i : Nat) (f : Cmd → Cmd) (s : State) : (modCmd i f s).out = s.out := rfl
@[simp] theorem modCmd_free (i : Nat) (f : Cmd → Cmd) (s : State) : (modCmd i f s).free = s.free := rfl
@[simp] theorem modCmd_undef (i : Nat) (f : Cmd → Cmd) (s : State) : (modCmd i f s).undef = s.undef := rfl
@[simp] theorem modCmd_pending (i : Nat) (f : Cmd → Cmd) (s : State) : (modCmd i f s).pending = s.pending := rfl

/-! `emit` changes `out` alone. -/

@[simp] theorem emit_kp (o : Output) (s : State) : (emit o s).kp = s.kp := rfl
@[simp] theorem emit_boot (o : Output) (s : State) : (emit o s).boot = s.boot := rfl
@[simp] theorem emit_fuses (o : Output) (s : State) : (emit o s).fuses = s.fuses := rfl
@[simp] theorem emit_board (o : Output) (s : State) : (emit o s).board = s.board := rfl
@[simp] theorem emit_pins (o : Output) (s : State) : (emit o s).pins = s.pins := rfl
@[simp] theorem emit_host (o : Output) (s : State) : (emit o s).host = s.host := rfl
@[simp] theorem emit_err (o : Output) (s : State) : (emit o s).err = s.err := rfl
@[simp] theorem emit_lag (o : Output) (s : State) : (emit o s).lag = s.lag := rfl
@[simp] theorem emit_qs (o : Output) (s : State) : (emit o s).qs = s.qs := rfl
@[simp] theorem emit_evq (o : Output) (s : State) : (emit o s).evq = s.evq := rfl
@[simp] theorem emit_evs (o : Output) (s : State) : (emit o s).evs = s.evs := rfl
@[simp] theorem emit_tree (o : Output) (s : State) : (emit o s).tree = s.tree := rfl
@[simp] theorem emit_cfg (o : Output) (s : State) : (emit o s).cfg = s.cfg := rfl
@[simp] theorem emit_wins (o : Output) (s : State) : (emit o s).wins = s.wins := rfl
@[simp] theorem emit_maps (o : Output) (s : State) : (emit o s).maps = s.maps := rfl
@[simp] theorem emit_comms (o : Output) (s : State) : (emit o s).comms = s.comms := rfl
@[simp] theorem emit_cmds (o : Output) (s : State) : (emit o s).cmds = s.cmds := rfl
@[simp] theorem emit_ctxs (o : Output) (s : State) : (emit o s).ctxs = s.ctxs := rfl
@[simp] theorem emit_saved (o : Output) (s : State) : (emit o s).saved = s.saved := rfl
@[simp] theorem emit_threads (o : Output) (s : State) : (emit o s).threads = s.threads := rfl
@[simp] theorem emit_slots (o : Output) (s : State) : (emit o s).slots = s.slots := rfl
@[simp] theorem emit_turns (o : Output) (s : State) : (emit o s).turns = s.turns := rfl
@[simp] theorem emit_progs (o : Output) (s : State) : (emit o s).progs = s.progs := rfl
@[simp] theorem emit_ni (o : Output) (s : State) : (emit o s).ni = s.ni := rfl
@[simp] theorem emit_rt (o : Output) (s : State) : (emit o s).rt = s.rt := rfl
@[simp] theorem emit_ports (o : Output) (s : State) : (emit o s).ports = s.ports := rfl
@[simp] theorem emit_rein (o : Output) (s : State) : (emit o s).rein = s.rein := rfl
@[simp] theorem emit_tm (o : Output) (s : State) : (emit o s).tm = s.tm := rfl
@[simp] theorem emit_stg (o : Output) (s : State) : (emit o s).stg = s.stg := rfl
@[simp] theorem emit_bus (o : Output) (s : State) : (emit o s).bus = s.bus := rfl
@[simp] theorem emit_busPoison (o : Output) (s : State) : (emit o s).busPoison = s.busPoison := rfl
@[simp] theorem emit_flash (o : Output) (s : State) : (emit o s).flash = s.flash := rfl
@[simp] theorem emit_jtag (o : Output) (s : State) : (emit o s).jtag = s.jtag := rfl
@[simp] theorem emit_out (o : Output) (s : State) : (emit o s).out = o :: s.out := rfl
@[simp] theorem emit_free (o : Output) (s : State) : (emit o s).free = s.free := rfl
@[simp] theorem emit_undef (o : Output) (s : State) : (emit o s).undef = s.undef := rfl
@[simp] theorem emit_pending (o : Output) (s : State) : (emit o s).pending = s.pending := rfl

/-! `bumpFree` changes `free` alone. -/

@[simp] theorem bumpFree_kp (n : Nat) (s : State) : (bumpFree n s).kp = s.kp := rfl
@[simp] theorem bumpFree_boot (n : Nat) (s : State) : (bumpFree n s).boot = s.boot := rfl
@[simp] theorem bumpFree_fuses (n : Nat) (s : State) : (bumpFree n s).fuses = s.fuses := rfl
@[simp] theorem bumpFree_board (n : Nat) (s : State) : (bumpFree n s).board = s.board := rfl
@[simp] theorem bumpFree_pins (n : Nat) (s : State) : (bumpFree n s).pins = s.pins := rfl
@[simp] theorem bumpFree_host (n : Nat) (s : State) : (bumpFree n s).host = s.host := rfl
@[simp] theorem bumpFree_err (n : Nat) (s : State) : (bumpFree n s).err = s.err := rfl
@[simp] theorem bumpFree_lag (n : Nat) (s : State) : (bumpFree n s).lag = s.lag := rfl
@[simp] theorem bumpFree_qs (n : Nat) (s : State) : (bumpFree n s).qs = s.qs := rfl
@[simp] theorem bumpFree_evq (n : Nat) (s : State) : (bumpFree n s).evq = s.evq := rfl
@[simp] theorem bumpFree_evs (n : Nat) (s : State) : (bumpFree n s).evs = s.evs := rfl
@[simp] theorem bumpFree_tree (n : Nat) (s : State) : (bumpFree n s).tree = s.tree := rfl
@[simp] theorem bumpFree_cfg (n : Nat) (s : State) : (bumpFree n s).cfg = s.cfg := rfl
@[simp] theorem bumpFree_wins (n : Nat) (s : State) : (bumpFree n s).wins = s.wins := rfl
@[simp] theorem bumpFree_maps (n : Nat) (s : State) : (bumpFree n s).maps = s.maps := rfl
@[simp] theorem bumpFree_comms (n : Nat) (s : State) : (bumpFree n s).comms = s.comms := rfl
@[simp] theorem bumpFree_cmds (n : Nat) (s : State) : (bumpFree n s).cmds = s.cmds := rfl
@[simp] theorem bumpFree_ctxs (n : Nat) (s : State) : (bumpFree n s).ctxs = s.ctxs := rfl
@[simp] theorem bumpFree_saved (n : Nat) (s : State) : (bumpFree n s).saved = s.saved := rfl
@[simp] theorem bumpFree_threads (n : Nat) (s : State) : (bumpFree n s).threads = s.threads := rfl
@[simp] theorem bumpFree_slots (n : Nat) (s : State) : (bumpFree n s).slots = s.slots := rfl
@[simp] theorem bumpFree_turns (n : Nat) (s : State) : (bumpFree n s).turns = s.turns := rfl
@[simp] theorem bumpFree_progs (n : Nat) (s : State) : (bumpFree n s).progs = s.progs := rfl
@[simp] theorem bumpFree_ni (n : Nat) (s : State) : (bumpFree n s).ni = s.ni := rfl
@[simp] theorem bumpFree_rt (n : Nat) (s : State) : (bumpFree n s).rt = s.rt := rfl
@[simp] theorem bumpFree_ports (n : Nat) (s : State) : (bumpFree n s).ports = s.ports := rfl
@[simp] theorem bumpFree_rein (n : Nat) (s : State) : (bumpFree n s).rein = s.rein := rfl
@[simp] theorem bumpFree_tm (n : Nat) (s : State) : (bumpFree n s).tm = s.tm := rfl
@[simp] theorem bumpFree_stg (n : Nat) (s : State) : (bumpFree n s).stg = s.stg := rfl
@[simp] theorem bumpFree_bus (n : Nat) (s : State) : (bumpFree n s).bus = s.bus := rfl
@[simp] theorem bumpFree_busPoison (n : Nat) (s : State) : (bumpFree n s).busPoison = s.busPoison := rfl
@[simp] theorem bumpFree_flash (n : Nat) (s : State) : (bumpFree n s).flash = s.flash := rfl
@[simp] theorem bumpFree_jtag (n : Nat) (s : State) : (bumpFree n s).jtag = s.jtag := rfl
@[simp] theorem bumpFree_out (n : Nat) (s : State) : (bumpFree n s).out = s.out := rfl
@[simp] theorem bumpFree_free (n : Nat) (s : State) : (bumpFree n s).free = s.free + n := rfl
@[simp] theorem bumpFree_undef (n : Nat) (s : State) : (bumpFree n s).undef = s.undef := rfl
@[simp] theorem bumpFree_pending (n : Nat) (s : State) : (bumpFree n s).pending = s.pending := rfl

/-! `flashWrite` changes `flash` alone. -/

@[simp] theorem flashWrite_kp (a : Nat) (d : Bytes) (s : State) : (flashWrite a d s).kp = s.kp := rfl
@[simp] theorem flashWrite_boot (a : Nat) (d : Bytes) (s : State) : (flashWrite a d s).boot = s.boot := rfl
@[simp] theorem flashWrite_fuses (a : Nat) (d : Bytes) (s : State) : (flashWrite a d s).fuses = s.fuses := rfl
@[simp] theorem flashWrite_board (a : Nat) (d : Bytes) (s : State) : (flashWrite a d s).board = s.board := rfl
@[simp] theorem flashWrite_pins (a : Nat) (d : Bytes) (s : State) : (flashWrite a d s).pins = s.pins := rfl
@[simp] theorem flashWrite_host (a : Nat) (d : Bytes) (s : State) : (flashWrite a d s).host = s.host := rfl
@[simp] theorem flashWrite_err (a : Nat) (d : Bytes) (s : State) : (flashWrite a d s).err = s.err := rfl
@[simp] theorem flashWrite_lag (a : Nat) (d : Bytes) (s : State) : (flashWrite a d s).lag = s.lag := rfl
@[simp] theorem flashWrite_qs (a : Nat) (d : Bytes) (s : State) : (flashWrite a d s).qs = s.qs := rfl
@[simp] theorem flashWrite_evq (a : Nat) (d : Bytes) (s : State) : (flashWrite a d s).evq = s.evq := rfl
@[simp] theorem flashWrite_evs (a : Nat) (d : Bytes) (s : State) : (flashWrite a d s).evs = s.evs := rfl
@[simp] theorem flashWrite_tree (a : Nat) (d : Bytes) (s : State) : (flashWrite a d s).tree = s.tree := rfl
@[simp] theorem flashWrite_cfg (a : Nat) (d : Bytes) (s : State) : (flashWrite a d s).cfg = s.cfg := rfl
@[simp] theorem flashWrite_wins (a : Nat) (d : Bytes) (s : State) : (flashWrite a d s).wins = s.wins := rfl
@[simp] theorem flashWrite_maps (a : Nat) (d : Bytes) (s : State) : (flashWrite a d s).maps = s.maps := rfl
@[simp] theorem flashWrite_comms (a : Nat) (d : Bytes) (s : State) : (flashWrite a d s).comms = s.comms := rfl
@[simp] theorem flashWrite_cmds (a : Nat) (d : Bytes) (s : State) : (flashWrite a d s).cmds = s.cmds := rfl
@[simp] theorem flashWrite_ctxs (a : Nat) (d : Bytes) (s : State) : (flashWrite a d s).ctxs = s.ctxs := rfl
@[simp] theorem flashWrite_saved (a : Nat) (d : Bytes) (s : State) : (flashWrite a d s).saved = s.saved := rfl
@[simp] theorem flashWrite_threads (a : Nat) (d : Bytes) (s : State) : (flashWrite a d s).threads = s.threads := rfl
@[simp] theorem flashWrite_slots (a : Nat) (d : Bytes) (s : State) : (flashWrite a d s).slots = s.slots := rfl
@[simp] theorem flashWrite_turns (a : Nat) (d : Bytes) (s : State) : (flashWrite a d s).turns = s.turns := rfl
@[simp] theorem flashWrite_progs (a : Nat) (d : Bytes) (s : State) : (flashWrite a d s).progs = s.progs := rfl
@[simp] theorem flashWrite_ni (a : Nat) (d : Bytes) (s : State) : (flashWrite a d s).ni = s.ni := rfl
@[simp] theorem flashWrite_rt (a : Nat) (d : Bytes) (s : State) : (flashWrite a d s).rt = s.rt := rfl
@[simp] theorem flashWrite_ports (a : Nat) (d : Bytes) (s : State) : (flashWrite a d s).ports = s.ports := rfl
@[simp] theorem flashWrite_rein (a : Nat) (d : Bytes) (s : State) : (flashWrite a d s).rein = s.rein := rfl
@[simp] theorem flashWrite_tm (a : Nat) (d : Bytes) (s : State) : (flashWrite a d s).tm = s.tm := rfl
@[simp] theorem flashWrite_stg (a : Nat) (d : Bytes) (s : State) : (flashWrite a d s).stg = s.stg := rfl
@[simp] theorem flashWrite_bus (a : Nat) (d : Bytes) (s : State) : (flashWrite a d s).bus = s.bus := rfl
@[simp] theorem flashWrite_busPoison (a : Nat) (d : Bytes) (s : State) : (flashWrite a d s).busPoison = s.busPoison := rfl
@[simp] theorem flashWrite_flash (a : Nat) (d : Bytes) (s : State) : (flashWrite a d s).flash = memWrite 0xFF s.flash a d := rfl
@[simp] theorem flashWrite_jtag (a : Nat) (d : Bytes) (s : State) : (flashWrite a d s).jtag = s.jtag := rfl
@[simp] theorem flashWrite_out (a : Nat) (d : Bytes) (s : State) : (flashWrite a d s).out = s.out := rfl
@[simp] theorem flashWrite_free (a : Nat) (d : Bytes) (s : State) : (flashWrite a d s).free = s.free := rfl
@[simp] theorem flashWrite_undef (a : Nat) (d : Bytes) (s : State) : (flashWrite a d s).undef = s.undef := rfl
@[simp] theorem flashWrite_pending (a : Nat) (d : Bytes) (s : State) : (flashWrite a d s).pending = s.pending := rfl

/-! `flashErase` changes `flash` alone. -/

@[simp] theorem flashErase_kp (a n : Nat) (s : State) : (flashErase a n s).kp = s.kp := rfl
@[simp] theorem flashErase_boot (a n : Nat) (s : State) : (flashErase a n s).boot = s.boot := rfl
@[simp] theorem flashErase_fuses (a n : Nat) (s : State) : (flashErase a n s).fuses = s.fuses := rfl
@[simp] theorem flashErase_board (a n : Nat) (s : State) : (flashErase a n s).board = s.board := rfl
@[simp] theorem flashErase_pins (a n : Nat) (s : State) : (flashErase a n s).pins = s.pins := rfl
@[simp] theorem flashErase_host (a n : Nat) (s : State) : (flashErase a n s).host = s.host := rfl
@[simp] theorem flashErase_err (a n : Nat) (s : State) : (flashErase a n s).err = s.err := rfl
@[simp] theorem flashErase_lag (a n : Nat) (s : State) : (flashErase a n s).lag = s.lag := rfl
@[simp] theorem flashErase_qs (a n : Nat) (s : State) : (flashErase a n s).qs = s.qs := rfl
@[simp] theorem flashErase_evq (a n : Nat) (s : State) : (flashErase a n s).evq = s.evq := rfl
@[simp] theorem flashErase_evs (a n : Nat) (s : State) : (flashErase a n s).evs = s.evs := rfl
@[simp] theorem flashErase_tree (a n : Nat) (s : State) : (flashErase a n s).tree = s.tree := rfl
@[simp] theorem flashErase_cfg (a n : Nat) (s : State) : (flashErase a n s).cfg = s.cfg := rfl
@[simp] theorem flashErase_wins (a n : Nat) (s : State) : (flashErase a n s).wins = s.wins := rfl
@[simp] theorem flashErase_maps (a n : Nat) (s : State) : (flashErase a n s).maps = s.maps := rfl
@[simp] theorem flashErase_comms (a n : Nat) (s : State) : (flashErase a n s).comms = s.comms := rfl
@[simp] theorem flashErase_cmds (a n : Nat) (s : State) : (flashErase a n s).cmds = s.cmds := rfl
@[simp] theorem flashErase_ctxs (a n : Nat) (s : State) : (flashErase a n s).ctxs = s.ctxs := rfl
@[simp] theorem flashErase_saved (a n : Nat) (s : State) : (flashErase a n s).saved = s.saved := rfl
@[simp] theorem flashErase_threads (a n : Nat) (s : State) : (flashErase a n s).threads = s.threads := rfl
@[simp] theorem flashErase_slots (a n : Nat) (s : State) : (flashErase a n s).slots = s.slots := rfl
@[simp] theorem flashErase_turns (a n : Nat) (s : State) : (flashErase a n s).turns = s.turns := rfl
@[simp] theorem flashErase_progs (a n : Nat) (s : State) : (flashErase a n s).progs = s.progs := rfl
@[simp] theorem flashErase_ni (a n : Nat) (s : State) : (flashErase a n s).ni = s.ni := rfl
@[simp] theorem flashErase_rt (a n : Nat) (s : State) : (flashErase a n s).rt = s.rt := rfl
@[simp] theorem flashErase_ports (a n : Nat) (s : State) : (flashErase a n s).ports = s.ports := rfl
@[simp] theorem flashErase_rein (a n : Nat) (s : State) : (flashErase a n s).rein = s.rein := rfl
@[simp] theorem flashErase_tm (a n : Nat) (s : State) : (flashErase a n s).tm = s.tm := rfl
@[simp] theorem flashErase_stg (a n : Nat) (s : State) : (flashErase a n s).stg = s.stg := rfl
@[simp] theorem flashErase_bus (a n : Nat) (s : State) : (flashErase a n s).bus = s.bus := rfl
@[simp] theorem flashErase_busPoison (a n : Nat) (s : State) : (flashErase a n s).busPoison = s.busPoison := rfl
@[simp] theorem flashErase_flash (a n : Nat) (s : State) : (flashErase a n s).flash = memErase s.flash a n := rfl
@[simp] theorem flashErase_jtag (a n : Nat) (s : State) : (flashErase a n s).jtag = s.jtag := rfl
@[simp] theorem flashErase_out (a n : Nat) (s : State) : (flashErase a n s).out = s.out := rfl
@[simp] theorem flashErase_free (a n : Nat) (s : State) : (flashErase a n s).free = s.free := rfl
@[simp] theorem flashErase_undef (a n : Nat) (s : State) : (flashErase a n s).undef = s.undef := rfl
@[simp] theorem flashErase_pending (a n : Nat) (s : State) : (flashErase a n s).pending = s.pending := rfl

/-! `touched` changes `kp` alone. -/

@[simp] theorem touched_kp (s : State) : (s.touched).kp = { s.kp with idleSince := now s } := rfl
@[simp] theorem touched_boot (s : State) : (s.touched).boot = s.boot := rfl
@[simp] theorem touched_fuses (s : State) : (s.touched).fuses = s.fuses := rfl
@[simp] theorem touched_board (s : State) : (s.touched).board = s.board := rfl
@[simp] theorem touched_pins (s : State) : (s.touched).pins = s.pins := rfl
@[simp] theorem touched_host (s : State) : (s.touched).host = s.host := rfl
@[simp] theorem touched_err (s : State) : (s.touched).err = s.err := rfl
@[simp] theorem touched_lag (s : State) : (s.touched).lag = s.lag := rfl
@[simp] theorem touched_qs (s : State) : (s.touched).qs = s.qs := rfl
@[simp] theorem touched_evq (s : State) : (s.touched).evq = s.evq := rfl
@[simp] theorem touched_evs (s : State) : (s.touched).evs = s.evs := rfl
@[simp] theorem touched_tree (s : State) : (s.touched).tree = s.tree := rfl
@[simp] theorem touched_cfg (s : State) : (s.touched).cfg = s.cfg := rfl
@[simp] theorem touched_wins (s : State) : (s.touched).wins = s.wins := rfl
@[simp] theorem touched_maps (s : State) : (s.touched).maps = s.maps := rfl
@[simp] theorem touched_comms (s : State) : (s.touched).comms = s.comms := rfl
@[simp] theorem touched_cmds (s : State) : (s.touched).cmds = s.cmds := rfl
@[simp] theorem touched_ctxs (s : State) : (s.touched).ctxs = s.ctxs := rfl
@[simp] theorem touched_saved (s : State) : (s.touched).saved = s.saved := rfl
@[simp] theorem touched_threads (s : State) : (s.touched).threads = s.threads := rfl
@[simp] theorem touched_slots (s : State) : (s.touched).slots = s.slots := rfl
@[simp] theorem touched_turns (s : State) : (s.touched).turns = s.turns := rfl
@[simp] theorem touched_progs (s : State) : (s.touched).progs = s.progs := rfl
@[simp] theorem touched_ni (s : State) : (s.touched).ni = s.ni := rfl
@[simp] theorem touched_rt (s : State) : (s.touched).rt = s.rt := rfl
@[simp] theorem touched_ports (s : State) : (s.touched).ports = s.ports := rfl
@[simp] theorem touched_rein (s : State) : (s.touched).rein = s.rein := rfl
@[simp] theorem touched_tm (s : State) : (s.touched).tm = s.tm := rfl
@[simp] theorem touched_stg (s : State) : (s.touched).stg = s.stg := rfl
@[simp] theorem touched_bus (s : State) : (s.touched).bus = s.bus := rfl
@[simp] theorem touched_busPoison (s : State) : (s.touched).busPoison = s.busPoison := rfl
@[simp] theorem touched_flash (s : State) : (s.touched).flash = s.flash := rfl
@[simp] theorem touched_jtag (s : State) : (s.touched).jtag = s.jtag := rfl
@[simp] theorem touched_out (s : State) : (s.touched).out = s.out := rfl
@[simp] theorem touched_free (s : State) : (s.touched).free = s.free := rfl
@[simp] theorem touched_undef (s : State) : (s.touched).undef = s.undef := rfl
@[simp] theorem touched_pending (s : State) : (s.touched).pending = s.pending := rfl

/-! `setErr` changes `err` alone. -/

@[simp] theorem setErr_kp (bit : Nat) (s : State) : (setErr bit s).kp = s.kp := rfl
@[simp] theorem setErr_boot (bit : Nat) (s : State) : (setErr bit s).boot = s.boot := rfl
@[simp] theorem setErr_fuses (bit : Nat) (s : State) : (setErr bit s).fuses = s.fuses := rfl
@[simp] theorem setErr_board (bit : Nat) (s : State) : (setErr bit s).board = s.board := rfl
@[simp] theorem setErr_pins (bit : Nat) (s : State) : (setErr bit s).pins = s.pins := rfl
@[simp] theorem setErr_host (bit : Nat) (s : State) : (setErr bit s).host = s.host := rfl
@[simp] theorem setErr_lag (bit : Nat) (s : State) : (setErr bit s).lag = s.lag := rfl
@[simp] theorem setErr_qs (bit : Nat) (s : State) : (setErr bit s).qs = s.qs := rfl
@[simp] theorem setErr_evq (bit : Nat) (s : State) : (setErr bit s).evq = s.evq := rfl
@[simp] theorem setErr_evs (bit : Nat) (s : State) : (setErr bit s).evs = s.evs := rfl
@[simp] theorem setErr_tree (bit : Nat) (s : State) : (setErr bit s).tree = s.tree := rfl
@[simp] theorem setErr_cfg (bit : Nat) (s : State) : (setErr bit s).cfg = s.cfg := rfl
@[simp] theorem setErr_wins (bit : Nat) (s : State) : (setErr bit s).wins = s.wins := rfl
@[simp] theorem setErr_maps (bit : Nat) (s : State) : (setErr bit s).maps = s.maps := rfl
@[simp] theorem setErr_comms (bit : Nat) (s : State) : (setErr bit s).comms = s.comms := rfl
@[simp] theorem setErr_cmds (bit : Nat) (s : State) : (setErr bit s).cmds = s.cmds := rfl
@[simp] theorem setErr_ctxs (bit : Nat) (s : State) : (setErr bit s).ctxs = s.ctxs := rfl
@[simp] theorem setErr_saved (bit : Nat) (s : State) : (setErr bit s).saved = s.saved := rfl
@[simp] theorem setErr_threads (bit : Nat) (s : State) : (setErr bit s).threads = s.threads := rfl
@[simp] theorem setErr_slots (bit : Nat) (s : State) : (setErr bit s).slots = s.slots := rfl
@[simp] theorem setErr_turns (bit : Nat) (s : State) : (setErr bit s).turns = s.turns := rfl
@[simp] theorem setErr_progs (bit : Nat) (s : State) : (setErr bit s).progs = s.progs := rfl
@[simp] theorem setErr_ni (bit : Nat) (s : State) : (setErr bit s).ni = s.ni := rfl
@[simp] theorem setErr_rt (bit : Nat) (s : State) : (setErr bit s).rt = s.rt := rfl
@[simp] theorem setErr_ports (bit : Nat) (s : State) : (setErr bit s).ports = s.ports := rfl
@[simp] theorem setErr_rein (bit : Nat) (s : State) : (setErr bit s).rein = s.rein := rfl
@[simp] theorem setErr_tm (bit : Nat) (s : State) : (setErr bit s).tm = s.tm := rfl
@[simp] theorem setErr_stg (bit : Nat) (s : State) : (setErr bit s).stg = s.stg := rfl
@[simp] theorem setErr_bus (bit : Nat) (s : State) : (setErr bit s).bus = s.bus := rfl
@[simp] theorem setErr_busPoison (bit : Nat) (s : State) : (setErr bit s).busPoison = s.busPoison := rfl
@[simp] theorem setErr_flash (bit : Nat) (s : State) : (setErr bit s).flash = s.flash := rfl
@[simp] theorem setErr_jtag (bit : Nat) (s : State) : (setErr bit s).jtag = s.jtag := rfl
@[simp] theorem setErr_out (bit : Nat) (s : State) : (setErr bit s).out = s.out := rfl
@[simp] theorem setErr_free (bit : Nat) (s : State) : (setErr bit s).free = s.free := rfl
@[simp] theorem setErr_undef (bit : Nat) (s : State) : (setErr bit s).undef = s.undef := rfl
@[simp] theorem setErr_pending (bit : Nat) (s : State) : (setErr bit s).pending = s.pending := rfl
@[simp] theorem setErr_status (bit : Nat) (s : State) : (setErr bit s).err.status = s.err.status ||| (1 : BitVec 11) <<< bit := rfl
@[simp] theorem setErr_mask (bit : Nat) (s : State) : (setErr bit s).err.mask = s.err.mask := rfl

/-! `useBus` changes the completed reads alone. -/

@[simp] theorem useBus_kp (ps : List (Nat × Nat)) (s : State) : (useBus ps s).kp = s.kp := rfl
@[simp] theorem useBus_boot (ps : List (Nat × Nat)) (s : State) : (useBus ps s).boot = s.boot := rfl
@[simp] theorem useBus_fuses (ps : List (Nat × Nat)) (s : State) : (useBus ps s).fuses = s.fuses := rfl
@[simp] theorem useBus_board (ps : List (Nat × Nat)) (s : State) : (useBus ps s).board = s.board := rfl
@[simp] theorem useBus_pins (ps : List (Nat × Nat)) (s : State) : (useBus ps s).pins = s.pins := rfl
@[simp] theorem useBus_err (ps : List (Nat × Nat)) (s : State) : (useBus ps s).err = s.err := rfl
@[simp] theorem useBus_lag (ps : List (Nat × Nat)) (s : State) : (useBus ps s).lag = s.lag := rfl
@[simp] theorem useBus_qs (ps : List (Nat × Nat)) (s : State) : (useBus ps s).qs = s.qs := rfl
@[simp] theorem useBus_evq (ps : List (Nat × Nat)) (s : State) : (useBus ps s).evq = s.evq := rfl
@[simp] theorem useBus_evs (ps : List (Nat × Nat)) (s : State) : (useBus ps s).evs = s.evs := rfl
@[simp] theorem useBus_tree (ps : List (Nat × Nat)) (s : State) : (useBus ps s).tree = s.tree := rfl
@[simp] theorem useBus_cfg (ps : List (Nat × Nat)) (s : State) : (useBus ps s).cfg = s.cfg := rfl
@[simp] theorem useBus_wins (ps : List (Nat × Nat)) (s : State) : (useBus ps s).wins = s.wins := rfl
@[simp] theorem useBus_maps (ps : List (Nat × Nat)) (s : State) : (useBus ps s).maps = s.maps := rfl
@[simp] theorem useBus_comms (ps : List (Nat × Nat)) (s : State) : (useBus ps s).comms = s.comms := rfl
@[simp] theorem useBus_cmds (ps : List (Nat × Nat)) (s : State) : (useBus ps s).cmds = s.cmds := rfl
@[simp] theorem useBus_ctxs (ps : List (Nat × Nat)) (s : State) : (useBus ps s).ctxs = s.ctxs := rfl
@[simp] theorem useBus_saved (ps : List (Nat × Nat)) (s : State) : (useBus ps s).saved = s.saved := rfl
@[simp] theorem useBus_threads (ps : List (Nat × Nat)) (s : State) : (useBus ps s).threads = s.threads := rfl
@[simp] theorem useBus_slots (ps : List (Nat × Nat)) (s : State) : (useBus ps s).slots = s.slots := rfl
@[simp] theorem useBus_turns (ps : List (Nat × Nat)) (s : State) : (useBus ps s).turns = s.turns := rfl
@[simp] theorem useBus_progs (ps : List (Nat × Nat)) (s : State) : (useBus ps s).progs = s.progs := rfl
@[simp] theorem useBus_ni (ps : List (Nat × Nat)) (s : State) : (useBus ps s).ni = s.ni := rfl
@[simp] theorem useBus_rt (ps : List (Nat × Nat)) (s : State) : (useBus ps s).rt = s.rt := rfl
@[simp] theorem useBus_ports (ps : List (Nat × Nat)) (s : State) : (useBus ps s).ports = s.ports := rfl
@[simp] theorem useBus_rein (ps : List (Nat × Nat)) (s : State) : (useBus ps s).rein = s.rein := rfl
@[simp] theorem useBus_tm (ps : List (Nat × Nat)) (s : State) : (useBus ps s).tm = s.tm := rfl
@[simp] theorem useBus_stg (ps : List (Nat × Nat)) (s : State) : (useBus ps s).stg = s.stg := rfl
@[simp] theorem useBus_bus (ps : List (Nat × Nat)) (s : State) : (useBus ps s).bus = s.bus := rfl
@[simp] theorem useBus_busPoison (ps : List (Nat × Nat)) (s : State) : (useBus ps s).busPoison = s.busPoison := rfl
@[simp] theorem useBus_flash (ps : List (Nat × Nat)) (s : State) : (useBus ps s).flash = s.flash := rfl
@[simp] theorem useBus_jtag (ps : List (Nat × Nat)) (s : State) : (useBus ps s).jtag = s.jtag := rfl
@[simp] theorem useBus_out (ps : List (Nat × Nat)) (s : State) : (useBus ps s).out = s.out := rfl
@[simp] theorem useBus_free (ps : List (Nat × Nat)) (s : State) : (useBus ps s).free = s.free := rfl
@[simp] theorem useBus_undef (ps : List (Nat × Nat)) (s : State) : (useBus ps s).undef = s.undef := rfl
@[simp] theorem useBus_pending (ps : List (Nat × Nat)) (s : State) : (useBus ps s).pending = s.pending := rfl

/-! `addCmd` changes the started commands and their count alone. -/

@[simp] theorem addCmd_kp (q : BitVec 6) (e : Entry) (k : CmdKind) (s : State) : (addCmd q e k s).kp = s.kp := rfl
@[simp] theorem addCmd_boot (q : BitVec 6) (e : Entry) (k : CmdKind) (s : State) : (addCmd q e k s).boot = s.boot := rfl
@[simp] theorem addCmd_fuses (q : BitVec 6) (e : Entry) (k : CmdKind) (s : State) : (addCmd q e k s).fuses = s.fuses := rfl
@[simp] theorem addCmd_board (q : BitVec 6) (e : Entry) (k : CmdKind) (s : State) : (addCmd q e k s).board = s.board := rfl
@[simp] theorem addCmd_pins (q : BitVec 6) (e : Entry) (k : CmdKind) (s : State) : (addCmd q e k s).pins = s.pins := rfl
@[simp] theorem addCmd_host (q : BitVec 6) (e : Entry) (k : CmdKind) (s : State) : (addCmd q e k s).host = s.host := rfl
@[simp] theorem addCmd_err (q : BitVec 6) (e : Entry) (k : CmdKind) (s : State) : (addCmd q e k s).err = s.err := rfl
@[simp] theorem addCmd_lag (q : BitVec 6) (e : Entry) (k : CmdKind) (s : State) : (addCmd q e k s).lag = s.lag := rfl
@[simp] theorem addCmd_qs (q : BitVec 6) (e : Entry) (k : CmdKind) (s : State) : (addCmd q e k s).qs = s.qs := rfl
@[simp] theorem addCmd_evq (q : BitVec 6) (e : Entry) (k : CmdKind) (s : State) : (addCmd q e k s).evq = s.evq := rfl
@[simp] theorem addCmd_evs (q : BitVec 6) (e : Entry) (k : CmdKind) (s : State) : (addCmd q e k s).evs = s.evs := rfl
@[simp] theorem addCmd_cfg (q : BitVec 6) (e : Entry) (k : CmdKind) (s : State) : (addCmd q e k s).cfg = s.cfg := rfl
@[simp] theorem addCmd_wins (q : BitVec 6) (e : Entry) (k : CmdKind) (s : State) : (addCmd q e k s).wins = s.wins := rfl
@[simp] theorem addCmd_maps (q : BitVec 6) (e : Entry) (k : CmdKind) (s : State) : (addCmd q e k s).maps = s.maps := rfl
@[simp] theorem addCmd_comms (q : BitVec 6) (e : Entry) (k : CmdKind) (s : State) : (addCmd q e k s).comms = s.comms := rfl
@[simp] theorem addCmd_ctxs (q : BitVec 6) (e : Entry) (k : CmdKind) (s : State) : (addCmd q e k s).ctxs = s.ctxs := rfl
@[simp] theorem addCmd_saved (q : BitVec 6) (e : Entry) (k : CmdKind) (s : State) : (addCmd q e k s).saved = s.saved := rfl
@[simp] theorem addCmd_threads (q : BitVec 6) (e : Entry) (k : CmdKind) (s : State) : (addCmd q e k s).threads = s.threads := rfl
@[simp] theorem addCmd_slots (q : BitVec 6) (e : Entry) (k : CmdKind) (s : State) : (addCmd q e k s).slots = s.slots := rfl
@[simp] theorem addCmd_turns (q : BitVec 6) (e : Entry) (k : CmdKind) (s : State) : (addCmd q e k s).turns = s.turns := rfl
@[simp] theorem addCmd_progs (q : BitVec 6) (e : Entry) (k : CmdKind) (s : State) : (addCmd q e k s).progs = s.progs := rfl
@[simp] theorem addCmd_ni (q : BitVec 6) (e : Entry) (k : CmdKind) (s : State) : (addCmd q e k s).ni = s.ni := rfl
@[simp] theorem addCmd_rt (q : BitVec 6) (e : Entry) (k : CmdKind) (s : State) : (addCmd q e k s).rt = s.rt := rfl
@[simp] theorem addCmd_ports (q : BitVec 6) (e : Entry) (k : CmdKind) (s : State) : (addCmd q e k s).ports = s.ports := rfl
@[simp] theorem addCmd_rein (q : BitVec 6) (e : Entry) (k : CmdKind) (s : State) : (addCmd q e k s).rein = s.rein := rfl
@[simp] theorem addCmd_tm (q : BitVec 6) (e : Entry) (k : CmdKind) (s : State) : (addCmd q e k s).tm = s.tm := rfl
@[simp] theorem addCmd_stg (q : BitVec 6) (e : Entry) (k : CmdKind) (s : State) : (addCmd q e k s).stg = s.stg := rfl
@[simp] theorem addCmd_bus (q : BitVec 6) (e : Entry) (k : CmdKind) (s : State) : (addCmd q e k s).bus = s.bus := rfl
@[simp] theorem addCmd_busPoison (q : BitVec 6) (e : Entry) (k : CmdKind) (s : State) : (addCmd q e k s).busPoison = s.busPoison := rfl
@[simp] theorem addCmd_flash (q : BitVec 6) (e : Entry) (k : CmdKind) (s : State) : (addCmd q e k s).flash = s.flash := rfl
@[simp] theorem addCmd_jtag (q : BitVec 6) (e : Entry) (k : CmdKind) (s : State) : (addCmd q e k s).jtag = s.jtag := rfl
@[simp] theorem addCmd_out (q : BitVec 6) (e : Entry) (k : CmdKind) (s : State) : (addCmd q e k s).out = s.out := rfl
@[simp] theorem addCmd_free (q : BitVec 6) (e : Entry) (k : CmdKind) (s : State) : (addCmd q e k s).free = s.free := rfl
@[simp] theorem addCmd_undef (q : BitVec 6) (e : Entry) (k : CmdKind) (s : State) : (addCmd q e k s).undef = s.undef := rfl
@[simp] theorem addCmd_pending (q : BitVec 6) (e : Entry) (k : CmdKind) (s : State) : (addCmd q e k s).pending = s.pending := rfl

/-! `modPage` changes the queue pages, or the event ring's page at 64, alone. -/

@[simp] theorem modPage_kp (p : Nat) (f : QPage → QPage) (s : State) : (modPage p f s).kp = s.kp := by
  unfold modPage
  split <;> rfl
@[simp] theorem modPage_boot (p : Nat) (f : QPage → QPage) (s : State) : (modPage p f s).boot = s.boot := by
  unfold modPage
  split <;> rfl
@[simp] theorem modPage_fuses (p : Nat) (f : QPage → QPage) (s : State) : (modPage p f s).fuses = s.fuses := by
  unfold modPage
  split <;> rfl
@[simp] theorem modPage_board (p : Nat) (f : QPage → QPage) (s : State) : (modPage p f s).board = s.board := by
  unfold modPage
  split <;> rfl
@[simp] theorem modPage_pins (p : Nat) (f : QPage → QPage) (s : State) : (modPage p f s).pins = s.pins := by
  unfold modPage
  split <;> rfl
@[simp] theorem modPage_host (p : Nat) (f : QPage → QPage) (s : State) : (modPage p f s).host = s.host := by
  unfold modPage
  split <;> rfl
@[simp] theorem modPage_err (p : Nat) (f : QPage → QPage) (s : State) : (modPage p f s).err = s.err := by
  unfold modPage
  split <;> rfl
@[simp] theorem modPage_lag (p : Nat) (f : QPage → QPage) (s : State) : (modPage p f s).lag = s.lag := by
  unfold modPage
  split <;> rfl
@[simp] theorem modPage_evs (p : Nat) (f : QPage → QPage) (s : State) : (modPage p f s).evs = s.evs := by
  unfold modPage
  split <;> rfl
@[simp] theorem modPage_tree (p : Nat) (f : QPage → QPage) (s : State) : (modPage p f s).tree = s.tree := by
  unfold modPage
  split <;> rfl
@[simp] theorem modPage_cfg (p : Nat) (f : QPage → QPage) (s : State) : (modPage p f s).cfg = s.cfg := by
  unfold modPage
  split <;> rfl
@[simp] theorem modPage_wins (p : Nat) (f : QPage → QPage) (s : State) : (modPage p f s).wins = s.wins := by
  unfold modPage
  split <;> rfl
@[simp] theorem modPage_maps (p : Nat) (f : QPage → QPage) (s : State) : (modPage p f s).maps = s.maps := by
  unfold modPage
  split <;> rfl
@[simp] theorem modPage_comms (p : Nat) (f : QPage → QPage) (s : State) : (modPage p f s).comms = s.comms := by
  unfold modPage
  split <;> rfl
@[simp] theorem modPage_cmds (p : Nat) (f : QPage → QPage) (s : State) : (modPage p f s).cmds = s.cmds := by
  unfold modPage
  split <;> rfl
@[simp] theorem modPage_ctxs (p : Nat) (f : QPage → QPage) (s : State) : (modPage p f s).ctxs = s.ctxs := by
  unfold modPage
  split <;> rfl
@[simp] theorem modPage_saved (p : Nat) (f : QPage → QPage) (s : State) : (modPage p f s).saved = s.saved := by
  unfold modPage
  split <;> rfl
@[simp] theorem modPage_threads (p : Nat) (f : QPage → QPage) (s : State) : (modPage p f s).threads = s.threads := by
  unfold modPage
  split <;> rfl
@[simp] theorem modPage_slots (p : Nat) (f : QPage → QPage) (s : State) : (modPage p f s).slots = s.slots := by
  unfold modPage
  split <;> rfl
@[simp] theorem modPage_turns (p : Nat) (f : QPage → QPage) (s : State) : (modPage p f s).turns = s.turns := by
  unfold modPage
  split <;> rfl
@[simp] theorem modPage_progs (p : Nat) (f : QPage → QPage) (s : State) : (modPage p f s).progs = s.progs := by
  unfold modPage
  split <;> rfl
@[simp] theorem modPage_ni (p : Nat) (f : QPage → QPage) (s : State) : (modPage p f s).ni = s.ni := by
  unfold modPage
  split <;> rfl
@[simp] theorem modPage_rt (p : Nat) (f : QPage → QPage) (s : State) : (modPage p f s).rt = s.rt := by
  unfold modPage
  split <;> rfl
@[simp] theorem modPage_ports (p : Nat) (f : QPage → QPage) (s : State) : (modPage p f s).ports = s.ports := by
  unfold modPage
  split <;> rfl
@[simp] theorem modPage_rein (p : Nat) (f : QPage → QPage) (s : State) : (modPage p f s).rein = s.rein := by
  unfold modPage
  split <;> rfl
@[simp] theorem modPage_tm (p : Nat) (f : QPage → QPage) (s : State) : (modPage p f s).tm = s.tm := by
  unfold modPage
  split <;> rfl
@[simp] theorem modPage_stg (p : Nat) (f : QPage → QPage) (s : State) : (modPage p f s).stg = s.stg := by
  unfold modPage
  split <;> rfl
@[simp] theorem modPage_bus (p : Nat) (f : QPage → QPage) (s : State) : (modPage p f s).bus = s.bus := by
  unfold modPage
  split <;> rfl
@[simp] theorem modPage_busPoison (p : Nat) (f : QPage → QPage) (s : State) : (modPage p f s).busPoison = s.busPoison := by
  unfold modPage
  split <;> rfl
@[simp] theorem modPage_flash (p : Nat) (f : QPage → QPage) (s : State) : (modPage p f s).flash = s.flash := by
  unfold modPage
  split <;> rfl
@[simp] theorem modPage_jtag (p : Nat) (f : QPage → QPage) (s : State) : (modPage p f s).jtag = s.jtag := by
  unfold modPage
  split <;> rfl
@[simp] theorem modPage_out (p : Nat) (f : QPage → QPage) (s : State) : (modPage p f s).out = s.out := by
  unfold modPage
  split <;> rfl
@[simp] theorem modPage_free (p : Nat) (f : QPage → QPage) (s : State) : (modPage p f s).free = s.free := by
  unfold modPage
  split <;> rfl
@[simp] theorem modPage_undef (p : Nat) (f : QPage → QPage) (s : State) : (modPage p f s).undef = s.undef := by
  unfold modPage
  split <;> rfl
@[simp] theorem modPage_pending (p : Nat) (f : QPage → QPage) (s : State) : (modPage p f s).pending = s.pending := by
  unfold modPage
  split <;> rfl

/-! Lists with one place changed. -/

@[simp] theorem modAt_length {α : Type} (f : α → α) (i : Nat) (l : List α) : (modAt f i l).length = l.length := by
  induction l generalizing i with
  | nil => simp [modAt]
  | cons x r ih => cases i <;> simp [modAt, ih]

@[simp] theorem setAt_length {α : Type} (i : Nat) (x : α) (l : List α) : (setAt i x l).length = l.length := modAt_length _ i l

theorem modAt_get {α : Type} (f : α → α) (i j : Nat) (l : List α) :
    (modAt f i l)[j]? = if j = i then l[j]?.map f else l[j]? := by
  induction l generalizing i j with
  | nil => simp [modAt]
  | cons x r ih => cases i <;> cases j <;> simp [modAt, ih]

theorem setAt_get {α : Type} (i j : Nat) (x : α) (l : List α) :
    (setAt i x l)[j]? = if j = i then l[j]?.map (fun _ => x) else l[j]? := modAt_get _ i j l

theorem getPage_modPage_self (p : Nat) (f : QPage → QPage) (s : State) (hp : p = 64 ∨ p < s.qs.length) :
    getPage p (modPage p f s) = f (getPage p s) := by
  by_cases h : p = 64
  · simp [getPage, modPage, h]
  · have hl := hp.resolve_left h
    rw [getPage, modPage, if_neg h, if_neg h, List.getD_eq_getElem?_getD, modAt_get, if_pos rfl, List.getElem?_eq_getElem hl, getPage,
      if_neg h, List.getD_eq_getElem?_getD, List.getElem?_eq_getElem hl]
    rfl

theorem getPage_modPage_other (p r : Nat) (f : QPage → QPage) (s : State) (h : r ≠ p) :
    getPage r (modPage p f s) = getPage r s := by
  by_cases hp : p = 64
  · subst hp
    simp [getPage, modPage, h]
  · simp [getPage, modPage, hp, modAt_get, h]

theorem getPort_modPort_self (p : Nat) (f : Port → Port) (s : State) (hp : p < s.ports.length) :
    getPort p (modPort p f s) = f (getPort p s) := by
  rw [getPort, modPort, List.getD_eq_getElem?_getD, modAt_get, if_pos rfl, List.getElem?_eq_getElem hp, getPort, List.getD_eq_getElem?_getD,
    List.getElem?_eq_getElem hp]
  rfl

theorem getPort_modPort_other (p r : Nat) (f : Port → Port) (s : State) (h : r ≠ p) :
    getPort r (modPort p f s) = getPort r s := by
  simp [getPort, modPort, modAt_get, h]

end Sys2Proof.Laws
end

