-- ==== Sys2Proof/Laws/Keeps.lean ====
section
/-! SUPPORT. Laws/Keeps.lean: what no command but the resets and the keeper's tick touches, as one relation between the
state before and after, and its rules for the forms that the model's functions take. -/

namespace Sys2Proof.Laws

open Sys2Proof Sys2Proof.Machine

/-- From `z` to `s` the queue, the board and, with `b`, the timestamp are the same, no fuse is unblown, and the shape
of the state is kept. -/
structure Keeps (b : Bool) (z s : State) : Prop where
  pending : s.pending = z.pending
  board : s.board = z.board
  time : b = true → s.kp.timestamp = z.kp.timestamp
  fuses : ∀ i, z.fuses.getLsbD i = true → s.fuses.getLsbD i = true
  sound : z.Sound → s.Sound

/-- The same of an optional state, and of a command's answer. -/
def KeepsO (b : Bool) (z : State) (o : Option State) : Prop := ∀ t, o = some t → Keeps b z t
def KeepsA (b : Bool) (z : State) (o : Out) : Prop := ∀ t, o = .next t → Keeps b z t

/-- The same of a result beside the state. -/
def KeepsP {α : Type} (b : Bool) (z : State) (p : α × State) : Prop := Keeps b z p.2

variable {b : Bool} {z : State}

theorem Keeps.refl (s : State) : Keeps b s s := ⟨rfl, rfl, fun _ => rfl, fun _ h => h, fun h => h⟩

theorem Keeps.trans {s t : State} (h1 : Keeps b z s) (h2 : Keeps b s t) : Keeps b z t :=
  ⟨h2.1.trans h1.1, h2.2.trans h1.2, fun h => (h2.3 h).trans (h1.3 h), fun i h => h2.4 i (h1.4 i h), fun h => h2.5 (h1.5 h)⟩

theorem Keeps.weak {s : State} (h : Keeps b z s) : Keeps false z s := ⟨h.1, h.2, fun e => (nomatch e), h.4, h.5⟩

/-- An update of the state: each part is given, or unchanged. -/
theorem Keeps.upd {s t : State} (h : Keeps b z s) (pending : t.pending = s.pending := by rfl) (board : t.board = s.board := by rfl)
    (time : t.kp.timestamp = s.kp.timestamp := by rfl)
    (fuses : ∀ i, s.fuses.getLsbD i = true → t.fuses.getLsbD i = true := by exact fun _ h => h)
    (pages : s.Sound → t.qs.length = 64 := by exact fun h => h.pages)
    (ports : s.Sound → t.ports.length = 12 := by exact fun h => h.ports)
    (port : s.Sound → ∀ p ∈ t.ports, p.Sound := by exact fun h => h.port)
    (maps : s.Sound → t.maps.length = 16 := by exact fun h => h.maps)
    (apertures : s.Sound → t.tm.apertures.length = 8 := by exact fun h => h.apertures)
    (rates : s.Sound → t.ni.rates.length = 12 := by exact fun h => h.rates)
    (sensors : s.Sound → t.kp.therm.length = 8 ∧ t.tm.temp.length = 8 ∧ t.kp.gbTemp.length = 3 ∧ t.kp.gbWarn.length = 3 ∧
      t.kp.gbStop.length = 3 := by exact fun h => h.sensors)
    (thread : s.Sound → ∀ y ∈ t.threads, y.Sound := by exact fun h => h.thread)
    (savedThread : s.Sound → ∀ x ∈ t.saved, ∀ y ∈ x.threads, y.Sound := by exact fun h => h.savedThread)
    (line : s.Sound → ∀ l ∈ t.tm.cache, l.data.length = 256 := by exact fun h => h.line)
    (busForm : s.Sound → Memory.wf 0 t.bus = true := by exact fun h => h.busForm)
    (slotForm : s.Sound → Memory.wf 0 t.slots = true := by exact fun h => h.slotForm)
    (moduleForm : s.Sound → Memory.wf 0 t.tm.mem = true := by exact fun h => h.moduleForm)
    (stagingForm : s.Sound → Memory.wf 0 t.stg.mem = true := by exact fun h => h.stagingForm)
    (flashForm : s.Sound → Memory.wf 0xFF t.flash = true := by exact fun h => h.flashForm) : Keeps b z t :=
  h.trans ⟨pending, board, fun _ => time, fuses, fun w => ⟨pages w, ports w, port w, maps w, apertures w, rates w, sensors w,
    thread w, savedThread w, line w, busForm w, slotForm w, moduleForm w, stagingForm w, flashForm w⟩⟩

/-! The forms of the model's functions: choices, local definitions, pairs and folds. -/

theorem Keeps.ite {c : Prop} [Decidable c] {s t : State} (h1 : c → Keeps b z s) (h2 : ¬c → Keeps b z t) :
    Keeps b z (if c then s else t) := by split <;> simp_all

theorem KeepsO.ite {c : Prop} [Decidable c] {s t : Option State} (h1 : c → KeepsO b z s) (h2 : ¬c → KeepsO b z t) :
    KeepsO b z (if c then s else t) := by split <;> simp_all

theorem KeepsA.ite {c : Prop} [Decidable c] {s t : Out} (h1 : c → KeepsA b z s) (h2 : ¬c → KeepsA b z t) :
    KeepsA b z (if c then s else t) := by split <;> simp_all

theorem KeepsO.none : KeepsO b z none := fun _ h => nomatch h
theorem KeepsO.some {s : State} (h : Keeps b z s) : KeepsO b z (some s) := fun _ e => Option.some.inj e ▸ h
theorem KeepsO.getD {o : Option State} {s : State} (h : KeepsO b z o) (hs : Keeps b z s) : Keeps b z (o.getD s) := by
  cases o with
  | none => exact hs
  | some t => exact h t rfl
theorem KeepsA.next {s : State} (h : Keeps b z s) : KeepsA b z (.next s) := fun _ e => Host.Outcome.next.inj e ▸ h
theorem KeepsA.fault {f : Fault} : KeepsA b z (.fault f) := fun _ h => nomatch h

theorem Keeps.foldl {α : Type} {f : State → α → State} {l : List α} {s : State} (hf : ∀ t x, Keeps b z t → Keeps b z (f t x))
    (hs : Keeps b z s) : Keeps b z (l.foldl f s) := by
  induction l generalizing s with
  | nil => exact hs
  | cons x r ih => exact ih (hf s x hs)

theorem KeepsP.ite {α : Type} {c : Prop} [Decidable c] {s t : α × State} (h1 : c → KeepsP b z s) (h2 : ¬c → KeepsP b z t) :
    KeepsP b z (if c then s else t) := by split <;> simp_all
theorem KeepsP.mk {α : Type} {a : α} {s : State} (h : Keeps b z s) : KeepsP b z (a, s) := h
theorem KeepsP.of_eq {α : Type} {p : α × State} {a : α} {s : State} (e : p = (a, s)) (h : KeepsP b z p) : Keeps b z s := by
  subst e
  exact h
theorem KeepsO.of_eq {o : Option State} {s : State} (e : o = .some s) (h : KeepsO b z o) : Keeps b z s := h s e
theorem KeepsP.snd {α : Type} {p : α × State} (h : KeepsP b z p) : Keeps b z p.2 := h

theorem KeepsO.map {α : Type} {o : Option α} {f : α → State} (hf : ∀ x, Keeps b z (f x)) : KeepsO b z (o.map f) := by
  cases o with
  | none => exact .none
  | some x => exact .some (hf x)
theorem KeepsO.mapS {o : Option State} {f : State → State} (ho : KeepsO b z o) (hf : ∀ s, Keeps b z s → Keeps b z (f s)) :
    KeepsO b z (o.map f) := by
  cases o with
  | none => exact .none
  | some s => exact .some (hf s (ho s rfl))
theorem KeepsO.bindS {o : Option State} {f : State → Option State} (ho : KeepsO b z o) (hf : ∀ s, Keeps b z s → KeepsO b z (f s)) :
    KeepsO b z (o.bind f) := by
  cases o with
  | none => exact .none
  | some s => exact hf s (ho s rfl)
theorem KeepsO.foldl {α : Type} {f : Option State → α → Option State} {l : List α} {s : Option State}
    (hf : ∀ t x, KeepsO b z t → KeepsO b z (f t x)) (hs : KeepsO b z s) : KeepsO b z (l.foldl f s) := by
  induction l generalizing s with
  | nil => exact hs
  | cons x r ih => exact ih (hf s x hs)
theorem KeepsP.foldl {α β : Type} {f : β × State → α → β × State} {l : List α} {s : β × State}
    (hf : ∀ t x, KeepsP b z t → KeepsP b z (f t x)) (hs : KeepsP b z s) : KeepsP b z (l.foldl f s) := by
  induction l generalizing s with
  | nil => exact hs
  | cons x r ih => exact ih (hf s x hs)
theorem KeepsO.findSome {α : Type} {f : α → Option State} {l : List α} (hf : ∀ x, KeepsO b z (f x)) : KeepsO b z (l.findSome? f) := by
  induction l with
  | nil => exact .none
  | cons x r ih =>
    rw [List.findSome?_cons]
    split
    · rename_i h; exact h ▸ hf x
    · exact ih

/-- Lists whose length an update keeps. -/
theorem updWhere_length {α : Type} (p : α → Bool) (f : α → α) (l : List α) : (updWhere p f l).length = l.length := by
  simp [updWhere]

/-- A member of an updated list is a member, or one through the function. -/
theorem mem_modAt {α : Type} {f : α → α} {i : Nat} {l : List α} {y : α} (h : y ∈ modAt f i l) : y ∈ l ∨ ∃ x ∈ l, y = f x := by
  induction l generalizing i with
  | nil => simp [modAt] at h
  | cons x r ih =>
    cases i with
    | zero =>
      simp only [modAt, List.mem_cons] at h
      rcases h with rfl | h
      · exact .inr ⟨x, List.mem_cons_self, rfl⟩
      · exact .inl (List.mem_cons_of_mem _ h)
    | succ i =>
      simp only [modAt, List.mem_cons] at h
      rcases h with rfl | h
      · exact .inl List.mem_cons_self
      · rcases ih h with h | ⟨w, hw, rfl⟩
        · exact .inl (List.mem_cons_of_mem _ h)
        · exact .inr ⟨w, List.mem_cons_of_mem _ hw, rfl⟩

theorem modAt_all {α : Type} {P : α → Prop} {f : α → α} {i : Nat} {l : List α} (h : ∀ y ∈ l, P y) (hf : ∀ y, P y → P (f y)) :
    ∀ y ∈ modAt f i l, P y := by
  intro y hy
  rcases mem_modAt hy with hy | ⟨x, hx, rfl⟩
  · exact h y hy
  · exact hf x (h x hx)

theorem updWhere_all {α : Type} {P : α → Prop} {p : α → Bool} {f : α → α} {l : List α} (h : ∀ y ∈ l, P y)
    (hf : ∀ y, P y → P (f y)) : ∀ y ∈ updWhere p f l, P y := by
  intro y hy
  obtain ⟨x, hx, rfl⟩ := List.mem_map.1 hy
  split
  · exact hf x (h x hx)
  · exact h x hx

theorem filter_all {α : Type} {P : α → Prop} {p : α → Bool} {l : List α} (h : ∀ y ∈ l, P y) : ∀ y ∈ l.filter p, P y :=
  fun y hy => h y (List.mem_filter.1 hy).1

theorem map_all {α β : Type} {P : β → Prop} {f : α → β} {l : List α} (hf : ∀ y ∈ l, P (f y)) : ∀ y ∈ l.map f, P y := by
  intro y hy
  obtain ⟨x, hx, rfl⟩ := List.mem_map.1 hy
  exact hf x hx

theorem mapIdx_all {α : Type} {P : α → Prop} {f : Nat → α → α} {l : List α} (h : ∀ y ∈ l, P y) (hf : ∀ i y, P y → P (f i y)) :
    ∀ y ∈ l.mapIdx f, P y := by
  intro y hy
  obtain ⟨i, hi, rfl⟩ := List.mem_mapIdx.1 hy
  exact hf i _ (h _ (List.getElem_mem hi))

/-- The ports replaced one by one. -/
theorem Keeps.mapPorts {s : State} {f : Nat → Port → Port} (h0 : Keeps b z s) (hf : ∀ i p, p.Sound → (f i p).Sound) :
    Keeps b z { s with ports := s.ports.mapIdx f } :=
  h0.upd (ports := fun h => by simp only [List.length_mapIdx]; exact h.ports) (port := fun h => mapIdx_all h.port hf)

theorem append_all {α : Type} {P : α → Prop} {l r : List α} (h1 : ∀ y ∈ l, P y) (h2 : ∀ y ∈ r, P y) : ∀ y ∈ l ++ r, P y := by
  intro y hy
  rcases List.mem_append.1 hy with hy | hy
  · exact h1 y hy
  · exact h2 y hy

/-- A line written back keeps the module memory's form. -/
theorem writeBack_wf (l : CacheLine) {m : Memory} (h : Memory.wf 0 m = true) : Memory.wf 0 (writeBack l m) = true := by
  unfold writeBack
  split
  · exact memWrite_wf _ _ h
  · exact h

/-- The updates of a port record keep its four channels. -/
theorem ackGroups_sound {a : W16} {p : Port} (h : p.Sound) : (ackGroups a p).Sound := by
  unfold ackGroups
  dsimp only
  split <;> exact h

theorem restartCredit_sound {p : Port} (h : p.Sound) : (restartCredit p).Sound :=
  ⟨h.1, h.2.1, rfl, rfl, (List.length_map _).trans h.2.2.2.2.2.2, h.2.2.2.2.2⟩

theorem releaseFrame_sound {p : Port} (h : p.Sound) : (releaseFrame p).Sound := by
  unfold releaseFrame
  split
  · exact h
  · exact ⟨h.1, (modAt_length _ _ _).trans h.2.1, h.2.2⟩

/-- The updates of a thread record keep its registers. -/
theorem stepOn_sound {y : Thread} (h : y.Sound) : (stepOn y).Sound := h

theorem setS_sound {y : Thread} {d : BitVec 5} {v : W64} (h : y.Sound) : (y.setS d v).Sound :=
  ⟨(setAt_length _ _ _).trans h.1, h.2⟩

theorem setV_sound {y : Thread} {d : Nat} {v : BitVec 512} (h : y.Sound) : (y.setV d v).Sound :=
  ⟨h.1, (setAt_length _ _ _).trans h.2⟩

theorem childRegs_length (y : Thread) (w : InsFields) (i : Nat) : (childRegs y w i).length = 32 := by
  simp [childRegs, setAt_length]

/-- Blowing fuses leaves every blown fuse blown. -/
theorem blowSvn_mono (v k : Nat) {f : BitVec 1024} {i : Nat} (h : f.getLsbD i = true) : (blowSvn v k f).getLsbD i = true := by
  induction k generalizing f with
  | zero => exact h
  | succ k ih =>
    unfold blowSvn
    dsimp only
    split
    · exact h
    · split
      · exact h
      · exact ih (by simp [h])

end Sys2Proof.Laws
end

