-- ==== Sys2Proof/Laws/KeepsOps.lean ====
section
/-! SUPPORT. Laws/KeepsOps.lean: what the functions of the shared operations, the boot, the line code, the queues, the keeper and the registers keep, one
lemma each. -/

namespace Sys2Proof.Laws

set_option Elab.async false -- a thousand proofs at once would need a thread each

open Sys2Proof Sys2Proof.Machine

variable {b : Bool} {z : State}

/-! ### Machine/Ops.lean -/

theorem liveKeeper_keeps {keeper : Bool} {s : State} {f : State → State} (h0 : Keeps b z s) (h1 : ∀ y0, Keeps b z y0 → Keeps b z (f y0)) : KeepsA b z (liveKeeper keeper s f) := by
  unfold liveKeeper
  exact KeepsA.ite (fun _ => KeepsA.fault) (fun _ => KeepsA.ite (fun _ => KeepsA.next h0) (fun _ => KeepsA.next (h1 _ h0)))

theorem live_keeps {s : State} {f : State → State} (h0 : Keeps b z s) (h1 : ∀ y0, Keeps b z y0 → Keeps b z (f y0)) : KeepsA b z (live s f) := by
  unfold live
  exact liveKeeper_keeps h0 (fun _ h2 => h1 _ h2)

theorem onlyIf_keeps {c : Bool} {f : State → State} {s : State} (h0 : ∀ y0, Keeps b z y0 → Keeps b z (f y0)) (h1 : Keeps b z s) : Keeps b z (onlyIf c f s) := by
  unfold onlyIf
  exact Keeps.ite (fun _ => h0 _ h1) (fun _ => h1)

theorem emit_keeps {o : Output} {s : State} (h0 : Keeps b z s) : Keeps b z (emit o s) := by
  unfold emit
  exact Keeps.upd h0

theorem bumpFree_keeps {n : Nat} {s : State} (h0 : Keeps b z s) : Keeps b z (bumpFree n s) := by
  unfold bumpFree
  exact Keeps.upd h0

theorem setErr_keeps {bit : Nat} {s : State} (h0 : Keeps b z s) : Keeps b z (setErr bit s) := by
  unfold setErr
  exact Keeps.upd h0

theorem modPage_keeps {p : Nat} {f : QPage → QPage} {s : State} (h0 : Keeps b z s) : Keeps b z (modPage p f s) := by
  unfold modPage
  exact Keeps.ite (fun _ => Keeps.upd h0) fun _ => h0.upd (pages := fun h => by simp only [modAt_length]; exact h.pages)

theorem setQerr_keeps {p : Nat} {bit : Nat} {s : State} (h0 : Keeps b z s) : Keeps b z (setQerr p bit s) := by
  unfold setQerr
  exact setErr_keeps (modPage_keeps h0)

theorem busSend_keeps {relaxed : Bool} {poisoned : Bool} {a : Nat} {bs : Bytes} {s : State} (h0 : Keeps b z s) : Keeps b z (busSend relaxed poisoned a bs s) := by
  unfold busSend
  exact Keeps.ite (fun _ => Keeps.upd h0 (busForm := fun h => memWrite_wf _ _ h.busForm)) (fun _ => h0)

theorem busWrite_keeps {a : Nat} {bs : Bytes} {s : State} (h0 : Keeps b z s) : Keeps b z (busWrite a bs s) := by
  unfold busWrite
  exact Keeps.ite (fun _ => h0.upd (busForm := fun h => memWrite_wf _ _ h.busForm)) (fun _ => h0)

theorem sendMsix_keeps {v : BitVec 7} {s : State} (h0 : Keeps b z s) : Keeps b z (sendMsix v s) := by
  unfold sendMsix
  refine Keeps.ite (fun _ => h0) (fun _ => ?_)
  extract_lets -underBinder -merge -useContext +onlyGivenNames _
  exact Keeps.ite (fun _ => Keeps.upd h0) (fun _ => emit_keeps h0)

theorem signalEntry_keeps {p : Nat} {noIrq : Bool} {s : State} (h0 : Keeps b z s) : Keeps b z (signalEntry p noIrq s) := by
  unfold signalEntry
  extract_lets -underBinder -merge -useContext +onlyGivenNames _
  exact Keeps.ite (fun _ => h0) (fun _ => Keeps.ite (fun _ => sendMsix_keeps (modPage_keeps h0)) (fun _ => modPage_keeps h0))

theorem queueEvent_keeps {source : Nat} {code : Nat} {detail : BitVec 256} {s : State} (h0 : Keeps b z s) : Keeps b z (queueEvent source code detail s) := by
  unfold queueEvent
  extract_lets -underBinder -merge -useContext +onlyGivenNames _ _ _ _ _ _ s7
  have h8 : Keeps b z s7 := Keeps.upd h0
  clear_value s7
  exact Keeps.ite (fun _ => setErr_keeps h8) (fun _ => h8)

theorem writeEvent_keeps {e : Event} {missed : Bool} {coalesced : W32} {s : State} (h0 : Keeps b z s) : Keeps b z (writeEvent e missed coalesced s) := by
  unfold writeEvent
  refine Keeps.ite ?_ (fun _ => queueEvent_keeps (setQerr_keeps (modPage_keeps h0)))
  intro _
  extract_lets -underBinder -merge -useContext +onlyGivenNames _
  exact signalEntry_keeps (modPage_keeps (busWrite_keeps h0))

theorem flushOne_keeps {r : EvSource} {s : State} (h0 : Keeps b z s) : Keeps b z (flushOne r s) := by
  unfold flushOne
  split
  · exact writeEvent_keeps (Keeps.upd h0)
  · split
    · exact h0
    · exact writeEvent_keeps (Keeps.upd h0)

theorem flushGo_keeps {a0 : Nat} {a1 : State} (h0 : Keeps b z a1) : Keeps b z (flushGo a0 a1) := by
  induction a0 generalizing a1 with
  | zero =>
    unfold flushGo
    exact h0
  | succ n ih =>
    unfold flushGo
    refine Keeps.ite (fun _ => ?_) (fun _ => h0)
    split
    · exact h0
    · exact ih (flushOne_keeps h0)

theorem flushEvents_keeps {s : State} (h0 : Keeps b z s) : Keeps b z (flushEvents s) := by
  unfold flushEvents
  exact Keeps.ite (fun _ => flushGo_keeps h0) (fun _ => h0)

theorem wakeSource_keeps {cause : BitVec 4} {s : State} (h0 : Keeps b z s) : Keeps b z (wakeSource cause s) := by
  unfold wakeSource
  extract_lets -underBinder -merge -useContext +onlyGivenNames _ _
  split
  · exact Keeps.upd h0
  · exact h0
  · exact Keeps.ite (fun _ => Keeps.upd h0) (fun _ => Keeps.upd h0)
  · exact Keeps.upd h0

theorem raiseEvent_keeps {source : Nat} {code : Nat} {detail : BitVec 256} {s : State} (h0 : Keeps b z s) : Keeps b z (raiseEvent source code detail s) := by
  unfold raiseEvent
  exact flushEvents_keeps (wakeSource_keeps (queueEvent_keeps h0))

theorem postCompletion_keeps {q : Nat} {c : Completion} {s : State} (h0 : Keeps b z s) : Keeps b z (postCompletion q c s) := by
  unfold postCompletion
  extract_lets -underBinder -merge -useContext +onlyGivenNames s1
  have h2 : Keeps b z s1 := modPage_keeps h0
  clear_value s1
  refine Keeps.ite (fun _ => ?_) (fun _ => raiseEvent_keeps (setQerr_keeps (modPage_keeps h2)))
  extract_lets -underBinder -merge -useContext +onlyGivenNames _
  exact signalEntry_keeps (modPage_keeps (busWrite_keeps h2))

theorem endEntry_keeps {q : BitVec 6} {e : Entry} {status : Byte} {s : State} (h0 : Keeps b z s) : Keeps b z (endEntry q e status s) := by
  unfold endEntry
  exact postCompletion_keeps h0

theorem endResult_keeps {q : BitVec 6} {e : Entry} {result : W64} {s : State} (h0 : Keeps b z s) : Keeps b z (endResult q e result s) := by
  unfold endResult
  exact postCompletion_keeps h0

theorem modPort_keeps_of {p : Nat} {f : Port → Port} {s : State} (h0 : s.Sound → ∀ y0, y0.Sound → (f y0).Sound) (h1 : Keeps b z s) :
    Keeps b z (modPort p f s) := by
  unfold modPort
  exact h1.upd (ports := fun h => (modAt_length _ _ _).trans h.ports) (port := fun h => modAt_all h.port (h0 h))

theorem modPort_keeps {p : Nat} {f : Port → Port} {s : State} (h0 : ∀ y0, y0.Sound → (f y0).Sound) (h1 : Keeps b z s) :
    Keeps b z (modPort p f s) := modPort_keeps_of (fun _ => h0) h1

/-- A port of a sound state is sound. -/
theorem getPort_sound {s : State} (h : s.Sound) (i : Nat) : (getPort i s).Sound := by
  unfold getPort
  rw [List.getD_eq_getElem?_getD]
  cases hi : s.ports[i]? with
  | none => exact ⟨rfl, rfl, rfl, rfl, rfl, rfl, rfl⟩
  | some p => exact h.port p (List.mem_of_getElem? hi)

theorem modComm_keeps {h : W32} {f : Comm → Comm} {s : State} (h0 : Keeps b z s) : Keeps b z (modComm h f s) := by
  unfold modComm
  exact Keeps.upd h0

theorem modCtx_keeps {i : BitVec 9} {f : Ctx → Ctx} {s : State} (h0 : Keeps b z s) : Keeps b z (modCtx i f s) := by
  unfold modCtx
  exact Keeps.upd h0

theorem modCmd_keeps {i : Nat} {f : Cmd → Cmd} {s : State} (h0 : Keeps b z s) : Keeps b z (modCmd i f s) := by
  unfold modCmd
  exact Keeps.upd h0

theorem endCmd_keeps {c : Cmd} {status : Byte} {flags : Byte} {result : W64} {s : State} (h0 : Keeps b z s) : Keeps b z (endCmd c status flags result s) := by
  unfold endCmd
  exact postCompletion_keeps (Keeps.upd h0)

theorem addCmd_keeps {q : BitVec 6} {e : Entry} {k : CmdKind} {s : State} (h0 : Keeps b z s) : Keeps b z (addCmd q e k s) := by
  unfold addCmd
  exact Keeps.upd h0

theorem tmWriteByte_keeps {bb : Nat} {x : Byte} {s : State} (h0 : Keeps b z s) : Keeps b z (tmWriteByte bb x s) := by
  unfold tmWriteByte
  refine Keeps.ite (fun _ => h0) fun _ => h0.upd (line := fun h => ?_) (moduleForm := fun h => ?_)
  · intro l hl
    rcases List.mem_cons.1 hl with rfl | hl
    · simp only [setAt_length]
      cases hf : s.tm.cache.find? (fun l => l.granule = bvGranule bb) with
      | none => simp
      | some l => simpa using h.line l (List.mem_of_find?_eq_some hf)
    · exact h.line l (List.mem_filter.1 (List.mem_of_mem_take hl)).1
  · exact foldl_wf (fun m l hm => writeBack_wf l hm) _ h.moduleForm

theorem tmWriteGo_keeps {o : Nat} {a1 : Bytes} {a2 : State} (h0 : Keeps b z a2) : Keeps b z (tmWriteGo o a1 a2) := by
  induction a1 generalizing o a2 with
  | nil =>
    unfold tmWriteGo
    exact h0
  | cons x r ih =>
    unfold tmWriteGo
    exact ih (tmWriteByte_keeps h0)

theorem tmWrite_keeps {o : Nat} {bs : Bytes} {s : State} (h0 : Keeps b z s) : Keeps b z (tmWrite o bs s) := by
  unfold tmWrite
  extract_lets -underBinder -merge -useContext +onlyGivenNames _ _ s3
  have h4 : Keeps b z s3 := tmWriteGo_keeps h0
  clear_value s3
  exact Keeps.upd h4

theorem tmMarkPoison_keeps {o : Nat} {n : Nat} {s : State} (h0 : Keeps b z s) : Keeps b z (tmMarkPoison o n s) := by
  unfold tmMarkPoison
  extract_lets -underBinder -merge -useContext +onlyGivenNames _
  exact Keeps.upd h0

theorem stgWrite_keeps {o : Nat} {a1 : Bytes} {a2 : State} (h0 : Keeps b z a2) : Keeps b z (stgWrite o a1 a2) := by
  induction a1 generalizing o a2 with
  | nil =>
    unfold stgWrite
    exact h0
  | cons x r ih =>
    unfold stgWrite
    exact ih (h0.upd (stagingForm := fun h => memPut_wf h.stagingForm _ _))

theorem stgMarkPoison_keeps {o : Nat} {n : Nat} {s : State} (h0 : Keeps b z s) : Keeps b z (stgMarkPoison o n s) := by
  unfold stgMarkPoison
  extract_lets -underBinder -merge -useContext +onlyGivenNames _
  exact Keeps.upd h0

theorem issueRead_keeps {k : ReadKind} {a : Nat} {n : Nat} {s : State} (h0 : Keeps b z s) : Keeps b z (issueRead k a n s) := by
  unfold issueRead
  exact Keeps.upd h0

theorem askBus_keeps {ps : List (Nat × Nat)} {s : State} (h0 : Keeps b z s) : Keeps b z (askBus ps s) := by
  unfold askBus
  exact Keeps.ite (fun _ => h0) (fun _ => Keeps.foldl (fun t2 _ h1 => Keeps.ite (fun _ => h1) (fun _ => issueRead_keeps h1)) h0)

theorem useBus_keeps {ps : List (Nat × Nat)} {s : State} (h0 : Keeps b z s) : Keeps b z (useBus ps s) := by
  unfold useBus
  exact Keeps.upd h0

theorem withBus_keeps {ps : List (Nat × Nat)} {f : State → State} {s : State} (h0 : ∀ y0, Keeps b z y0 → Keeps b z (f y0)) (h1 : Keeps b z s) : Keeps b z (withBus ps f s) := by
  unfold withBus
  exact Keeps.ite (fun _ => useBus_keeps (h0 _ h1)) (fun _ => askBus_keeps h1)

theorem accelWrite_keeps {poisoned : Bool} {o : Nat} {bs : Bytes} {s : State} (h0 : Keeps b z s) : Keeps b z (accelWrite poisoned o bs s) := by
  unfold accelWrite
  exact Keeps.foldl (fun _ _ h1 => busSend_keeps h1) h0

theorem localWrite_keeps {a : W64} {bs : Bytes} {s : State} (h0 : Keeps b z s) : Keeps b z (localWrite a bs s) := by
  unfold localWrite
  extract_lets -underBinder -merge -useContext +onlyGivenNames _
  split
  · exact stgWrite_keeps h0
  · exact tmWrite_keeps h0
  · exact accelWrite_keeps h0
  · exact h0

theorem localWritePoison_keeps {a : W64} {bs : Bytes} {s : State} (h0 : Keeps b z s) : Keeps b z (localWritePoison a bs s) := by
  unfold localWritePoison
  extract_lets -underBinder -merge -useContext +onlyGivenNames _
  split
  · exact stgMarkPoison_keeps (localWrite_keeps h0)
  · exact tmMarkPoison_keeps (localWrite_keeps h0)
  · extract_lets -underBinder -merge -useContext +onlyGivenNames _ s4
    have h5 : Keeps b z s4 := accelWrite_keeps h0
    clear_value s4
    exact Keeps.upd h5
  · exact h0

theorem localUndefined_keeps {a : W64} {n : Nat} {s : State} (h0 : Keeps b z s) : Keeps b z (localUndefined a n s) := by
  unfold localUndefined
  exact bumpFree_keeps (localWrite_keeps h0)

theorem flashWrite_keeps {a : Nat} {bs : Bytes} {s : State} (h0 : Keeps b z s) : Keeps b z (flashWrite a bs s) := by
  unfold flashWrite
  exact h0.upd (flashForm := fun h => memWrite_wf _ _ h.flashForm)

theorem flashErase_keeps {a : Nat} {n : Nat} {s : State} (h0 : Keeps b z s) : Keeps b z (flashErase a n s) := by
  unfold flashErase
  exact h0.upd (flashForm := fun h => memErase_wf h.flashForm _ _)

/-! ### Machine/ErrorLog.lean -/

theorem logFlush_keeps {draft : Bytes} {s : State} (h0 : Keeps b z s) : Keeps b z (logFlush draft s) := by
  unfold logFlush
  extract_lets -underBinder -merge -useContext +onlyGivenNames _ _ _ s4
  have h5 : Keeps b z s4 := Keeps.ite (fun _ => flashErase_keeps h0) (fun _ => h0)
  clear_value s4
  extract_lets -underBinder -merge -useContext +onlyGivenNames s6
  have h7 : Keeps b z s6 := flashWrite_keeps h5
  clear_value s6
  exact Keeps.upd h7

theorem logAppend_keeps {kind : Nat} {cls : Nat} {index : Nat} {detail : Bytes} {s : State} (h0 : Keeps b z s) : Keeps b z (logAppend kind cls index detail s) := by
  unfold logAppend
  extract_lets -underBinder -merge -useContext +onlyGivenNames _
  exact Keeps.ite (fun _ => Keeps.ite (fun _ => Keeps.upd h0) (fun _ => Keeps.upd h0)) (fun _ => logFlush_keeps h0)

theorem logRelease_keeps {s : State} (h0 : Keeps b z s) : Keeps b z (logRelease s) := by
  unfold logRelease
  exact Keeps.foldl (fun t2 _ h1 => logFlush_keeps h1) (Keeps.upd h0)

theorem mapLoad_keeps {s : State} (h0 : Keeps b z s) : Keeps b z (mapLoad s) := by
  unfold mapLoad
  split
  · exact h0
  · exact Keeps.upd h0

theorem mapStore_keeps {s : State} (h0 : Keeps b z s) : Keeps b z (mapStore s) := by
  unfold mapStore
  extract_lets -underBinder -merge -useContext +onlyGivenNames _ _ _ _
  exact flashWrite_keeps (flashErase_keeps h0)

theorem markRetired_keeps {u : TestUnit} {on : Bool} {s : State} (h0 : Keeps b z s) : Keeps b z (markRetired u on s) := by
  unfold markRetired
  split
  · exact Keeps.upd h0
  · exact modPort_keeps (fun _ hq => hq) (Keeps.upd h0)
  · exact h0
  · exact Keeps.upd h0
  · exact Keeps.upd h0

theorem retireUnit_keeps {u : TestUnit} {verdict : Nat} {row : Nat} {s : State} (h0 : Keeps b z s) : Keeps b z (retireUnit u verdict row s) := by
  unfold retireUnit
  extract_lets -underBinder -merge -useContext +onlyGivenNames s1
  have h2 : Keeps b z s1 := markRetired_keeps h0
  clear_value s1
  extract_lets -underBinder -merge -useContext +onlyGivenNames _ s4
  have h5 : Keeps b z s4 := logAppend_keeps h2
  clear_value s4
  refine setErr_keeps ?_
  refine raiseEvent_keeps ?_
  split
  · exact h5
  · exact mapStore_keeps h5

theorem reinstateUnit_keeps {u : TestUnit} {s : State} (h0 : Keeps b z s) : Keeps b z (reinstateUnit u s) := by
  unfold reinstateUnit
  extract_lets -underBinder -merge -useContext +onlyGivenNames s1
  have h2 : Keeps b z s1 := markRetired_keeps h0
  clear_value s1
  exact mapStore_keeps (logAppend_keeps h2)

theorem startTest_keeps {u : TestUnit} {byError : Bool} {threshold : Bool} {row : W32} {waiter : Option Nat} {s : State} (h0 : Keeps b z s) : Keeps b z (startTest u byError threshold row waiter s) := by
  unfold startTest
  extract_lets -underBinder -merge -useContext +onlyGivenNames _ _
  exact wakeSource_keeps (Keeps.upd h0)

theorem logError_keeps {u : TestUnit} {code : Nat} {detail : Bytes} {s : State} (h0 : Keeps b z s) : Keeps b z (logError u code detail s) := by
  unfold logError
  exact logAppend_keeps h0

/-! ### Machine/Boot.lean -/

theorem setPhase_keeps {ph : BitVec 4} {fault : Byte} {s : State} (h0 : Keeps b z s) : Keeps b z (setPhase ph fault s) := by
  unfold setPhase
  exact Keeps.upd h0

theorem bootFault_keeps {code : Byte} {s : State} (h0 : Keeps b z s) : Keeps b z (bootFault code s) := by
  unfold bootFault
  exact setPhase_keeps h0

/-- What a cold reset leaves has the shape of a sound state, whatever memories outside the node it keeps. -/
theorem coldState_sound {saddr : Option (BitVec 2)} {s : State} (hb : Memory.wf 0 s.bus = true) (hf : Memory.wf 0xFF s.flash = true) :
    (coldState saddr s).Sound :=
  ⟨List.length_replicate, List.length_replicate, fun p hp => by
      rw [List.eq_of_mem_replicate hp]
      exact ⟨rfl, rfl, rfl, rfl, rfl, rfl, rfl⟩,
    List.length_replicate, rfl, rfl, ⟨rfl, rfl, rfl, rfl, rfl⟩, fun _ h => (nomatch h), fun _ h => (nomatch h), fun _ h => (nomatch h),
    hb, rfl, rfl, rfl, hf⟩

theorem coldState_keeps {saddr : Option (BitVec 2)} {s : State} (h0 : Keeps b z s) : Keeps false z (coldState saddr s) :=
  h0.weak.trans ⟨rfl, rfl, fun e => (nomatch e), fun _ h => h, fun h => coldState_sound h.busForm h.flashForm⟩

theorem execColdReset_keeps {src : ColdSource} {saddr : BitVec 2} {fuseOk : Bool} {s : State} (h0 : Keeps b z s) :
    KeepsA false z (execColdReset src saddr fuseOk s) := by
  have hgo : ∀ strap, Keeps false z (if fuseOk then setPhase phRom 0 (coldState strap s) else bootFault 0x01 (coldState strap s)) :=
    fun strap => .ite (fun _ => setPhase_keeps (coldState_keeps h0)) fun _ => bootFault_keeps (coldState_keeps h0)
  unfold execColdReset
  dsimp only
  split
  · exact .next (hgo _)
  · exact .ite (fun _ => .next (hgo _)) fun _ => .next h0.weak

theorem execPowerLoss_keeps {s : State} (h0 : Keeps b z s) : KeepsA false z (execPowerLoss s) := by
  unfold execPowerLoss
  extract_lets -underBinder -merge -useContext +onlyGivenNames s1
  have h2 : Keeps false z s1 := coldState_keeps h0
  clear_value s1
  exact KeepsA.next (Keeps.upd h2)

theorem bootAppend_keeps {pref : Nat} {a : Nat} {bb : Nat} {writer : Nat} {s : State} (h0 : Keeps b z s) : Keeps b z (bootAppend pref a bb writer s) := by
  unfold bootAppend
  extract_lets -underBinder -merge -useContext +onlyGivenNames _ _ _
  split
  · exact flashWrite_keeps h0
  · exact flashWrite_keeps (flashErase_keeps h0)

theorem startSlot_keeps {slot : Bool} {s : State} (h0 : Keeps b z s) : Keeps b z (startSlot slot s) := by
  unfold startSlot
  split
  · extract_lets -underBinder -merge -useContext +onlyGivenNames s1
    have h2 : Keeps b z s1 := Keeps.ite (fun _ => bootAppend_keeps h0) (fun _ => bootAppend_keeps h0)
    clear_value s1
    exact setPhase_keeps (Keeps.upd h2)

theorem selectSlot_keeps {s : State} (h0 : Keeps b z s) : Keeps b z (selectSlot s) := by
  unfold selectSlot
  split
  · extract_lets -underBinder -merge -useContext +onlyGivenNames _ s1
    have h2 : Keeps b z s1 := Keeps.upd h0
    clear_value s1
    extract_lets -underBinder -merge -useContext +onlyGivenNames _ _
    exact Keeps.ite (fun _ => startSlot_keeps h2) (fun _ => Keeps.ite (fun _ => startSlot_keeps h2) (fun _ => setPhase_keeps h2))

theorem laneMapOf_keeps {bad : BitVec 168} {s : State} (h0 : Keeps b z s) : Keeps b z (laneMapOf bad s) := by
  unfold laneMapOf
  extract_lets -underBinder -merge -useContext +onlyGivenNames _
  exact Keeps.upd h0

theorem treePairsOf_keeps {bad : BitVec 2} {s : State} (h0 : Keeps b z s) : Keeps b z (treePairsOf bad s) := by
  unfold treePairsOf
  exact Keeps.upd h0

theorem execPowerupSelftest_keeps {lanesPass : BitVec 168} {treePass : BitVec 2} {stagingPass : BitVec 17} {s : State} (h0 : Keeps b z s) : KeepsA b z (execPowerupSelftest lanesPass treePass stagingPass s) := by
  unfold execPowerupSelftest
  refine live_keeps h0 ?_
  intro _ h1
  refine onlyIf_keeps ?_ h1
  intro _ h2
  extract_lets -underBinder -merge -useContext +onlyGivenNames _ s3
  have h4 : Keeps b z s3 := mapLoad_keeps (Keeps.upd h2)
  clear_value s3
  extract_lets -underBinder -merge -useContext +onlyGivenNames _ _ _ s5
  have h6 : Keeps b z s5 := laneMapOf_keeps h4
  clear_value s5
  extract_lets -underBinder -merge -useContext +onlyGivenNames s7
  have h8 : Keeps b z s7 := treePairsOf_keeps h6
  clear_value s7
  extract_lets -underBinder -merge -useContext +onlyGivenNames _ s9
  have h10 : Keeps b z s9 := Keeps.upd h8
  clear_value s9
  exact Keeps.ite (fun _ => bootFault_keeps h6) (fun _ => Keeps.ite (fun _ => bootFault_keeps h6) (fun _ => Keeps.ite (fun _ => bootFault_keeps h8) (fun _ => selectSlot_keeps h10)))

theorem storeItem_keeps {item : Nat} {value : Nat} {s : State} (h0 : Keeps b z s) : Keeps b z (storeItem item value s) := by
  unfold storeItem
  exact flashWrite_keeps h0

theorem setConfig_keeps {item : Nat} {value : Nat} {s : State} (h0 : Keeps b z s) : Keeps b z (setConfig item value s) := by
  unfold setConfig
  extract_lets -underBinder -merge -useContext +onlyGivenNames _ _
  exact Keeps.upd h0

theorem applyStored_keeps {s : State} (h0 : Keeps b z s) : Keeps b z (applyStored s) := by
  unfold applyStored
  refine Keeps.foldl (fun t2 _ h1 => ?_) h0
  split
  · exact h1
  · exact Keeps.ite (fun _ => setConfig_keeps h1) (fun _ => h1)

theorem trainPorts_keeps {s : State} (h0 : Keeps b z s) : Keeps b z (trainPorts s) := by
  unfold trainPorts
  refine h0.mapPorts fun i p h => ?_
  split
  · exact h
  · split <;> exact h

theorem execAuthentication_keeps {s : State} (h0 : Keeps b z s) : KeepsA b z (execAuthentication s) := by
  unfold execAuthentication
  refine live_keeps h0 fun t h1 => onlyIf_keeps (fun s h2 => ?_) h1
  dsimp only
  split
  · refine setPhase_keeps (trainPorts_keeps (applyStored_keeps ?_))
    have h3 := h2.mapPorts (f := fun i p => { p with retired := s.boot.linksRetired.getLsbD i }) fun _ _ h => h
    exact h3.upd
  · exact .ite (fun _ => setPhase_keeps (Keeps.upd h2)) fun _ => startSlot_keeps (Keeps.upd h2)

theorem dirWrite_keeps {i : Nat} {gen : Nat} {size : Nat} {s : State} (h0 : Keeps b z s) : Keeps b z (dirWrite i gen size s) := by
  unfold dirWrite
  extract_lets -underBinder -merge -useContext +onlyGivenNames _
  exact flashWrite_keeps (flashErase_keeps h0)

theorem dirRepair_keeps {s : State} (h0 : Keeps b z s) : Keeps b z (dirRepair s) := by
  unfold dirRepair
  extract_lets -underBinder -merge -useContext +onlyGivenNames g1
  dsimp -zeta only [g1]
  split
  · exact h0
  · extract_lets -underBinder -merge -useContext +onlyGivenNames _
    exact dirWrite_keeps h0
  · extract_lets -underBinder -merge -useContext +onlyGivenNames _
    exact dirWrite_keeps h0
  · exact dirWrite_keeps (dirWrite_keeps h0)

theorem populationSet_keeps {tmTrained : Byte} {gbTrained : BitVec 3} {s : State} (h0 : Keeps b z s) : Keeps b z (populationSet tmTrained gbTrained s) := by
  unfold populationSet
  extract_lets -underBinder -merge -useContext +onlyGivenNames _ _ s1
  have h2 : Keeps b z s1 := Keeps.upd h0
  clear_value s1
  extract_lets -underBinder -merge -useContext +onlyGivenNames _ _ s3
  have h4 : Keeps b z s3 := Keeps.foldl (fun _ _ h5 => setErr_keeps (logAppend_keeps h5)) h2
  clear_value s3
  extract_lets -underBinder -merge -useContext +onlyGivenNames s6
  have h7 : Keeps b z s6 := Keeps.foldl (fun _ _ h8 => setErr_keeps (logAppend_keeps h8)) h4
  clear_value s6
  refine Keeps.ite (fun _ => h7) (fun _ => h7.mapPorts fun i p h => ?_)
  split
  · exact ⟨rfl, rfl, rfl, rfl, rfl, rfl, rfl⟩
  · exact h

theorem execOctozReady_keeps {tmTrained : BitVec 8} {gbTrained : BitVec 3} {s : State} (h0 : Keeps b z s) : KeepsA b z (execOctozReady tmTrained gbTrained s) := by
  unfold execOctozReady
  refine live_keeps h0 ?_
  intro _ h1
  refine onlyIf_keeps ?_ h1
  intro _ h2
  split
  · extract_lets -underBinder -merge -useContext +onlyGivenNames _ s4
    have h5 : Keeps b z s4 := dirRepair_keeps (bootAppend_keeps h2)
    clear_value s4
    extract_lets -underBinder -merge -useContext +onlyGivenNames _ s6
    have h7 : Keeps b z s6 := Keeps.upd h5
    clear_value s6
    extract_lets -underBinder -merge -useContext +onlyGivenNames s8
    have h9 : Keeps b z s8 := populationSet_keeps h7
    clear_value s8
    extract_lets -underBinder -merge -useContext +onlyGivenNames s10
    have h11 : Keeps b z s10 := Keeps.ite (fun _ => h9) (fun _ => mapStore_keeps h9)
    clear_value s10
    extract_lets -underBinder -merge -useContext +onlyGivenNames s12
    have h13 : Keeps b z s12 := logAppend_keeps h11
    clear_value s12
    exact setPhase_keeps (Keeps.upd h13)

theorem askReset_keeps {src : WarmSource} {s : State} (h0 : Keeps b z s) : Keeps b z (askReset src s) := by
  unfold askReset
  exact Keeps.ite (fun _ => h0) (fun _ => Keeps.upd h0)

theorem execBootWatchdog_keeps {s : State} (h0 : Keeps b z s) : KeepsA b z (execBootWatchdog s) := by
  unfold execBootWatchdog
  refine live_keeps h0 ?_
  intro _ h1
  split
  · exact h1
  · exact Keeps.ite (fun _ => askReset_keeps (Keeps.upd h1)) (fun _ => h1)

theorem resetCtlWrite_keeps {v : W32} {s : State} (h0 : Keeps b z s) : Keeps b z (resetCtlWrite v s) := by
  unfold resetCtlWrite
  exact Keeps.ite (fun _ => askReset_keeps h0) (fun _ => h0)

theorem execResetCtl_keeps {path : Path} {value : W32} {s : State} (h0 : Keeps b z s) : KeepsA b z (execResetCtl path value s) := by
  unfold execResetCtl
  exact liveKeeper_keeps h0 (fun _ h1 => resetCtlWrite_keeps h1)

theorem recoveryWrite_keeps {value : W32} {s : State} (h0 : Keeps b z s) : Keeps b z (recoveryWrite value s) := by
  unfold recoveryWrite
  refine Keeps.ite (fun _ => h0) (fun _ => ?_)
  extract_lets -underBinder -merge -useContext +onlyGivenNames _ _
  split
  · exact setPhase_keeps h0
  · split
    · extract_lets -underBinder -merge -useContext +onlyGivenNames s3
      have h4 : Keeps b z s3 := flashWrite_keeps (flashErase_keeps h0)
      clear_value s3
      exact askReset_keeps (bootAppend_keeps h4)

theorem execRecoveryGo_keeps {path : Path} {value : W32} {s : State} (h0 : Keeps b z s) : KeepsA b z (execRecoveryGo path value s) := by
  unfold execRecoveryGo
  exact liveKeeper_keeps h0 (fun _ h1 => recoveryWrite_keeps h1)

/-! ### Machine/Fec.lean -/

theorem codewordsGo_keeps {i : Nat} {a1 : Nat} {a2 : State} (h0 : Keeps b z a2) : Keeps b z (codewordsGo i a1 a2) := by
  induction a1 generalizing i a2 with
  | zero =>
    unfold codewordsGo
    exact h0
  | succ n ih =>
    unfold codewordsGo
    exact Keeps.ite (fun _ => h0) (fun _ => ih (emit_keeps (modPort_keeps (fun _ hq => hq) h0)))

theorem onBridge_keeps {i : Nat} {n : Nat} {x : Nat} {s : State} (h0 : Keeps b z s) : Keeps b z (onBridge i n x s) := by
  unfold onBridge
  exact Keeps.ite (fun _ => h0) (fun _ => codewordsGo_keeps (modPort_keeps (fun _ hq => hq) h0))

/-! ### Machine/Queues.lean -/

theorem popHead_keeps {q : BitVec 6} {s : State} (h0 : Keeps b z s) : Keeps b z (popHead q s) := by
  unfold popHead
  exact modPage_keeps h0

theorem settleGo_keeps {q : BitVec 6} {a1 : Nat} {a2 : State} (h0 : Keeps b z a2) : Keeps b z (settleGo q a1 a2) := by
  induction a1 generalizing q a2 with
  | zero =>
    unfold settleGo
    exact h0
  | succ n ih =>
    unfold settleGo
    split
    · exact h0
    · exact Keeps.ite (fun _ => h0) (fun _ => Keeps.ite (fun _ => ih (endEntry_keeps (popHead_keeps h0))) (fun _ => Keeps.ite (fun _ => ih (endEntry_keeps (popHead_keeps h0))) (fun _ => h0)))

theorem settleHead_keeps {q : BitVec 6} {s : State} (h0 : Keeps b z s) : Keeps b z (settleHead q s) := by
  unfold settleHead
  exact settleGo_keeps h0

theorem releaseQueue_keeps {q : BitVec 6} {s : State} (h0 : Keeps b z s) : Keeps b z (releaseQueue q s) := by
  unfold releaseQueue
  extract_lets -underBinder -merge -useContext +onlyGivenNames s1
  have h2 : Keeps b z s1 := modPage_keeps h0
  clear_value s1
  exact Keeps.ite (fun _ => settleHead_keeps h2) (fun _ => h2)

theorem endHeld_keeps {c : Cmd} {status : Byte} {flags : Byte} {result : W64} {s : State} (h0 : Keeps b z s) : Keeps b z (endHeld c status flags result s) := by
  unfold endHeld
  exact releaseQueue_keeps (endCmd_keeps h0)

theorem octozRow_keeps {q : BitVec 6} {e : Entry} {ok : Bool} {fields : List (Nat × Nat)} {run : State → Option State} {s0 : State} (h0 : ∀ y0, Keeps b z y0 → KeepsO b z (run y0)) (h1 : Keeps b z s0) : Keeps b z (octozRow q e ok fields run s0) := by
  unfold octozRow
  extract_lets -underBinder -merge -useContext +onlyGivenNames s2
  have h3 : Keeps b z s2 := Keeps.ite (fun _ => settleHead_keeps h1) (fun _ => h1)
  clear_value s2
  refine Keeps.ite (fun _ => h3) (fun _ => ?_)
  refine Keeps.ite (fun _ => h3) (fun _ => ?_)
  refine Keeps.ite (fun _ => settleHead_keeps (endEntry_keeps (popHead_keeps h3))) (fun _ => ?_)
  split
  · exact h3
  · rename_i s4 h5e
    have h5 : Keeps b z s4 := (h0 _ (popHead_keeps h3) : KeepsO b z _) _ h5e
    exact settleHead_keeps h5

theorem octozRead_keeps {q : BitVec 6} {e : Entry} {ok : Bool} {fields : List (Nat × Nat)} {src : State → List (Nat × Nat)} {run : State → Option State} {s : State} (h0 : ∀ y0, Keeps b z y0 → KeepsO b z (run y0)) (h1 : Keeps b z s) : Keeps b z (octozRead q e ok fields src run s) := by
  unfold octozRead
  exact Keeps.ite (fun _ => askBus_keeps h1) (fun _ => octozRow_keeps (fun _ h2 => KeepsO.mapS (h0 _ h2) (fun s3 h4 => useBus_keeps h4)) h1)

theorem bellSq_keeps {q : BitVec 6} {v : W32} {s : State} (h0 : Keeps b z s) : Keeps b z (bellSq q v s) := by
  unfold bellSq
  extract_lets -underBinder -merge -useContext +onlyGivenNames _ _ _
  refine Keeps.ite (fun _ => h0) (fun _ => ?_)
  refine Keeps.ite (fun _ => ?_) (fun _ => raiseEvent_keeps (setQerr_keeps h0))
  extract_lets -underBinder -merge -useContext +onlyGivenNames _ s5
  have h6 : Keeps b z s5 := modPage_keeps h0
  clear_value s5
  extract_lets -underBinder -merge -useContext +onlyGivenNames _ _
  exact modPage_keeps h6

theorem bellCq_keeps {p : Nat} {v : W32} {s : State} (h0 : Keeps b z s) : Keeps b z (bellCq p v s) := by
  unfold bellCq
  extract_lets -underBinder -merge -useContext +onlyGivenNames _ _ _
  exact Keeps.ite (fun _ => h0) (fun _ => Keeps.ite (fun _ => flushEvents_keeps (modPage_keeps h0)) (fun _ => setQerr_keeps h0))

theorem writeQctrl_keeps {p : Nat} {v : W32} {s : State} (h0 : Keeps b z s) : Keeps b z (writeQctrl p v s) := by
  unfold writeQctrl
  extract_lets -underBinder -merge -useContext +onlyGivenNames _ _ _ _ _ _
  refine flushEvents_keeps ?_
  extract_lets -underBinder -merge -useContext +onlyGivenNames s7
  have h8 : Keeps b z s7 := modPage_keeps h0
  clear_value s7
  exact Keeps.upd h8

theorem fetchQueue_keeps {q : BitVec 6} {s : State} (h0 : Keeps b z s) : Keeps b z (fetchQueue q s) := by
  unfold fetchQueue
  extract_lets -underBinder -merge -useContext +onlyGivenNames _ _ _ _ _ s5
  have h6 : Keeps b z s5 := Keeps.upd h0
  clear_value s5
  refine Keeps.ite (fun _ => h6) (fun _ => ?_)
  extract_lets -underBinder -merge -useContext +onlyGivenNames _ _ s9
  have h10 : Keeps b z s9 := issueRead_keeps (modPage_keeps h6)
  clear_value s9
  exact Keeps.ite (fun _ => issueRead_keeps h10) (fun _ => h10)

theorem deliver_keeps {q : BitVec 6} {s : State} (h0 : Keeps b z s) : Keeps b z (deliver q s) := by
  unfold deliver
  extract_lets -underBinder -merge -useContext +onlyGivenNames _ _ _ _ _
  exact settleHead_keeps (modPage_keeps h0)

theorem fetchFailed_keeps {q : BitVec 6} {first : BitVec 12} {count : Nat} {s : State} (h0 : Keeps b z s) : Keeps b z (fetchFailed q first count s) := by
  unfold fetchFailed
  extract_lets -underBinder -merge -useContext +onlyGivenNames _ s2
  have h3 : Keeps b z s2 := modPage_keeps h0
  clear_value s2
  extract_lets -underBinder -merge -useContext +onlyGivenNames s4
  have h5 : Keeps b z s4 := raiseEvent_keeps (setQerr_keeps h3)
  clear_value s4
  exact Keeps.ite (fun _ => h5) (fun _ => deliver_keeps h5)

theorem readDone_keeps {tag : BitVec 10} {res : ReadResult} {data : Bytes} {s : State} (h0 : Keeps b z s) : Keeps b z (readDone tag res data s) := by
  unfold readDone
  split
  · exact h0
  · extract_lets -underBinder -merge -useContext +onlyGivenNames _ s3
    have h4 : Keeps b z s3 := Keeps.upd h0
    clear_value s3
    extract_lets -underBinder -merge -useContext +onlyGivenNames s5
    have h6 : Keeps b z s5 := Keeps.upd h4 (busForm := fun h => memWrite_wf _ _ h.busForm)
    clear_value s5
    extract_lets -underBinder -merge -useContext +onlyGivenNames g7
    have h8 : ∀ x0, Keeps b z x0 → Keeps b z (g7 x0) := by
      exact fun _ h9 => Keeps.upd h9
    clear_value g7
    refine Keeps.ite (fun _ => h4) ?_
    intro _
    split
    · exact Keeps.ite (fun _ => h6) (fun _ => deliver_keeps h6)
    · exact fetchFailed_keeps h4
    · exact h8 _ (Keeps.upd h6)
    · exact h8 _ (Keeps.upd h6)
    · extract_lets -underBinder -merge -useContext +onlyGivenNames s15
      have h16 : Keeps b z s15 := bumpFree_keeps (Keeps.upd h4 (busForm := fun h => memWrite_wf _ _ h.busForm))
      clear_value s15
      exact h8 _ (Keeps.upd h16)

theorem msixRelease_keeps {s : State} (h0 : Keeps b z s) : Keeps b z (msixRelease s) := by
  unfold msixRelease
  refine Keeps.ite (fun _ => h0) (fun _ => ?_)
  refine Keeps.foldl (fun t2 _ h1 => ?_) h0
  extract_lets -underBinder -merge -useContext +onlyGivenNames _
  exact Keeps.ite (fun _ => emit_keeps (Keeps.upd h1)) (fun _ => h1)

theorem imodFire_keeps {p : Nat} {s : State} (h0 : Keeps b z s) : Keeps b z (imodFire p s) := by
  unfold imodFire
  extract_lets -underBinder -merge -useContext +onlyGivenNames _
  split
  · exact h0
  · exact Keeps.ite (fun _ => sendMsix_keeps (modPage_keeps h0)) (fun _ => h0)

/-! ### Machine/Keeper.lean -/

theorem setPower_keeps {p : PState} {s : State} (h0 : Keeps b z s) : Keeps b z (setPower p s) := by
  unfold setPower
  exact Keeps.upd h0

theorem tick_keeps {s : State} (h0 : Keeps false z s) : Keeps false z (tick s) := by
  refine h0.trans ?_
  unfold tick
  refine .ite (fun _ => ?_) fun _ => ?_
  · exact ⟨rfl, rfl, fun e => (nomatch e), fun _ h => h, fun h => { h with
      ports := by simp only [updWhere_length]; exact h.ports
      port := updWhere_all h.port fun _ h => h }⟩
  · exact ⟨rfl, rfl, fun e => (nomatch e), fun _ h => h, fun h => { h with }⟩

theorem execDozeEntry_keeps {s : State} (h0 : Keeps b z s) : KeepsA b z (execDozeEntry s) := by
  unfold execDozeEntry
  exact live_keeps h0 (fun _ h1 => onlyIf_keeps (fun _ h2 => setPower_keeps h2) h1)

theorem sendCtrl_keeps {i : Nat} {type : Byte} {body : BitVec 416} {s : State} (h0 : Keeps b z s) : Keeps b z (sendCtrl i type body s) := by
  unfold sendCtrl
  exact onBridge_keeps (emit_keeps h0)

theorem sendFrame_keeps {i : Nat} {f : Frame} {s : State} (h0 : Keeps b z s) : Keeps b z (sendFrame i f s) := by
  unfold sendFrame
  exact emit_keeps h0

theorem execNapEntry_keeps {s : State} (h0 : Keeps b z s) : KeepsA b z (execNapEntry s) := by
  unfold execNapEntry
  refine live_keeps h0 ?_
  intro _ h1
  refine onlyIf_keeps ?_ h1
  intro _ h2
  extract_lets -underBinder -merge -useContext +onlyGivenNames _ s4
  have h5 : Keeps b z s4 := Keeps.foldl (fun t7 _ h6 => sendCtrl_keeps (modPort_keeps (fun _ hq => hq) h6)) h2
  clear_value s4
  exact Keeps.ite (fun _ => setPower_keeps h5) (fun _ => h5)

theorem flushCache_keeps {s : State} (h0 : Keeps b z s) : Keeps b z (flushCache s) := by
  unfold flushCache
  exact h0.upd (line := fun _ _ h => nomatch h) (moduleForm := fun h => foldl_wf (fun _ l hm => writeBack_wf l hm) _ h.moduleForm)

theorem execDeepEntry_keeps {s : State} (h0 : Keeps b z s) : KeepsA b z (execDeepEntry s) := by
  unfold execDeepEntry
  refine live_keeps h0 ?_
  intro _ h1
  refine onlyIf_keeps ?_ h1
  intro _ h2
  extract_lets -underBinder -merge -useContext +onlyGivenNames s3
  have h4 : Keeps b z s3 := flushCache_keeps h2
  clear_value s3
  exact Keeps.upd h4

theorem leaveDeepEntry_keeps {s : State} (h0 : Keeps b z s) : Keeps b z (leaveDeepEntry s) := by
  unfold leaveDeepEntry
  exact Keeps.upd h0

theorem enterDeep_keeps {s : State} (h0 : Keeps b z s) : Keeps b z (enterDeep s) := by
  unfold enterDeep
  extract_lets -underBinder -merge -useContext +onlyGivenNames _ s1
  have h2 : Keeps b z s1 := Keeps.foldl (fun _ _ h3 => sendFrame_keeps (modPort_keeps (fun _ hq => hq) h3)) (flushCache_keeps h0)
  clear_value s1
  extract_lets -underBinder -merge -useContext +onlyGivenNames s4
  have h5 : Keeps b z s4 := h2.mapPorts fun i p h => by split <;> exact h
  clear_value s4
  exact setPower_keeps (Keeps.upd h5 (slotForm := fun _ => rfl) (rates := fun _ => rfl))

theorem execDeepEntryDone_keeps {s : State} (h0 : Keeps b z s) : KeepsA b z (execDeepEntryDone s) := by
  unfold execDeepEntryDone
  exact live_keeps h0 (fun _ h1 => onlyIf_keeps (fun _ h2 => Keeps.ite (fun _ => leaveDeepEntry_keeps h2) (fun _ => Keeps.ite (fun _ => enterDeep_keeps h2) (fun _ => h2))) h1)

theorem execWakePin_keeps {s : State} (h0 : Keeps b z s) : KeepsA b z (execWakePin s) := by
  unfold execWakePin
  exact liveKeeper_keeps h0 (fun _ h1 => onlyIf_keeps (fun _ h2 => wakeSource_keeps (Keeps.upd h2)) h1)

theorem execWakeNRise_keeps {s : State} (h0 : Keeps b z s) : KeepsA b z (execWakeNRise s) := by
  unfold execWakeNRise
  exact liveKeeper_keeps h0 (fun _ h1 => Keeps.upd h1)

theorem execAlarmFire_keeps {s : State} (h0 : Keeps b z s) : KeepsA b z (execAlarmFire s) := by
  unfold execAlarmFire
  exact liveKeeper_keeps h0 (fun _ h1 => onlyIf_keeps (fun _ h2 => wakeSource_keeps (raiseEvent_keeps (Keeps.upd h2))) h1)

theorem execHeraldHoldExpiry_keeps {s : State} (h0 : Keeps b z s) : KeepsA b z (execHeraldHoldExpiry s) := by
  unfold execHeraldHoldExpiry
  exact liveKeeper_keeps h0 (fun _ h1 => Keeps.upd h1)

theorem startHold_keeps {key : HoldKey} {ticks : Nat} {s : State} (h0 : Keeps b z s) : Keeps b z (startHold key ticks s) := by
  unfold startHold
  extract_lets -underBinder -merge -useContext +onlyGivenNames _
  exact Keeps.upd h0

theorem setTimer_keeps {f : TimerField} {v : W32} {s : State} (h0 : Keeps b z s) : Keeps b z (setTimer f v s) := by
  unfold setTimer
  exact Keeps.upd h0

theorem timerWrite_keeps {f : TimerField} {v : W32} {s : State} (h0 : Keeps b z s) : Keeps b z (timerWrite f v s) := by
  unfold timerWrite
  extract_lets -underBinder -merge -useContext +onlyGivenNames _
  exact Keeps.ite (fun _ => setTimer_keeps h0) (fun _ => h0)

theorem execPowerTimerWrite_keeps {path : Path} {field : TimerField} {value : W32} {s : State} (h0 : Keeps b z s) : KeepsA b z (execPowerTimerWrite path field value s) := by
  unfold execPowerTimerWrite
  exact liveKeeper_keeps h0 (fun _ h1 => timerWrite_keeps h1)

theorem alarmWrite_keeps {half : Half} {value : W64} {s : State} (h0 : Keeps b z s) : Keeps b z (alarmWrite half value s) := by
  unfold alarmWrite
  split
  · exact Keeps.upd h0
  · extract_lets -underBinder -merge -useContext +onlyGivenNames _
    exact Keeps.upd h0
  · exact Keeps.upd h0

theorem execAlarmWrite_keeps {path : Path} {half : Half} {value : W64} {s : State} (h0 : Keeps b z s) : KeepsA b z (execAlarmWrite path half value s) := by
  unfold execAlarmWrite
  exact liveKeeper_keeps h0 (fun _ h1 => alarmWrite_keeps h1)

theorem alarmArm_keeps {value : W32} {s : State} (h0 : Keeps b z s) : Keeps b z (alarmArm value s) := by
  unfold alarmArm
  exact Keeps.upd h0

theorem execAlarmArm_keeps {path : Path} {value : W32} {s : State} (h0 : Keeps b z s) : KeepsA b z (execAlarmArm path value s) := by
  unfold execAlarmArm
  exact liveKeeper_keeps h0 (fun _ h1 => alarmArm_keeps h1)

theorem wakeGo_keeps {path : Path} {value : W32} {s : State} (h0 : Keeps b z s) : Keeps b z (wakeGo path value s) := by
  unfold wakeGo
  exact Keeps.ite (fun _ => wakeSource_keeps h0) (fun _ => h0)

theorem execWakeGo_keeps {path : Path} {value : W32} {s : State} (h0 : Keeps b z s) : KeepsA b z (execWakeGo path value s) := by
  unfold execWakeGo
  exact liveKeeper_keeps h0 (fun _ h1 => wakeGo_keeps h1)

/-! ### Machine/Registers.lean -/

theorem setLatch_keeps {path : Path} {v : Option (Reg64 × W32)} {s : State} (h0 : Keeps b z s) : Keeps b z (setLatch path v s) := by
  unfold setLatch
  split <;> exact Keeps.upd h0

theorem readLow_keeps {path : Path} {r : Reg64} {s : State} (h0 : Keeps b z s) : KeepsP b z (readLow path r s) := by
  unfold readLow
  extract_lets -underBinder -merge -useContext +onlyGivenNames _
  exact KeepsP.mk (setLatch_keeps h0)

theorem readHigh_keeps {path : Path} {r : Reg64} {s : State} (h0 : Keeps b z s) : KeepsP b z (readHigh path r s) := by
  unfold readHigh
  split
  · exact KeepsP.ite (fun _ => KeepsP.mk (setLatch_keeps h0)) (fun _ => KeepsP.mk h0)
  · exact KeepsP.mk h0

theorem read32_keeps {path : Path} {o : Nat} {s : State} (h0 : Keeps b z s) : KeepsP b z (read32 path o s) := by
  unfold read32
  split
  · exact readLow_keeps h0
  · exact readHigh_keeps h0
  · exact KeepsP.mk h0

theorem readBar0_keeps {off : Nat} {size : Nat} {s : State} (h0 : Keeps b z s) : KeepsP b z (readBar0 off size s) := by
  unfold readBar0
  refine KeepsP.ite (fun _ => KeepsP.mk h0) (fun _ => ?_)
  refine KeepsP.ite (fun _ => KeepsP.mk h0) (fun _ => ?_)
  refine KeepsP.ite (fun _ => ?_) (fun _ => ?_)
  · split
    · exact KeepsP.mk h0
    · split
      rename_i s1 _
      have h2 : Keeps b z s1 := KeepsP.of_eq ‹_› (read32_keeps h0)
      split
      rename_i s3 _
      have h4 : Keeps b z s3 := KeepsP.of_eq ‹_› (read32_keeps h2)
      exact KeepsP.mk h4
  · split
    rename_i s5 _
    have h6 : Keeps b z s5 := KeepsP.of_eq ‹_› (read32_keeps h0)
    exact KeepsP.mk h6

theorem doRead_keeps {off : Nat} {size : Nat} {s : State} (h0 : Keeps b z s) : Keeps b z (doRead off size s) := by
  unfold doRead
  split
  rename_i s1 _
  have h2 : Keeps b z s1 := KeepsP.of_eq ‹_› (readBar0_keeps h0)
  exact emit_keeps h2

theorem hostAccess_keeps {off : Nat} {w : HostWait} {f : State → State} {s : State} (h0 : ∀ y0, Keeps b z y0 → Keeps b z (f y0)) (h1 : Keeps b z s) : Keeps b z (hostAccess off w f s) := by
  unfold hostAccess
  refine Keeps.ite (fun _ => h0 _ h1) (fun _ => ?_)
  extract_lets -underBinder -merge -useContext +onlyGivenNames s2
  have h3 : Keeps b z s2 := wakeSource_keeps h1
  clear_value s2
  exact Keeps.ite (fun _ => Keeps.upd h3) (fun _ => h0 _ h3)

theorem execBar0Read_keeps {offset : W32} {size : Nat} {s : State} (h0 : Keeps b z s) : KeepsA b z (execBar0Read offset size s) := by
  unfold execBar0Read
  exact live_keeps h0 (fun _ h1 => hostAccess_keeps (fun _ h2 => doRead_keeps h2) h1)

theorem apertureWrite_keeps {a : Nat} {half : Half} {v : W64} {s : State} (h0 : Keeps b z s) : Keeps b z (apertureWrite a half v s) := by
  unfold apertureWrite
  extract_lets -underBinder -merge -useContext +onlyGivenNames _ _ _ _
  exact Keeps.upd h0 (apertures := fun h => (setAt_length _ _ _).trans h.apertures)

theorem openWrite_keeps {off : Nat} {f : State → State} {s : State} (h0 : ∀ y0, Keeps b z y0 → Keeps b z (f y0)) (h1 : Keeps b z s) : Keeps b z (openWrite off f s) := by
  unfold openWrite
  exact Keeps.ite (fun _ => h0 _ h1) (fun _ => h1)

theorem execTanneryApertureWrite_keeps {aperture : BitVec 3} {half : Half} {value : W64} {s : State} (h0 : Keeps b z s) : KeepsA b z (execTanneryApertureWrite aperture half value s) := by
  unfold execTanneryApertureWrite
  extract_lets -underBinder -merge -useContext +onlyGivenNames _
  exact live_keeps h0 (fun _ h2 => hostAccess_keeps (fun _ h3 => openWrite_keeps (fun _ h4 => apertureWrite_keeps h4) h3) h2)

theorem lagCtlWrite_keeps {v : W32} {s : State} (h0 : Keeps b z s) : Keeps b z (lagCtlWrite v s) := by
  unfold lagCtlWrite
  exact Keeps.ite (fun _ => Keeps.upd h0) (fun _ => h0)

theorem execLagCtlClear_keeps {value : W32} {s : State} (h0 : Keeps b z s) : KeepsA b z (execLagCtlClear value s) := by
  unfold execLagCtlClear
  exact live_keeps h0 (fun _ h1 => hostAccess_keeps (fun _ h2 => openWrite_keeps (fun _ h3 => lagCtlWrite_keeps h3) h2) h1)

theorem configWrite_keeps {p : Nat} {f : QPage → QPage} {s : State} (h0 : Keeps b z s) : Keeps b z (configWrite p f s) := by
  unfold configWrite
  exact Keeps.ite (fun _ => setQerr_keeps h0) (fun _ => modPage_keeps h0)

theorem pageWrite_keeps {p : Nat} {o : Nat} {v : W32} {s : State} (h0 : Keeps b z s) : Keeps b z (pageWrite p o v s) := by
  unfold pageWrite
  extract_lets -underBinder -merge -useContext +onlyGivenNames _
  split
  · exact Keeps.ite (fun _ => h0) (fun _ => bellSq_keeps h0)
  · exact bellCq_keeps h0
  · exact Keeps.ite (fun _ => h0) (fun _ => configWrite_keeps h0)
  · exact Keeps.ite (fun _ => h0) (fun _ => configWrite_keeps h0)
  · exact configWrite_keeps h0
  · exact configWrite_keeps h0
  · exact configWrite_keeps h0
  · exact writeQctrl_keeps h0
  · exact modPage_keeps h0
  · exact modPage_keeps h0
  · exact Keeps.ite (fun _ => h0) (fun _ => modPage_keeps h0)
  · exact h0

theorem msixWrite_keeps {o : Nat} {v : W32} {s : State} (h0 : Keeps b z s) : Keeps b z (msixWrite o v s) := by
  unfold msixWrite
  refine Keeps.ite (fun _ => ?_) (fun _ => h0)
  extract_lets -underBinder -merge -useContext +onlyGivenNames _
  exact msixRelease_keeps (Keeps.upd h0)

theorem keeperWrite_keeps {path : Path} {o : Nat} {v : W32} {s : State} (h0 : Keeps b z s) : Keeps b z (keeperWrite path o v s) := by
  unfold keeperWrite
  split
  · exact timerWrite_keeps h0
  · exact timerWrite_keeps h0
  · exact timerWrite_keeps h0
  · exact timerWrite_keeps h0
  · exact timerWrite_keeps h0
  · exact wakeGo_keeps h0
  · exact alarmWrite_keeps h0
  · exact alarmWrite_keeps h0
  · exact alarmArm_keeps h0
  · exact resetCtlWrite_keeps h0
  · exact recoveryWrite_keeps h0
  · exact h0

theorem write32_keeps {o : Nat} {v : W32} {s : State} (h0 : Keeps b z s) : Keeps b z (write32 o v s) := by
  unfold write32
  refine Keeps.ite (fun _ => keeperWrite_keeps h0) (fun _ => ?_)
  split
  · exact Keeps.upd h0
  · exact Keeps.upd h0
  · exact lagCtlWrite_keeps h0
  · exact Keeps.ite (fun _ => apertureWrite_keeps h0) (fun _ => Keeps.ite (fun _ => pageWrite_keeps h0) (fun _ => Keeps.ite (fun _ => msixWrite_keeps h0) (fun _ => h0)))

theorem writeBar0_keeps {off : Nat} {size : Nat} {v : W64} {s : State} (h0 : Keeps b z s) : Keeps b z (writeBar0 off size v s) := by
  unfold writeBar0
  exact Keeps.ite (fun _ => h0) (fun _ => Keeps.ite (fun _ => openWrite_keeps (fun _ h1 => write32_keeps h1) h0) (fun _ => Keeps.ite (fun _ => alarmWrite_keeps h0) (fun _ => Keeps.ite (fun _ => openWrite_keeps (fun _ h2 => apertureWrite_keeps h2) h0) (fun _ => openWrite_keeps (fun _ h3 => write32_keeps h3) (openWrite_keeps (fun _ h4 => write32_keeps h4) h0)))))

theorem execRegisterWrite_keeps {offset : W32} {size : Nat} {value : W64} {s : State} (h0 : Keeps b z s) : KeepsA b z (execRegisterWrite offset size value s) := by
  unfold execRegisterWrite
  exact live_keeps h0 (fun _ h1 => hostAccess_keeps (fun _ h2 => writeBar0_keeps h2) h1)

theorem doorbell_keeps {w : HostWait} {f : State → State} {s : State} (h0 : ∀ y0, Keeps b z y0 → Keeps b z (f y0)) (h1 : Keeps b z s) : Keeps b z (doorbell w f s) := by
  unfold doorbell
  extract_lets -underBinder -merge -useContext +onlyGivenNames s2
  have h3 : Keeps b z s2 := wakeSource_keeps h1
  clear_value s2
  exact Keeps.ite (fun _ => Keeps.upd h3) (fun _ => openWrite_keeps (fun _ h4 => h0 _ h4) h3)

theorem execSqTailWrite_keeps {q : BitVec 6} {value : W32} {s : State} (h0 : Keeps b z s) : KeepsA b z (execSqTailWrite q value s) := by
  unfold execSqTailWrite
  exact live_keeps h0 (fun _ h1 => doorbell_keeps (fun _ h2 => bellSq_keeps h2) h1)

theorem execCqHeadWrite_keeps {page : BitVec 7} {value : W32} {s : State} (h0 : Keeps b z s) : KeepsA b z (execCqHeadWrite page value s) := by
  unfold execCqHeadWrite
  exact live_keeps h0 (fun _ h1 => doorbell_keeps (fun _ h2 => bellCq_keeps h2) h1)

theorem execQueueEnable_keeps {page : BitVec 7} {qctrl : W32} {s : State} (h0 : Keeps b z s) : KeepsA b z (execQueueEnable page qctrl s) := by
  unfold execQueueEnable
  extract_lets -underBinder -merge -useContext +onlyGivenNames _
  exact live_keeps h0 (fun _ h2 => onlyIf_keeps (fun _ h3 => hostAccess_keeps (fun _ h4 => openWrite_keeps (fun _ h5 => writeQctrl_keeps h5) h4) h3) h2)

theorem execQueueDisable_keeps {page : BitVec 7} {qctrl : W32} {s : State} (h0 : Keeps b z s) : KeepsA b z (execQueueDisable page qctrl s) := by
  unfold execQueueDisable
  extract_lets -underBinder -merge -useContext +onlyGivenNames _
  exact live_keeps h0 (fun _ h2 => onlyIf_keeps (fun _ h3 => hostAccess_keeps (fun _ h4 => openWrite_keeps (fun _ h5 => writeQctrl_keeps h5) h4) h3) h2)

theorem execFetch_keeps {q : BitVec 6} {s : State} (h0 : Keeps b z s) : KeepsA b z (execFetch q s) := by
  unfold execFetch
  exact live_keeps h0 (fun _ h1 => onlyIf_keeps (fun _ h2 => fetchQueue_keeps h2) h1)

theorem execImodTimer_keeps {page : BitVec 7} {s : State} (h0 : Keeps b z s) : KeepsA b z (execImodTimer page s) := by
  unfold execImodTimer
  exact live_keeps h0 (fun _ h1 => imodFire_keeps h1)

theorem doWait_keeps {w : HostWait} {s : State} (h0 : Keeps b z s) : Keeps b z (doWait w s) := by
  unfold doWait
  split
  · exact openWrite_keeps (fun _ h1 => bellCq_keeps h1) h0
  · exact openWrite_keeps (fun _ h2 => bellSq_keeps h2) h0
  · exact doRead_keeps h0
  · exact writeBar0_keeps h0
  · exact h0

theorem sbWord_keeps {o : Nat} {s : State} (h0 : Keeps b z s) : KeepsP b z (sbWord o s) := by
  unfold sbWord
  refine KeepsP.ite (fun _ => KeepsP.mk h0) (fun _ => ?_)
  split
  · exact KeepsP.mk h0
  · exact KeepsP.ite (fun _ => read32_keeps h0) (fun _ => KeepsP.mk h0)

theorem sbWords_keeps {a0 : Nat} {a1 : Nat} {a2 : State} (h0 : Keeps b z a2) : KeepsP b z (sbWords a0 a1 a2) := by
  induction a0 generalizing a1 a2 with
  | zero =>
    unfold sbWords
    exact KeepsP.mk h0
  | succ n ih =>
    unfold sbWords
    split
    rename_i s1 _
    have h2 : Keeps b z s1 := KeepsP.of_eq ‹_› (sbWord_keeps h0)
    split
    rename_i s3 _
    have h4 : Keeps b z s3 := KeepsP.of_eq ‹_› (ih h2)
    exact KeepsP.mk h4

theorem sbAnswer_keeps {o : Nat} {n : Nat} {s : State} (h0 : Keeps b z s) : Keeps b z (sbAnswer o n s) := by
  unfold sbAnswer
  split
  rename_i s1 _
  have h2 : Keeps b z s1 := KeepsP.of_eq ‹_› (sbWords_keeps h0)
  exact emit_keeps (Keeps.upd h2)

theorem sbRead_keeps {offset : W16} {count : Nat} {s : State} (h0 : Keeps b z s) : Keeps b z (sbRead offset count s) := by
  unfold sbRead
  refine Keeps.ite ?_ (fun _ => sbAnswer_keeps h0)
  intro _
  extract_lets -underBinder -merge -useContext +onlyGivenNames _ s1
  have h2 : Keeps b z s1 := wakeSource_keeps (Keeps.upd h0)
  clear_value s1
  exact Keeps.upd h2

theorem execSidebandRead_keeps {offset : W16} {count : Nat} {s : State} (h0 : Keeps b z s) : KeepsA b z (execSidebandRead offset count s) := by
  unfold execSidebandRead
  refine liveKeeper_keeps h0 ?_
  intro _ h1
  refine Keeps.ite (fun _ => ?_) (fun _ => sbAnswer_keeps h1)
  extract_lets -underBinder -merge -useContext +onlyGivenNames _ s2
  have h3 : Keeps b z s2 := wakeSource_keeps (Keeps.upd h1)
  clear_value s2
  exact Keeps.upd h3

theorem execLowHalfRead_keeps {path : Path} {reg : Reg64} {s : State} (h0 : Keeps b z s) : KeepsA b z (execLowHalfRead path reg s) := by
  unfold execLowHalfRead
  split
  · extract_lets -underBinder -merge -useContext +onlyGivenNames _
    exact live_keeps h0 (fun _ h2 => hostAccess_keeps (fun _ h3 => doRead_keeps h3) h2)
  · exact liveKeeper_keeps h0 (fun _ h5 => sbRead_keeps h5)

theorem sbWrite_keeps {o : Nat} {v : W32} {s : State} (h0 : Keeps b z s) : Keeps b z (sbWrite o v s) := by
  unfold sbWrite
  exact Keeps.ite (fun _ => keeperWrite_keeps h0) (fun _ => h0)

theorem sbWriteAll_keeps {o : Nat} {a1 : List W32} {a2 : State} (h0 : Keeps b z a2) : Keeps b z (sbWriteAll o a1 a2) := by
  induction a1 generalizing o a2 with
  | nil =>
    unfold sbWriteAll
    exact h0
  | cons x r ih =>
    unfold sbWriteAll
    exact ih (sbWrite_keeps h0)

theorem execSidebandWrite_keeps {offset : W16} {words : List W32} {s : State} (h0 : Keeps b z s) : KeepsA b z (execSidebandWrite offset words s) := by
  unfold execSidebandWrite
  exact liveKeeper_keeps h0 (fun _ h1 => sbWriteAll_keeps h1)

theorem execSidebandTimeout_keeps {s : State} (h0 : Keeps b z s) : KeepsA b z (execSidebandTimeout s) := by
  unfold execSidebandTimeout
  exact liveKeeper_keeps h0 (fun _ h1 => Keeps.upd h1)

theorem setBar2_keeps {log2 : BitVec 6} {s : State} (h0 : Keeps b z s) : Keeps b z (setBar2 log2 s) := by
  unfold setBar2
  exact Keeps.upd h0 (apertures := fun _ => rfl)

theorem settleL1_keeps {s : State} (h0 : Keeps b z s) : Keeps b z (settleL1 s) := by
  unfold settleL1
  exact Keeps.upd h0

theorem execPcieConfigRequest_keeps {req : CfgReq} {s : State} (h0 : Keeps b z s) : KeepsA b z (execPcieConfigRequest req s) := by
  unfold execPcieConfigRequest
  refine live_keeps h0 ?_
  intro _ h1
  refine onlyIf_keeps ?_ h1
  intro _ h2
  split
  · exact emit_keeps h2
  · exact Keeps.upd h2
  · exact msixRelease_keeps (flushEvents_keeps (Keeps.upd h2))
  · exact Keeps.upd h2
  · exact Keeps.ite (fun _ => Keeps.upd h2) (fun _ => h2)
  · exact Keeps.ite (fun _ => Keeps.upd h2) (fun _ => h2)
  · exact emit_keeps h2
  · exact settleL1_keeps (Keeps.upd h2)
  · exact msixRelease_keeps (Keeps.upd h2)
  · exact Keeps.ite (fun _ => setBar2_keeps h2) (fun _ => h2)

theorem viewWrite_keeps {bank : Bool} {a : Nat} {x : Byte} {s : State} (h0 : Keeps b z s) : Keeps b z (viewWrite bank a x s) := by
  unfold viewWrite
  exact Keeps.ite (fun _ => Keeps.ite (fun _ => tmWriteByte_keeps h0) (fun _ => h0)) (fun _ => Keeps.ite (fun _ => tmWriteByte_keeps h0) (fun _ => h0))

theorem bar2WriteGo_keeps {o : Nat} {a1 : Bytes} {a2 : State} (h0 : Keeps b z a2) : Keeps b z (bar2WriteGo o a1 a2) := by
  induction a1 generalizing o a2 with
  | nil =>
    unfold bar2WriteGo
    exact h0
  | cons x r ih =>
    unfold bar2WriteGo
    exact ih (viewWrite_keeps h0)

theorem execBar2Access_keeps {acc : HostAccess} {s : State} (h0 : Keeps b z s) : KeepsA b z (execBar2Access acc s) := by
  unfold execBar2Access
  refine live_keeps h0 ?_
  intro _ h1
  split
  · refine Keeps.ite (fun _ => bumpFree_keeps (emit_keeps h1)) (fun _ => ?_)
    extract_lets -underBinder -merge -useContext +onlyGivenNames _
    exact emit_keeps h1
  · exact Keeps.ite (fun _ => h1) (fun _ => bar2WriteGo_keeps h1)

theorem execBar4Access_keeps {acc : HostAccess} {s : State} (h0 : Keeps b z s) : KeepsA b z (execBar4Access acc s) := by
  unfold execBar4Access
  refine live_keeps h0 ?_
  intro _ h1
  split
  · extract_lets -underBinder -merge -useContext +onlyGivenNames _
    exact emit_keeps h1
  · exact Keeps.ite (fun _ => stgWrite_keeps h1) (fun _ => h1)

end Sys2Proof.Laws
end

