-- ==== Sys2Proof/Laws/KeepsFabric.lean ====
section
/-! SUPPORT. Laws/KeepsFabric.lean: what the functions of the network interface, the ports, and the collectives keep, one lemma each. -/

namespace Sys2Proof.Laws

set_option Elab.async false -- a thousand proofs at once would need a thread each

open Sys2Proof Sys2Proof.Machine

variable {b : Bool} {z : State}

/-! ### Machine/Network.lean -/

theorem enqueueOut_keeps {i : Nat} {need : Nat} {from_ : Option (Nat × Nat)} {p : Packet} {s : State} (h0 : Keeps b z s) : Keeps b z (enqueueOut i need from_ p s) := by
  unfold enqueueOut
  exact modPort_keeps (fun _ hq => ⟨hq.1, (modAt_length _ _ _).trans hq.2.1, hq.2.2⟩) h0

theorem freeSlot_keeps {i : Nat} {vc : Nat} {s : State} (h0 : Keeps b z s) : Keeps b z (freeSlot i vc s) := by
  unfold freeSlot
  exact modPort_keeps (fun _ hq => ⟨hq.1, hq.2.1, hq.2.2.1, hq.2.2.2.1, (modAt_length _ _ _).trans hq.2.2.2.2.1, hq.2.2.2.2.2.1,
    (modAt_length _ _ _).trans hq.2.2.2.2.2.2⟩) h0

theorem freeFrom_keeps {from_ : Option (Nat × Nat)} {s : State} (h0 : Keeps b z s) : Keeps b z (freeFrom from_ s) := by
  unfold freeFrom
  split
  · exact h0
  · exact freeSlot_keeps h0

theorem countDetour_keeps {d : Nat} {s : State} (h0 : Keeps b z s) : Keeps b z (countDetour d s) := by
  unfold countDetour
  exact modPort_keeps (fun _ hq => hq) h0

theorem degradeColl_keeps {h : W32} {q : W32} {s : State} (h0 : Keeps b z s) : Keeps b z (degradeColl h q s) := by
  unfold degradeColl
  exact Keeps.upd h0

theorem degradePacket_keeps {p : Packet} {s : State} (h0 : Keeps b z s) : Keeps b z (degradePacket p s) := by
  unfold degradePacket
  exact Keeps.ite (fun _ => degradeColl_keeps h0) (fun _ => h0)

theorem inject_keeps {dir : Option (BitVec 3)} {p : Packet} {s : State} (h0 : Keeps b z s) : Keeps b z (inject dir p s) := by
  unfold inject
  exact Keeps.upd h0

theorem sendRaw_keeps {dir : Option (BitVec 3)} {p : Packet} {s : State} (h0 : Keeps b z s) : Keeps b z (sendRaw dir p s) := by
  unfold sendRaw
  exact inject_keeps h0

theorem setTx_keeps {t : TxStream} {s : State} (h0 : Keeps b z s) : Keeps b z (setTx t s) := by
  unfold setTx
  exact Keeps.upd h0

theorem noteSent_keeps {p : Packet} {s : State} (h0 : Keeps b z s) : Keeps b z (noteSent p s) := by
  unfold noteSent
  exact Keeps.upd h0

theorem txPump_keeps {c : Coord} {s : State} (h0 : Keeps b z s) : Keeps b z (txPump c s) := by
  unfold txPump
  extract_lets -underBinder -merge -useContext +onlyGivenNames _ _
  exact Keeps.foldl (fun t4 _ h3 => inject_keeps (noteSent_keeps h3)) (setTx_keeps h0)

theorem sendStream_keeps {p : Packet} {s : State} (h0 : Keeps b z s) : Keeps b z (sendStream p s) := by
  unfold sendStream
  extract_lets -underBinder -merge -useContext +onlyGivenNames _ _ s1
  have h2 : Keeps b z s1 := setTx_keeps h0
  clear_value s1
  extract_lets -underBinder -merge -useContext +onlyGivenNames _ s3
  have h4 : Keeps b z s3 := Keeps.ite (fun _ => h2) (fun _ => Keeps.upd h2)
  clear_value s3
  exact txPump_keeps h4

theorem setRx_keeps {r : RxStream} {s : State} (h0 : Keeps b z s) : Keeps b z (setRx r s) := by
  unfold setRx
  exact Keeps.upd h0

theorem sendAck_keeps {c : Coord} {s : State} (h0 : Keeps b z s) : Keeps b z (sendAck c s) := by
  unfold sendAck
  extract_lets -underBinder -merge -useContext +onlyGivenNames _
  split
  · exact h0
  · exact Keeps.ite (fun _ => h0) (fun _ => sendRaw_keeps (setRx_keeps h0))

theorem ackNote_keeps {p : Packet} {s : State} (h0 : Keeps b z s) : Keeps b z (ackNote p s) := by
  unfold ackNote
  extract_lets -underBinder -merge -useContext +onlyGivenNames _ _ s3
  have h4 : Keeps b z s3 := setRx_keeps h0
  clear_value s3
  exact Keeps.ite (fun _ => sendAck_keeps h4) (fun _ => h4)

theorem niArrive_keeps {p : Packet} {act : State → State} {dup : State → State} {s : State} (h0 : ∀ y0, Keeps b z y0 → Keeps b z (act y0)) (h1 : ∀ y0, Keeps b z y0 → Keeps b z (dup y0)) (h2 : Keeps b z s) : Keeps b z (niArrive p act dup s) := by
  unfold niArrive
  refine Keeps.ite (fun _ => h0 _ h2) ?_
  intro _
  refine Keeps.ite (fun _ => h2) ?_
  intro _
  refine Keeps.ite (fun _ => sendRaw_keeps h2) ?_
  intro _
  split
  · exact h2
  · exact Keeps.ite (fun _ => ackNote_keeps h2) (fun _ => ackNote_keeps (h1 _ h2))
  · exact Keeps.ite (fun _ => ackNote_keeps (setRx_keeps h2)) (fun _ => ackNote_keeps (h0 _ (setRx_keeps h2)))

theorem degradeRouting_keeps {s : State} (h0 : Keeps b z s) : Keeps b z (degradeRouting s) := by
  unfold degradeRouting
  exact Keeps.upd h0

theorem floodMgmt_keeps {not : Option Nat} {mtype : Nat} {coord : W32} {origin : W32} {ts : W64} {s : State} (h0 : Keeps b z s) : Keeps b z (floodMgmt not mtype coord origin ts s) := by
  unfold floodMgmt
  exact Keeps.foldl (fun t2 _ h1 => sendStream_keeps h1) h0

theorem linkEvent_keeps {i : Nat} {code : Nat} {cause : Byte} {s : State} (h0 : Keeps b z s) : Keeps b z (linkEvent i code cause s) := by
  unfold linkEvent
  extract_lets -underBinder -merge -useContext +onlyGivenNames s1
  have h2 : Keeps b z s1 := modPort_keeps (fun _ hq => hq) h0
  clear_value s1
  extract_lets -underBinder -merge -useContext +onlyGivenNames s3
  have h4 : Keeps b z s3 := raiseEvent_keeps h2
  clear_value s3
  extract_lets -underBinder -merge -useContext +onlyGivenNames s5
  have h6 : Keeps b z s5 := Keeps.ite (fun _ => setErr_keeps h4) (fun _ => h4)
  clear_value s5
  exact Keeps.ite (fun _ => degradeRouting_keeps h6) (fun _ => h6)

theorem rehome_keeps {i : Nat} {o : OutPkt} {s : State} (h0 : Keeps b z s) : Keeps b z (rehome i o s) := by
  unfold rehome
  extract_lets -underBinder -merge -useContext +onlyGivenNames _ _ _
  refine Keeps.ite (fun _ => degradePacket_keeps (enqueueOut_keeps h0)) ?_
  intro _
  refine Keeps.ite (fun _ => freeFrom_keeps h0) ?_
  intro _
  refine Keeps.ite (fun _ => countDetour_keeps (freeFrom_keeps h0)) ?_
  intro _
  split
  · exact enqueueOut_keeps h0
  · exact inject_keeps (freeFrom_keeps h0)

theorem abandonPort_keeps {i : Nat} {s : State} (h0 : Keeps b z s) : Keeps b z (abandonPort i s) := by
  unfold abandonPort
  extract_lets -underBinder -merge d p gone _ cut s1 s2
  have h1 : Keeps b z s1 := modPort_keeps_of (fun h y hy => ⟨?_, rfl, hy.2.2⟩) h0
  · exact .foldl (fun _ _ h => rehome_keeps h) (.ite (fun _ => h1)
      fun _ => modPort_keeps (fun _ hq => hq) (modPort_keeps (fun _ hq => hq) h1))
  · have hp := getPort_sound h i
    change List.length (if _ then _ else _) = 4
    split
    · exact hp.1
    · exact (modAt_length _ _ _).trans hp.1

theorem sendProbe_keeps {d : Nat} {s : State} (h0 : Keeps b z s) : Keeps b z (sendProbe d s) := by
  unfold sendProbe
  extract_lets -underBinder -merge -useContext +onlyGivenNames _
  refine Keeps.ite (fun _ => ?_) (fun _ => h0)
  extract_lets -underBinder -merge -useContext +onlyGivenNames _ _ s3
  have h4 : Keeps b z s3 := Keeps.upd h0
  clear_value s3
  exact sendStream_keeps h4

theorem linkDown_keeps {i : Nat} {cause : Byte} {s : State} (h0 : Keeps b z s) : Keeps b z (linkDown i cause s) := by
  unfold linkDown
  extract_lets -underBinder -merge -useContext +onlyGivenNames s1
  have h2 : Keeps b z s1 := modPort_keeps (fun _ hq => hq) h0
  clear_value s1
  extract_lets -underBinder -merge -useContext +onlyGivenNames s3
  have h4 : Keeps b z s3 := abandonPort_keeps h2
  clear_value s3
  extract_lets -underBinder -merge -useContext +onlyGivenNames s5
  have h6 : Keeps b z s5 := linkEvent_keeps h4
  clear_value s5
  extract_lets -underBinder -merge -useContext +onlyGivenNames _ s8
  have h9 : Keeps b z s8 := Keeps.ite (fun _ => h6) (fun _ => startTest_keeps (Keeps.ite (fun _ => h6) (fun _ => logError_keeps h6)))
  clear_value s8
  exact sendProbe_keeps h9

theorem sendIdentity_keeps {i : Nat} {s : State} (h0 : Keeps b z s) : Keeps b z (sendIdentity i s) := by
  unfold sendIdentity
  exact sendCtrl_keeps h0

theorem rejoinLocal_keeps {c : Coord} {s : State} (h0 : Keeps b z s) : Keeps b z (rejoinLocal c s) := by
  unfold rejoinLocal
  exact Keeps.upd h0

theorem rejoinFlood_keeps {c : Coord} {s : State} (h0 : Keeps b z s) : Keeps b z (rejoinFlood c s) := by
  unfold rejoinFlood
  exact Keeps.ite (fun _ => floodMgmt_keeps (rejoinLocal_keeps (logAppend_keeps h0))) (fun _ => h0)

theorem settleIdentity_keeps {i : Nat} {s : State} (h0 : Keeps b z s) : Keeps b z (settleIdentity i s) := by
  unfold settleIdentity
  extract_lets -underBinder -merge -useContext +onlyGivenNames _ _ s3
  have h4 : Keeps b z s3 := modPort_keeps (fun _ hq => hq) h0
  clear_value s3
  refine Keeps.ite (fun _ => ?_) (fun _ => ?_)
  · extract_lets -underBinder -merge -useContext +onlyGivenNames s5
    have h6 : Keeps b z s5 := modPort_keeps (fun _ hq => hq) (modPort_keeps (fun _ hq => hq) h4)
    clear_value s5
    extract_lets -underBinder -merge -useContext +onlyGivenNames s7
    have h8 : Keeps b z s7 := Keeps.ite (fun _ => h6) (fun _ => linkEvent_keeps h6)
    clear_value s7
    exact rejoinFlood_keeps h8
  · extract_lets -underBinder -merge -useContext +onlyGivenNames s9
    have h10 : Keeps b z s9 := Keeps.ite (fun _ => abandonPort_keeps h4) (fun _ => h4)
    clear_value s9
    exact Keeps.ite (fun _ => linkEvent_keeps h10) (fun _ => Keeps.ite (fun _ => linkEvent_keeps h10) (fun _ => h10))

theorem echoRates_keeps {echo : BitVec 3} {from_ : Coord} {s : State} (h0 : Keeps b z s) : Keeps b z (echoRates echo from_ s) := by
  unfold echoRates
  refine h0.upd (rates := fun h => ?_)
  dsimp only
  repeat' split
  all_goals simpa only [modAt_length] using h.rates

theorem chargeRate_keeps {d : Nat} {p : Packet} {s : State} (h0 : Keeps b z s) : Keeps b z (chargeRate d p s) := by
  unfold chargeRate
  split
  · exact h0
  · extract_lets -underBinder -merge -useContext +onlyGivenNames _
    exact Keeps.upd h0 (rates := fun h => (modAt_length _ _ _).trans h.rates)

/-! ### Machine/Links.lean -/

theorem crcFailed_keeps {i : Nat} {s : State} (h0 : Keeps b z s) : Keeps b z (crcFailed i s) := by
  unfold crcFailed
  extract_lets -underBinder -merge -useContext +onlyGivenNames _ s2
  have h3 : Keeps b z s2 := modPort_keeps (fun _ hq => by dsimp only; split <;> exact hq) h0
  clear_value s2
  extract_lets -underBinder -merge -useContext +onlyGivenNames _
  refine Keeps.ite (fun _ => ?_) (fun _ => h3)
  extract_lets -underBinder -merge -useContext +onlyGivenNames s5
  have h6 : Keeps b z s5 := linkEvent_keeps (modPort_keeps (fun _ hq => hq) h3)
  clear_value s5
  extract_lets -underBinder -merge -useContext +onlyGivenNames _
  refine Keeps.ite (fun _ => h6) (fun _ => ?_)
  extract_lets -underBinder -merge -useContext +onlyGivenNames s8
  have h9 : Keeps b z s8 := startTest_keeps (logError_keeps h6)
  clear_value s8
  exact linkDown_keeps h9

theorem onFlit_keeps {i : Nat} {f : CtrlFlit} {act : State → State} {s : State} (h0 : ∀ y0, Keeps b z y0 → Keeps b z (act y0)) (h1 : Keeps b z s) : Keeps b z (onFlit i f act s) := by
  unfold onFlit
  extract_lets -underBinder -merge -useContext +onlyGivenNames _
  exact Keeps.ite (fun _ => h1) (fun _ => Keeps.ite (fun _ => crcFailed_keeps h1) (fun _ => h0 _ (modPort_keeps (fun _ hq => ackGroups_sound hq) h1)))

theorem sendCredit_keeps {i : Nat} {base : W16} {s : State} (h0 : Keeps b z s) : Keeps b z (sendCredit i base s) := by
  unfold sendCredit
  extract_lets -underBinder -merge -useContext +onlyGivenNames s1
  have h2 : Keeps b z s1 := modPort_keeps (fun _ hq => hq) h0
  clear_value s1
  exact sendCtrl_keeps h2

theorem coverGroup_keeps {i : Nat} {g : W16} {s : State} (h0 : Keeps b z s) : Keeps b z (coverGroup i g s) := by
  unfold coverGroup
  exact Keeps.ite (fun _ => h0) (fun _ => sendCredit_keeps h0)

theorem emitGroup_keeps {i : Nat} {data : BitVec 2048} {seq : W16} {s : State} (h0 : Keeps b z s) : Keeps b z (emitGroup i data seq s) := by
  unfold emitGroup
  extract_lets -underBinder -merge -useContext +onlyGivenNames _ _
  exact onBridge_keeps (emit_keeps h0)

theorem replay_keeps {i : Nat} {first : W16} {s : State} (h0 : Keeps b z s) : Keeps b z (replay i first s) := by
  unfold replay
  extract_lets -underBinder -merge -useContext +onlyGivenNames _ _ _ s1
  have h2 : Keeps b z s1 := modPort_keeps (fun _ hq => hq) h0
  clear_value s1
  extract_lets -underBinder -merge -useContext +onlyGivenNames s3
  have h4 : Keeps b z s3 := Keeps.foldl (fun _ _ h5 => emitGroup_keeps (coverGroup_keeps h5)) (modPort_keeps (fun _ hq => hq) h2)
  clear_value s3
  exact Keeps.ite (fun _ => linkDown_keeps h4) (fun _ => h4)

theorem execRetryReq_keeps {port : BitVec 4} {f : CtrlFlit} {s : State} (h0 : Keeps b z s) : KeepsA b z (execRetryReq port f s) := by
  unfold execRetryReq
  exact live_keeps h0 (fun _ h1 => onFlit_keeps (fun _ h2 => replay_keeps h2) h1)

theorem execAck_keeps {port : BitVec 4} {f : CtrlFlit} {s : State} (h0 : Keeps b z s) : KeepsA b z (execAck port f s) := by
  unfold execAck
  exact live_keeps h0 (fun _ h1 => onFlit_keeps (fun _ h2 => h2) h1)

theorem execAckTimeout_keeps {port : BitVec 4} {s : State} (h0 : Keeps b z s) : KeepsA b z (execAckTimeout port s) := by
  unfold execAckTimeout
  extract_lets -underBinder -merge -useContext +onlyGivenNames _
  refine live_keeps h0 ?_
  intro _ h2
  split
  · exact h2
  · refine Keeps.ite (fun _ => h2) (fun _ => ?_)
    extract_lets -underBinder -merge -useContext +onlyGivenNames _ s4
    have h5 : Keeps b z s4 := replay_keeps (modPort_keeps (fun _ hq => hq) h2)
    clear_value s4
    exact Keeps.ite (fun _ => linkDown_keeps h5) (fun _ => h5)

theorem execCredit_keeps {port : BitVec 4} {f : CtrlFlit} {s : State} (h0 : Keeps b z s) : KeepsA b z (execCredit port f s) := by
  unfold execCredit
  extract_lets -underBinder -merge -useContext +onlyGivenNames _
  exact live_keeps h0 (fun _ h2 => onFlit_keeps (fun _ h3 => modPort_keeps (fun _ hq => ⟨hq.1, hq.2.1, hq.2.2.1, (List.length_map _).trans List.length_range, hq.2.2.2.2⟩) h3) h2)

theorem execIdentity_keeps {port : BitVec 4} {f : CtrlFlit} {s : State} (h0 : Keeps b z s) : KeepsA b z (execIdentity port f s) := by
  unfold execIdentity
  extract_lets -underBinder -merge -useContext +onlyGivenNames _ _
  refine live_keeps h0 ?_
  intro _ h3
  refine onFlit_keeps ?_ h3
  intro _ h4
  extract_lets -underBinder -merge -useContext +onlyGivenNames s5
  have h6 : Keeps b z s5 := modPort_keeps (fun _ hq => hq) h4
  clear_value s5
  exact Keeps.ite (fun _ => h6) (fun _ => settleIdentity_keeps h6)

theorem intoInputs_keeps {i : Nat} {ps : List Packet} {s : State} (h0 : Keeps b z s) : Keeps b z (intoInputs i ps s) := by
  unfold intoInputs
  exact Keeps.foldl (fun t2 _ h1 => modPort_keeps (fun _ hq => ⟨(modAt_length _ _ _).trans hq.1, hq.2⟩) h1) h0

theorem groupInput_keeps {i : Nat} {g : GroupInput} {s : State} (h0 : Keeps b z s) : KeepsP b z (groupInput i g s) := by
  unfold groupInput
  split
  · exact KeepsP.mk h0
  · extract_lets -underBinder -merge -useContext +onlyGivenNames _ _
    exact KeepsP.mk (Keeps.ite (fun _ => h0) (fun _ => modPort_keeps (fun _ hq => hq) h0))

theorem takeSlots_length (u : List (BitVec 512)) (l : List Packet) (v : List (BitVec 512)) (h : List Nat) :
    (takeSlots u l v h).length = h.length := by
  have hup : ∀ (k : List Nat) (h : List Nat), (k.foldl (fun (l : List Nat) v => modAt (fun n => n + 1) v l) h).length = h.length := by
    intro k
    induction k with
    | nil => intro h; rfl
    | cons x r ih => intro h; exact (ih _).trans (modAt_length _ _ _)
  unfold takeSlots
  dsimp only
  split
  · exact hup _ _
  · exact (modAt_length _ _ _).trans (hup _ _)

theorem takeGroup_keeps {i : Nat} {g : FlitGroup} {s : State} (h0 : Keeps b z s) : Keeps b z (takeGroup i g s) := by
  unfold takeGroup
  extract_lets -underBinder -merge -useContext +onlyGivenNames _ _
  split
  · extract_lets -underBinder -merge -useContext +onlyGivenNames _ _ s2
    have h3 : Keeps b z s2 := modPort_keeps (fun _ hq => ackGroups_sound ⟨hq.1, hq.2.1, hq.2.2.1, hq.2.2.2.1, hq.2.2.2.2.1,
      hq.2.2.2.2.2.1, (takeSlots_length _ _ _ _).trans hq.2.2.2.2.2.2⟩) h0
    clear_value s2
    exact intoInputs_keeps h3
  · extract_lets -underBinder -merge -useContext +onlyGivenNames s5
    have h6 : Keeps b z s5 := Keeps.ite (fun _ => h0) (fun _ => crcFailed_keeps h0)
    clear_value s5
    exact Keeps.ite (fun _ => h6) (fun _ => emit_keeps (modPort_keeps (fun _ hq => hq) h6))

theorem execGroup_keeps {port : BitVec 4} {g : GroupInput} {s : State} (h0 : Keeps b z s) : KeepsA b z (execGroup port g s) := by
  unfold execGroup
  extract_lets -underBinder -merge -useContext +onlyGivenNames _
  refine live_keeps h0 ?_
  intro _ h1
  refine onlyIf_keeps ?_ h1
  intro _ h2
  extract_lets -underBinder -merge -useContext +onlyGivenNames s3
  have h4 : KeepsP b z s3 := groupInput_keeps h2
  clear_value s3
  exact takeGroup_keeps (KeepsP.snd h4)

theorem enterLpi_keeps {i : Nat} {s : State} (h0 : Keeps b z s) : Keeps b z (enterLpi i s) := by
  unfold enterLpi
  exact modPort_keeps (fun _ hq => hq) h0

theorem answerLpi_keeps {i : Nat} {s : State} (h0 : Keeps b z s) : Keeps b z (answerLpi i s) := by
  unfold answerLpi
  extract_lets -underBinder -merge -useContext +onlyGivenNames _
  exact Keeps.ite (fun _ => sendCtrl_keeps (modPort_keeps (fun _ hq => hq) h0)) (fun _ => h0)

theorem execLpiReq_keeps {port : BitVec 4} {f : CtrlFlit} {s : State} (h0 : Keeps b z s) : KeepsA b z (execLpiReq port f s) := by
  unfold execLpiReq
  extract_lets -underBinder -merge -useContext +onlyGivenNames _
  exact live_keeps h0 (fun _ h2 => onFlit_keeps (fun _ h3 => Keeps.ite (fun _ => answerLpi_keeps (modPort_keeps (fun _ hq => hq) h3)) (fun _ => h3)) h2)

theorem execLpiAck_keeps {port : BitVec 4} {f : CtrlFlit} {s : State} (h0 : Keeps b z s) : KeepsA b z (execLpiAck port f s) := by
  unfold execLpiAck
  extract_lets -underBinder -merge -useContext +onlyGivenNames _
  refine live_keeps h0 ?_
  intro _ h2
  refine onFlit_keeps ?_ h2
  intro _ h3
  extract_lets -underBinder -merge -useContext +onlyGivenNames _
  exact Keeps.ite (fun _ => h3) (fun _ => Keeps.ite (fun _ => enterLpi_keeps (sendCtrl_keeps h3)) (fun _ => Keeps.ite (fun _ => enterLpi_keeps h3) (fun _ => h3)))

theorem execSignalDetect_keeps {port : BitVec 4} {s : State} (h0 : Keeps b z s) : KeepsA b z (execSignalDetect port s) := by
  unfold execSignalDetect
  exact live_keeps h0 (fun _ h1 => onlyIf_keeps (fun _ h2 => modPort_keeps (fun _ hq => hq) h2) h1)

theorem execTrainingRetry_keeps {port : BitVec 4} {s : State} (h0 : Keeps b z s) : KeepsA b z (execTrainingRetry port s) := by
  unfold execTrainingRetry
  exact live_keeps h0 (fun _ h1 => onlyIf_keeps (fun _ h2 => modPort_keeps (fun _ hq => hq) h2) h1)

theorem askLpi_keeps {i : Nat} {s : State} (h0 : Keeps b z s) : Keeps b z (askLpi i s) := by
  unfold askLpi
  exact Keeps.ite (fun _ => sendCtrl_keeps (modPort_keeps (fun _ hq => hq) h0)) (fun _ => h0)

theorem execTrainingDone_keeps {port : BitVec 4} {lanesLocked : Byte} {s : State} (h0 : Keeps b z s) : KeepsA b z (execTrainingDone port lanesLocked s) := by
  unfold execTrainingDone
  extract_lets -underBinder -merge -useContext +onlyGivenNames _
  refine live_keeps h0 ?_
  intro _ h1
  split
  · exact h1
  · extract_lets -underBinder -merge -useContext +onlyGivenNames _ _ _
    refine Keeps.ite (fun _ => h1) ?_
    intro _
    extract_lets -underBinder -merge -useContext +onlyGivenNames s4
    have h5 : Keeps b z s4 := modPort_keeps (fun _ hq => restartCredit_sound (by split <;> exact hq)) h1
    clear_value s4
    extract_lets -underBinder -merge -useContext +onlyGivenNames s6
    have h7 : Keeps b z s6 := askLpi_keeps (settleIdentity_keeps (sendIdentity_keeps h5))
    clear_value s6
    exact Keeps.ite (fun _ => linkEvent_keeps h7) (fun _ => Keeps.ite (fun _ => linkEvent_keeps h7) (fun _ => Keeps.ite (fun _ => linkEvent_keeps h7) (fun _ => h7)))

theorem execTrainingStepTimeout_keeps {port : BitVec 4} {s : State} (h0 : Keeps b z s) : KeepsA b z (execTrainingStepTimeout port s) := by
  unfold execTrainingStepTimeout
  extract_lets -underBinder -merge -useContext +onlyGivenNames _
  refine live_keeps h0 ?_
  intro _ h2
  split
  · exact h2
  · extract_lets -underBinder -merge -useContext +onlyGivenNames g3
    dsimp -zeta only [g3]
    exact Keeps.ite (fun _ => linkEvent_keeps (modPort_keeps (fun _ hq => hq) h2)) (fun _ => Keeps.ite (fun _ => modPort_keeps (fun _ hq => hq) h2) (fun _ => linkDown_keeps h2))

theorem execLockLoss_keeps {port : BitVec 4} {lanesLost : Byte} {s : State} (h0 : Keeps b z s) : KeepsA b z (execLockLoss port lanesLost s) := by
  unfold execLockLoss
  extract_lets -underBinder -merge -useContext +onlyGivenNames _
  refine live_keeps h0 ?_
  intro _ h1
  refine onlyIf_keeps ?_ h1
  intro _ h2
  extract_lets -underBinder -merge -useContext +onlyGivenNames _ _
  refine Keeps.ite (fun _ => linkDown_keeps h2) ?_
  intro _
  extract_lets -underBinder -merge -useContext +onlyGivenNames s3
  have h4 : Keeps b z s3 := modPort_keeps (fun _ hq => hq) h2
  clear_value s3
  extract_lets -underBinder -merge -useContext +onlyGivenNames _
  exact Keeps.foldl (fun _ _ h5 => degradePacket_keeps h5) h4

theorem execFarGone_keeps {port : BitVec 4} {s : State} (h0 : Keeps b z s) : KeepsA b z (execFarGone port s) := by
  unfold execFarGone
  extract_lets -underBinder -merge -useContext +onlyGivenNames _ _
  exact live_keeps h0 (fun _ h3 => onlyIf_keeps (fun _ h4 => linkDown_keeps h4) h3)

theorem execGb2Fault_keeps {unit : BitVec 2} {s : State} (h0 : Keeps b z s) : KeepsA b z (execGb2Fault unit s) := by
  unfold execGb2Fault
  exact live_keeps h0 (fun _ h1 => onlyIf_keeps (fun _ h2 => Keeps.foldl (fun t4 _ h3 => Keeps.ite (fun _ => h3) (fun _ => linkDown_keeps h3)) h2) h1)

theorem kickFrames_keeps {i : Nat} {s : State} (h0 : Keeps b z s) : Keeps b z (kickFrames i s) := by
  unfold kickFrames
  extract_lets -underBinder -merge -useContext +onlyGivenNames _
  split
  · exact h0
  · exact Keeps.ite (fun _ => sendFrame_keeps (freeFrom_keeps (modPort_keeps (fun _ hq => ⟨hq.1, (setAt_length _ _ _).trans hq.2.1, hq.2.2⟩) h0))) (fun _ => h0)

theorem creditBack_keeps {i : Nat} {s : State} (h0 : Keeps b z s) : Keeps b z (creditBack i s) := by
  unfold creditBack
  split
  · exact sendFrame_keeps (modPort_keeps (fun _ hq => hq) h0)
  · exact kickFrames_keeps (modPort_keeps (fun _ hq => hq) h0)

theorem execCreditFrame_keeps {port : BitVec 4} {s : State} (h0 : Keeps b z s) : KeepsA b z (execCreditFrame port s) := by
  unfold execCreditFrame
  exact live_keeps h0 (fun _ h1 => onlyIf_keeps (fun _ h2 => creditBack_keeps h2) h1)

theorem execBusyFrame_keeps {port : BitVec 4} {s : State} (h0 : Keeps b z s) : KeepsA b z (execBusyFrame port s) := by
  unfold execBusyFrame
  exact live_keeps h0 (fun _ h1 => modPort_keeps (fun _ hq => hq) h1)

theorem execHeraldFrameTimeout_keeps {port : BitVec 4} {s : State} (h0 : Keeps b z s) : KeepsA b z (execHeraldFrameTimeout port s) := by
  unfold execHeraldFrameTimeout
  extract_lets -underBinder -merge -useContext +onlyGivenNames _
  refine live_keeps h0 ?_
  intro _ h2
  extract_lets -underBinder -merge -useContext +onlyGivenNames _
  split
  · exact h2
  · exact Keeps.ite (fun _ => sendFrame_keeps (modPort_keeps (fun _ hq => hq) h2)) (fun _ => h2)

theorem leaveSleep_keeps {i : Nat} {s : State} (h0 : Keeps b z s) : Keeps b z (leaveSleep i s) := by
  unfold leaveSleep
  extract_lets -underBinder -merge -useContext +onlyGivenNames _ s1
  have h2 : Keeps b z s1 := modPort_keeps (fun _ hq => releaseFrame_sound hq) h0
  clear_value s1
  exact Keeps.ite (fun _ => settleIdentity_keeps (sendIdentity_keeps h2)) (fun _ => Keeps.ite (fun _ => modPort_keeps (fun _ hq => hq) h2) (fun _ => Keeps.ite (fun _ => modPort_keeps (fun _ hq => hq) h2) (fun _ => h0)))

theorem leaveBoth_keeps {i : Nat} {s : State} (h0 : Keeps b z s) : Keeps b z (leaveBoth i s) := by
  unfold leaveBoth
  exact Keeps.ite (fun _ => leaveSleep_keeps (leaveSleep_keeps h0)) (fun _ => leaveSleep_keeps h0)

theorem resumeFrom_keeps {i : Nat} {s : State} (h0 : Keeps b z s) : Keeps b z (resumeFrom i s) := by
  unfold resumeFrom
  extract_lets -underBinder -merge -useContext +onlyGivenNames _
  exact Keeps.ite (fun _ => h0) (fun _ => leaveBoth_keeps (sendFrame_keeps h0))

theorem execResumeFrame_keeps {port : BitVec 4} {s : State} (h0 : Keeps b z s) : KeepsA b z (execResumeFrame port s) := by
  unfold execResumeFrame
  exact live_keeps h0 (fun _ h1 => resumeFrom_keeps h1)

theorem execWakeFrame_keeps {port : BitVec 4} {s : State} (h0 : Keeps b z s) : KeepsA b z (execWakeFrame port s) := by
  unfold execWakeFrame
  exact live_keeps h0 (fun _ h1 => onlyIf_keeps (fun _ h2 => Keeps.ite (fun _ => wakeSource_keeps h2) (fun _ => resumeFrom_keeps h2)) h1)

theorem execDeepFrame_keeps {port : BitVec 4} {s : State} (h0 : Keeps b z s) : KeepsA b z (execDeepFrame port s) := by
  unfold execDeepFrame
  extract_lets -underBinder -merge -useContext +onlyGivenNames _
  refine live_keeps h0 ?_
  intro _ h2
  refine onlyIf_keeps ?_ h2
  intro _ h3
  extract_lets -underBinder -merge -useContext +onlyGivenNames s4
  have h5 : Keeps b z s4 := modPort_keeps (fun _ hq => hq) h3
  clear_value s4
  exact Keeps.ite (fun _ => modPort_keeps (fun _ hq => by split <;> exact hq) h5) (fun _ => h5)

theorem execArbitrationWindow_keeps {port : BitVec 4} {s : State} (h0 : Keeps b z s) : KeepsA b z (execArbitrationWindow port s) := by
  unfold execArbitrationWindow
  extract_lets -underBinder -merge -useContext +onlyGivenNames _
  refine live_keeps h0 ?_
  intro _ h1
  refine onlyIf_keeps ?_ h1
  intro _ h2
  extract_lets -underBinder -merge -useContext +onlyGivenNames _
  exact modPort_keeps (fun _ hq => ⟨hq.1, hq.2.1, hq.2.2.1, hq.2.2.2.1, hq.2.2.2.2.1, rfl, hq.2.2.2.2.2.2⟩) h2

theorem startPacket_keeps {i : Nat} {v : Nat} {debit : Bool} {o : OutPkt} {s : State} (h0 : Keeps b z s) : Keeps b z (startPacket i v debit o s) := by
  unfold startPacket
  extract_lets -underBinder -merge -useContext +onlyGivenNames s1
  have h2 : Keeps b z s1 := modPort_keeps (fun _ hq => ⟨hq.1, (modAt_length _ _ _).trans hq.2.1, hq.2.2.1, hq.2.2.2.1, hq.2.2.2.2.1,
    by dsimp only; split <;> simpa only [modAt_length] using hq.2.2.2.2.2.1, hq.2.2.2.2.2.2⟩) h0
  clear_value s1
  exact emit_keeps h2

theorem prewarmKick_keeps {s : State} (h0 : Keeps b z s) : Keeps b z (prewarmKick s) := by
  unfold prewarmKick
  refine Keeps.foldl ?_ h0
  intro _ _ h1
  split
  · exact Keeps.ite (fun _ => endCmd_keeps h1) (fun _ => h1)
  · exact h1

theorem execPacketStart_keeps {port : BitVec 4} {s : State} (h0 : Keeps b z s) : KeepsA b z (execPacketStart port s) := by
  unfold execPacketStart
  extract_lets -underBinder -merge -useContext +onlyGivenNames _
  refine live_keeps h0 ?_
  intro _ h1
  refine onlyIf_keeps ?_ h1
  intro _ h2
  extract_lets -underBinder -merge -useContext +onlyGivenNames _
  split
  · exact h2
  · split
    · exact h2
    · exact Keeps.ite (fun _ => prewarmKick_keeps (startPacket_keeps h2)) (fun _ => h2)

theorem tailsLeft_keeps {i : Nat} {nums : List Nat} {s : State} (h0 : Keeps b z s) : Keeps b z (tailsLeft i nums s) := by
  unfold tailsLeft
  extract_lets -underBinder -merge -useContext +onlyGivenNames _ _
  exact Keeps.foldl (fun _ _ h1 => freeFrom_keeps h1) (modPort_keeps (fun _ hq => hq) h0)

theorem nextFlits_sound {p : Port} (h : p.Sound) : (nextFlits p).1.Sound := by
  have hd : ∀ (l : List TxFlight) (u : List W16),
      (l.foldl (fun u f => if f.head then modAt (fun n => n + 1) f.vc.toNat u else u) u).length = u.length := by
    intro l
    induction l with
    | nil => intro u; rfl
    | cons x r ih =>
      intro u
      refine (ih _).trans ?_
      dsimp only
      split
      · exact modAt_length _ _ _
      · rfl
  unfold nextFlits
  dsimp only
  split
  · exact ⟨h.1, h.2.1, (hd _ _).trans h.2.2.1, h.2.2.2.1, h.2.2.2.2.1, (modAt_length _ _ _).trans h.2.2.2.2.2.1, h.2.2.2.2.2.2⟩
  · split
    · exact ⟨h.1, h.2.1, (hd _ _).trans h.2.2.1, h.2.2.2.1, h.2.2.2.2.1, (modAt_length _ _ _).trans h.2.2.2.2.2.1, h.2.2.2.2.2.2⟩
    · exact ⟨h.1, h.2.1, (hd _ _).trans h.2.2.1, h.2.2.2⟩

theorem sendGroup_keeps {i : Nat} {s : State} (h0 : Keeps b z s) : Keeps b z (sendGroup i s) := by
  unfold sendGroup
  extract_lets -underBinder -merge -useContext +onlyGivenNames _ _ _ _ s1
  have h2 : Keeps b z s1 := modPort_keeps_of (fun h _ _ => nextFlits_sound (getPort_sound h i)) h0
  clear_value s1
  exact tailsLeft_keeps (emitGroup_keeps h2)

theorem groupsGo_keeps {i : Nat} {a1 : Nat} {a2 : State} (h0 : Keeps b z a2) : Keeps b z (groupsGo i a1 a2) := by
  induction a1 generalizing i a2 with
  | zero =>
    unfold groupsGo
    exact h0
  | succ n ih =>
    unfold groupsGo
    exact Keeps.ite (fun _ => h0) (fun _ => ih (sendGroup_keeps (coverGroup_keeps h0)))

theorem portTick_keeps {s : State} {i : Nat} (h0 : Keeps b z s) : Keeps b z (portTick s i) := by
  unfold portTick
  extract_lets -underBinder -merge -useContext +onlyGivenNames _
  refine Keeps.ite (fun _ => h0) ?_
  intro _
  extract_lets -underBinder -merge -useContext +onlyGivenNames s1
  have h2 : Keeps b z s1 := sendCredit_keeps (sendIdentity_keeps h0)
  clear_value s1
  exact Keeps.ite (fun _ => answerLpi_keeps (groupsGo_keeps h2)) (fun _ => h2)

theorem portsTick_keeps {s : State} (h0 : Keeps b z s) : Keeps b z (portsTick s) := by
  unfold portsTick
  exact prewarmKick_keeps (Keeps.foldl (fun _ _ h1 => portTick_keeps h1) h0)

/-! ### Machine/Comms.lean -/

theorem sendHop_keeps {p : Packet} {s : State} {d : Nat} (h0 : Keeps b z s) : Keeps b z (sendHop p s d) := by
  unfold sendHop
  extract_lets -underBinder -merge -useContext +onlyGivenNames _
  refine Keeps.ite ?_ (fun _ => inject_keeps h0)
  intro _
  split
  · exact kickFrames_keeps (enqueueOut_keeps h0)
  · exact h0

theorem flood_keeps {sender : Option Coord} {lo : Coord} {hi : Coord} {p : Packet} {s : State} (h0 : Keeps b z s) : Keeps b z (flood sender lo hi p s) := by
  unfold flood
  exact Keeps.foldl (fun _ _ h1 => sendHop_keeps h1) h0

theorem filterAdd_keeps {k : HeraldKey} {sig : W64} {emitter : Option (BitVec 18)} {src : Coord} {s : State} (h0 : Keeps b z s) : Keeps b z (filterAdd k sig emitter src s) := by
  unfold filterAdd
  exact Keeps.upd h0

theorem heraldHold_keeps {k : HeraldKey} {p : Packet} {s : State} (h0 : Keeps b z s) : Keeps b z (heraldHold k p s) := by
  unfold heraldHold
  split
  · exact startHold_keeps h0
  · exact startHold_keeps h0
  · exact h0

theorem takeHerald_keeps {k : HeraldKey} {p : Packet} {emitter : Option (BitVec 18)} {s : State} (h0 : Keeps b z s) : Keeps b z (takeHerald k p emitter s) := by
  unfold takeHerald
  extract_lets -underBinder -merge -useContext +onlyGivenNames _ s1
  have h2 : Keeps b z s1 := filterAdd_keeps h0
  clear_value s1
  exact wakeSource_keeps (heraldHold_keeps (flood_keeps h2))

theorem receiveHerald_keeps {p : Packet} {emitter : Option (BitVec 18)} {s : State} (h0 : Keeps b z s) : Keeps b z (receiveHerald p emitter s) := by
  unfold receiveHerald
  split
  · exact h0
  · exact Keeps.ite (fun _ => h0) (fun _ => takeHerald_keeps h0)

theorem execHerald_keeps {port : BitVec 4} {p : Packet} {emitter : BitVec 18} {s : State} (h0 : Keeps b z s) : KeepsA b z (execHerald port p emitter s) := by
  unfold execHerald
  exact live_keeps h0 (fun _ h1 => onlyIf_keeps (fun _ h2 => receiveHerald_keeps h2) h1)

theorem spoilDest_keeps {x : Ctx} {status : Byte} {s : State} (h0 : Keeps b z s) : Keeps b z (spoilDest x status s) := by
  unfold spoilDest
  split
  · exact h0
  · extract_lets -underBinder -merge -useContext +onlyGivenNames _ _
    exact Keeps.ite (fun _ => h0) (fun _ => Keeps.foldl (fun t4 _ h3 => localUndefined_keeps h3) h0)

theorem countLaggard_keeps {x : Ctx} {s : State} (h0 : Keeps b z s) : Keeps b z (countLaggard x s) := by
  unfold countLaggard
  split
  · exact h0
  · extract_lets -underBinder -merge -useContext +onlyGivenNames _ _ s3
    have h4 : Keeps b z s3 := modComm_keeps (Keeps.upd h0)
    clear_value s3
    exact Keeps.ite (fun _ => h4) (fun _ => busWrite_keeps h4)

theorem dropCtx_keeps {x : Ctx} {s : State} (h0 : Keeps b z s) : Keeps b z (dropCtx x s) := by
  unfold dropCtx
  extract_lets -underBinder -merge -useContext +onlyGivenNames _ _ _
  exact Keeps.upd h0 (thread := fun h => filter_all h.thread) (slotForm := fun h => filter_wf _ h.slotForm)

theorem roundOver_keeps {num : W32} {s : State} (h0 : Keeps b z s) : Keeps b z (roundOver num s) := by
  unfold roundOver
  extract_lets -underBinder -merge -useContext +onlyGivenNames _ s1
  have h2 : Keeps b z s1 := Keeps.upd h0
  clear_value s1
  exact Keeps.foldl (fun _ _ h3 => endHeld_keeps h3) h2

theorem startRound_keeps {epoch : Bool} {s : State} (h0 : Keeps b z s) : KeepsP b z (startRound epoch s) := by
  unfold startRound
  extract_lets -underBinder -merge -useContext +onlyGivenNames _ _ _ _ _ _ s6
  have h7 : Keeps b z s6 := Keeps.upd h0
  clear_value s6
  extract_lets -underBinder -merge -useContext +onlyGivenNames _ s9
  have h10 : Keeps b z s9 := Keeps.foldl (fun t12 _ h11 => sendStream_keeps h11) h7
  clear_value s9
  exact KeepsP.mk (Keeps.ite (fun _ => Keeps.upd h10) (fun _ => h10))

theorem drainsKick_keeps {s : State} (h0 : Keeps b z s) : Keeps b z (drainsKick s) := by
  unfold drainsKick
  refine Keeps.foldl ?_ h0
  intro _ _ h1
  split
  · refine Keeps.ite (fun _ => h1) ?_
    intro _
    extract_lets -underBinder -merge -useContext +onlyGivenNames s3
    have h4 : KeepsP b z s3 := startRound_keeps h1
    clear_value s3
    exact Keeps.ite (fun _ => modCmd_keeps (KeepsP.snd h4)) (fun _ => endHeld_keeps (KeepsP.snd h4))
  · exact h1

theorem unmapKick_keeps {s : State} (h0 : Keeps b z s) : Keeps b z (unmapKick s) := by
  unfold unmapKick
  extract_lets -underBinder -merge -useContext +onlyGivenNames _ s1
  have h2 : Keeps b z s1 := by
    refine Keeps.foldl ?_ h0
    intro _ _ h3
    split
    · exact Keeps.ite (fun _ => h3) (fun _ => endHeld_keeps h3)
    · exact h3
  clear_value s1
  exact Keeps.upd h2

theorem destroyKick_keeps {s : State} (h0 : Keeps b z s) : Keeps b z (destroyKick s) := by
  unfold destroyKick
  refine Keeps.foldl ?_ h0
  intro _ _ h1
  split
  · exact Keeps.ite (fun _ => h1) (fun _ => endHeld_keeps (Keeps.upd h1))
  · exact h1

theorem drainKick_keeps {s : State} (h0 : Keeps b z s) : Keeps b z (drainKick s) := by
  unfold drainKick
  exact destroyKick_keeps (unmapKick_keeps (drainsKick_keeps h0))

theorem routeFail_keeps {x : Ctx} {status : Byte} {s : State} (h0 : Keeps b z s) : Keeps b z (routeFail x status s) := by
  unfold routeFail
  refine Keeps.ite (fun _ => h0) (fun _ => ?_)
  extract_lets -underBinder -merge -useContext +onlyGivenNames _ s1
  have h2 : Keeps b z s1 := Keeps.upd h0
  clear_value s1
  extract_lets -underBinder -merge -useContext +onlyGivenNames _
  exact Keeps.ite (fun _ => localWrite_keeps h2) (fun _ => h2)

theorem completeCtx_keeps {x : Ctx} {status : Byte} {result : W64} {valid : Bool} {s : State} (h0 : Keeps b z s) : Keeps b z (completeCtx x status result valid s) := by
  unfold completeCtx
  extract_lets -underBinder -merge -useContext +onlyGivenNames _ _ _ s4
  have h5 : Keeps b z s4 := postCompletion_keeps (routeFail_keeps (dropCtx_keeps h0))
  clear_value s4
  exact drainKick_keeps (Keeps.ite (fun _ => countLaggard_keeps h5) (fun _ => h5))

theorem completeOk_keeps {x : Ctx} {s : State} (h0 : Keeps b z s) : Keeps b z (completeOk x s) := by
  unfold completeOk
  exact completeCtx_keeps h0

theorem failCtx_keeps {x : Ctx} {status : Byte} {result : W64} {s : State} (h0 : Keeps b z s) : Keeps b z (failCtx x status result s) := by
  unfold failCtx
  exact completeCtx_keeps (spoilDest_keeps h0)

theorem markSaved_keeps {h : W32} {q : W32} {ending : Option (Byte × W64)} {s : State} (h0 : Keeps b z s) : Keeps b z (markSaved h q ending s) := by
  unfold markSaved
  extract_lets -underBinder -merge -useContext +onlyGivenNames _
  exact Keeps.upd h0 (savedThread := fun h => updWhere_all h.savedThread fun _ hq => hq)

theorem actNotice_keeps {h : W32} {n : Notice} {s : State} (h0 : Keeps b z s) : Keeps b z (actNotice h n s) := by
  unfold actNotice
  split
  · exact h0
  · extract_lets -underBinder -merge -useContext +onlyGivenNames _
    refine Keeps.ite (fun _ => Keeps.ite (fun _ => h0) (fun _ => modComm_keeps h0)) (fun _ => ?_)
    split
    · exact failCtx_keeps h0
    · exact markSaved_keeps h0

theorem raiseNotice_keeps {c : Comm} {sig : W64} {n : Notice} {s : State} (h0 : Keeps b z s) : Keeps b z (raiseNotice c sig n s) := by
  unfold raiseNotice
  extract_lets -underBinder -merge -useContext +onlyGivenNames _ s1
  have h2 : Keeps b z s1 := filterAdd_keeps h0
  clear_value s1
  extract_lets -underBinder -merge -useContext +onlyGivenNames _ _ g3
  have h4 : ∀ x0 x1, Keeps b z x0 → Keeps b z (g3 x0 x1) := by
    exact fun _ _ h5 => sendRaw_keeps h5
  clear_value g3
  extract_lets -underBinder -merge -useContext +onlyGivenNames s6
  have h7 : Keeps b z s6 := Keeps.foldl (fun _ _ h8 => h4 _ _ h8) h2
  clear_value s6
  exact Keeps.ite (fun _ => Keeps.foldl (fun _ _ h9 => Keeps.ite (fun _ => h4 _ _ h9) (fun _ => h9)) h7) (fun _ => flood_keeps h7)

theorem abortColl_keeps {x : Ctx} {cause : Byte} {rank : BitVec 18} {namedSig : W16} {value : W64} {status : Byte} {result : Option W64} {s : State} (h0 : Keeps b z s) : Keeps b z (abortColl x cause rank namedSig value status result s) := by
  unfold abortColl
  split
  · exact h0
  · extract_lets -underBinder -merge -useContext +onlyGivenNames _
    exact failCtx_keeps (raiseNotice_keeps h0)

theorem mismatch_keeps {x : Ctx} {rank : BitVec 18} {named : W16} {s : State} (h0 : Keeps b z s) : Keeps b z (mismatch x rank named s) := by
  unfold mismatch
  exact abortColl_keeps h0

theorem checkFail_keeps {x : Ctx} {rank : BitVec 18} {s : State} (h0 : Keeps b z s) : Keeps b z (checkFail x rank s) := by
  unfold checkFail
  exact abortColl_keeps h0

theorem threadFault_keeps {x : Ctx} {result : W64} {s : State} (h0 : Keeps b z s) : Keeps b z (threadFault x result s) := by
  unfold threadFault
  exact abortColl_keeps h0

theorem receiveAbort_keeps {p : Packet} {s : State} (h0 : Keeps b z s) : Keeps b z (receiveAbort p s) := by
  unfold receiveAbort
  split
  · exact h0
  · exact Keeps.ite (fun _ => h0) (fun _ => actNotice_keeps (takeHerald_keeps h0))

theorem execAbortNotice_keeps {port : BitVec 4} {p : Packet} {s : State} (h0 : Keeps b z s) : KeepsA b z (execAbortNotice port p s) := by
  unfold execAbortNotice
  exact live_keeps h0 (fun _ h1 => onlyIf_keeps (fun _ h2 => receiveAbort_keeps h2) h1)

theorem execHeraldFrame_keeps {port : BitVec 4} {p : Packet} {emitter : BitVec 18} {s : State} (h0 : Keeps b z s) : KeepsA b z (execHeraldFrame port p emitter s) := by
  unfold execHeraldFrame
  extract_lets -underBinder -merge -useContext +onlyGivenNames _
  refine live_keeps h0 ?_
  intro _ h2
  refine onlyIf_keeps ?_ h2
  intro _ h3
  refine Keeps.ite (fun _ => sendFrame_keeps (Keeps.ite (fun _ => receiveHerald_keeps h3) (fun _ => receiveAbort_keeps h3))) (fun _ => ?_)
  refine Keeps.ite (fun _ => sendFrame_keeps (Keeps.upd h3)) (fun _ => ?_)
  split
  · exact sendFrame_keeps h3
  · refine Keeps.ite (fun _ => sendFrame_keeps h3) (fun _ => ?_)
    extract_lets -underBinder -merge -useContext +onlyGivenNames s4
    have h5 : Keeps b z s4 := takeHerald_keeps h3
    clear_value s4
    extract_lets -underBinder -merge -useContext +onlyGivenNames _ s6
    have h7 : Keeps b z s6 := Keeps.upd h5
    clear_value s6
    exact Keeps.ite (fun _ => Keeps.upd h7) (fun _ => sendFrame_keeps h7)

theorem readBuffer_keeps {s : State} (h0 : Keeps b z s) : Keeps b z (readBuffer s) := by
  unfold readBuffer
  extract_lets -underBinder -merge -useContext +onlyGivenNames _ s1
  have h2 : Keeps b z s1 := Keeps.foldl (fun t4 _ h3 => Keeps.ite (fun _ => actNotice_keeps h3) (fun _ => h3)) (Keeps.upd h0)
  clear_value s1
  split
  · exact h2
  · extract_lets -underBinder -merge -useContext +onlyGivenNames s5
    have h6 : Keeps b z s5 := raiseEvent_keeps h2
    clear_value s5
    extract_lets -underBinder -merge -useContext +onlyGivenNames _
    exact Keeps.foldl (fun t9 _ h8 => sendFrame_keeps h8) (Keeps.upd h6)

theorem execCommCreate_keeps {q : BitVec 6} {e : Entry} {s : State} (h0 : Keeps b z s) : KeepsA b z (execCommCreate q e s) := by
  unfold execCommCreate
  exact live_keeps h0 (fun _ h1 => octozRow_keeps (fun _ h2 => KeepsO.ite (fun _ => KeepsO.some (endEntry_keeps h2)) (fun _ => KeepsO.ite (fun _ => KeepsO.some (endEntry_keeps h2)) (fun _ => KeepsO.some (endResult_keeps (Keeps.upd h2))))) h1)

/-! ### Machine/Routing.lean -/

theorem routeWrite_keeps {x : Ctx} {s : State} (h0 : Keeps b z s) : KeepsP b z (routeWrite x s) := by
  unfold routeWrite
  extract_lets -underBinder -merge -useContext +onlyGivenNames _ _ _ _ _ _ _ _ _ _ _ _ _ _ _ s16
  have h17 : Keeps b z s16 := localWrite_keeps h0
  clear_value s16
  extract_lets -underBinder -merge -useContext +onlyGivenNames s18
  have h19 : Keeps b z s18 := localWrite_keeps h17
  clear_value s18
  extract_lets -underBinder -merge -useContext +onlyGivenNames s20
  have h21 : Keeps b z s20 := Keeps.ite (fun _ => h19) (fun _ => localWrite_keeps h19)
  clear_value s20
  extract_lets -underBinder -merge -useContext +onlyGivenNames s22
  have h23 : Keeps b z s22 := localWrite_keeps h21
  clear_value s22
  extract_lets -underBinder -merge -useContext +onlyGivenNames s24
  have h25 : Keeps b z s24 := localWrite_keeps h23
  clear_value s24
  extract_lets -underBinder -merge -useContext +onlyGivenNames _ s26
  have h27 : Keeps b z s26 := bumpFree_keeps (Keeps.upd h25)
  clear_value s26
  exact KeepsP.mk h27

/-! ### Machine/Collectives.lean -/

theorem putCtx_keeps {x : Ctx} {s : State} (h0 : Keeps b z s) : Keeps b z (putCtx x s) := by
  unfold putCtx
  exact modCtx_keeps h0

theorem sendChunk_keeps {c : Comm} {x : Ctx} {k : OutChunk} {s : State} (h0 : Keeps b z s) : Keeps b z (sendChunk c x k s) := by
  unfold sendChunk
  split
  · exact sendRaw_keeps h0
  · exact sendStream_keeps h0

theorem pumpGo_keeps {c : Comm} {a1 : List (BitVec 17)} {a2 : List OutChunk} {a3 : Machine.Ctx} {a4 : State} (h0 : Keeps b z a4) : KeepsP b z (pumpGo c a1 a2 a3 a4) := by
  induction a2 generalizing c a1 a3 a4 with
  | nil =>
    unfold pumpGo
    exact KeepsP.mk h0
  | cons x r ih =>
    unfold pumpGo
    refine KeepsP.ite (fun _ => ih (sendChunk_keeps h0)) ?_
    intro _
    extract_lets -underBinder -merge -useContext +onlyGivenNames s1
    have h2 : KeepsP b z s1 := ih h0
    clear_value s1
    exact KeepsP.mk (KeepsP.snd h2)

theorem pumpChunks_keeps {c : Comm} {x : Machine.Ctx} {s : State} (h0 : Keeps b z s) : Keeps b z (pumpChunks c x s) := by
  unfold pumpChunks
  extract_lets -underBinder -merge -useContext +onlyGivenNames s1
  have h2 : KeepsP b z s1 := pumpGo_keeps h0
  clear_value s1
  exact putCtx_keeps (KeepsP.snd h2)

theorem pumpColls_keeps {s : State} (h0 : Keeps b z s) : Keeps b z (pumpColls s) := by
  unfold pumpColls
  refine Keeps.foldl ?_ h0
  intro _ _ h1
  split
  · exact h1
  · split
    · exact h1
    · exact Keeps.ite (fun _ => h1) (fun _ => pumpChunks_keeps h1)

theorem sendGrant_keeps {c : Comm} {x : Ctx} {to_ : Nat} {n : Nat} {s : State} (h0 : Keeps b z s) : Keeps b z (sendGrant c x to_ n s) := by
  unfold sendGrant
  exact sendStream_keeps h0

theorem grantTo_keeps {c : Comm} {i : BitVec 9} {s : State} {r : Nat} (h0 : Keeps b z s) : Keeps b z (grantTo c i s r) := by
  unfold grantTo
  split
  · exact h0
  · extract_lets -underBinder -merge -useContext +onlyGivenNames _ _ _
    exact Keeps.ite (fun _ => h0) (fun _ => sendGrant_keeps (putCtx_keeps h0))

theorem grantAll_keeps {c : Comm} {x : Ctx} {s : State} (h0 : Keeps b z s) : Keeps b z (grantAll c x s) := by
  unfold grantAll
  exact Keeps.foldl (fun t2 _ h1 => grantTo_keeps h1) h0

theorem grantKick_keeps {s : State} (h0 : Keeps b z s) : Keeps b z (grantKick s) := by
  unfold grantKick
  refine Keeps.foldl ?_ h0
  intro _ _ h1
  split
  · exact h1
  · split
    · exact h1
    · exact Keeps.ite (fun _ => h1) (fun _ => grantAll_keeps h1)

theorem writeCounts_keeps {c : Comm} {x : Machine.Ctx} {s : State} (h0 : Keeps b z s) : Keeps b z (writeCounts c x s) := by
  unfold writeCounts
  exact localWrite_keeps h0

theorem afterCounts_keeps {c : Comm} {x : Machine.Ctx} {s : State} (h0 : Keeps b z s) : KeepsP b z (afterCounts c x s) := by
  unfold afterCounts
  extract_lets -underBinder -merge -useContext +onlyGivenNames _ _
  refine KeepsP.ite (fun _ => KeepsP.mk (abortColl_keeps h0)) ?_
  intro _
  extract_lets -underBinder -merge -useContext +onlyGivenNames _ _
  exact KeepsP.mk (Keeps.ite (fun _ => h0) (fun _ => writeCounts_keeps h0))

theorem writeResult_keeps {c : Comm} {x : Machine.Ctx} {s : State} (h0 : Keeps b z s) : KeepsP b z (writeResult c x s) := by
  unfold writeResult
  refine KeepsP.ite (fun _ => KeepsP.mk h0) ?_
  intro _
  refine KeepsP.ite (fun _ => routeWrite_keeps h0) ?_
  intro _
  refine KeepsP.ite (fun _ => KeepsP.mk (Keeps.foldl (fun _ _ h1 => localUndefined_keeps h1) h0)) ?_
  intro _
  extract_lets -underBinder -merge -useContext +onlyGivenNames _ s2
  have h3 : Keeps b z s2 := Keeps.ite (fun _ => writeCounts_keeps h0) (fun _ => h0)
  clear_value s2
  extract_lets -underBinder -merge -useContext +onlyGivenNames s4
  have h5 : Keeps b z s4 := localWrite_keeps h3
  clear_value s4
  refine KeepsP.ite (fun _ => KeepsP.mk h5) ?_
  intro _
  extract_lets -underBinder -merge -useContext +onlyGivenNames _
  exact KeepsP.mk (localWrite_keeps h5)

theorem finishPlan_keeps {c : Comm} {x : Ctx} {s : State} (h0 : Keeps b z s) : Keeps b z (finishPlan c x s) := by
  unfold finishPlan
  refine Keeps.ite (fun _ => h0) (fun _ => ?_)
  extract_lets -underBinder -merge -useContext +onlyGivenNames s1
  have h2 : KeepsP b z s1 := writeResult_keeps h0
  clear_value s1
  extract_lets -underBinder -merge -useContext +onlyGivenNames _ s3
  have h4 : Keeps b z s3 := putCtx_keeps (KeepsP.snd h2)
  clear_value s3
  exact Keeps.upd h4 (thread := fun h => updWhere_all h.thread fun _ hq => hq)

theorem confirmChunk_keeps {c : Comm} {i : BitVec 9} {r : BitVec 17} {s : State} (h0 : Keeps b z s) : Keeps b z (confirmChunk c i r s) := by
  unfold confirmChunk
  exact grantTo_keeps (modCtx_keeps h0)

theorem consumeStep_keeps {c : Comm} {p : PlanStep} {i : BitVec 9} {s : State} (h0 : Keeps b z s) : Keeps b z (consumeStep c p i s) := by
  unfold consumeStep
  split
  · exact h0
  · extract_lets -underBinder -merge -useContext +onlyGivenNames _
    exact Keeps.foldl (fun _ _ h3 => confirmChunk_keeps h3) (putCtx_keeps h0)

theorem advanceGo_keeps {i : BitVec 9} {a1 : Nat} {a2 : State} (h0 : Keeps b z a2) : Keeps b z (advanceGo i a1 a2) := by
  induction a1 generalizing i a2 with
  | zero =>
    unfold advanceGo
    exact h0
  | succ n ih =>
    unfold advanceGo
    split
    · exact h0
    · split
      · exact h0
      · split
        · exact finishPlan_keeps h0
        · extract_lets -underBinder -merge -useContext +onlyGivenNames s7
          have h8 : Keeps b z s7 := Keeps.ite (fun _ => h0) (fun _ => pumpChunks_keeps h0)
          clear_value s7
          extract_lets -underBinder -merge -useContext +onlyGivenNames s9
          have h10 : Keeps b z s9 := consumeStep_keeps h8
          clear_value s9
          extract_lets -underBinder -merge -useContext +onlyGivenNames _
          split
          · exact h10
          · extract_lets -underBinder -merge -useContext +onlyGivenNames _ _
            split
            · split
              · rename_i t15 e14
                exact (KeepsP.of_eq e14 (afterCounts_keeps h10))
              · rename_i _ t17 e16
                exact ih (putCtx_keeps (KeepsP.of_eq e16 (afterCounts_keeps h10)))
            · exact ih (putCtx_keeps h10)

theorem advance_keeps {i : BitVec 9} {s : State} (h0 : Keeps b z s) : Keeps b z (advance i s) := by
  unfold advance
  split
  · exact h0
  · exact Keeps.ite (fun _ => h0) (fun _ => advanceGo_keeps h0)

theorem sendRereq_keeps {c : Comm} {x : Ctx} {sender : Nat} {phase : Byte} {step : Byte} {off : Nat} {count : Nat} {cause : Nat} {copy : Nat} {s : State} (h0 : Keeps b z s) : Keeps b z (sendRereq c x sender phase step off count cause copy s) := by
  unfold sendRereq
  extract_lets -underBinder -merge -useContext +onlyGivenNames _ s2
  have h3 : Keeps b z s2 := putCtx_keeps h0
  clear_value s2
  extract_lets -underBinder -merge -useContext +onlyGivenNames s4
  have h5 : Keeps b z s4 := sendStream_keeps h3
  clear_value s4
  extract_lets -underBinder -merge -useContext +onlyGivenNames _
  exact raiseEvent_keeps h5

theorem failedCopy_keeps {c : Comm} {x : Ctx} {k : Chunk} {cause : Nat} {s : State} (h0 : Keeps b z s) : Keeps b z (failedCopy c x k cause s) := by
  unfold failedCopy
  extract_lets -underBinder -merge -useContext +onlyGivenNames _ _ _
  exact Keeps.ite (fun _ => checkFail_keeps h0) (fun _ => sendRereq_keeps h0)

theorem takeChunk_keeps {tick : Nat} {c : Comm} {x : Machine.Ctx} {p : Packet} {s : State} (h0 : Keeps b z s) : Keeps b z (takeChunk tick c x p s) := by
  unfold takeChunk
  extract_lets -underBinder -merge -useContext +onlyGivenNames _ _
  refine Keeps.ite (fun _ => failedCopy_keeps h0) ?_
  intro _
  refine Keeps.ite (fun _ => mismatch_keeps h0) ?_
  intro _
  refine Keeps.ite (fun _ => h0) ?_
  intro _
  refine Keeps.ite (fun _ => failedCopy_keeps h0) ?_
  intro _
  extract_lets -underBinder -merge -useContext +onlyGivenNames _ s1
  have h2 : Keeps b z s1 := putCtx_keeps h0
  clear_value s1
  exact Keeps.ite (fun _ => Keeps.upd h2 (thread := fun h => updWhere_all h.thread fun _ hq => hq)) (fun _ => advance_keeps h2)

theorem takeGrant_keeps {c : Comm} {x : Ctx} {p : Packet} {s : State} (h0 : Keeps b z s) : Keeps b z (takeGrant c x p s) := by
  unfold takeGrant
  extract_lets -underBinder -merge -useContext +onlyGivenNames _
  exact advance_keeps (pumpChunks_keeps h0)

theorem takeRereq_keeps {c : Comm} {x : Ctx} {p : Packet} {s : State} (h0 : Keeps b z s) : Keeps b z (takeRereq c x p s) := by
  unfold takeRereq
  extract_lets -underBinder -merge -useContext +onlyGivenNames _ _ _ _ _
  refine Keeps.ite (fun _ => askBus_keeps (putCtx_keeps (Keeps.upd h0))) (fun _ => ?_)
  extract_lets -underBinder -merge -useContext +onlyGivenNames _
  exact useBus_keeps (Keeps.foldl (fun t8 _ h7 => sendStream_keeps h7) (putCtx_keeps h0))

theorem holdEarly_keeps {tick : Nat} {p : Packet} {s : State} (h0 : Keeps b z s) : Keeps b z (holdEarly tick p s) := by
  unfold holdEarly
  extract_lets -underBinder -merge -useContext +onlyGivenNames _ _ g3
  dsimp -zeta only [g3]
  refine Keeps.ite (fun _ => Keeps.ite (fun _ => markSaved_keeps h0) (fun _ => Keeps.upd (markSaved_keeps h0))) (fun _ => ?_)
  split
  · exact h0
  · extract_lets -underBinder -merge -useContext +onlyGivenNames _
    exact Keeps.ite (fun _ => Keeps.ite (fun _ => h0) (fun _ => Keeps.upd h0)) (fun _ => h0)

theorem chunkAct_keeps {tick : Nat} {p : Packet} {s : State} (h0 : Keeps b z s) : Keeps b z (chunkAct tick p s) := by
  unfold chunkAct
  split
  · exact holdEarly_keeps h0
  · split
    · exact h0
    · extract_lets -underBinder -merge -useContext +onlyGivenNames _
      exact Keeps.ite (fun _ => Keeps.ite (fun _ => takeGrant_keeps h0) (fun _ => h0)) (fun _ => Keeps.ite (fun _ => Keeps.ite (fun _ => takeRereq_keeps h0) (fun _ => h0)) (fun _ => takeChunk_keeps h0))

theorem chunkArrive_keeps {p : Packet} {s : State} (h0 : Keeps b z s) : Keeps b z (chunkArrive p s) := by
  unfold chunkArrive
  exact grantKick_keeps (niArrive_keeps (fun _ h1 => chunkAct_keeps h1) (fun _ h2 => h2) h0)

theorem execChunk_keeps {p : Packet} {s : State} (h0 : Keeps b z s) : KeepsA b z (execChunk p s) := by
  unfold execChunk
  exact live_keeps h0 (fun _ h1 => onlyIf_keeps (fun _ h2 => chunkArrive_keeps h2) h1)

theorem execChunkGrant_keeps {p : Packet} {s : State} (h0 : Keeps b z s) : KeepsA b z (execChunkGrant p s) := by
  unfold execChunkGrant
  exact live_keeps h0 (fun _ h1 => onlyIf_keeps (fun _ h2 => chunkArrive_keeps h2) h1)

theorem execCountChunk_keeps {p : Packet} {s : State} (h0 : Keeps b z s) : KeepsA b z (execCountChunk p s) := by
  unfold execCountChunk
  exact live_keeps h0 (fun _ h1 => onlyIf_keeps (fun _ h2 => chunkArrive_keeps h2) h1)

theorem execChunkRereq_keeps {p : Packet} {s : State} (h0 : Keeps b z s) : KeepsA b z (execChunkRereq p s) := by
  unfold execChunkRereq
  exact live_keeps h0 (fun _ h1 => onlyIf_keeps (fun _ h2 => chunkArrive_keeps h2) h1)

theorem execChunkTimeout_keeps {ctx : BitVec 9} {sender : BitVec 17} {phase : Byte} {step : Byte} {elemOffset : W64} {elemCount : W32} {s : State} (h0 : Keeps b z s) : KeepsA b z (execChunkTimeout ctx sender phase step elemOffset elemCount s) := by
  unfold execChunkTimeout
  refine live_keeps h0 ?_
  intro _ h1
  split
  · exact h1
  · split
    · exact h1
    · extract_lets -underBinder -merge -useContext +onlyGivenNames _ _ _
      exact Keeps.ite (fun _ => sendRereq_keeps h1) (fun _ => h1)

theorem execCollectiveComplete_keeps {ctx : BitVec 9} {s : State} (h0 : Keeps b z s) : KeepsA b z (execCollectiveComplete ctx s) := by
  unfold execCollectiveComplete
  refine live_keeps h0 ?_
  intro _ h1
  split
  · exact h1
  · extract_lets -underBinder -merge -useContext +onlyGivenNames _
    exact Keeps.ite (fun _ => completeOk_keeps h1) (fun _ => h1)

theorem execKeeperTick_keeps {s : State} (h0 : Keeps b z s) : KeepsA false z (execKeeperTick s) := by
  unfold execKeeperTick
  refine liveKeeper_keeps h0.weak ?_
  intro _ h1
  extract_lets -underBinder -merge -useContext +onlyGivenNames s2
  have h3 : Keeps false z s2 := tick_keeps h1
  clear_value s2
  refine Keeps.ite (fun _ => h3) ?_
  intro _
  extract_lets -underBinder -merge -useContext +onlyGivenNames s4
  have h5 : Keeps false z s4 := portsTick_keeps h3
  clear_value s4
  exact Keeps.ite (fun _ => grantKick_keeps h5) (fun _ => h5)

/-! ### Machine/Cinch.lean -/

theorem sendSet_keeps {x : Ctx} {k : CinchSent} {mc : Option (BitVec 3)} {dest : Coord} {s : State} (h0 : Keeps b z s) : Keeps b z (sendSet x k mc dest s) := by
  unfold sendSet
  extract_lets -underBinder -merge -useContext +onlyGivenNames _
  refine Keeps.foldl (fun t3 _ h2 => ?_) h0
  extract_lets -underBinder -merge -useContext +onlyGivenNames _
  exact sendRaw_keeps h2

theorem downSide_keeps {c : Comm} {vote : Bool} {a : Nat} {plus : Bool} {x : Ctx} {s : State} (h0 : Keeps b z s) : KeepsP b z (downSide c vote a plus x s) := by
  unfold downSide
  extract_lets -underBinder -merge -useContext +onlyGivenNames _ _
  refine KeepsP.ite (fun _ => KeepsP.mk h0) (fun _ => ?_)
  extract_lets -underBinder -merge -useContext +onlyGivenNames _ _ _ _ _ _ _ _ _ s12
  have h13 : Keeps b z s12 := Keeps.ite (fun _ => h0) (fun _ => sendSet_keeps h0)
  clear_value s12
  exact KeepsP.mk (Keeps.foldl (fun t15 _ h14 => sendSet_keeps h14) h13)

theorem relayDown_keeps {c : Comm} {vote : Bool} {x : Ctx} {s : State} (h0 : Keeps b z s) : KeepsP b z (relayDown c vote x s) := by
  unfold relayDown
  refine KeepsP.foldl (fun t2 _ h1 => ?_) (KeepsP.mk h0)
  extract_lets -underBinder -merge -useContext +onlyGivenNames s3
  have h4 : KeepsP b z s3 := downSide_keeps (KeepsP.snd h1)
  clear_value s3
  exact downSide_keeps (KeepsP.snd h4)

theorem cinchFinish_keeps {c : Comm} {x : Ctx} {s : State} (h0 : Keeps b z s) : Keeps b z (cinchFinish c x s) := by
  unfold cinchFinish
  extract_lets -underBinder -merge -useContext +onlyGivenNames _ _ _ s4
  have h5 : KeepsP b z s4 := writeResult_keeps h0
  clear_value s4
  extract_lets -underBinder -merge -useContext +onlyGivenNames _ _ _
  exact completeOk_keeps (KeepsP.snd h5)

theorem voteFinish_keeps {x : Ctx} {s : State} (h0 : Keeps b z s) : Keeps b z (voteFinish x s) := by
  unfold voteFinish
  exact advance_keeps (putCtx_keeps h0)

theorem rootResult_keeps {c : Comm} {vote : Bool} {x : Ctx} {s : State} (h0 : Keeps b z s) : Keeps b z (rootResult c vote x s) := by
  unfold rootResult
  extract_lets -underBinder -merge -useContext +onlyGivenNames _ _ _ s4
  have h5 : KeepsP b z s4 := relayDown_keeps h0
  clear_value s4
  extract_lets -underBinder -merge -useContext +onlyGivenNames s6
  have h7 : Keeps b z s6 := putCtx_keeps (KeepsP.snd h5)
  clear_value s6
  exact Keeps.ite (fun _ => voteFinish_keeps h7) (fun _ => cinchFinish_keeps h7)

theorem sendUp_keeps {c : Comm} {vote : Bool} {x : Ctx} {a : Nat} {d : Nat} {s : State} (h0 : Keeps b z s) : Keeps b z (sendUp c vote x a d s) := by
  unfold sendUp
  extract_lets -underBinder -merge -useContext +onlyGivenNames _ _ _ _ _
  exact sendSet_keeps (putCtx_keeps h0)

theorem upGo_keeps {i : BitVec 9} {vote : Bool} {a2 : Nat} {a3 : State} (h0 : Keeps b z a3) : Keeps b z (upGo i vote a2 a3) := by
  induction a2 generalizing i vote a3 with
  | zero =>
    unfold upGo
    exact h0
  | succ n ih =>
    unfold upGo
    split
    · exact h0
    · split
      · exact h0
      · extract_lets -underBinder -merge -useContext +onlyGivenNames _
        refine Keeps.ite (fun _ => h0) (fun _ => ?_)
        split
        · exact rootResult_keeps h0
        · extract_lets -underBinder -merge -useContext +onlyGivenNames _
          refine Keeps.ite (fun _ => h0) (fun _ => ?_)
          extract_lets -underBinder -merge -useContext +onlyGivenNames _ _
          split
          · exact mismatch_keeps h0
          · extract_lets -underBinder -merge -useContext +onlyGivenNames _
            split
            · exact sendUp_keeps h0
            · exact ih (putCtx_keeps h0)

theorem upPhase_keeps {i : BitVec 9} {vote : Bool} {s : State} (h0 : Keeps b z s) : Keeps b z (upPhase i vote s) := by
  unfold upPhase
  exact upGo_keeps h0

theorem startCinch_keeps {vote : Bool} {own : List Val} {x : Ctx} {s : State} (h0 : Keeps b z s) : Keeps b z (startCinch vote own x s) := by
  unfold startCinch
  extract_lets -underBinder -merge -useContext +onlyGivenNames _ _
  exact upPhase_keeps (putCtx_keeps h0)

theorem takeDownSet_keeps {c : Comm} {vote : Bool} {k : CinchSet} {x : Ctx} {s : State} (h0 : Keeps b z s) : Keeps b z (takeDownSet c vote k x s) := by
  unfold takeDownSet
  extract_lets -underBinder -merge -useContext +onlyGivenNames _
  refine Keeps.ite (fun _ => h0) (fun _ => ?_)
  extract_lets -underBinder -merge -useContext +onlyGivenNames _ _ s4
  have h5 : KeepsP b z s4 := relayDown_keeps h0
  clear_value s4
  extract_lets -underBinder -merge -useContext +onlyGivenNames s6
  have h7 : Keeps b z s6 := putCtx_keeps (KeepsP.snd h5)
  clear_value s6
  exact Keeps.ite (fun _ => voteFinish_keeps h7) (fun _ => cinchFinish_keeps h7)

theorem badFrag_keeps {c : Comm} {vote : Bool} {x : Ctx} {k : CinchSet} {s : State} (h0 : Keeps b z s) : Keeps b z (badFrag c vote x k s) := by
  unfold badFrag
  extract_lets -underBinder -merge -useContext +onlyGivenNames _ _
  exact Keeps.ite (fun _ => checkFail_keeps h0) (fun _ => putCtx_keeps h0)

theorem takeCinch_keeps {tick : Nat} {c : Comm} {x0 : Ctx} {p : Packet} {s : State} (h0 : Keeps b z s) : Keeps b z (takeCinch tick c x0 p s) := by
  unfold takeCinch
  extract_lets -underBinder -merge -useContext +onlyGivenNames _ _ _ _
  refine Keeps.ite (fun _ => badFrag_keeps h0) (fun _ => ?_)
  refine Keeps.ite (fun _ => mismatch_keeps h0) (fun _ => ?_)
  extract_lets -underBinder -merge -useContext +onlyGivenNames _
  refine Keeps.ite (fun _ => badFrag_keeps h0) (fun _ => ?_)
  extract_lets -underBinder -merge -useContext +onlyGivenNames _ s7
  have h8 : Keeps b z s7 := putCtx_keeps h0
  clear_value s7
  exact Keeps.ite (fun _ => h8) (fun _ => Keeps.ite (fun _ => takeDownSet_keeps h8) (fun _ => upPhase_keeps h8))

theorem answerRereq_keeps {x : Ctx} {p : Packet} {s : State} (h0 : Keeps b z s) : Keeps b z (answerRereq x p s) := by
  unfold answerRereq
  extract_lets -underBinder -merge -useContext +onlyGivenNames _ _
  exact Keeps.foldl (fun t4 _ h3 => sendSet_keeps h3) (putCtx_keeps h0)

theorem cinchAct_keeps {tick : Nat} {p : Packet} {s : State} (h0 : Keeps b z s) : Keeps b z (cinchAct tick p s) := by
  unfold cinchAct
  split
  · exact holdEarly_keeps h0
  · split
    · exact h0
    · split
      · exact Keeps.ite (fun _ => answerRereq_keeps h0) (fun _ => h0)
      · exact takeCinch_keeps h0
      · exact takeCinch_keeps h0
      · exact takeCinch_keeps h0
      · exact takeCinch_keeps h0
      · exact h0

theorem cinchRow_keeps {p : Packet} {ct : Nat} {s : State} (h0 : Keeps b z s) : Keeps b z (cinchRow p ct s) := by
  unfold cinchRow
  exact onlyIf_keeps (fun _ h1 => cinchAct_keeps h1) h0

theorem execCinchUp_keeps {p : Packet} {s : State} (h0 : Keeps b z s) : KeepsA b z (execCinchUp p s) := by
  unfold execCinchUp
  exact live_keeps h0 (fun _ h1 => cinchRow_keeps h1)

theorem execCinchDown_keeps {p : Packet} {s : State} (h0 : Keeps b z s) : KeepsA b z (execCinchDown p s) := by
  unfold execCinchDown
  exact live_keeps h0 (fun _ h1 => cinchRow_keeps h1)

theorem execCinchRereq_keeps {p : Packet} {s : State} (h0 : Keeps b z s) : KeepsA b z (execCinchRereq p s) := by
  unfold execCinchRereq
  exact live_keeps h0 (fun _ h1 => cinchRow_keeps h1)

theorem execVoteUp_keeps {p : Packet} {s : State} (h0 : Keeps b z s) : KeepsA b z (execVoteUp p s) := by
  unfold execVoteUp
  exact live_keeps h0 (fun _ h1 => cinchRow_keeps h1)

theorem execVoteDown_keeps {p : Packet} {s : State} (h0 : Keeps b z s) : KeepsA b z (execVoteDown p s) := by
  unfold execVoteDown
  exact live_keeps h0 (fun _ h1 => cinchRow_keeps h1)

theorem execCinchSetTimeout_keeps {ctx : BitVec 9} {ctype : BitVec 4} {axis : BitVec 2} {sender : Coord} {s : State} (h0 : Keeps b z s) : KeepsA b z (execCinchSetTimeout ctx ctype axis sender s) := by
  unfold execCinchSetTimeout
  refine live_keeps h0 ?_
  intro _ h1
  split
  · exact h1
  · split
    · exact h1
    · extract_lets -underBinder -merge -useContext +onlyGivenNames _ _ _ x11
      clear_value x11
      extract_lets -underBinder -merge -useContext +onlyGivenNames _ _
      refine Keeps.ite (fun _ => ?_) (fun _ => h1)
      extract_lets -underBinder -merge -useContext +onlyGivenNames _ _ _
      exact sendRaw_keeps (putCtx_keeps h1)

/-! ### Machine/Submit.lean -/

theorem spawnArgs_length (s : State) (c : Comm) (x : Ctx) (i j n : Nat) : (spawnArgs s c x i j n).length ≤ 32 := by
  simp only [spawnArgs, List.length_cons, List.length_nil]
  omega

theorem spawnAll_keeps {c : Comm} {x : Ctx} {prog : Option Program} {lanes : List Byte} {s : State} (h0 : Keeps b z s) :
    Keeps b z (spawnAll c x prog lanes s) := by
  unfold spawnAll
  refine .foldl (fun t l h1 => Keeps.upd h1 (thread := fun h => append_all h.thread (map_all fun f _ => ⟨?_, rfl⟩))) h0
  have := spawnArgs_length t c x l.2 f.2
  simp only [List.length_append, List.length_replicate]
  have := this (if prog.isSome then headThreads ((prog.map fun p => p.words.headD 0).getD 0) else 1)
  omega

theorem resetSlots_keeps {lane : Byte} {base : Nat} {n : Nat} {mode : Nat} {s : State} (h0 : Keeps b z s) : Keeps b z (resetSlots lane base n mode s) := by
  unfold resetSlots
  extract_lets -underBinder -merge -useContext +onlyGivenNames _
  exact Keeps.upd h0 (slotForm := fun h => foldl_wf (fun _ _ hm => memWrite_wf _ _ hm) _ h.slotForm)

theorem clearSlots_keeps {i : BitVec 9} {mode : Nat} {s : State} (h0 : Keeps b z s) : Keeps b z (clearSlots i mode s) := by
  unfold clearSlots
  exact Keeps.foldl (fun t2 _ h1 => resetSlots_keeps h1) h0

theorem replayEarly_keeps {x : Ctx} {s : State} (h0 : Keeps b z s) : Keeps b z (replayEarly x s) := by
  unfold replayEarly
  extract_lets -underBinder -merge -useContext +onlyGivenNames _
  exact Keeps.foldl (fun t3 _ h2 => Keeps.ite (fun _ => chunkAct_keeps h2) (fun _ => cinchAct_keeps h2)) (Keeps.upd h0)

theorem startVote_keeps {c : Comm} {x : Machine.Ctx} {s : State} (h0 : Keeps b z s) : Keeps b z (startVote c x s) := by
  unfold startVote
  exact Keeps.ite (fun _ => startCinch_keeps h0) (fun _ => h0)

theorem runColl_keeps {c : Comm} {x : Machine.Ctx} {s : State} (h0 : Keeps b z s) : Keeps b z (runColl c x s) := by
  unfold runColl
  extract_lets -underBinder -merge -useContext +onlyGivenNames _ _
  refine Keeps.ite (fun _ => startCinch_keeps h0) ?_
  intro _
  extract_lets -underBinder -merge -useContext +onlyGivenNames _ _ _
  exact advance_keeps (startVote_keeps (grantAll_keeps (putCtx_keeps h0)))

theorem launch_keeps {c : Comm} {x : Machine.Ctx} {run : Machine.Ctx → State → State} {s : State} (h0 : ∀ y0 y1, Keeps b z y1 → Keeps b z (run y0 y1)) (h1 : Keeps b z s) : Keeps b z (launch c x run s) := by
  unfold launch
  extract_lets -underBinder -merge -useContext +onlyGivenNames _ _ s2
  have h3 : Keeps b z s2 := flood_keeps h1
  clear_value s2
  extract_lets -underBinder -merge -useContext +onlyGivenNames s4
  have h5 : Keeps b z s4 := Keeps.ite (fun _ => h3) (fun _ => startHold_keeps (filterAdd_keeps h3))
  clear_value s4
  split
  · exact completeCtx_keeps (modComm_keeps h5)
  · split
    · exact completeCtx_keeps h5
    · split
      · exact mismatch_keeps h5
      · split
        · exact mismatch_keeps h5
        · exact replayEarly_keeps (h0 _ _ h5)

theorem bindCtx_keeps {c : Comm} {x : Ctx} {i : BitVec 9} {prog : Option Program} {lanes : List Byte} {s : State} (h0 : Keeps b z s) : KeepsP b z (bindCtx c x i prog lanes s) := by
  unfold bindCtx
  extract_lets -underBinder -merge -useContext +onlyGivenNames _ _ _ s4
  have h5 : Keeps b z s4 := modComm_keeps (Keeps.upd h0)
  clear_value s4
  exact KeepsP.mk (clearSlots_keeps (spawnAll_keeps h5))

theorem grantServing_keeps {c : Comm} {x : Machine.Ctx} {s : State} (h0 : Keeps b z s) : Keeps b z (grantServing c x s) := by
  unfold grantServing
  exact startVote_keeps (grantAll_keeps h0)

theorem startColl_keeps {c : Comm} {x : Ctx} {s : State} (h0 : Keeps b z s) : KeepsO b z (startColl c x s) := by
  unfold startColl
  extract_lets -underBinder -merge -useContext +onlyGivenNames _ _ _ _
  split
  · extract_lets -underBinder -merge -useContext +onlyGivenNames s5
    have h6 : KeepsP b z s5 := bindCtx_keeps h0
    clear_value s5
    extract_lets -underBinder -merge -useContext +onlyGivenNames _ _
    refine KeepsO.some ?_
    refine launch_keeps ?_ (putCtx_keeps (KeepsP.snd h6))
    intro _ _ h9
    split
    · exact grantServing_keeps h9
    · exact runColl_keeps h9
  · exact KeepsO.none

theorem execCollSubmit_keeps {q : BitVec 6} {e : Entry} {s : State} (h0 : Keeps b z s) : KeepsA b z (execCollSubmit q e s) := by
  unfold execCollSubmit
  refine live_keeps h0 ?_
  intro _ h1
  refine octozRead_keeps ?_ h1
  intro _ h2
  split
  · exact KeepsO.some (endEntry_keeps h2)
  · extract_lets -underBinder -merge -useContext +onlyGivenNames _
    split
    · exact KeepsO.some (endEntry_keeps h2)
    · exact KeepsO.ite (fun _ => KeepsO.none) (fun _ => startColl_keeps h2)

end Sys2Proof.Laws
end

