-- ==== Sys2Proof/Laws/KeepsWork.lean ====
section
/-! SUPPORT. Laws/KeepsWork.lean: what the functions of the Tannery, saved contexts, transfers, recovery, management and resets keep, one lemma
each. -/

namespace Sys2Proof.Laws

set_option Elab.async false -- a thousand proofs at once would need a thread each

open Sys2Proof Sys2Proof.Machine

variable {b : Bool} {z : State}

/-! ### Machine/Tannery.lean -/

theorem tmPrepare_keeps {o : TmQueued} {s : State} (h0 : Keeps b z s) : Keeps b z (tmPrepare o s) := by
  unfold tmPrepare
  extract_lets -underBinder -merge -useContext +onlyGivenNames _ _
  exact Keeps.upd h0 (line := fun h => map_all fun l hl => by split <;> exact h.line l (List.mem_filter.1 hl).1) (moduleForm := fun h => foldl_wf (fun _ l hm => writeBack_wf l hm) _ h.moduleForm)

theorem tmEnqueue_keeps {o : TmQueued} {s : State} (h0 : Keeps b z s) : Keeps b z (tmEnqueue o s) := by
  unfold tmEnqueue
  extract_lets -underBinder -merge -useContext +onlyGivenNames _ _ s3
  have h4 : Keeps b z s3 := tmPrepare_keeps h0
  clear_value s3
  exact Keeps.upd h4

theorem fenceDone_keeps {c : Cmd} {t : W64} {s : State} (h0 : Keeps b z s) : Keeps b z (fenceDone c t s) := by
  unfold fenceDone
  extract_lets -underBinder -merge -useContext +onlyGivenNames x4
  clear_value x4
  extract_lets -underBinder -merge -useContext +onlyGivenNames _ s2
  have h3 : Keeps b z s2 := Keeps.upd h0
  clear_value s2
  split <;> exact endCmd_keeps h3

theorem tmSettle_keeps {s : State} (h0 : Keeps b z s) : Keeps b z (tmSettle s) := by
  unfold tmSettle
  refine Keeps.foldl (fun t2 _ h1 => ?_) h0
  split
  · exact Keeps.ite (fun _ => fenceDone_keeps h1) (fun _ => h1)
  · exact h1

theorem tmRetire_keeps {o : TmQueued} {s : State} (h0 : Keeps b z s) : Keeps b z (tmRetire o s) := by
  unfold tmRetire
  extract_lets -underBinder -merge -useContext +onlyGivenNames _ s1
  have h2 : Keeps b z s1 := Keeps.upd h0
  clear_value s1
  extract_lets -underBinder -merge -useContext +onlyGivenNames s3
  have h4 : Keeps b z s3 := by
    dsimp -zeta only [s3]
    split
    · exact Keeps.ite (fun _ => Keeps.upd h2) (fun _ => h2)
    · split
      · exact h2
      · exact endCmd_keeps h2
  clear_value s3
  exact Keeps.ite (fun _ => Keeps.upd h4) (fun _ => Keeps.ite (fun _ => Keeps.upd h4) (fun _ => h4))

theorem tmRetireAll_keeps {a0 : Nat} {a1 : State} (h0 : Keeps b z a1) : Keeps b z (tmRetireAll a0 a1) := by
  induction a0 generalizing a1 with
  | zero =>
    unfold tmRetireAll
    exact tmSettle_keeps h0
  | succ n ih =>
    unfold tmRetireAll
    split
    · exact tmSettle_keeps h0
    · exact ih (tmRetire_keeps h0)

theorem tmStart_keeps {q : BitVec 6} {e : Entry} {o : TmQueued} {s : State} (h0 : Keeps b z s) : Keeps b z (tmStart q e o s) := by
  unfold tmStart
  extract_lets -underBinder -merge -useContext +onlyGivenNames _ _ s2
  have h3 : Keeps b z s2 := tmEnqueue_keeps (Keeps.upd h0)
  clear_value s2
  exact tmRetireAll_keeps (endResult_keeps h3)

theorem execTmOp_keeps {q : BitVec 6} {e : Entry} {s : State} (h0 : Keeps b z s) : KeepsA b z (execTmOp q e s) := by
  unfold execTmOp
  extract_lets -underBinder -merge -useContext +onlyGivenNames _
  refine live_keeps h0 ?_
  intro _ h2
  refine octozRow_keeps ?_ h2
  intro _ h3
  split
  · exact KeepsO.some (endEntry_keeps h3)
  · extract_lets -underBinder -merge -useContext +onlyGivenNames _
    exact KeepsO.ite (fun _ => KeepsO.none) (fun _ => KeepsO.some (tmStart_keeps h3))

theorem execAccumArm_keeps {q : BitVec 6} {e : Entry} {s : State} (h0 : Keeps b z s) : KeepsA b z (execAccumArm q e s) := by
  unfold execAccumArm
  refine live_keeps h0 ?_
  intro _ h1
  refine octozRow_keeps ?_ h1
  intro _ h2
  extract_lets -underBinder -merge -useContext +onlyGivenNames _ _ _
  split
  · exact KeepsO.some (endEntry_keeps h2)
  · refine KeepsO.ite (fun _ => KeepsO.some (endEntry_keeps h2)) (fun _ => ?_)
    refine KeepsO.ite (fun _ => KeepsO.some (endEntry_keeps h2)) (fun _ => ?_)
    refine KeepsO.ite (fun _ => KeepsO.none) (fun _ => ?_)
    extract_lets -underBinder -merge -useContext +onlyGivenNames _
    exact KeepsO.some (tmStart_keeps (Keeps.upd h2))

theorem execAccumDisarm_keeps {q : BitVec 6} {e : Entry} {s : State} (h0 : Keeps b z s) : KeepsA b z (execAccumDisarm q e s) := by
  unfold execAccumDisarm
  refine live_keeps h0 ?_
  intro _ h1
  refine octozRow_keeps ?_ h1
  intro _ h2
  extract_lets -underBinder -merge -useContext +onlyGivenNames _
  split
  · exact KeepsO.some (endEntry_keeps h2)
  · split
    · exact KeepsO.some (endEntry_keeps h2)
    · refine KeepsO.ite (fun _ => KeepsO.some (endEntry_keeps h2)) (fun _ => ?_)
      refine KeepsO.ite (fun _ => KeepsO.none) (fun _ => ?_)
      extract_lets -underBinder -merge -useContext +onlyGivenNames _
      exact KeepsO.some (tmStart_keeps (Keeps.upd h2))

theorem execTmFence_keeps {q : BitVec 6} {e : Entry} {s : State} (h0 : Keeps b z s) : KeepsA b z (execTmFence q e s) := by
  unfold execTmFence
  refine live_keeps h0 ?_
  intro _ h1
  refine octozRow_keeps ?_ h1
  intro _ h2
  extract_lets -underBinder -merge -useContext +onlyGivenNames _ _
  exact KeepsO.ite (fun _ => KeepsO.some (endEntry_keeps h2)) (fun _ => KeepsO.ite (fun _ => KeepsO.some (endEntry_keeps h2)) (fun _ => KeepsO.some (tmSettle_keeps (addCmd_keeps h2))))

theorem parkMove_keeps {q : BitVec 6} {e : Entry} {src : W64} {dst : W64} {n : Nat} {check : Bool} {s : State} (h0 : Keeps b z s) : Keeps b z (parkMove q e src dst n check s) := by
  unfold parkMove
  extract_lets -underBinder -merge -useContext +onlyGivenNames _ _ _ _ _
  exact Keeps.ite (fun _ => endEntry_keeps (localUndefined_keeps h0)) (fun _ => Keeps.ite (fun _ => postCompletion_keeps (localUndefined_keeps h0)) (fun _ => postCompletion_keeps (localWrite_keeps h0)))

theorem execStatePark_keeps {q : BitVec 6} {e : Entry} {s : State} (h0 : Keeps b z s) : KeepsA b z (execStatePark q e s) := by
  unfold execStatePark
  extract_lets -underBinder -merge -useContext +onlyGivenNames _ _ _
  refine live_keeps h0 ?_
  intro _ h4
  refine octozRead_keeps ?_ h4
  intro _ h5
  split
  · exact KeepsO.some (endEntry_keeps h5)
  · exact KeepsO.some (parkMove_keeps h5)

theorem execStateUnpark_keeps {q : BitVec 6} {e : Entry} {s : State} (h0 : Keeps b z s) : KeepsA b z (execStateUnpark q e s) := by
  unfold execStateUnpark
  extract_lets -underBinder -merge -useContext +onlyGivenNames _ _ _
  refine live_keeps h0 ?_
  intro _ h4
  refine octozRow_keeps ?_ h4
  intro _ h5
  split
  · exact KeepsO.some (endEntry_keeps h5)
  · exact KeepsO.some (parkMove_keeps h5)

theorem stateStart_keeps {q : BitVec 6} {e : Entry} {o : TmQueued} {s : State} (h0 : Keeps b z s) : Keeps b z (stateStart q e o s) := by
  unfold stateStart
  extract_lets -underBinder -merge -useContext +onlyGivenNames s1
  have h2 : Keeps b z s1 := addCmd_keeps h0
  clear_value s1
  extract_lets -underBinder -merge -useContext +onlyGivenNames s3
  have h4 : Keeps b z s3 := tmEnqueue_keeps h2
  clear_value s3
  exact tmRetireAll_keeps h4

theorem execStateFork_keeps {q : BitVec 6} {e : Entry} {s : State} (h0 : Keeps b z s) : KeepsA b z (execStateFork q e s) := by
  unfold execStateFork
  extract_lets -underBinder -merge -useContext +onlyGivenNames _ _ _
  exact live_keeps h0 (fun _ h4 => octozRow_keeps (fun _ h5 => KeepsO.ite (fun _ => KeepsO.some (endEntry_keeps h5)) (fun _ => KeepsO.ite (fun _ => KeepsO.some (endEntry_keeps h5)) (fun _ => KeepsO.ite (fun _ => KeepsO.some (endEntry_keeps h5)) (fun _ => KeepsO.ite (fun _ => KeepsO.none) (fun _ => KeepsO.some (stateStart_keeps h5)))))) h4)

theorem execStateDrop_keeps {q : BitVec 6} {e : Entry} {s : State} (h0 : Keeps b z s) : KeepsA b z (execStateDrop q e s) := by
  unfold execStateDrop
  extract_lets -underBinder -merge -useContext +onlyGivenNames _ _
  exact live_keeps h0 (fun _ h3 => octozRow_keeps (fun _ h4 => KeepsO.ite (fun _ => KeepsO.some (endEntry_keeps h4)) (fun _ => KeepsO.ite (fun _ => KeepsO.some (endEntry_keeps h4)) (fun _ => KeepsO.ite (fun _ => KeepsO.some (endEntry_keeps h4)) (fun _ => KeepsO.ite (fun _ => KeepsO.none) (fun _ => KeepsO.some (stateStart_keeps h4)))))) h3)

theorem eccBad_keeps {m : Nat} {e : TmError} {ticket : W64} {s : State} (h0 : Keeps b z s) : Keeps b z (eccBad m e ticket s) := by
  unfold eccBad
  exact setErr_keeps (raiseEvent_keeps h0)

theorem eccPoison_keeps {m : Nat} {e : TmError} {s : State} (h0 : Keeps b z s) : Keeps b z (eccPoison m e s) := by
  unfold eccPoison
  extract_lets -underBinder -merge -useContext +onlyGivenNames _
  exact Keeps.ite (fun _ => h0) (fun _ => eccBad_keeps (Keeps.upd h0))

theorem eccGood_keeps {m : Nat} {e : TmError} {ticket : W64} {s : State} (h0 : Keeps b z s) : Keeps b z (eccGood m e ticket s) := by
  unfold eccGood
  extract_lets -underBinder -merge -useContext +onlyGivenNames _ _
  exact Keeps.ite (fun _ => raiseEvent_keeps (Keeps.upd h0)) (fun _ => Keeps.upd h0)

theorem startRows_keeps {m : BitVec 3} {pc : BitVec 5} {bank : BitVec 4} {row : Nat} {byError : Bool} {waiter : Option Nat} {log : State → State} {s : State} (h0 : ∀ y0, Keeps b z y0 → Keeps b z (log y0)) (h1 : Keeps b z s) : KeepsO b z (startRows m pc bank row byError waiter log s) := by
  unfold startRows
  extract_lets -underBinder -merge -useContext +onlyGivenNames _
  refine KeepsO.ite (fun _ => KeepsO.some (startTest_keeps h1)) (fun _ => ?_)
  extract_lets -underBinder -merge -useContext +onlyGivenNames _
  refine KeepsO.ite (fun _ => KeepsO.none) (fun _ => ?_)
  extract_lets -underBinder -merge -useContext +onlyGivenNames _ _ s5
  have h6 : Keeps b z s5 := Keeps.upd h1
  clear_value s5
  exact KeepsO.some (startTest_keeps (h0 _ h6))

theorem rowTest_keeps {m : Nat} {e : TmError} {ticket : W64} {s : State} (h0 : Keeps b z s) : Keeps b z (rowTest m e ticket s) := by
  unfold rowTest
  extract_lets -underBinder -merge -useContext +onlyGivenNames _ _ _ _ _ s5
  have h6 : Keeps b z s5 := Keeps.upd h0
  clear_value s5
  split
  · rename_i s8 h9e
    have h9 : Keeps b z s8 := (startRows_keeps (fun _ h7 => logError_keeps h7) h6 : KeepsO b z _) _ h9e
    exact h9
  · extract_lets -underBinder -merge -useContext +onlyGivenNames _
    exact retireUnit_keeps (logAppend_keeps h6)

theorem poisonGranule_keeps {g : Nat} {s : State} (h0 : Keeps b z s) : Keeps b z (poisonGranule g s) := by
  unfold poisonGranule
  exact Keeps.ite (fun _ => h0) (fun _ => Keeps.upd h0)

theorem clearGranule_keeps {g : Nat} {s : State} (h0 : Keeps b z s) : Keeps b z (clearGranule g s) := by
  unfold clearGranule
  exact Keeps.upd h0

theorem tmDoPiece_keeps {m : Nat} {found : List TmError} {o : TmQueued} {w : TmPiece × Bool × Bool × Bytes} {s : State} (h0 : Keeps b z s) : Keeps b z (tmDoPiece m found o w s) := by
  unfold tmDoPiece
  split
  · extract_lets -underBinder -merge -useContext +onlyGivenNames _ _ s2
    have h3 : Keeps b z s2 := by
      dsimp -zeta only [s2]
      split
      · exact Keeps.upd h0
      · exact h0
    clear_value s2
    extract_lets -underBinder -merge -useContext +onlyGivenNames _ s6
    have h7 : Keeps b z s6 := Keeps.upd h3 (line := fun h => filter_all h.line)
    clear_value s6
    refine Keeps.ite ?_ (fun _ => clearGranule_keeps (Keeps.upd h7 (moduleForm := fun h => memWrite_wf _ _ h.moduleForm)))
    intro _
    extract_lets -underBinder -merge -useContext +onlyGivenNames _ _ s8
    have h9 : Keeps b z s8 := poisonGranule_keeps (Keeps.upd h7)
    clear_value s8
    exact Keeps.ite (fun _ => h9) (fun _ => eccBad_keeps h9)

theorem tmSpoil_keeps {o : TmQueued} {ms : List Nat} {s : State} (h0 : Keeps b z s) : Keeps b z (tmSpoil o ms s) := by
  unfold tmSpoil
  extract_lets -underBinder -merge -useContext +onlyGivenNames _
  exact bumpFree_keeps (Keeps.foldl (fun _ _ h1 => Keeps.upd h1 (moduleForm := fun h => memWrite_wf _ _ h.moduleForm)) h0)

theorem tmExecute_keeps {m : Nat} {found : List TmError} {o : TmQueued} {s : State} (h0 : Keeps b z s) : Keeps b z (tmExecute m found o s) := by
  unfold tmExecute
  extract_lets -underBinder -merge -useContext +onlyGivenNames _ _ s1
  have h2 : Keeps b z s1 := Keeps.foldl (fun _ _ h3 => eccGood_keeps h3) h0
  clear_value s1
  extract_lets -underBinder -merge -useContext +onlyGivenNames s4
  have h5 : Keeps b z s4 := Keeps.ite (fun _ => Keeps.foldl (fun _ _ h6 => tmDoPiece_keeps h6) h2) (fun _ => h2)
  clear_value s4
  extract_lets -underBinder -merge -useContext +onlyGivenNames s7
  have h8 : Keeps b z s7 := Keeps.foldl (fun _ _ h9 => rowTest_keeps h9) h5
  clear_value s7
  extract_lets -underBinder -merge -useContext +onlyGivenNames _ s10
  have h11 : Keeps b z s10 := Keeps.ite (fun _ => tmSpoil_keeps h8) (fun _ => h8)
  clear_value s10
  extract_lets -underBinder -merge -useContext +onlyGivenNames _
  exact Keeps.upd h11

theorem execTmOpExecute_keeps {module : BitVec 3} {found : List TmError} {s : State} (h0 : Keeps b z s) : KeepsA b z (execTmOpExecute module found s) := by
  unfold execTmOpExecute
  extract_lets -underBinder -merge -useContext +onlyGivenNames _
  refine live_keeps h0 ?_
  intro _ h2
  split
  · exact h2
  · refine Keeps.ite (fun _ => h2) (fun _ => ?_)
    extract_lets -underBinder -merge -useContext +onlyGivenNames s3
    have h4 : Keeps b z s3 := tmExecute_keeps h2
    clear_value s3
    exact tmRetireAll_keeps h4

theorem takeDown_keeps {m : Nat} {cause : Byte} {s : State} (h0 : Keeps b z s) : Keeps b z (takeDown m cause s) := by
  unfold takeDown
  extract_lets -underBinder -merge -useContext +onlyGivenNames _ _ _ s3
  have h4 : Keeps b z s3 := Keeps.upd h0 (line := fun h => filter_all h.line)
  clear_value s3
  extract_lets -underBinder -merge -useContext +onlyGivenNames _ s6
  have h7 : Keeps b z s6 := setErr_keeps (raiseEvent_keeps h4)
  clear_value s6
  exact wakeSource_keeps (tmRetireAll_keeps h7)

theorem execModuleDown_keeps {module : BitVec 3} {baseDie : Bool} {s : State} (h0 : Keeps b z s) : KeepsA b z (execModuleDown module baseDie s) := by
  unfold execModuleDown
  exact live_keeps h0 (fun _ h1 => onlyIf_keeps (fun _ h2 => takeDown_keeps h2) h1)

theorem execPatrolScrub_keeps {module : BitVec 3} {found : List TmError} {s : State} (h0 : Keeps b z s) : KeepsA b z (execPatrolScrub module found s) := by
  unfold execPatrolScrub
  extract_lets -underBinder -merge -useContext +onlyGivenNames _
  refine live_keeps h0 ?_
  intro _ h1
  refine onlyIf_keeps ?_ h1
  intro _ h2
  refine Keeps.foldl ?_ h2
  intro _ _ h3
  extract_lets -underBinder -merge -useContext +onlyGivenNames _
  exact rowTest_keeps (Keeps.ite (fun _ => eccPoison_keeps h3) (fun _ => eccGood_keeps h3))

theorem execTanneryError_keeps {module : BitVec 3} {e : TmError} {s : State} (h0 : Keeps b z s) : KeepsA b z (execTanneryError module e s) := by
  unfold execTanneryError
  extract_lets -underBinder -merge -useContext +onlyGivenNames _
  exact live_keeps h0 (fun _ h1 => onlyIf_keeps (fun _ h2 => rowTest_keeps (Keeps.ite (fun _ => eccPoison_keeps h2) (fun _ => eccGood_keeps h2))) h1)

theorem armedElems_keeps {r : Armed} {o : Nat} {bs : Bytes} {a3 : Nat} {a4 : Nat} {a5 : State} (h0 : Keeps b z a5) : Keeps b z (armedElems r o bs a3 a4 a5) := by
  induction a3 generalizing r o bs a4 a5 with
  | zero =>
    unfold armedElems
    exact h0
  | succ n ih =>
    unfold armedElems
    refine ih ?_
    refine Keeps.ite (fun _ => ?_) (fun _ => bumpFree_keeps (tmWrite_keeps h0))
    extract_lets -underBinder -merge -useContext +onlyGivenNames _
    exact tmWrite_keeps h0

theorem tmStore_keeps {o : Nat} {bs : Bytes} {s : State} (h0 : Keeps b z s) : Keeps b z (tmStore o bs s) := by
  unfold tmStore
  split
  · exact tmWrite_keeps h0
  · extract_lets -underBinder -merge -useContext +onlyGivenNames _ _
    exact armedElems_keeps h0

theorem storeBytes_keeps {a : W64} {bs : Bytes} {poison : Bool} {s : State} (h0 : Keeps b z s) : Keeps b z (storeBytes a bs poison s) := by
  unfold storeBytes
  refine Keeps.ite ?_ (fun _ => Keeps.ite (fun _ => localWritePoison_keeps h0) (fun _ => localWrite_keeps h0))
  intro _
  extract_lets -underBinder -merge -useContext +onlyGivenNames s1
  have h2 : Keeps b z s1 := tmStore_keeps h0
  clear_value s1
  exact Keeps.ite (fun _ => tmMarkPoison_keeps h2) (fun _ => h2)

/-! ### Machine/Contexts.lean -/

theorem execContextSave_keeps {s : State} (h0 : Keeps b z s) : KeepsA b z (execContextSave s) := by
  unfold execContextSave
  refine live_keeps h0 ?_
  intro _ h1
  refine onlyIf_keeps ?_ h1
  intro _ h2
  split
  · exact Keeps.upd h2 (savedThread := fun h => append_all h.savedThread (by simp))
  · exact h2

theorem releaseLanes_keeps {i : BitVec 9} {s : State} (h0 : Keeps b z s) : Keeps b z (releaseLanes i s) := by
  unfold releaseLanes
  extract_lets -underBinder -merge -useContext +onlyGivenNames _
  exact Keeps.upd h0 (thread := fun h => filter_all h.thread) (slotForm := fun h => foldl_wf (fun _ _ hm => memErase_wf hm _ _) _ h.slotForm)

theorem execContextSaved_keeps {ctx : BitVec 9} {s : State} (h0 : Keeps b z s) : KeepsA b z (execContextSaved ctx s) := by
  unfold execContextSaved
  refine live_keeps h0 ?_
  intro _ h1
  split
  · refine Keeps.ite (fun _ => Keeps.upd h1 (savedThread := fun h => filter_all h.savedThread)) (fun _ => ?_)
    extract_lets -underBinder -merge -useContext +onlyGivenNames _ _ _ _ s6
    have h7 : Keeps b z s6 := releaseLanes_keeps (Keeps.upd h1 (savedThread := fun h => updWhere_all h.savedThread fun _ _ => filter_all h.thread))
    clear_value s6
    extract_lets -underBinder -merge -useContext +onlyGivenNames s8
    have h9 : Keeps b z s8 := tmWrite_keeps (bumpFree_keeps h7)
    clear_value s8
    exact raiseEvent_keeps h9
  · exact Keeps.upd h1 (savedThread := fun h => filter_all h.savedThread)
  · exact h1

theorem placeLane_keeps {i : BitVec 9} {y : Saved} {logical : Nat} {lane : Byte} {s : State}
    (hy : z.Sound → ∀ t ∈ y.threads, t.Sound) (h0 : Keeps b z s) : Keeps b z (placeLane i y logical lane s) := by
  unfold placeLane
  refine ⟨h0.pending, h0.board, h0.time, h0.fuses, fun hz => ?_⟩
  have hs := h0.sound hz
  refine { hs with thread := append_all hs.thread (map_all fun p hp => ?_), slotForm := memWrite_wf _ _ hs.slotForm }
  exact hy hz p.1 (List.mem_filter.1 (List.of_mem_zip hp).1).1

theorem restoreCtx_keeps {y : Saved} {i : BitVec 9} {lanes : List Byte} {s : State}
    (hy : z.Sound → ∀ t ∈ y.threads, t.Sound) (h0 : Keeps b z s) : Keeps b z (restoreCtx y i lanes s) := by
  unfold restoreCtx
  extract_lets -underBinder -merge -useContext +onlyGivenNames _ _ _ _ _ s5
  have h6 : Keeps b z s5 := h0.upd (savedThread := fun h => filter_all h.savedThread)
  clear_value s5
  extract_lets -underBinder -merge -useContext +onlyGivenNames s7
  have h8 : Keeps b z s7 := raiseEvent_keeps h6
  clear_value s7
  split
  · exact failCtx_keeps h8
  · exact Keeps.ite (fun _ => completeCtx_keeps (spoilDest_keeps h8))
      (fun _ => replayEarly_keeps (Keeps.foldl (fun _ _ h9 => placeLane_keeps hy h9) h8))

theorem execContextRestore_keeps {record : BitVec 9} {s : State} (h0 : Keeps b z s) : KeepsA b z (execContextRestore record s) := by
  unfold execContextRestore
  refine live_keeps h0 ?_
  intro _ h1
  refine onlyIf_keeps ?_ h1
  intro u h2
  split
  · rename_i y i hf _
    have hy : z.Sound → ∀ t ∈ y.threads, t.Sound := fun hz => (h2.sound hz).savedThread y (List.mem_of_find?_eq_some hf)
    refine Keeps.ite (fun _ => h2) (fun _ => ?_)
    refine Keeps.ite (fun _ => restoreCtx_keeps hy h2) (fun _ => ?_)
    split
    · exact h2
    · exact restoreCtx_keeps hy h2
  · exact h2

/-! ### Machine/Onesided.lean -/

theorem issueReq_keeps {owner : ReqOwner} {p : Packet} {rank : BitVec 18} {dst : W64} {s : State} (h0 : Keeps b z s) : Keeps b z (issueReq owner p rank dst s) := by
  unfold issueReq
  extract_lets -underBinder -merge -useContext +onlyGivenNames _ _ _
  exact sendStream_keeps (Keeps.upd h0)

theorem doAtomic_keeps {a : W64} {aop : Nat} {n : Nat} {operand : W64} {compare : W64} {s : State} (h0 : Keeps b z s) : KeepsP b z (doAtomic a aop n operand compare s) := by
  unfold doAtomic
  extract_lets -underBinder -merge -useContext +onlyGivenNames _ _
  exact KeepsP.mk (localWrite_keeps h0)

theorem modThread_keeps {t : Tid} {f : Thread → Thread} {s : State} (h0 : ∀ y0, y0.Sound → (f y0).Sound) (h1 : Keeps b z s) :
    Keeps b z (modThread t f s) := by
  unfold modThread
  exact h1.upd (thread := fun h => updWhere_all h.thread h0)

theorem faultWith_keeps {t : Thread} {code : Nat} {arg : Nat} {s : State} (h0 : Keeps b z s) : Keeps b z (faultWith t code arg s) := by
  unfold faultWith
  split
  · exact h0
  · exact threadFault_keeps h0

theorem faultThread_keeps {t : Thread} {code : Nat} {s : State} (h0 : Keeps b z s) : Keeps b z (faultThread t code s) := by
  unfold faultThread
  exact faultWith_keeps h0

theorem stall_keeps {t : Tid} {s : State} (h0 : Keeps b z s) : Keeps b z (stall t s) := by
  unfold stall
  exact modThread_keeps (fun _ hq => hq) h0

theorem ownView_keeps {y : Thread} {s : State} (h0 : Keeps b z s) : Keeps b z (ownView y s) := by
  unfold ownView
  exact Keeps.foldl (fun _ _ h1 => storeBytes_keeps h1) h0

theorem commitStores_keeps {y : Thread} {s : State} (h0 : Keeps b z s) : Keeps b z (commitStores y s) := by
  unfold commitStores
  exact modThread_keeps (fun _ hq => hq) (ownView_keeps h0)

theorem syncKick_keeps {i : BitVec 9} {s : State} (h0 : Keeps b z s) : Keeps b z (syncKick i s) := by
  unfold syncKick
  split
  · exact h0
  · exact Keeps.ite (fun _ => Keeps.upd h0 (thread := fun h => updWhere_all h.thread fun _ hq => stepOn_sound hq)) (fun _ => h0)

theorem storesDone_keeps {y : Thread} {end_ : Bool} {s : State} (h0 : Keeps b z s) : Keeps b z (storesDone y end_ s) := by
  unfold storesDone
  refine Keeps.ite (fun _ => faultThread_keeps h0) ?_
  intro _
  extract_lets -underBinder -merge -useContext +onlyGivenNames s1
  have h2 : Keeps b z s1 := commitStores_keeps h0
  clear_value s1
  exact Keeps.ite (fun _ => syncKick_keeps (modThread_keeps (fun _ hq => hq) h2)) (fun _ => modThread_keeps (fun _ hq => hq) h2)

theorem storeSettled_keeps {t : Tid} {missed : Bool} {s : State} (h0 : Keeps b z s) : Keeps b z (storeSettled t missed s) := by
  unfold storeSettled
  extract_lets -underBinder -merge -useContext +onlyGivenNames s1
  have h2 : Keeps b z s1 := modThread_keeps (fun _ hq => hq) h0
  clear_value s1
  split
  · exact h2
  · exact Keeps.ite (fun _ => storesDone_keeps h2) (fun _ => h2)

theorem loadSettled_keeps {r : Req} {bytes : Bytes} {poison : Bool} {s : State} (h0 : Keeps b z s) : Keeps b z (loadSettled r bytes poison s) := by
  unfold loadSettled
  split
  · exact modThread_keeps (fun _ hq => stepOn_sound (setS_sound hq)) h0
  · exact modThread_keeps (fun _ hq => stepOn_sound (setV_sound hq)) h0
  · exact modThread_keeps (fun _ hq => hq) h0
  · exact h0

theorem dropReq_keeps {n : W32} {s : State} (h0 : Keeps b z s) : Keeps b z (dropReq n s) := by
  unfold dropReq
  exact Keeps.upd h0

theorem modXfer_keeps {id : Nat} {f : Xfer → Xfer} {s : State} (h0 : Keeps b z s) : Keeps b z (modXfer id f s) := by
  unfold modXfer
  exact modCmd_keeps h0

theorem settleXfer_keeps {id : Nat} {s : State} (h0 : Keeps b z s) : Keeps b z (settleXfer id s) := by
  unfold settleXfer
  refine Keeps.ite (fun _ => h0) (fun _ => ?_)
  split
  · exact h0
  · extract_lets -underBinder -merge -useContext +onlyGivenNames g1
    dsimp -zeta only [g1]
    split
    · refine Keeps.ite (fun _ => h0) (fun _ => ?_)
      split
      · exact unmapKick_keeps (endCmd_keeps h0)
      · exact Keeps.ite (fun _ => unmapKick_keeps (endCmd_keeps h0)) (fun _ => Keeps.ite (fun _ => unmapKick_keeps (endCmd_keeps h0)) (fun _ => unmapKick_keeps (endCmd_keeps h0)))
    · refine Keeps.ite (fun _ => h0) (fun _ => ?_)
      split
      · exact unmapKick_keeps (endCmd_keeps h0)
      · exact Keeps.ite (fun _ => unmapKick_keeps (endCmd_keeps h0)) (fun _ => Keeps.ite (fun _ => unmapKick_keeps (endCmd_keeps h0)) (fun _ => unmapKick_keeps (endCmd_keeps h0)))
    · exact h0

theorem putOne_keeps {id : Nat} {x : Xfer} {s : State} (h0 : Keeps b z s) : KeepsO b z (putOne id x s) := by
  unfold putOne
  extract_lets -underBinder -merge -useContext +onlyGivenNames _ _ _
  refine KeepsO.ite (fun _ => KeepsO.none) (fun _ => ?_)
  refine KeepsO.ite (fun _ => KeepsO.none) (fun _ => ?_)
  extract_lets -underBinder -merge -useContext +onlyGivenNames _ _ _
  exact KeepsO.some (modXfer_keeps (useBus_keeps (issueReq_keeps h0)))

theorem putSignal_keeps {id : Nat} {x : Xfer} {a : W64} {s : State} (h0 : Keeps b z s) : KeepsO b z (putSignal id x a s) := by
  unfold putSignal
  split
  · exact KeepsO.none
  · exact KeepsO.ite (fun _ => KeepsO.some (modXfer_keeps (useBus_keeps (KeepsP.snd (doAtomic_keeps h0))))) (fun _ => KeepsO.none)
  · split
    · exact KeepsO.none
    · exact KeepsO.ite (fun _ => KeepsO.none) (fun _ => KeepsO.some (modXfer_keeps (issueReq_keeps h0)))

theorem getOne_keeps {id : Nat} {x : Xfer} {s : State} (h0 : Keeps b z s) : KeepsO b z (getOne id x s) := by
  unfold getOne
  extract_lets -underBinder -merge -useContext +onlyGivenNames _
  refine KeepsO.ite (fun _ => KeepsO.none) (fun _ => ?_)
  extract_lets -underBinder -merge -useContext +onlyGivenNames _
  exact KeepsO.some (modXfer_keeps (issueReq_keeps h0))

theorem xferOne_keeps {c : Cmd} {s : State} (h0 : Keeps b z s) : KeepsO b z (xferOne c s) := by
  unfold xferOne
  split
  · refine KeepsO.ite (fun _ => putOne_keeps h0) (fun _ => ?_)
    split
    · exact KeepsO.ite (fun _ => KeepsO.none) (fun _ => putSignal_keeps h0)
    · exact KeepsO.none
  · exact KeepsO.ite (fun _ => getOne_keeps h0) (fun _ => KeepsO.none)
  · exact KeepsO.none

theorem xferGo_keeps {id : Nat} {a1 : Nat} {a2 : State} (h0 : Keeps b z a2) : Keeps b z (xferGo id a1 a2) := by
  induction a1 generalizing id a2 with
  | zero =>
    unfold xferGo
    exact h0
  | succ n ih =>
    unfold xferGo
    split
    · exact h0
    · split
      · exact h0
      · rename_i s1 h2e
        have h2 : Keeps b z s1 := (xferOne_keeps h0 : KeepsO b z _) _ h2e
        exact ih h2

theorem pumpCmd_keeps {id : Nat} {s : State} (h0 : Keeps b z s) : Keeps b z (pumpCmd id s) := by
  unfold pumpCmd
  extract_lets -underBinder -merge -useContext +onlyGivenNames s1
  have h2 : Keeps b z s1 := xferGo_keeps h0
  clear_value s1
  extract_lets -underBinder -merge -useContext +onlyGivenNames s3
  have h4 : Keeps b z s3 := by
    dsimp -zeta only [s3]
    split
    · exact h2
    · exact askBus_keeps h2
  clear_value s3
  exact settleXfer_keeps h4

theorem pumpCmds_keeps {s : State} (h0 : Keeps b z s) : Keeps b z (pumpCmds s) := by
  unfold pumpCmds
  exact Keeps.foldl (fun t2 _ h1 => pumpCmd_keeps h1) h0

theorem missRequest_keeps {p : Packet} {reason : Byte} {s : State} (h0 : Keeps b z s) : Keeps b z (missRequest p reason s) := by
  unfold missRequest
  extract_lets -underBinder -merge -useContext +onlyGivenNames _ _ s2
  have h3 : Keeps b z s2 := Keeps.ite (fun _ => h0) (fun _ => raiseEvent_keeps (Keeps.upd h0))
  clear_value s2
  extract_lets -underBinder -merge -useContext +onlyGivenNames _ _ _
  exact sendStream_keeps (setRx_keeps h3)

theorem answerRead_keeps {p : Packet} {s : State} (h0 : Keeps b z s) : Keeps b z (answerRead p s) := by
  unfold answerRead
  extract_lets -underBinder -merge -useContext +onlyGivenNames _ _
  exact sendStream_keeps h0

theorem useJournal_keeps {c : Coord} {l : List (W32 × W64)} {s : State} (h0 : Keeps b z s) : Keeps b z (useJournal c l s) := by
  unfold useJournal
  exact Keeps.upd h0

theorem answerAtomic_keeps {p : Packet} {s : State} (h0 : Keeps b z s) : Keeps b z (answerAtomic p s) := by
  unfold answerAtomic
  extract_lets -underBinder -merge -useContext +onlyGivenNames s1
  have h2 : KeepsP b z s1 := doAtomic_keeps h0
  clear_value s1
  extract_lets -underBinder -merge -useContext +onlyGivenNames _ s3
  have h4 : Keeps b z s3 := useJournal_keeps (KeepsP.snd h2)
  clear_value s3
  exact sendStream_keeps h4

theorem answerAgain_keeps {p : Packet} {s0 : State} (h0 : Keeps b z s0) : Keeps b z (answerAgain p s0) := by
  unfold answerAgain
  extract_lets -underBinder -merge -useContext +onlyGivenNames _ s1
  have h2 : Keeps b z s1 := Keeps.ite (fun _ => h0) (fun _ => useJournal_keeps h0)
  clear_value s1
  extract_lets -underBinder -merge -useContext +onlyGivenNames _ _
  exact sendStream_keeps h2

theorem serveNow_keeps {p : Packet} {s : State} (h0 : Keeps b z s) : Keeps b z (serveNow p s) := by
  unfold serveNow
  exact Keeps.ite (fun _ => answerAtomic_keeps h0) (fun _ => answerRead_keeps h0)

theorem serveReq_keeps {p : Packet} {s : State} (h0 : Keeps b z s) : Keeps b z (serveReq p s) := by
  unfold serveReq
  extract_lets -underBinder -merge -useContext +onlyGivenNames _
  exact Keeps.ite (fun _ => useBus_keeps (serveNow_keeps h0)) (fun _ => askBus_keeps (Keeps.upd h0))

theorem requestAct_keeps {p : Packet} {s : State} (h0 : Keeps b z s) : Keeps b z (requestAct p s) := by
  unfold requestAct
  refine Keeps.ite (fun _ => h0) (fun _ => ?_)
  split
  · exact missRequest_keeps h0
  · exact Keeps.ite (fun _ => storeBytes_keeps h0) (fun _ => serveReq_keeps h0)

theorem requestDup_keeps {p : Packet} {s : State} (h0 : Keeps b z s) : Keeps b z (requestDup p s) := by
  unfold requestDup
  split
  · exact requestAct_keeps h0
  · exact requestAct_keeps h0
  · exact Keeps.ite (fun _ => answerAgain_keeps h0) (fun _ => h0)
  · exact h0

theorem progress_keeps {s : State} (h0 : Keeps b z s) : Keeps b z (progress s) := by
  unfold progress
  extract_lets -underBinder -merge -useContext +onlyGivenNames _ s1
  have h2 : Keeps b z s1 := Keeps.foldl (fun _ _ h3 => Keeps.ite (fun _ => chunkAct_keeps h3) (fun _ => serveReq_keeps h3)) (Keeps.upd h0)
  clear_value s1
  exact unmapKick_keeps (pumpCmds_keeps h2)

theorem requestRow_keeps {kind : Nat} {p : Packet} {s : State} (h0 : Keeps b z s) : KeepsA b z (requestRow kind p s) := by
  unfold requestRow
  exact live_keeps h0 (fun _ h1 => onlyIf_keeps (fun _ h2 => progress_keeps (niArrive_keeps (fun _ h3 => requestAct_keeps h3) (fun _ h4 => requestDup_keeps h4) h2)) h1)

theorem execPutPacket_keeps {p : Packet} {s : State} (h0 : Keeps b z s) : KeepsA b z (execPutPacket p s) := by
  unfold execPutPacket
  exact requestRow_keeps h0

theorem execGetReq_keeps {p : Packet} {s : State} (h0 : Keeps b z s) : KeepsA b z (execGetReq p s) := by
  unfold execGetReq
  exact requestRow_keeps h0

theorem execLaneStore_keeps {p : Packet} {s : State} (h0 : Keeps b z s) : KeepsA b z (execLaneStore p s) := by
  unfold execLaneStore
  exact requestRow_keeps h0

theorem execLaneLoad_keeps {p : Packet} {s : State} (h0 : Keeps b z s) : KeepsA b z (execLaneLoad p s) := by
  unfold execLaneLoad
  exact requestRow_keeps h0

theorem execAtomicReq_keeps {p : Packet} {s : State} (h0 : Keeps b z s) : KeepsA b z (execAtomicReq p s) := by
  unfold execAtomicReq
  exact requestRow_keeps h0

theorem degradeOwner_keeps {r : Req} {rerouted : Bool} {s : State} (h0 : Keeps b z s) : Keeps b z (degradeOwner r rerouted s) := by
  unfold degradeOwner
  split
  · exact modXfer_keeps h0
  · exact h0

theorem settleOwner_keeps {r : Req} {s : State} (h0 : Keeps b z s) : Keeps b z (settleOwner r s) := by
  unfold settleOwner
  split
  · exact settleXfer_keeps h0
  · exact settleXfer_keeps h0
  · exact storeSettled_keeps h0
  · exact h0

theorem readRespAct_keeps {p : Packet} {s : State} (h0 : Keeps b z s) : Keeps b z (readRespAct p s) := by
  unfold readRespAct
  split
  · exact h0
  · extract_lets -underBinder -merge -useContext +onlyGivenNames s1
    have h2 : Keeps b z s1 := degradeOwner_keeps (dropReq_keeps h0)
    clear_value s1
    split
    · extract_lets -underBinder -merge -useContext +onlyGivenNames s3
      have h4 : Keeps b z s3 := Keeps.ite (fun _ => modXfer_keeps (localWritePoison_keeps h2)) (fun _ => localWrite_keeps h2)
      clear_value s3
      exact settleXfer_keeps h4
    · exact loadSettled_keeps h2

theorem atomicRespAct_keeps {p : Packet} {s : State} (h0 : Keeps b z s) : Keeps b z (atomicRespAct p s) := by
  unfold atomicRespAct
  split
  · exact h0
  · extract_lets -underBinder -merge -useContext +onlyGivenNames _ _ _ _ s5
    have h6 : Keeps b z s5 := dropReq_keeps h0
    clear_value s5
    split
    · split
      · exact h6
      · exact Keeps.ite (fun _ => endCmd_keeps h6) (fun _ => endCmd_keeps h6)
    · exact settleXfer_keeps (modXfer_keeps h6)
    · exact h6

theorem missAckAct_keeps {p : Packet} {s : State} (h0 : Keeps b z s) : Keeps b z (missAckAct p s) := by
  unfold missAckAct
  split
  · exact h0
  · extract_lets -underBinder -merge -useContext +onlyGivenNames _ s3
    have h4 : Keeps b z s3 := degradeOwner_keeps (dropReq_keeps h0)
    clear_value s3
    split
    · split
      · exact h4
      · split
        · exact endCmd_keeps h4
        · exact settleXfer_keeps (modXfer_keeps h4)
    · exact settleXfer_keeps (modXfer_keeps h4)
    · exact storeSettled_keeps h4
    · split
      · exact h4
      · exact faultThread_keeps h4
    · split
      · exact h4
      · exact faultThread_keeps h4
    · split
      · exact h4
      · exact faultThread_keeps h4

theorem responseRow_keeps {kind : Nat} {act : Packet → State → State} {p : Packet} {s : State} (h0 : ∀ y0 y1, Keeps b z y1 → Keeps b z (act y0 y1)) (h1 : Keeps b z s) : KeepsA b z (responseRow kind act p s) := by
  unfold responseRow
  exact live_keeps h1 (fun _ h2 => onlyIf_keeps (fun _ h3 => progress_keeps (niArrive_keeps (fun _ h4 => h0 _ _ h4) (fun _ h5 => h5) h3)) h2)

theorem execReadResp_keeps {p : Packet} {s : State} (h0 : Keeps b z s) : KeepsA b z (execReadResp p s) := by
  unfold execReadResp
  exact responseRow_keeps (fun _ _ h1 => readRespAct_keeps h1) h0

theorem execAtomicResp_keeps {p : Packet} {s : State} (h0 : Keeps b z s) : KeepsA b z (execAtomicResp p s) := by
  unfold execAtomicResp
  exact responseRow_keeps (fun _ _ h1 => atomicRespAct_keeps h1) h0

theorem execMissAck_keeps {p : Packet} {s : State} (h0 : Keeps b z s) : KeepsA b z (execMissAck p s) := by
  unfold execMissAck
  exact responseRow_keeps (fun _ _ h1 => missAckAct_keeps h1) h0

theorem markerAct_keeps {p : Packet} {s : State} (h0 : Keeps b z s) : Keeps b z (markerAct p s) := by
  unfold markerAct
  refine Keeps.ite (fun _ => ?_) (fun _ => sendStream_keeps h0)
  extract_lets -underBinder -merge -useContext +onlyGivenNames _ _ s2
  have h3 : Keeps b z s2 := Keeps.upd h0
  clear_value s2
  exact Keeps.ite (fun _ => roundOver_keeps h3) (fun _ => h3)

theorem execDrainMarker_keeps {p : Packet} {s : State} (h0 : Keeps b z s) : KeepsA b z (execDrainMarker p s) := by
  unfold execDrainMarker
  exact live_keeps h0 (fun _ h1 => onlyIf_keeps (fun _ h2 => niArrive_keeps (fun _ h3 => markerAct_keeps h3) (fun _ h4 => h4) h2) h1)

theorem ackedReq_keeps {p : Packet} {s : State} (h0 : Keeps b z s) : Keeps b z (ackedReq p s) := by
  unfold ackedReq
  split
  · exact h0
  · exact settleOwner_keeps (degradeOwner_keeps (dropReq_keeps h0))

theorem ackAct_keeps {p : Packet} {s : State} (h0 : Keeps b z s) : Keeps b z (ackAct p s) := by
  unfold ackAct
  extract_lets -underBinder -merge -useContext +onlyGivenNames _ _ _ _ s1
  have h2 : Keeps b z s1 := setTx_keeps h0
  clear_value s1
  extract_lets -underBinder -merge -useContext +onlyGivenNames s3
  have h4 : Keeps b z s3 := Keeps.ite (fun _ => echoRates_keeps h2) (fun _ => h2)
  clear_value s3
  extract_lets -underBinder -merge -useContext +onlyGivenNames s5
  have h6 : Keeps b z s5 := Keeps.foldl (fun _ _ h7 => ackedReq_keeps h7) h4
  clear_value s5
  extract_lets -underBinder -merge -useContext +onlyGivenNames _ _ s8
  have h9 : Keeps b z s8 := Keeps.ite (fun _ => h6) (fun _ => setRx_keeps h6)
  clear_value s8
  extract_lets -underBinder -merge -useContext +onlyGivenNames s10
  have h11 : Keeps b z s10 := Keeps.ite (fun _ => sendAck_keeps h9) (fun _ => h9)
  clear_value s10
  exact pumpColls_keeps (pumpCmds_keeps (txPump_keeps h11))

theorem execE2eAck_keeps {p : Packet} {s : State} (h0 : Keeps b z s) : KeepsA b z (execE2eAck p s) := by
  unfold execE2eAck
  exact live_keeps h0 (fun _ h1 => onlyIf_keeps (fun _ h2 => ackAct_keeps h2) h1)

theorem execE2eAckSend_keeps {source : Coord} {s : State} (h0 : Keeps b z s) : KeepsA b z (execE2eAckSend source s) := by
  unfold execE2eAckSend
  exact live_keeps h0 (fun _ h1 => onlyIf_keeps (fun _ h2 => sendAck_keeps h2) h1)

theorem busyAct_keeps {p : Packet} {s : State} (h0 : Keeps b z s) : Keeps b z (busyAct p s) := by
  unfold busyAct
  split
  · exact h0
  · exact Keeps.ite (fun _ => h0) (fun _ => Keeps.upd h0)

theorem execE2eBusy_keeps {p : Packet} {s : State} (h0 : Keeps b z s) : KeepsA b z (execE2eBusy p s) := by
  unfold execE2eBusy
  exact live_keeps h0 (fun _ h1 => onlyIf_keeps (fun _ h2 => busyAct_keeps h2) h1)

theorem sendAgain_keeps {p : Packet} {s : State} (h0 : Keeps b z s) : Keeps b z (sendAgain p s) := by
  unfold sendAgain
  exact inject_keeps h0

theorem execBusyResend_keeps {request : W32} {s : State} (h0 : Keeps b z s) : KeepsA b z (execBusyResend request s) := by
  unfold execBusyResend
  refine live_keeps h0 ?_
  intro _ h1
  refine onlyIf_keeps ?_ h1
  intro _ h2
  extract_lets -underBinder -merge -useContext +onlyGivenNames _ s3
  have h4 : Keeps b z s3 := Keeps.upd h2
  clear_value s3
  split
  · exact h4
  · exact sendAgain_keeps h4

theorem markReissued_keeps {n : W32} {s : State} (h0 : Keeps b z s) : Keeps b z (markReissued n s) := by
  unfold markReissued
  extract_lets -underBinder -merge -useContext +onlyGivenNames _ s1
  have h2 : Keeps b z s1 := Keeps.upd h0
  clear_value s1
  split
  · exact h2
  · exact degradeOwner_keeps h2

theorem rereqAct_keeps {p : Packet} {s : State} (h0 : Keeps b z s) : Keeps b z (rereqAct p s) := by
  unfold rereqAct
  extract_lets -underBinder -merge -useContext +onlyGivenNames _
  split
  · exact degradeRouting_keeps h0
  · exact Keeps.ite (fun _ => sendAgain_keeps (degradeRouting_keeps h0)) (fun _ => Keeps.ite (fun _ => markReissued_keeps (sendAgain_keeps (degradeRouting_keeps h0))) (fun _ => degradeRouting_keeps h0))

theorem execE2eRereq_keeps {p : Packet} {s : State} (h0 : Keeps b z s) : KeepsA b z (execE2eRereq p s) := by
  unfold execE2eRereq
  exact live_keeps h0 (fun _ h1 => onlyIf_keeps (fun _ h2 => rereqAct_keeps h2) h1)

theorem execRereqTimeout_keeps {source : Coord} {s : State} (h0 : Keeps b z s) : KeepsA b z (execRereqTimeout source s) := by
  unfold execRereqTimeout
  refine live_keeps h0 ?_
  intro _ h1
  extract_lets -underBinder -merge -useContext +onlyGivenNames _
  split
  · exact h1
  · exact Keeps.ite (fun _ => degradeRouting_keeps (sendRaw_keeps (setRx_keeps h1))) (fun _ => h1)

theorem unknownAtomic_keeps {r : Req} {s : State} (h0 : Keeps b z s) : Keeps b z (unknownAtomic r s) := by
  unfold unknownAtomic
  extract_lets -underBinder -merge -useContext +onlyGivenNames s1
  have h2 : Keeps b z s1 := dropReq_keeps h0
  clear_value s1
  split
  · split
    · exact h2
    · exact endCmd_keeps h2
  · exact settleXfer_keeps (modXfer_keeps h2)
  · exact h2

theorem execReissueTimeout_keeps {request : W32} {s : State} (h0 : Keeps b z s) : KeepsA b z (execReissueTimeout request s) := by
  unfold execReissueTimeout
  refine live_keeps h0 ?_
  intro _ h1
  split
  · exact h1
  · exact Keeps.ite (fun _ => h1) (fun _ => Keeps.ite (fun _ => Keeps.ite (fun _ => unknownAtomic_keeps h1) (fun _ => h1)) (fun _ => markReissued_keeps (degradeRouting_keeps (sendAgain_keeps h1))))

theorem releaseGo_keeps {c : Coord} {a1 : Nat} {a2 : State} (h0 : Keeps b z a2) : Keeps b z (releaseGo c a1 a2) := by
  induction a1 generalizing c a2 with
  | zero =>
    unfold releaseGo
    exact h0
  | succ n ih =>
    unfold releaseGo
    dsimp only
    split
    · exact h0
    · exact ih (Keeps.ite (fun _ => requestAct_keeps (setRx_keeps h0)) fun _ =>
        Keeps.ite (fun _ => markerAct_keeps (setRx_keeps h0)) fun _ => setRx_keeps h0)

theorem execFlagRelease_keeps {source : Coord} {s : State} (h0 : Keeps b z s) : KeepsA b z (execFlagRelease source s) := by
  unfold execFlagRelease
  refine live_keeps h0 ?_
  intro _ h1
  refine onlyIf_keeps ?_ h1
  intro _ h2
  extract_lets -underBinder -merge -useContext +onlyGivenNames s3
  have h4 : Keeps b z s3 := releaseGo_keeps h2
  clear_value s3
  exact progress_keeps (Keeps.ite (fun _ => sendAck_keeps h4) (fun _ => h4))

theorem modRate_keeps {k : RateClass} {f : Rate → Rate} {s : State} (h0 : Keeps b z s) : Keeps b z (modRate k f s) := by
  unfold modRate
  exact Keeps.upd h0 (rates := fun h => (modAt_length _ _ _).trans h.rates)

theorem execRateRise_keeps {cls : RateClass} {s : State} (h0 : Keeps b z s) : KeepsA b z (execRateRise cls s) := by
  unfold execRateRise
  exact live_keeps h0 (fun _ h1 => onlyIf_keeps (fun _ h2 => modRate_keeps h2) h1)

theorem execRateReset_keeps {cls : RateClass} {s : State} (h0 : Keeps b z s) : KeepsA b z (execRateReset cls s) := by
  unfold execRateReset
  exact live_keeps h0 (fun _ h1 => onlyIf_keeps (fun _ h2 => modRate_keeps h2) h1)

theorem copyGo_keeps {put : Bool} {a1 : Nat} {a2 : W64} {a3 : W64} {a4 : Nat} {a5 : State} (h0 : Keeps b z a5) : KeepsP b z (copyGo put a1 a2 a3 a4 a5) := by
  induction a1 generalizing put a2 a3 a4 a5 with
  | zero =>
    unfold copyGo
    exact KeepsP.mk h0
  | succ n ih =>
    unfold copyGo
    refine KeepsP.ite (fun _ => KeepsP.mk h0) (fun _ => ?_)
    extract_lets -underBinder -merge -useContext +onlyGivenNames _ _ _ s4
    have h5 : Keeps b z s4 := Keeps.ite (fun _ => storeBytes_keeps h0) (fun _ => Keeps.ite (fun _ => localWritePoison_keeps h0) (fun _ => localWrite_keeps h0))
    clear_value s4
    extract_lets -underBinder -merge -useContext +onlyGivenNames s6
    have h7 : KeepsP b z s6 := ih h5
    clear_value s6
    exact KeepsP.mk (KeepsP.snd h7)

theorem startXfer_keeps {q : BitVec 6} {e : Entry} {c : Comm} {get : Bool} {s : State} (h0 : Keeps b z s) : Keeps b z (startXfer q e c get s) := by
  unfold startXfer
  extract_lets -underBinder -merge -useContext +onlyGivenNames _ _ _ g4
  dsimp -zeta only [g4]
  refine Keeps.ite (fun _ => postCompletion_keeps h0) (fun _ => ?_)
  split
  · exact postCompletion_keeps h0
  · extract_lets -underBinder -merge -useContext +onlyGivenNames _
    refine Keeps.ite (fun _ => ?_) (fun _ => pumpCmd_keeps (addCmd_keeps h0))
    extract_lets -underBinder -merge -useContext +onlyGivenNames s6
    have h7 : KeepsP b z s6 := copyGo_keeps h0
    clear_value s6
    extract_lets -underBinder -merge -useContext +onlyGivenNames _
    exact pumpCmd_keeps (addCmd_keeps (KeepsP.snd h7))

theorem xferRow_keeps {q : BitVec 6} {e : Entry} {get : Bool} {s : State} (h0 : Keeps b z s) : Keeps b z (xferRow q e get s) := by
  unfold xferRow
  refine octozRead_keeps ?_ h0
  intro _ h1
  split
  · exact KeepsO.some (endEntry_keeps h1)
  · split
    · exact KeepsO.some (endEntry_keeps h1)
    · exact KeepsO.some (startXfer_keeps h1)

theorem execPut_keeps {q : BitVec 6} {e : Entry} {s : State} (h0 : Keeps b z s) : KeepsA b z (execPut q e s) := by
  unfold execPut
  exact live_keeps h0 (fun _ h1 => xferRow_keeps h1)

theorem execGet_keeps {q : BitVec 6} {e : Entry} {s : State} (h0 : Keeps b z s) : KeepsA b z (execGet q e s) := by
  unfold execGet
  exact live_keeps h0 (fun _ h1 => xferRow_keeps h1)

theorem startAtomic_keeps {q : BitVec 6} {e : Entry} {c : Comm} {s : State} (h0 : Keeps b z s) : KeepsO b z (startAtomic q e c s) := by
  unfold startAtomic
  extract_lets -underBinder -merge -useContext +onlyGivenNames _ _ _ _ _ _
  refine KeepsO.ite (fun _ => KeepsO.some (postCompletion_keeps h0)) (fun _ => ?_)
  refine KeepsO.ite (fun _ => ?_) (fun _ => ?_)
  · extract_lets -underBinder -merge -useContext +onlyGivenNames s7
    have h8 : KeepsP b z s7 := doAtomic_keeps h0
    clear_value s7
    exact KeepsO.some (endResult_keeps (KeepsP.snd h8))
  · extract_lets -underBinder -merge -useContext +onlyGivenNames _
    refine KeepsO.ite (fun _ => KeepsO.none) (fun _ => ?_)
    extract_lets -underBinder -merge -useContext +onlyGivenNames _ _
    exact KeepsO.some (issueReq_keeps (addCmd_keeps h0))

theorem execAtomic_keeps {q : BitVec 6} {e : Entry} {s : State} (h0 : Keeps b z s) : KeepsA b z (execAtomic q e s) := by
  unfold execAtomic
  refine live_keeps h0 ?_
  intro _ h1
  refine octozRead_keeps ?_ h1
  intro _ h2
  split
  · exact KeepsO.some (endEntry_keeps h2)
  · split
    · exact KeepsO.some (endEntry_keeps h2)
    · exact startAtomic_keeps h2

theorem execPcieReadCompletion_keeps {tag : BitVec 10} {res : ReadResult} {data : Bytes} {s : State} (h0 : Keeps b z s) : KeepsA b z (execPcieReadCompletion tag res data s) := by
  unfold execPcieReadCompletion
  exact live_keeps h0 (fun _ h1 => progress_keeps (readDone_keeps h1))

/-! ### Machine/Rein.lean -/

theorem runRein_keeps {c : Comm} {x : Ctx} {s : State} (h0 : Keeps b z s) : Keeps b z (runRein c x s) := by
  unfold runRein
  extract_lets -underBinder -merge -useContext +onlyGivenNames _ _
  exact advance_keeps (grantAll_keeps (putCtx_keeps h0))

theorem startRein_keeps {c : Comm} {x : Ctx} {s : State} (h0 : Keeps b z s) : KeepsO b z (startRein c x s) := by
  unfold startRein
  refine KeepsO.ite (fun _ => KeepsO.none) (fun _ => ?_)
  split
  · extract_lets -underBinder -merge -useContext +onlyGivenNames s1
    have h2 : KeepsP b z s1 := bindCtx_keeps (Keeps.upd h0)
    clear_value s1
    extract_lets -underBinder -merge -useContext +onlyGivenNames _ _
    exact KeepsO.some (launch_keeps (fun _ _ h5 => runRein_keeps h5) (putCtx_keeps (KeepsP.snd h2)))
  · exact KeepsO.none

theorem reinRow_keeps {q : BitVec 6} {e : Entry} {route : Bool} {s : State} (h0 : Keeps b z s) : Keeps b z (reinRow q e route s) := by
  unfold reinRow
  refine octozRead_keeps ?_ h0
  intro _ h1
  split
  · exact KeepsO.some (endEntry_keeps h1)
  · extract_lets -underBinder -merge -useContext +onlyGivenNames _
    split
    · exact KeepsO.some (endEntry_keeps h1)
    · exact KeepsO.ite (fun _ => KeepsO.none) (fun _ => KeepsO.ite (fun _ => KeepsO.some (endEntry_keeps h1)) (fun _ => startRein_keeps h1))

theorem execRouteDispatch_keeps {q : BitVec 6} {e : Entry} {s : State} (h0 : Keeps b z s) : KeepsA b z (execRouteDispatch q e s) := by
  unfold execRouteDispatch
  exact live_keeps h0 (fun _ h1 => reinRow_keeps h1)

theorem execCombineAllreduce_keeps {q : BitVec 6} {e : Entry} {s : State} (h0 : Keeps b z s) : KeepsA b z (execCombineAllreduce q e s) := by
  unfold execCombineAllreduce
  exact live_keeps h0 (fun _ h1 => reinRow_keeps h1)

/-! ### Machine/Recovery.lean -/

theorem moveSlots_keeps {src : Byte} {dst : Byte} {base : Nat} {base2 : Nat} {n : Nat} {s : State} (h0 : Keeps b z s) : Keeps b z (moveSlots src dst base base2 n s) := by
  unfold moveSlots
  extract_lets -underBinder -merge -useContext +onlyGivenNames _ _
  exact Keeps.upd h0 (slotForm := fun h => memWrite_wf _ _ (memErase_wf h.slotForm _ _))

theorem moveGroup_keeps {src : Byte} {dst : Byte} {g : BitVec 9 × Byte} {s : State} (h0 : Keeps b z s) : KeepsO b z (moveGroup src dst g s) := by
  unfold moveGroup
  extract_lets -underBinder -merge -useContext +onlyGivenNames _ _ _ _ _
  split
  · exact KeepsO.none
  · refine KeepsO.ite (fun _ => KeepsO.none) ?_
    intro _
    extract_lets -underBinder -merge -useContext +onlyGivenNames _ _ _ s3
    have h4 : Keeps b z s3 := Keeps.upd h0 (thread := fun h => updWhere_all h.thread fun _ hq => hq)
    clear_value s3
    exact KeepsO.some (modCtx_keeps (Keeps.ite (fun _ => h4) (fun _ => moveSlots_keeps h4)))

theorem moveAll_keeps {src : Byte} {dst : Byte} {s : State} (h0 : Keeps b z s) : KeepsO b z (moveAll src dst s) := by
  unfold moveAll
  exact KeepsO.foldl (fun t2 _ h1 => KeepsO.bindS h1 (fun s3 h4 => moveGroup_keeps h4)) (KeepsO.some h0)

theorem moveLane_keeps {p : Byte} {s : State} (h0 : Keeps b z s) : KeepsO b z (moveLane p s) := by
  unfold moveLane
  split
  · exact KeepsO.mapS (moveAll_keeps h0) (fun s1 h2 => Keeps.upd h2)
  · exact KeepsO.mapS (KeepsO.findSome (fun _ => moveAll_keeps h0)) (fun s3 h4 => Keeps.upd h4)

theorem laneWordLost_keeps {i : BitVec 9} {s : State} (h0 : Keeps b z s) : Keeps b z (laneWordLost i s) := by
  unfold laneWordLost
  split
  · exact h0
  · split
    · exact h0
    · extract_lets -underBinder -merge -useContext +onlyGivenNames _
      exact completeCtx_keeps (spoilDest_keeps (raiseNotice_keeps h0))

theorem laneStuck_keeps {p : Byte} {s : State} (h0 : Keeps b z s) : Keeps b z (laneStuck p s) := by
  unfold laneStuck
  extract_lets -underBinder -merge -useContext +onlyGivenNames s1
  have h2 : Keeps b z s1 := by
    refine Keeps.foldl (fun t4 _ h3 => ?_) h0
    split
    · exact h3
    · exact faultThread_keeps h3
  clear_value s1
  exact Keeps.upd h2

theorem clearLane_keeps {p : Byte} {s : State} (h0 : Keeps b z s) : Keeps b z (clearLane p s) := by
  unfold clearLane
  refine Keeps.ite (fun _ => Keeps.upd h0) (fun _ => ?_)
  split
  · rename_i s1 h2e
    have h2 : Keeps b z s1 := (moveLane_keeps h0 : KeepsO b z _) _ h2e
    exact h2
  · exact laneStuck_keeps h0

theorem execLaneError_keeps {lane : Byte} {kind : LaneErrorKind} {s : State} (h0 : Keeps b z s) : KeepsA b z (execLaneError lane kind s) := by
  unfold execLaneError
  refine live_keeps h0 ?_
  intro _ h1
  refine onlyIf_keeps ?_ h1
  intro _ h2
  extract_lets -underBinder -merge -useContext +onlyGivenNames _ s3
  have h4 : Keeps b z s3 := startTest_keeps (logError_keeps (setErr_keeps h2))
  clear_value s3
  extract_lets -underBinder -merge -useContext +onlyGivenNames _ s5
  have h6 : Keeps b z s5 := Keeps.ite (fun _ => Keeps.foldl (fun _ _ h7 => laneWordLost_keeps h7) (bumpFree_keeps h4)) (fun _ => h4)
  clear_value s5
  exact clearLane_keeps h6

theorem copyBank_keeps {bb : Nat} {sp : Nat} {s : State} (h0 : Keeps b z s) : Keeps b z (copyBank bb sp s) := by
  unfold copyBank
  extract_lets -underBinder -merge -useContext +onlyGivenNames _ _ _ _ _ _
  exact Keeps.upd h0 (stagingForm := fun h => foldl_wf (fun _ _ hm => memPut_wf hm _ _) _ (filter_wf _ h.stagingForm))

theorem bankError_keeps {bb : BitVec 4} {s : State} (h0 : Keeps b z s) : Keeps b z (bankError bb s) := by
  unfold bankError
  extract_lets -underBinder -merge -useContext +onlyGivenNames _
  split
  · exact copyBank_keeps (startTest_keeps (logError_keeps h0))
  · exact Keeps.ite (fun _ => Keeps.upd h0) (fun _ => h0)

theorem bankNext_keeps {s : State} (h0 : Keeps b z s) : Keeps b z (bankNext s) := by
  unfold bankNext
  split
  · exact h0
  · exact Keeps.ite (fun _ => h0) (fun _ => bankError_keeps (Keeps.upd h0))

theorem octozWord_keeps {s : State} (h0 : Keeps b z s) : Keeps b z (octozWord s) := by
  unfold octozWord
  extract_lets -underBinder -merge -useContext +onlyGivenNames s1
  have h2 : Keeps b z s1 := bumpFree_keeps h0
  clear_value s1
  refine Keeps.ite (fun _ => ?_) (fun _ => askReset_keeps h2)
  split
  · exact h2
  · exact Keeps.upd h2

theorem execStagingError_keeps {bank : BitVec 4} {word : W32} {uncorrectable : Bool} {s : State} (h0 : Keeps b z s) : KeepsA b z (execStagingError bank word uncorrectable s) := by
  unfold execStagingError
  refine live_keeps h0 ?_
  intro _ h1
  refine onlyIf_keeps ?_ h1
  intro _ h2
  extract_lets -underBinder -merge -useContext +onlyGivenNames _ s4
  have h5 : Keeps b z s4 := setErr_keeps h2
  clear_value s4
  extract_lets -underBinder -merge -useContext +onlyGivenNames s6
  have h7 : Keeps b z s6 := Keeps.ite (fun _ => Keeps.ite (fun _ => stgMarkPoison_keeps h5) (fun _ => octozWord_keeps h5)) (fun _ => h5)
  clear_value s6
  exact bankError_keeps h7

theorem degradeAll_keeps {s : State} (h0 : Keeps b z s) : Keeps b z (degradeAll s) := by
  unfold degradeAll
  exact Keeps.upd h0 (savedThread := fun h => map_all fun y hy => h.savedThread y hy)

theorem failover_keeps {cause : Nat} {s : State} (h0 : Keeps b z s) : Keeps b z (failover cause s) := by
  unfold failover
  refine Keeps.ite (fun _ => askReset_keeps h0) (fun _ => ?_)
  extract_lets -underBinder -merge -useContext +onlyGivenNames _ _ _
  refine Keeps.ite (fun _ => ?_) (fun _ => ?_)
  · extract_lets -underBinder -merge -useContext +onlyGivenNames _ s5
    have h6 : Keeps b z s5 := degradeAll_keeps (bumpFree_keeps (Keeps.upd h0))
    clear_value s5
    extract_lets -underBinder -merge -useContext +onlyGivenNames s7
    have h8 : Keeps b z s7 := setErr_keeps (raiseEvent_keeps h6)
    clear_value s7
    exact startTest_keeps (logError_keeps (logAppend_keeps h8))
  · extract_lets -underBinder -merge -useContext +onlyGivenNames _ s9
    have h10 : Keeps b z s9 := Keeps.upd h0
    clear_value s9
    exact Keeps.ite (fun _ => selectSlot_keeps h10) (fun _ => setPhase_keeps h10)

theorem execLockstepMismatch_keeps {s : State} (h0 : Keeps b z s) : KeepsA b z (execLockstepMismatch s) := by
  unfold execLockstepMismatch
  exact live_keeps h0 (fun _ h1 => onlyIf_keeps (fun _ h2 => failover_keeps h2) h1)

theorem execTreeWatchdog_keeps {s : State} (h0 : Keeps b z s) : KeepsA b z (execTreeWatchdog s) := by
  unfold execTreeWatchdog
  exact live_keeps h0 (fun _ h1 => onlyIf_keeps (fun _ h2 => failover_keeps h2) h1)

theorem rowSpared_keeps {m : BitVec 3} {pc : BitVec 5} {bank : BitVec 4} {s : State} {row : Nat} (h0 : Keeps b z s) : Keeps b z (rowSpared m pc bank s row) := by
  unfold rowSpared
  extract_lets -underBinder -merge -useContext +onlyGivenNames _ s1
  have h2 : Keeps b z s1 := Keeps.upd h0
  clear_value s1
  extract_lets -underBinder -merge -useContext +onlyGivenNames _ _
  exact raiseEvent_keeps (logAppend_keeps h2)

theorem rowsDone_keeps {m : BitVec 3} {pc : BitVec 5} {bank : BitVec 4} {row : Nat} {stay : Bool} {failed : Bool} {s : State} (h0 : Keeps b z s) : Keeps b z (rowsDone m pc bank row stay failed s) := by
  unfold rowsDone
  extract_lets -underBinder -merge -useContext +onlyGivenNames _ _ s1
  have h2 : Keeps b z s1 := Keeps.upd h0
  clear_value s1
  refine Keeps.ite (fun _ => h2) ?_
  intro _
  extract_lets -underBinder -merge -useContext +onlyGivenNames _ _
  exact Keeps.foldl (fun _ _ h3 => rowSpared_keeps h3) (bumpFree_keeps h2)

theorem unitPassed_keeps {t : UnitTest} {s0 : State} (h0 : Keeps b z s0) : Keeps b z (unitPassed t s0) := by
  unfold unitPassed
  extract_lets -underBinder -merge -useContext +onlyGivenNames s1
  have h2 : Keeps b z s1 := Keeps.ite (fun _ => reinstateUnit_keeps h0) (fun _ => h0)
  clear_value s1
  split
  · exact Keeps.upd h2
  · exact Keeps.ite (fun _ => modPort_keeps (fun _ hq => hq) h2) (fun _ => h2)
  · exact rowsDone_keeps h2
  · exact Keeps.ite (fun _ => h2) (fun _ => Keeps.upd h2)
  · exact bankNext_keeps (Keeps.upd h2)

theorem unitRetired_keeps {t : UnitTest} {verdict : Nat} {s0 : State} (h0 : Keeps b z s0) : Keeps b z (unitRetired t verdict s0) := by
  unfold unitRetired
  extract_lets -underBinder -merge -useContext +onlyGivenNames s1
  have h2 : Keeps b z s1 := by
    dsimp -zeta only [s1]
    split
    · exact rowsDone_keeps h0
    · exact h0
  clear_value s1
  extract_lets -underBinder -merge -useContext +onlyGivenNames _ s4
  have h5 : Keeps b z s4 := retireUnit_keeps h2
  clear_value s4
  extract_lets -underBinder -merge -useContext +onlyGivenNames s6
  have h7 : Keeps b z s6 := by
    dsimp -zeta only [s6]
    split
    · exact bankNext_keeps h5
    · exact h5
  clear_value s6
  exact Keeps.ite (fun _ => askReset_keeps h7) (fun _ => h7)

theorem testAnswers_keeps {t : UnitTest} {pass : Bool} {s : State} (h0 : Keeps b z s) : Keeps b z (testAnswers t pass s) := by
  unfold testAnswers
  refine Keeps.foldl ?_ h0
  intro _ _ h1
  split
  · exact h1
  · exact endHeld_keeps h1

theorem execTargetedSelftestEnd_keeps {unit : TestUnit} {pass : Bool} {s : State} (h0 : Keeps b z s) : KeepsA b z (execTargetedSelftestEnd unit pass s) := by
  unfold execTargetedSelftestEnd
  refine live_keeps h0 ?_
  intro _ h1
  refine onlyIf_keeps ?_ h1
  intro _ h2
  split
  · exact h2
  · extract_lets -underBinder -merge -useContext +onlyGivenNames _ _ _ s5
    have h6 : Keeps b z s5 := Keeps.upd h2
    clear_value s5
    extract_lets -underBinder -merge -useContext +onlyGivenNames _ _ _ _ s7
    have h8 : Keeps b z s7 := Keeps.ite (fun _ => logAppend_keeps h6) (fun _ => h6)
    clear_value s7
    extract_lets -underBinder -merge -useContext +onlyGivenNames s9
    have h10 : Keeps b z s9 := Keeps.ite (fun _ => raiseEvent_keeps h8) (fun _ => h8)
    clear_value s9
    extract_lets -underBinder -merge -useContext +onlyGivenNames s11
    have h12 : Keeps b z s11 := testAnswers_keeps h10
    clear_value s11
    exact Keeps.ite (fun _ => Keeps.ite (fun _ => unitRetired_keeps h12) (fun _ => Keeps.ite (fun _ => h12) (fun _ => unitRetired_keeps h12))) (fun _ => unitPassed_keeps h12)

theorem beginSelftest_keeps {u : TestUnit} {id : Nat} {s : State} (h0 : Keeps b z s) : KeepsO b z (beginSelftest u id s) := by
  unfold beginSelftest
  extract_lets -underBinder -merge -useContext +onlyGivenNames g1
  dsimp -zeta only [g1]
  refine KeepsO.ite (fun _ => KeepsO.some (startTest_keeps h0)) (fun _ => ?_)
  split
  · exact KeepsO.ite (fun _ => KeepsO.some (startTest_keeps (clearLane_keeps h0))) (fun _ => KeepsO.bindS (moveLane_keeps h0) (fun s2 h3 => KeepsO.some (startTest_keeps h3)))
  · extract_lets -underBinder -merge -useContext +onlyGivenNames _ _ _
    exact KeepsO.ite (fun _ => KeepsO.none) (fun _ => KeepsO.ite (fun _ => KeepsO.some (startTest_keeps h0)) (fun _ => KeepsO.ite (fun _ => KeepsO.some (startTest_keeps (linkDown_keeps h0))) (fun _ => KeepsO.none)))
  · refine KeepsO.ite (fun _ => KeepsO.none) (fun _ => ?_)
    extract_lets -underBinder -merge -useContext +onlyGivenNames _
    exact startRows_keeps (fun _ h8 => h8) h0
  · exact KeepsO.ite (fun _ => KeepsO.none) (fun _ => KeepsO.some (startTest_keeps (Keeps.upd h0)))
  · refine KeepsO.ite (fun _ => KeepsO.some (startTest_keeps (Keeps.upd h0))) (fun _ => ?_)
    split
    · exact KeepsO.none
    · exact KeepsO.some (startTest_keeps (copyBank_keeps h0))

theorem forgetReq_keeps {n : W32} {s : State} (h0 : Keeps b z s) : Keeps b z (forgetReq n s) := by
  unfold forgetReq
  exact Keeps.upd h0

theorem forgetCmd_keeps {id : Nat} {s : State} (h0 : Keeps b z s) : Keeps b z (forgetCmd id s) := by
  unfold forgetCmd
  exact Keeps.foldl (fun t2 _ h1 => forgetReq_keeps h1) h0

theorem lostCollectives_keeps {lost : List Coord} {s : State} (h0 : Keeps b z s) : Keeps b z (lostCollectives lost s) := by
  unfold lostCollectives
  extract_lets -underBinder -merge -useContext +onlyGivenNames s1
  have h2 : Keeps b z s1 := by
    refine Keeps.foldl (fun t4 _ h3 => ?_) h0
    split
    · exact h3
    · split
      · exact h3
      · split
        · exact h3
        · exact failCtx_keeps h3
  clear_value s1
  refine Keeps.foldl (fun t6 _ h5 => ?_) h2
  split
  · exact h5
  · split
    · exact h5
    · exact markSaved_keeps h5

theorem lostCmd_keeps {c : Coord} {s : State} {m : Cmd} (h0 : Keeps b z s) : Keeps b z (lostCmd c s m) := by
  unfold lostCmd
  extract_lets -underBinder -merge -useContext +onlyGivenNames g1
  dsimp -zeta only [g1]
  split
  · exact Keeps.ite (fun _ => unmapKick_keeps (endCmd_keeps (forgetCmd_keeps h0))) (fun _ => h0)
  · extract_lets -underBinder -merge -useContext +onlyGivenNames _ _
    refine Keeps.ite (fun _ => unmapKick_keeps (endCmd_keeps (forgetCmd_keeps h0))) (fun _ => ?_)
    refine Keeps.ite (fun _ => ?_) (fun _ => h0)
    extract_lets -underBinder -merge -useContext +onlyGivenNames s4
    have h5 : Keeps b z s4 := Keeps.foldl (fun t7 _ h6 => forgetReq_keeps h6) h0
    clear_value s4
    exact settleXfer_keeps (modXfer_keeps h5)
  · exact Keeps.ite (fun _ => endCmd_keeps (forgetCmd_keeps h0)) (fun _ => h0)
  · exact h0

theorem lostRounds_keeps {c : Coord} {s : State} (h0 : Keeps b z s) : Keeps b z (lostRounds c s) := by
  unfold lostRounds
  extract_lets -underBinder -merge -useContext +onlyGivenNames _ _ s2
  have h3 : Keeps b z s2 := Keeps.upd h0
  clear_value s2
  exact Keeps.foldl (fun t5 _ h4 => roundOver_keeps h4) h3

theorem addLost_keeps {c : Coord} {s : State} (h0 : Keeps b z s) : Keeps b z (addLost c s) := by
  unfold addLost
  extract_lets -underBinder -merge -useContext +onlyGivenNames s1
  have h2 : Keeps b z s1 := degradeRouting_keeps h0
  clear_value s1
  extract_lets -underBinder -merge -useContext +onlyGivenNames _ s3
  have h4 : Keeps b z s3 := Keeps.ite (fun _ => setErr_keeps (Keeps.upd h2)) (fun _ => h2)
  clear_value s3
  extract_lets -underBinder -merge -useContext +onlyGivenNames s5
  have h6 : Keeps b z s5 := lostCollectives_keeps h4
  clear_value s5
  exact lostRounds_keeps (Keeps.foldl (fun t8 _ h7 => lostCmd_keeps h7) h6)

theorem probeAct_keeps {p : Packet} {s : State} (h0 : Keeps b z s) : Keeps b z (probeAct p s) := by
  unfold probeAct
  exact sendStream_keeps h0

theorem execProbe_keeps {p : Packet} {s : State} (h0 : Keeps b z s) : KeepsA b z (execProbe p s) := by
  unfold execProbe
  exact live_keeps h0 (fun _ h1 => onlyIf_keeps (fun _ h2 => niArrive_keeps (fun _ h3 => probeAct_keeps h3) (fun _ h4 => h4) h2) h1)

theorem answerAct_keeps {p : Packet} {s : State} (h0 : Keeps b z s) : Keeps b z (answerAct p s) := by
  unfold answerAct
  exact Keeps.upd h0

theorem execProbeAnswer_keeps {p : Packet} {s : State} (h0 : Keeps b z s) : KeepsA b z (execProbeAnswer p s) := by
  unfold execProbeAnswer
  exact live_keeps h0 (fun _ h1 => onlyIf_keeps (fun _ h2 => niArrive_keeps (fun _ h3 => answerAct_keeps h3) (fun _ h4 => h4) h2) h1)

theorem execProbeTimeout_keeps {coord : Coord} {s : State} (h0 : Keeps b z s) : KeepsA b z (execProbeTimeout coord s) := by
  unfold execProbeTimeout
  refine live_keeps h0 ?_
  intro _ h1
  refine onlyIf_keeps ?_ h1
  intro _ h2
  extract_lets -underBinder -merge -useContext +onlyGivenNames _ s3
  have h4 : Keeps b z s3 := Keeps.upd h2
  clear_value s3
  refine Keeps.ite (fun _ => h4) (fun _ => ?_)
  extract_lets -underBinder -merge -useContext +onlyGivenNames _ s6
  have h7 : Keeps b z s6 := logAppend_keeps h4
  clear_value s6
  exact addLost_keeps (floodMgmt_keeps h7)

theorem lossAct_keeps {port : Nat} {p : Packet} {s : State} (h0 : Keeps b z s) : Keeps b z (lossAct port p s) := by
  unfold lossAct
  extract_lets -underBinder -merge -useContext +onlyGivenNames _
  exact Keeps.ite (fun _ => degradeRouting_keeps h0) (fun _ => addLost_keeps (floodMgmt_keeps h0))

theorem execLossNotice_keeps {port : BitVec 4} {p : Packet} {s : State} (h0 : Keeps b z s) : KeepsA b z (execLossNotice port p s) := by
  unfold execLossNotice
  exact live_keeps h0 (fun _ h1 => onlyIf_keeps (fun _ h2 => niArrive_keeps (fun _ h3 => lossAct_keeps h3) (fun _ h4 => h4) h2) h1)

theorem rejoinAct_keeps {port : Nat} {p : Packet} {s : State} (h0 : Keeps b z s) : Keeps b z (rejoinAct port p s) := by
  unfold rejoinAct
  extract_lets -underBinder -merge -useContext +onlyGivenNames _
  exact Keeps.ite (fun _ => h0) (fun _ => rejoinLocal_keeps (floodMgmt_keeps h0))

theorem execRejoinNotice_keeps {port : BitVec 4} {p : Packet} {s : State} (h0 : Keeps b z s) : KeepsA b z (execRejoinNotice port p s) := by
  unfold execRejoinNotice
  exact live_keeps h0 (fun _ h1 => onlyIf_keeps (fun _ h2 => niArrive_keeps (fun _ h3 => rejoinAct_keeps h3) (fun _ h4 => h4) h2) h1)

theorem execDegradedRoutingEnd_keeps {s : State} (h0 : Keeps b z s) : KeepsA b z (execDegradedRoutingEnd s) := by
  unfold execDegradedRoutingEnd
  refine live_keeps h0 ?_
  intro _ h1
  split
  · exact h1
  · refine Keeps.ite (fun _ => ?_) (fun _ => h1)
    extract_lets -underBinder -merge -useContext +onlyGivenNames _ s2
    have h3 : Keeps b z s2 := Keeps.upd h1
    clear_value s2
    exact Keeps.foldl (fun t5 _ h4 => txPump_keeps h4) h3

/-! ### Machine/Mgmt.lean -/

theorem execIdent_keeps {q : BitVec 6} {e : Entry} {s : State} (h0 : Keeps b z s) : KeepsA b z (execIdent q e s) := by
  unfold execIdent
  refine live_keeps h0 ?_
  intro _ h1
  refine octozRow_keeps ?_ h1
  intro _ h2
  extract_lets -underBinder -merge -useContext +onlyGivenNames _
  exact KeepsO.ite (fun _ => KeepsO.some (endEntry_keeps h2)) (fun _ => KeepsO.some (endResult_keeps (busWrite_keeps h2)))

theorem axisPorts_keeps {old : State} {s0 : State} (h1 : Keeps b z s0) : Keeps b z (axisPorts old s0) := by
  unfold axisPorts
  extract_lets -underBinder -merge -useContext +onlyGivenNames _ s2
  have h3 : Keeps b z s2 := Keeps.foldl (fun _ _ h4 => abandonPort_keeps (modPort_keeps (fun _ hq => hq) h4)) h1
  clear_value s2
  exact h3.mapPorts fun i p hq => by (repeat' split) <;> exact hq

theorem resendIdentity_keeps {s : State} (h0 : Keeps b z s) : Keeps b z (resendIdentity s) := by
  unfold resendIdentity
  exact Keeps.foldl (fun t2 _ h1 => settleIdentity_keeps (sendIdentity_keeps h1)) h0

theorem applyConfig_keeps {item : Nat} {v : Nat} {s : State} (h0 : Keeps b z s) : Keeps b z (applyConfig item v s) := by
  unfold applyConfig
  extract_lets -underBinder -merge -useContext +onlyGivenNames s1
  have h2 : Keeps b z s1 := setConfig_keeps h0
  clear_value s1
  extract_lets -underBinder -merge -useContext +onlyGivenNames s3
  have h4 : Keeps b z s3 := Keeps.ite (fun _ => axisPorts_keeps h2) (fun _ => h2)
  clear_value s3
  exact Keeps.ite (fun _ => resendIdentity_keeps h4) (fun _ => h4)

theorem execConfigSet_keeps {q : BitVec 6} {e : Entry} {s : State} (h0 : Keeps b z s) : KeepsA b z (execConfigSet q e s) := by
  unfold execConfigSet
  refine live_keeps h0 ?_
  intro _ h1
  refine octozRow_keeps ?_ h1
  intro _ h2
  extract_lets -underBinder -merge -useContext +onlyGivenNames _ _
  exact KeepsO.ite (fun _ => KeepsO.some (endEntry_keeps h2)) (fun _ => KeepsO.ite (fun _ => KeepsO.some (endEntry_keeps (applyConfig_keeps h2))) (fun _ => KeepsO.ite (fun _ => KeepsO.some (endEntry_keeps (bumpFree_keeps h2))) (fun _ => KeepsO.some (endEntry_keeps (applyConfig_keeps (storeItem_keeps (bumpFree_keeps h2)))))))

theorem execPowerPolicy_keeps {q : BitVec 6} {e : Entry} {s : State} (h0 : Keeps b z s) : KeepsA b z (execPowerPolicy q e s) := by
  unfold execPowerPolicy
  refine live_keeps h0 ?_
  intro _ h1
  refine octozRow_keeps ?_ h1
  intro _ h2
  extract_lets -underBinder -merge -useContext +onlyGivenNames _
  exact KeepsO.ite (fun _ => KeepsO.some (endEntry_keeps (Keeps.foldl (fun t5 _ h4 => setTimer_keeps h4) h2))) (fun _ => KeepsO.some (endEntry_keeps h2))

theorem execPrewarm_keeps {q : BitVec 6} {e : Entry} {s : State} (h0 : Keeps b z s) : KeepsA b z (execPrewarm q e s) := by
  unfold execPrewarm
  refine live_keeps h0 ?_
  intro _ h1
  refine octozRow_keeps ?_ h1
  intro _ h2
  extract_lets -underBinder -merge -useContext +onlyGivenNames _ _
  refine KeepsO.ite (fun _ => KeepsO.some (endEntry_keeps h2)) ?_
  intro _
  split
  · exact KeepsO.some (endEntry_keeps h2)
  · extract_lets -underBinder -merge -useContext +onlyGivenNames _ s5
    have h6 : Keeps b z s5 := filterAdd_keeps (modComm_keeps h2)
    clear_value s5
    extract_lets -underBinder -merge -useContext +onlyGivenNames _
    exact KeepsO.some (prewarmKick_keeps (addCmd_keeps (startHold_keeps (flood_keeps (wakeSource_keeps h6)))))

theorem execWindowMap_keeps {q : BitVec 6} {e : Entry} {s : State} (h0 : Keeps b z s) : KeepsA b z (execWindowMap q e s) := by
  unfold execWindowMap
  refine live_keeps h0 ?_
  intro _ h1
  refine octozRow_keeps ?_ h1
  intro _ h2
  extract_lets -underBinder -merge -useContext +onlyGivenNames _ _ _ _
  refine KeepsO.ite (fun _ => KeepsO.some (endEntry_keeps h2)) (fun _ => ?_)
  split
  · exact KeepsO.some (endEntry_keeps h2)
  · extract_lets -underBinder -merge -useContext +onlyGivenNames _
    exact KeepsO.some (endResult_keeps (Keeps.upd h2))

theorem execWindowUnmap_keeps {q : BitVec 6} {e : Entry} {s : State} (h0 : Keeps b z s) : KeepsA b z (execWindowUnmap q e s) := by
  unfold execWindowUnmap
  refine live_keeps h0 ?_
  intro _ h1
  refine octozRow_keeps ?_ h1
  intro _ h2
  split
  · exact KeepsO.some (endEntry_keeps h2)
  · extract_lets -underBinder -merge -useContext +onlyGivenNames _
    exact KeepsO.some (unmapKick_keeps (addCmd_keeps (Keeps.upd h2)))

theorem execRankmapLoad_keeps {q : BitVec 6} {e : Entry} {s : State} (h0 : Keeps b z s) : KeepsA b z (execRankmapLoad q e s) := by
  unfold execRankmapLoad
  refine live_keeps h0 ?_
  intro _ h1
  refine octozRead_keeps ?_ h1
  intro _ h2
  extract_lets -underBinder -merge -useContext +onlyGivenNames _
  refine KeepsO.ite (fun _ => KeepsO.some (endEntry_keeps h2)) (fun _ => ?_)
  split
  · exact KeepsO.some (endEntry_keeps h2)
  · exact KeepsO.some (endEntry_keeps (Keeps.upd h2 (maps := fun h => (setAt_length _ _ _).trans h.maps)))

theorem execRankmapPatch_keeps {q : BitVec 6} {e : Entry} {s : State} (h0 : Keeps b z s) : KeepsA b z (execRankmapPatch q e s) := by
  unfold execRankmapPatch
  extract_lets -underBinder -merge -useContext +onlyGivenNames _
  refine live_keeps h0 ?_
  intro _ h2
  refine octozRow_keeps ?_ h2
  intro _ h3
  extract_lets -underBinder -merge -useContext +onlyGivenNames _ _
  split
  · exact KeepsO.some (endEntry_keeps h3)
  · extract_lets -underBinder -merge -useContext +onlyGivenNames x10
    clear_value x10
    refine KeepsO.ite (fun _ => KeepsO.some (endEntry_keeps h3)) (fun _ => ?_)
    split
    · exact KeepsO.some (endEntry_keeps h3)
    · extract_lets -underBinder -merge -useContext +onlyGivenNames _ _ _
      exact KeepsO.some (endEntry_keeps (raiseEvent_keeps (Keeps.upd h3 (maps := fun h => (setAt_length _ _ _).trans h.maps))))

theorem abortSaved_keeps {cause : Byte} {status : Byte} {y : Saved} {s : State} (h0 : Keeps b z s) : Keeps b z (abortSaved cause status y s) := by
  unfold abortSaved
  split
  · exact h0
  · extract_lets -underBinder -merge -useContext +onlyGivenNames _
    exact markSaved_keeps (raiseNotice_keeps h0)

theorem abortHandle_keeps {h : W32} {s : State} (h0 : Keeps b z s) : Keeps b z (abortHandle h s) := by
  unfold abortHandle
  extract_lets -underBinder -merge -useContext +onlyGivenNames s1
  have h2 : Keeps b z s1 := by
    refine Keeps.foldl (fun t4 _ h3 => ?_) h0
    split
    · exact h3
    · exact abortColl_keeps h3
  clear_value s1
  exact Keeps.foldl (fun t6 _ h5 => abortSaved_keeps h5) h2

theorem execCommDestroy_keeps {q : BitVec 6} {e : Entry} {s : State} (h0 : Keeps b z s) : KeepsA b z (execCommDestroy q e s) := by
  unfold execCommDestroy
  refine live_keeps h0 ?_
  intro _ h1
  refine octozRow_keeps ?_ h1
  intro _ h2
  extract_lets -underBinder -merge -useContext +onlyGivenNames _
  split
  · exact KeepsO.some (endEntry_keeps h2)
  · extract_lets -underBinder -merge -useContext +onlyGivenNames _ s5
    have h6 : Keeps b z s5 := Keeps.foldl (fun _ _ h7 => endHeld_keeps h7) h2
    clear_value s5
    exact KeepsO.some (destroyKick_keeps (addCmd_keeps (abortHandle_keeps h6)))

theorem markDrained_keeps {h : W32} {on : Bool} {s : State} (h0 : Keeps b z s) : Keeps b z (markDrained h on s) := by
  unfold markDrained
  extract_lets -underBinder -merge -useContext +onlyGivenNames _
  exact Keeps.upd h0

theorem drainRow_keeps {q : BitVec 6} {e : Entry} {release : Bool} {s : State} (h0 : Keeps b z s) : Keeps b z (drainRow q e release s) := by
  unfold drainRow
  extract_lets -underBinder -merge -useContext +onlyGivenNames _
  refine octozRow_keeps ?_ h0
  intro _ h2
  extract_lets -underBinder -merge -useContext +onlyGivenNames _
  exact KeepsO.ite (fun _ => KeepsO.some (endEntry_keeps h2)) (fun _ => KeepsO.ite (fun _ => KeepsO.some (endEntry_keeps h2)) (fun _ => KeepsO.ite (fun _ => KeepsO.some (endEntry_keeps (markDrained_keeps h2))) (fun _ => KeepsO.some (drainKick_keeps (addCmd_keeps (markDrained_keeps h2))))))

theorem execDrain_keeps {q : BitVec 6} {e : Entry} {s : State} (h0 : Keeps b z s) : KeepsA b z (execDrain q e s) := by
  unfold execDrain
  exact live_keeps h0 (fun _ h1 => drainRow_keeps h1)

theorem execDrainRelease_keeps {q : BitVec 6} {e : Entry} {s : State} (h0 : Keeps b z s) : KeepsA b z (execDrainRelease q e s) := by
  unfold execDrainRelease
  exact live_keeps h0 (fun _ h1 => drainRow_keeps h1)

theorem execRouteUpdate_keeps {q : BitVec 6} {e : Entry} {s : State} (h0 : Keeps b z s) : KeepsA b z (execRouteUpdate q e s) := by
  unfold execRouteUpdate
  extract_lets -underBinder -merge -useContext +onlyGivenNames _ _
  refine live_keeps h0 ?_
  intro _ h3
  refine octozRead_keeps ?_ h3
  intro _ h4
  refine KeepsO.ite (fun _ => KeepsO.some (endEntry_keeps h4)) (fun _ => ?_)
  refine KeepsO.ite (fun _ => KeepsO.some (endEntry_keeps h4)) (fun _ => ?_)
  refine KeepsO.ite (fun _ => KeepsO.none) (fun _ => ?_)
  extract_lets -underBinder -merge -useContext +onlyGivenNames _ _
  refine KeepsO.ite (fun _ => KeepsO.some (endEntry_keeps h4)) (fun _ => ?_)
  extract_lets -underBinder -merge -useContext +onlyGivenNames _ _ _ s8
  have h9 : Keeps b z s8 := Keeps.upd h4
  clear_value s8
  extract_lets -underBinder -merge -useContext +onlyGivenNames _ s10
  have h11 : Keeps b z s10 := Keeps.ite (fun _ => KeepsP.snd (startRound_keeps (Keeps.upd h9))) (fun _ => h9)
  clear_value s10
  exact KeepsO.some (endEntry_keeps h11)

theorem execSelftest_keeps {q : BitVec 6} {e : Entry} {s : State} (h0 : Keeps b z s) : KeepsA b z (execSelftest q e s) := by
  unfold execSelftest
  refine live_keeps h0 ?_
  intro _ h1
  refine octozRow_keeps ?_ h1
  intro _ h2
  split
  · exact KeepsO.some (endEntry_keeps h2)
  · extract_lets -underBinder -merge -useContext +onlyGivenNames _
    split
    · exact KeepsO.some (endEntry_keeps h2)
    · rename_i s4 h5e
      have h5 : Keeps b z s4 := (beginSelftest_keeps (addCmd_keeps h2) : KeepsO b z _) _ h5e
      exact KeepsO.some h5

theorem execLogRead_keeps {q : BitVec 6} {e : Entry} {s : State} (h0 : Keeps b z s) : KeepsA b z (execLogRead q e s) := by
  unfold execLogRead
  refine live_keeps h0 ?_
  intro _ h1
  refine octozRow_keeps ?_ h1
  intro _ h2
  extract_lets -underBinder -merge -useContext +onlyGivenNames _ _
  refine KeepsO.ite (fun _ => KeepsO.some (endEntry_keeps h2)) (fun _ => ?_)
  extract_lets -underBinder -merge -useContext +onlyGivenNames _ _ _ _ _
  exact KeepsO.some (endResult_keeps (busWrite_keeps h2))

theorem execFwUpdateWrite_keeps {q : BitVec 6} {e : Entry} {s : State} (h0 : Keeps b z s) : KeepsA b z (execFwUpdateWrite q e s) := by
  unfold execFwUpdateWrite
  extract_lets -underBinder -merge -useContext +onlyGivenNames _
  refine live_keeps h0 ?_
  intro _ h2
  refine octozRow_keeps ?_ h2
  intro _ h3
  extract_lets -underBinder -merge -useContext +onlyGivenNames _ _
  refine KeepsO.ite (fun _ => KeepsO.some (endEntry_keeps h3)) (fun _ => ?_)
  refine KeepsO.ite (fun _ => KeepsO.some (endEntry_keeps h3)) (fun _ => ?_)
  refine KeepsO.ite (fun _ => KeepsO.none) (fun _ => ?_)
  extract_lets -underBinder -merge -useContext +onlyGivenNames _ _
  split
  · exact KeepsO.some (endEntry_keeps h3)
  · refine KeepsO.ite (fun _ => KeepsO.some (endEntry_keeps h3)) (fun _ => ?_)
    extract_lets -underBinder -merge -useContext +onlyGivenNames _ _ s10
    have h11 : Keeps b z s10 := flashWrite_keeps (flashErase_keeps h3)
    clear_value s10
    exact KeepsO.some (addCmd_keeps h11)

theorem execFlashWriteDone_keeps {ok : Bool} {s : State} (h0 : Keeps b z s) : KeepsA b z (execFlashWriteDone ok s) := by
  unfold execFlashWriteDone
  refine live_keeps h0 ?_
  intro _ h1
  extract_lets -underBinder -merge -useContext +onlyGivenNames _
  split
  · exact h1
  · split
    · extract_lets -underBinder -merge -useContext +onlyGivenNames s3
      have h4 : Keeps b z s3 := Keeps.ite (fun _ => flashWrite_keeps h1) (fun _ => h1)
      clear_value s3
      extract_lets -underBinder -merge -useContext +onlyGivenNames s5
      have h6 : Keeps b z s5 := Keeps.ite (fun _ => Keeps.upd h4) (fun _ => endCmd_keeps h4)
      clear_value s5
      exact logRelease_keeps h6
    · exact h1

theorem execFwUpdateActivate_keeps {q : BitVec 6} {e : Entry} {s : State} (h0 : Keeps b z s) : KeepsA b z (execFwUpdateActivate q e s) := by
  unfold execFwUpdateActivate
  refine live_keeps h0 ?_
  intro _ h1
  refine octozRow_keeps ?_ h1
  intro _ h2
  refine KeepsO.ite (fun _ => KeepsO.none) (fun _ => ?_)
  split
  · extract_lets -underBinder -merge -useContext +onlyGivenNames s3
    have h4 : Keeps b z s3 := Keeps.ite (fun _ => bootAppend_keeps h2) (fun _ => bootAppend_keeps h2)
    clear_value s3
    exact KeepsO.some (endEntry_keeps h4)

theorem execFwUpdateCommit_keeps {q : BitVec 6} {e : Entry} {s : State} (h0 : Keeps b z s) : KeepsA b z (execFwUpdateCommit q e s) := by
  unfold execFwUpdateCommit
  refine live_keeps h0 ?_
  intro _ h1
  refine octozRow_keeps ?_ h1
  intro _ h2
  refine KeepsO.ite (fun _ => KeepsO.none) (fun _ => ?_)
  extract_lets -underBinder -merge -useContext +onlyGivenNames _ _
  exact KeepsO.some (endEntry_keeps (Keeps.upd h2 (fuses := fun i h => by have hf := fun v => blowSvn_mono v 64 h; change BitVec.getLsbD (ite _ _ _) i = true; split; exacts [(BitVec.getLsbD_or ..).trans (Bool.or_eq_true_iff.2 (.inl (hf _))), hf _])))

theorem execProgLoad_keeps {q : BitVec 6} {e : Entry} {s : State} (h0 : Keeps b z s) : KeepsA b z (execProgLoad q e s) := by
  unfold execProgLoad
  refine live_keeps h0 ?_
  intro _ h1
  refine octozRow_keeps ?_ h1
  intro _ h2
  extract_lets -underBinder -merge -useContext +onlyGivenNames _ _ _ _
  refine KeepsO.ite (fun _ => KeepsO.some (endEntry_keeps h2)) (fun _ => ?_)
  extract_lets -underBinder -merge -useContext +onlyGivenNames _ _
  refine KeepsO.ite (fun _ => KeepsO.some (endEntry_keeps h2)) (fun _ => ?_)
  extract_lets -underBinder -merge -useContext +onlyGivenNames _ _
  refine KeepsO.ite (fun _ => KeepsO.some (endEntry_keeps h2)) (fun _ => ?_)
  extract_lets -underBinder -merge -useContext +onlyGivenNames _ _
  exact KeepsO.some (endEntry_keeps (Keeps.upd h2))

theorem waitingTimeout_keeps {q : BitVec 6} {s0 : State} (h0 : Keeps b z s0) : Keeps b z (waitingTimeout q s0) := by
  unfold waitingTimeout
  extract_lets -underBinder -merge -useContext +onlyGivenNames s1
  have h2 : Keeps b z s1 := settleHead_keeps h0
  clear_value s1
  extract_lets -underBinder -merge -useContext +onlyGivenNames _
  split
  · exact h2
  · extract_lets -underBinder -merge -useContext +onlyGivenNames _ _ _
    exact Keeps.ite (fun _ => settleHead_keeps (endEntry_keeps (popHead_keeps h2))) (fun _ => h2)

theorem spoilGet_keeps {id : Nat} {x : Xfer} {s : State} (h0 : Keeps b z s) : Keeps b z (spoilGet id x s) := by
  unfold spoilGet
  refine Keeps.foldl (fun t2 _ h1 => ?_) h0
  extract_lets -underBinder -merge -useContext +onlyGivenNames _
  exact Keeps.ite (fun _ => h1) (fun _ => localUndefined_keeps h1)

theorem startedTimeout_keeps {c : Cmd} {s : State} (h0 : Keeps b z s) : Keeps b z (startedTimeout c s) := by
  unfold startedTimeout
  extract_lets -underBinder -merge -useContext +onlyGivenNames g1
  have h2 : ∀ x0, Keeps b z x0 → Keeps b z (g1 x0) := by
    exact fun _ h3 => endCmd_keeps h3
  clear_value g1
  split
  · exact unmapKick_keeps (h2 _ (forgetCmd_keeps (spoilGet_keeps h0)))
  · exact unmapKick_keeps (h2 _ (forgetCmd_keeps h0))
  · exact h2 _ (forgetCmd_keeps h0)
  · exact unmapKick_keeps (endHeld_keeps h0)
  · exact endHeld_keeps h0
  · exact endHeld_keeps h0
  · exact endHeld_keeps h0
  · extract_lets -underBinder -merge -useContext +onlyGivenNames s12
    have h13 : Keeps b z s12 := h2 _ h0
    clear_value s12
    exact Keeps.upd h13
  · exact h2 _ h0

theorem execCommandTimeout_keeps {target : TimeoutTarget} {s : State} (h0 : Keeps b z s) : KeepsA b z (execCommandTimeout target s) := by
  unfold execCommandTimeout
  refine live_keeps h0 ?_
  intro _ h1
  split
  · exact waitingTimeout_keeps h1
  · split
    · exact h1
    · exact Keeps.ite (fun _ => settleHead_keeps (startedTimeout_keeps h1)) (fun _ => h1)
  · split
    · exact h1
    · exact Keeps.ite (fun _ => abortColl_keeps h1) (fun _ => h1)
  · split
    · exact h1
    · exact Keeps.ite (fun _ => abortSaved_keeps h1) (fun _ => h1)

/-! ### Machine/Resets.lean -/

theorem abortEverything_keeps {s : State} (h0 : Keeps b z s) : Keeps b z (abortEverything s) := by
  unfold abortEverything
  extract_lets -underBinder -merge -useContext +onlyGivenNames s1
  have h2 : Keeps b z s1 := by
    refine Keeps.foldl ?_ h0
    intro _ _ h3
    split
    · exact h3
    · exact abortColl_keeps h3
  clear_value s1
  exact Keeps.foldl (fun _ _ h6 => abortColl_keeps (Keeps.upd h6 (savedThread := fun h => filter_all h.savedThread))) h2

theorem sendNotices_keeps {s : State} (h0 : Keeps b z s) : Keeps b z (sendNotices s) := by
  unfold sendNotices
  refine Keeps.foldl ?_ h0
  intro _ _ h1
  extract_lets -underBinder -merge -useContext +onlyGivenNames _
  split
  · exact emit_keeps h1
  · exact h1

theorem dropCache_keeps {s : State} (h0 : Keeps b z s) : Keeps b z (dropCache s) := by
  unfold dropCache
  refine Keeps.foldl (fun t l h1 => bumpFree_keeps ?_) (Keeps.upd h0 (line := fun _ _ h => nomatch h))
  generalize freeBytes t 256 = bytes
  exact Keeps.upd h1 (moduleForm := fun h => memWrite_wf _ _ h.moduleForm)

theorem resetRecord_keeps {src : WarmSource} {s : State} (h0 : Keeps b z s) : Keeps b z (resetRecord src s) := by
  unfold resetRecord
  extract_lets -underBinder -merge -useContext +onlyGivenNames g1
  dsimp -zeta only [g1]
  split
  · exact logAppend_keeps h0
  · exact logAppend_keeps h0
  · exact logAppend_keeps h0
  · exact logAppend_keeps h0
  · exact h0

theorem warmState_keeps {s : State} (h0 : Keeps b z s) : Keeps b z (warmState s) := by
  refine h0.trans ⟨rfl, rfl, fun _ => rfl, fun _ h => h, fun h => ?_⟩
  have r := coldState_sound (saddr := none) h.busForm h.flashForm
  refine ⟨r.pages, (List.length_map _).trans h.ports, map_all fun p _ => ⟨rfl, rfl, rfl, rfl, rfl, rfl, rfl⟩, r.maps, rfl, r.rates,
    h.sensors, r.thread, r.savedThread, r.line, h.busForm, r.slotForm, h.moduleForm, r.stagingForm, h.flashForm⟩

theorem warmFirst_keeps {src : WarmSource} {s : State} (h0 : Keeps b z s) : Keeps b z (warmFirst src s) := by
  unfold warmFirst
  extract_lets -underBinder -merge -useContext +onlyGivenNames _
  exact resetRecord_keeps (Keeps.ite (fun _ => flushCache_keeps (sendNotices_keeps (abortEverything_keeps h0))) (fun _ => dropCache_keeps h0))

theorem execWarmReset_keeps {src : WarmSource} {s : State} (h0 : Keeps b z s) : KeepsA b z (execWarmReset src s) := by
  unfold execWarmReset
  refine live_keeps h0 ?_
  intro _ h1
  refine onlyIf_keeps ?_ h1
  intro _ h2
  extract_lets -underBinder -merge -useContext +onlyGivenNames s3
  have h4 : Keeps b z s3 := warmState_keeps (warmFirst_keeps h2)
  clear_value s3
  exact Keeps.ite (fun _ => bootFault_keeps h4) (fun _ => selectSlot_keeps h4)

theorem linkAbort_keeps {s : State} {x : Ctx} (h0 : Keeps b z s) : Keeps b z (linkAbort s x) := by
  unfold linkAbort
  split
  · exact dropCtx_keeps h0
  · extract_lets -underBinder -merge -useContext +onlyGivenNames _
    exact dropCtx_keeps (spoilDest_keeps (raiseNotice_keeps h0))

theorem execHostLinkReset_keeps {src : HostLinkSource} {s : State} (h0 : Keeps b z s) : KeepsA b z (execHostLinkReset src s) := by
  unfold execHostLinkReset
  refine live_keeps h0 ?_
  intro _ h1
  extract_lets -underBinder -merge -useContext +onlyGivenNames _ s2
  have h3 : Keeps b z s2 := Keeps.upd h1
  clear_value s2
  extract_lets -underBinder -merge -useContext +onlyGivenNames _ s4
  have h5 : Keeps b z s4 := Keeps.upd h3
  clear_value s4
  extract_lets -underBinder -merge -useContext +onlyGivenNames s6
  have h7 : Keeps b z s6 := Keeps.foldl (fun t9 _ h8 => linkAbort_keeps h8) h5
  clear_value s6
  extract_lets -underBinder -merge -useContext +onlyGivenNames s10
  have h11 : Keeps b z s10 := Keeps.foldl (fun t13 _ h12 => abortSaved_keeps h12) h7
  clear_value s10
  extract_lets -underBinder -merge -useContext +onlyGivenNames s14
  have h15 : Keeps b z s14 := Keeps.foldl (fun t17 _ h16 => forgetCmd_keeps h16) h11
  clear_value s14
  extract_lets -underBinder -merge -useContext +onlyGivenNames _ _ _ s19
  have h20 : Keeps b z s19 := Keeps.upd h15 (pages := fun _ => List.length_replicate) (savedThread := fun _ _ h => nomatch h)
  clear_value s19
  extract_lets -underBinder -merge -useContext +onlyGivenNames s21
  have h22 : Keeps b z s21 := Keeps.foldl (fun t24 _ h23 => missRequest_keeps h23) h20
  clear_value s21
  exact Keeps.ite (fun _ => h22) (fun _ => setBar2_keeps h22)

theorem execPerstNRise_keeps {s : State} (h0 : Keeps b z s) : KeepsA b z (execPerstNRise s) := by
  unfold execPerstNRise
  exact live_keeps h0 (fun _ h1 => onlyIf_keeps (fun _ h2 => Keeps.upd h2) h1)

theorem waitDone_keeps {s : State} {w : HostWait} (h0 : Keeps b z s) : Keeps b z (waitDone s w) := by
  unfold waitDone
  split
  · exact sbAnswer_keeps h0
  · exact doWait_keeps h0

theorem execWakeDone_keeps {s : State} (h0 : Keeps b z s) : KeepsA b z (execWakeDone s) := by
  unfold execWakeDone
  refine live_keeps h0 ?_
  intro _ h1
  split
  · extract_lets -underBinder -merge -useContext +onlyGivenNames _ s3
    have h4 : Keeps b z s3 := setPower_keeps (Keeps.upd h1)
    clear_value s3
    extract_lets -underBinder -merge -useContext +onlyGivenNames _ s5
    have h6 : Keeps b z s5 := flushEvents_keeps (Keeps.upd h4)
    clear_value s5
    extract_lets -underBinder -merge -useContext +onlyGivenNames s7
    have h8 : Keeps b z s7 := Keeps.ite (fun _ => Keeps.foldl (fun _ _ h9 => sendFrame_keeps h9) h6) (fun _ => h6)
    clear_value s7
    extract_lets -underBinder -merge -useContext +onlyGivenNames s10
    have h11 : Keeps b z s10 := readBuffer_keeps h8
    clear_value s10
    exact Keeps.foldl (fun _ _ h12 => waitDone_keeps h12) (Keeps.upd h11)
  · exact h1

theorem execRefclkStop_keeps {s : State} (h0 : Keeps b z s) : KeepsA b z (execRefclkStop s) := by
  unfold execRefclkStop
  exact live_keeps h0 (fun _ h1 => onlyIf_keeps (fun _ h2 => Keeps.upd h2) h1)

/-! ### Machine/Board.lean -/

theorem thermal_keeps {sensor : Nat} {level : Nat} {temp : W16} {s : State} (h0 : Keeps b z s) : Keeps b z (thermal sensor level temp s) := by
  unfold thermal
  exact setErr_keeps (raiseEvent_keeps h0)

theorem setSensor_keeps {i : BitVec 3} {temp : W16} {level : BitVec 3} {s : State} (h0 : Keeps b z s) : Keeps b z (setSensor i temp level s) := by
  unfold setSensor
  exact Keeps.upd h0 (sensors := fun h => ⟨(setAt_length _ _ _).trans h.sensors.1, h.sensors.2⟩)

theorem execThermalWarning_keeps {sensor : BitVec 3} {temp : W16} {s : State} (h0 : Keeps b z s) : KeepsA b z (execThermalWarning sensor temp s) := by
  unfold execThermalWarning
  exact live_keeps h0 (fun _ h1 => onlyIf_keeps (fun _ h2 => Keeps.ite (fun _ => thermal_keeps (setSensor_keeps h2)) (fun _ => setSensor_keeps h2)) h1)

theorem execThrottle_keeps {sensor : BitVec 3} {temp : W16} {s : State} (h0 : Keeps b z s) : KeepsA b z (execThrottle sensor temp s) := by
  unfold execThrottle
  refine live_keeps h0 ?_
  intro _ h1
  refine onlyIf_keeps ?_ h1
  intro _ h2
  extract_lets -underBinder -merge -useContext +onlyGivenNames _ s3
  have h4 : Keeps b z s3 := Keeps.upd h2
  clear_value s3
  exact Keeps.ite (fun _ => thermal_keeps (setSensor_keeps h4)) (fun _ => setSensor_keeps h4)

theorem execThermalClear_keeps {sensor : BitVec 3} {temp : W16} {s : State} (h0 : Keeps b z s) : KeepsA b z (execThermalClear sensor temp s) := by
  unfold execThermalClear
  refine live_keeps h0 ?_
  intro _ h1
  refine onlyIf_keeps ?_ h1
  intro _ h2
  extract_lets -underBinder -merge -useContext +onlyGivenNames s3
  have h4 : Keeps b z s3 := setSensor_keeps h2
  clear_value s3
  exact Keeps.ite (fun _ => thermal_keeps (Keeps.upd h4)) (fun _ => h4)

theorem execThermalTrip_keeps {sensor : BitVec 3} {temp : W16} {s : State} (h0 : Keeps b z s) : KeepsA b z (execThermalTrip sensor temp s) := by
  unfold execThermalTrip
  refine live_keeps h0 ?_
  intro _ h1
  refine onlyIf_keeps ?_ h1
  intro _ h2
  extract_lets -underBinder -merge -useContext +onlyGivenNames s3
  have h4 : Keeps b z s3 := setSensor_keeps h2
  clear_value s3
  exact Keeps.upd h4

theorem execTmTempReport_keeps {module : BitVec 3} {temp : W16} {s : State} (h0 : Keeps b z s) : KeepsA b z (execTmTempReport module temp s) := by
  unfold execTmTempReport
  extract_lets -underBinder -merge -useContext +onlyGivenNames _ _
  refine live_keeps h0 ?_
  intro _ h3
  refine onlyIf_keeps ?_ h3
  intro _ h4
  extract_lets -underBinder -merge -useContext +onlyGivenNames _ s5
  have h6 : Keeps b z s5 := Keeps.upd h4 (sensors := fun h => ⟨h.sensors.1, (setAt_length _ _ _).trans h.sensors.2.1, h.sensors.2.2⟩)
  clear_value s5
  extract_lets -underBinder -merge -useContext +onlyGivenNames _ s7
  have h8 : Keeps b z s7 := Keeps.ite (fun _ => thermal_keeps (Keeps.upd h6)) (fun _ => h6)
  clear_value s7
  exact Keeps.ite (fun _ => takeDown_keeps (thermal_keeps (Keeps.upd h8))) (fun _ => Keeps.ite (fun _ => thermal_keeps (Keeps.upd h8)) (fun _ => h8))

theorem bridgeDown_keeps {u : Nat} {s : State} (h0 : Keeps b z s) : Keeps b z (bridgeDown u s) := by
  unfold bridgeDown
  exact Keeps.foldl (fun t2 _ h1 => Keeps.ite (fun _ => h1) (fun _ => linkDown_keeps h1)) h0

theorem execGb2Temperature_keeps {unit : BitVec 2} {temp : W16} {s : State} (h0 : Keeps b z s) : KeepsA b z (execGb2Temperature unit temp s) := by
  unfold execGb2Temperature
  extract_lets -underBinder -merge -useContext +onlyGivenNames _
  refine live_keeps h0 ?_
  intro _ h2
  refine onlyIf_keeps ?_ h2
  intro _ h3
  extract_lets -underBinder -merge -useContext +onlyGivenNames _ s4
  have h5 : Keeps b z s4 := Keeps.upd h3 (sensors := fun h => ⟨h.sensors.1, h.sensors.2.1, (setAt_length _ _ _).trans h.sensors.2.2.1, h.sensors.2.2.2⟩)
  clear_value s4
  extract_lets -underBinder -merge -useContext +onlyGivenNames _ s6
  have h7 : Keeps b z s6 := Keeps.ite (fun _ => thermal_keeps (Keeps.upd h5 (sensors := fun h => ⟨h.sensors.1, h.sensors.2.1, h.sensors.2.2.1, (setAt_length _ _ _).trans h.sensors.2.2.2.1, h.sensors.2.2.2.2⟩))) (fun _ => h5)
  clear_value s6
  exact Keeps.ite (fun _ => thermal_keeps (bridgeDown_keeps (Keeps.upd h7 (sensors := fun h => ⟨h.sensors.1, h.sensors.2.1, h.sensors.2.2.1, h.sensors.2.2.2.1, (setAt_length _ _ _).trans h.sensors.2.2.2.2⟩)))) (fun _ => Keeps.ite (fun _ => thermal_keeps (Keeps.upd h7 (sensors := fun h => ⟨h.sensors.1, h.sensors.2.1, h.sensors.2.2.1, (setAt_length _ _ _).trans h.sensors.2.2.2.1, (setAt_length _ _ _).trans h.sensors.2.2.2.2⟩))) (fun _ => h7))

theorem testShift_keeps {ir : Byte} {bits : List Bool} {s : State} (h0 : Keeps b z s) : Keeps b z (testShift ir bits s) := by
  unfold testShift
  exact emit_keeps (Keeps.upd h0)

theorem testPort_keeps {s : State} {f : State → State} (h0 : Keeps b z s) (h1 : ∀ y0, Keeps b z y0 → Keeps b z (f y0)) : KeepsA b z (testPort s f) := by
  unfold testPort
  exact KeepsA.ite (fun _ => KeepsA.next h0) (fun _ => KeepsA.next (h1 _ h0))

theorem bypassPort_keeps {s : State} (h0 : Keeps b z s) : Keeps b z (bypassPort s) := by
  unfold bypassPort
  exact testShift_keeps h0

theorem execExtest_keeps {s : State} (h0 : Keeps b z s) : KeepsA b z (execExtest s) := by
  unfold execExtest
  refine testPort_keeps h0 ?_
  intro _ h1
  extract_lets -underBinder -merge -useContext +onlyGivenNames s2
  have h3 : Keeps b z s2 := emit_keeps (testShift_keeps h1)
  clear_value s2
  exact Keeps.upd h3

theorem execIdcode_keeps {s : State} (h0 : Keeps b z s) : KeepsA b z (execIdcode s) := by
  unfold execIdcode
  exact testPort_keeps h0 (fun _ h1 => testShift_keeps h1)

theorem execSamplePreload_keeps {pins : List Bool} {preload : List Bool} {s : State} (h0 : Keeps b z s) : KeepsA b z (execSamplePreload pins preload s) := by
  unfold execSamplePreload
  refine testPort_keeps h0 ?_
  intro _ h1
  extract_lets -underBinder -merge -useContext +onlyGivenNames s2
  have h3 : Keeps b z s2 := testShift_keeps h1
  clear_value s2
  exact Keeps.upd h3

theorem execBypass_keeps {code : Byte} {s : State} (h0 : Keeps b z s) : KeepsA b z (execBypass code s) := by
  unfold execBypass
  exact testPort_keeps h0 (fun _ h1 => Keeps.ite (fun _ => h1) (fun _ => bypassPort_keeps h1))

theorem privateTest_keeps {f : State → State} {s : State} (h0 : ∀ y0, Keeps b z y0 → Keeps b z (f y0)) (h1 : Keeps b z s) : KeepsA b z (privateTest f s) := by
  unfold privateTest
  exact testPort_keeps h1 (fun _ h2 => Keeps.ite (fun _ => bypassPort_keeps h2) (fun _ => h0 _ h2))

theorem execScanChain_keeps {s : State} (h0 : Keeps b z s) : KeepsA b z (execScanChain s) := by
  unfold execScanChain
  exact privateTest_keeps (fun _ h1 => bumpFree_keeps (testShift_keeps h1)) h0

theorem execMemAccess_keeps {s : State} (h0 : Keeps b z s) : KeepsA b z (execMemAccess s) := by
  unfold execMemAccess
  exact privateTest_keeps (fun _ h1 => bumpFree_keeps (testShift_keeps h1)) h0

theorem execTreeHalt_keeps {s : State} (h0 : Keeps b z s) : KeepsA b z (execTreeHalt s) := by
  unfold execTreeHalt
  refine privateTest_keeps ?_ h0
  intro _ h1
  extract_lets -underBinder -merge -useContext +onlyGivenNames s2
  have h3 : Keeps b z s2 := testShift_keeps h1
  clear_value s2
  exact Keeps.upd h3

theorem execFuseRead_keeps {s : State} (h0 : Keeps b z s) : KeepsA b z (execFuseRead s) := by
  unfold execFuseRead
  exact privateTest_keeps (fun _ h1 => testShift_keeps h1) h0

/-! ### Machine/Delivery.lean -/

theorem ranOr_keeps {s : State} {o : Out} (h0 : Keeps b z s) (h1 : KeepsA b z o) : Keeps b z (ranOr s o) := by
  unfold ranOr
  split
  · exact h1 _ rfl
  · exact h0

theorem ejectCinch_keeps {port : BitVec 4} {p : Packet} {s : State} (h0 : Keeps b z s) : KeepsA b z (ejectCinch port p s) := by
  unfold ejectCinch
  split
  · exact execCinchUp_keeps h0
  · exact execCinchDown_keeps h0
  · exact execAbortNotice_keeps h0
  · exact execCinchRereq_keeps h0
  · exact execVoteUp_keeps h0
  · exact execVoteDown_keeps h0
  · exact KeepsA.next h0

theorem ejectE2e_keeps {p : Packet} {s : State} (h0 : Keeps b z s) : KeepsA b z (ejectE2e p s) := by
  unfold ejectE2e
  split
  · exact execE2eAck_keeps h0
  · exact execE2eBusy_keeps h0
  · exact execE2eRereq_keeps h0
  · exact KeepsA.next h0

theorem ejectChunk_keeps {p : Packet} {s : State} (h0 : Keeps b z s) : KeepsA b z (ejectChunk p s) := by
  unfold ejectChunk
  exact KeepsA.ite (fun _ => execChunkGrant_keeps h0) (fun _ => KeepsA.ite (fun _ => execCountChunk_keeps h0) (fun _ => KeepsA.ite (fun _ => execChunkRereq_keeps h0) (fun _ => execChunk_keeps h0)))

theorem ejectMgmt_keeps {port : BitVec 4} {p : Packet} {s : State} (h0 : Keeps b z s) : KeepsA b z (ejectMgmt port p s) := by
  unfold ejectMgmt
  split
  · exact execProbe_keeps h0
  · exact execProbeAnswer_keeps h0
  · exact execLossNotice_keeps h0
  · exact execRejoinNotice_keeps h0
  · exact KeepsA.next h0

theorem ejectHerald_keeps {_port : BitVec 4} {p : Packet} {s : State} (h0 : Keeps b z s) : KeepsA b z (ejectHerald _port p s) := by
  unfold ejectHerald
  exact live_keeps h0 (fun _ h1 => onlyIf_keeps (fun _ h2 => receiveHerald_keeps h2) h1)

theorem eject_keeps {port : BitVec 4} {p : Packet} {s : State} (h0 : Keeps b z s) : KeepsA b z (eject port p s) := by
  unfold eject
  split
  · exact ejectHerald_keeps h0
  · exact ejectCinch_keeps h0
  · exact ejectE2e_keeps h0
  · exact ejectChunk_keeps h0
  · exact execPutPacket_keeps h0
  · exact execGetReq_keeps h0
  · exact execAtomicReq_keeps h0
  · exact execLaneStore_keeps h0
  · exact execLaneLoad_keeps h0
  · exact execReadResp_keeps h0
  · exact execAtomicResp_keeps h0
  · exact execMissAck_keeps h0
  · exact ejectMgmt_keeps h0
  · exact execDrainMarker_keeps h0
  · exact KeepsA.next h0

theorem makeMove_keeps {port : BitVec 4} {from_ : Option (Nat × Nat)} {take : State → State} {p : Packet} {m : Move} {s : State} (h0 : ∀ y0, Keeps b z y0 → Keeps b z (take y0)) (h1 : Keeps b z s) : Keeps b z (makeMove port from_ take p m s) := by
  unfold makeMove
  extract_lets -underBinder -merge -useContext +onlyGivenNames g2
  have h3 : ∀ x0 x1, Keeps b z x1 → Keeps b z (g2 x0 x1) := by
    exact fun _ _ h4 => Keeps.ite (fun _ => ranOr_keeps h4 (eject_keeps h4)) (fun _ => h4)
  clear_value g2
  split
  · exact h1
  · exact sendFrame_keeps h1
  · exact Keeps.ite (fun _ => degradePacket_keeps h1) (fun _ => h1)
  · exact kickFrames_keeps (enqueueOut_keeps (h0 _ h1))
  · extract_lets -underBinder -merge -useContext +onlyGivenNames s10
    have h11 : Keeps b z s10 := freeFrom_keeps (h0 _ h1)
    clear_value s10
    exact ranOr_keeps h11 (eject_keeps h11)
  · exact h3 _ _ (enqueueOut_keeps (h0 _ h1))
  · extract_lets -underBinder -merge -useContext +onlyGivenNames s14
    have h15 : Keeps b z s14 := freeFrom_keeps (h0 _ h1)
    clear_value s14
    refine h3 _ _ ?_
    split
    · exact countDetour_keeps h15
    · exact h15

theorem takeInput_keeps {i : Nat} {v : Nat} {s : State} (h0 : Keeps b z s) : Keeps b z (takeInput i v s) := by
  unfold takeInput
  exact modPort_keeps (fun _ hq => ⟨(modAt_length _ _ _).trans hq.1, hq.2⟩) h0

theorem forwardInput_keeps {i : Nat} {v : Nat} {s : State} (h0 : Keeps b z s) : Keeps b z (forwardInput i v s) := by
  unfold forwardInput
  split
  · exact h0
  · extract_lets -underBinder -merge -useContext +onlyGivenNames _
    exact makeMove_keeps (fun _ h3 => takeInput_keeps h3) h0

theorem takeInjected_keeps {k : Nat} {s : State} (h0 : Keeps b z s) : Keeps b z (takeInjected k s) := by
  unfold takeInjected
  exact Keeps.upd h0

theorem chargeMove_keeps {m : Move} {s : State} (h0 : Keeps b z s) : Keeps b z (chargeMove m s) := by
  unfold chargeMove
  split
  · exact chargeRate_keeps h0
  · exact h0

theorem forwardInjected_keeps {s : State} (h0 : Keeps b z s) : Keeps b z (forwardInjected s) := by
  unfold forwardInjected
  extract_lets -underBinder -merge -useContext +onlyGivenNames _
  split
  · exact chargeMove_keeps (makeMove_keeps (fun _ h2 => takeInjected_keeps h2) h0)
  · exact Keeps.foldl (fun _ _ h4 => makeMove_keeps (fun _ h5 => h5) h4) h0

theorem execPacketForward_keeps {from_ : ForwardSource} {s : State} (h0 : Keeps b z s) : KeepsA b z (execPacketForward from_ s) := by
  unfold execPacketForward
  refine live_keeps h0 ?_
  intro _ h1
  refine onlyIf_keeps ?_ h1
  intro _ h2
  split
  · exact prewarmKick_keeps (forwardInput_keeps h2)
  · exact prewarmKick_keeps (forwardInjected_keeps h2)

end Sys2Proof.Laws
end

