-- ==== Sys2Proof/Laws/KeepsLanes.lean ====
section
/-! SUPPORT. Laws/KeepsLanes.lean: what the functions of the lane instructions keep, one lemma each. -/

namespace Sys2Proof.Laws

set_option Elab.async false -- a thousand proofs at once would need a thread each

open Sys2Proof Sys2Proof.Machine

variable {b : Bool} {z : State}

/-! ### Machine/Lanes.lean -/

theorem serve_keeps {t : Tid} {k : IssueClass} {s : State} (h0 : Keeps b z s) : Keeps b z (serve t k s) := by
  unfold serve
  exact Keeps.upd h0

theorem lane_keeps {tid : Tid} {opc : Nat} {w : InsFields} {legal : Bool} {run : Comm → Machine.Ctx → Thread → State → State} {s : State} (h0 : ∀ y0 y1 y2 y3, Keeps b z y3 → Keeps b z (run y0 y1 y2 y3)) (h1 : Keeps b z s) : Keeps b z (lane tid opc w legal run s) := by
  unfold lane
  split
  · exact h1
  · split
    · exact h1
    · split
      · exact h1
      · refine Keeps.ite (fun _ => h1) ?_
        intro _
        split
        · exact h1
        · exact faultThread_keeps h1
        · exact Keeps.ite (fun _ => h1) (fun _ => Keeps.ite (fun _ => faultThread_keeps h1) (fun _ => h0 _ _ _ _ (serve_keeps (modCtx_keeps h1))))

theorem onThread_keeps {f : Thread → Thread} {a1 : Comm} {a2 : Ctx} {t : Thread} {s : State} (h0 : ∀ y0, y0.Sound → (f y0).Sound) (h1 : Keeps b z s) : Keeps b z (onThread f a1 a2 t s) := by
  unfold onThread
  exact modThread_keeps (fun _ hq => stepOn_sound (h0 _ hq)) h1

theorem alu_keeps {tid : Tid} {opc : Nat} {w : InsFields} {f : W64 → W64 → W64} {s : State} (h0 : Keeps b z s) : Keeps b z (alu tid opc w f s) := by
  unfold alu
  exact lane_keeps (fun _ _ _ _ h1 => onThread_keeps (fun _ hq => setS_sound hq) h1) h0

theorem execAdd_keeps {t : Tid} {w : InsFields} {s : State} (h0 : Keeps b z s) : KeepsA b z (execAdd t w s) := by
  unfold execAdd
  exact live_keeps h0 (fun _ h1 => alu_keeps h1)

theorem execSub_keeps {t : Tid} {w : InsFields} {s : State} (h0 : Keeps b z s) : KeepsA b z (execSub t w s) := by
  unfold execSub
  exact live_keeps h0 (fun _ h1 => alu_keeps h1)

theorem execAnd_keeps {t : Tid} {w : InsFields} {s : State} (h0 : Keeps b z s) : KeepsA b z (execAnd t w s) := by
  unfold execAnd
  exact live_keeps h0 (fun _ h1 => alu_keeps h1)

theorem execOr_keeps {t : Tid} {w : InsFields} {s : State} (h0 : Keeps b z s) : KeepsA b z (execOr t w s) := by
  unfold execOr
  exact live_keeps h0 (fun _ h1 => alu_keeps h1)

theorem execXor_keeps {t : Tid} {w : InsFields} {s : State} (h0 : Keeps b z s) : KeepsA b z (execXor t w s) := by
  unfold execXor
  exact live_keeps h0 (fun _ h1 => alu_keeps h1)

theorem execMul_keeps {t : Tid} {w : InsFields} {s : State} (h0 : Keeps b z s) : KeepsA b z (execMul t w s) := by
  unfold execMul
  exact live_keeps h0 (fun _ h1 => alu_keeps h1)

theorem execShl_keeps {t : Tid} {w : InsFields} {s : State} (h0 : Keeps b z s) : KeepsA b z (execShl t w s) := by
  unfold execShl
  exact live_keeps h0 (fun _ h1 => alu_keeps h1)

theorem execShr_keeps {t : Tid} {w : InsFields} {s : State} (h0 : Keeps b z s) : KeepsA b z (execShr t w s) := by
  unfold execShr
  exact live_keeps h0 (fun _ h1 => alu_keeps h1)

theorem execSar_keeps {t : Tid} {w : InsFields} {s : State} (h0 : Keeps b z s) : KeepsA b z (execSar t w s) := by
  unfold execSar
  exact live_keeps h0 (fun _ h1 => alu_keeps h1)

theorem execCmp_keeps {t : Tid} {w : InsFields} {s : State} (h0 : Keeps b z s) : KeepsA b z (execCmp t w s) := by
  unfold execCmp
  extract_lets -underBinder -merge -useContext +onlyGivenNames _
  exact live_keeps h0 (fun _ h2 => lane_keeps (fun _ _ _ _ h3 => onThread_keeps (fun _ hq => setS_sound hq) h3) h2)

theorem execMovi_keeps {t : Tid} {w : InsFields} {s : State} (h0 : Keeps b z s) : KeepsA b z (execMovi t w s) := by
  unfold execMovi
  exact live_keeps h0 (fun _ h1 => lane_keeps (fun _ _ _ _ h2 => onThread_keeps (fun _ hq => setS_sound hq) h2) h1)

theorem execBr_keeps {t : Tid} {w : InsFields} {s : State} (h0 : Keeps b z s) : KeepsA b z (execBr t w s) := by
  unfold execBr
  exact live_keeps h0 (fun _ h1 => lane_keeps (fun _ _ _ _ h2 => Keeps.ite (fun _ => modThread_keeps (fun _ hq => hq) h2) (fun _ => modThread_keeps (fun _ hq => stepOn_sound hq) h2)) h1)

theorem execYield_keeps {t : Tid} {w : InsFields} {s : State} (h0 : Keeps b z s) : KeepsA b z (execYield t w s) := by
  unfold execYield
  exact live_keeps h0 (fun _ h1 => lane_keeps (fun _ _ _ _ h2 => onThread_keeps (fun _ hq => hq) h2) h1)

theorem execEndThread_keeps {t : Tid} {w : InsFields} {s : State} (h0 : Keeps b z s) : KeepsA b z (execEndThread t w s) := by
  unfold execEndThread
  exact live_keeps h0 (fun _ h1 => lane_keeps (fun _ _ _ _ h2 => Keeps.ite (fun _ => modThread_keeps (fun _ hq => hq) h2) (fun _ => storesDone_keeps h2)) h1)

theorem execSpawn_keeps {t : Tid} {w : InsFields} {s : State} (h0 : Keeps b z s) : KeepsA b z (execSpawn t w s) := by
  unfold execSpawn
  refine live_keeps h0 ?_
  intro _ h1
  refine lane_keeps ?_ h1
  intro _ _ _ _ h2
  extract_lets -underBinder -merge -useContext +onlyGivenNames _
  refine Keeps.ite (fun _ => faultThread_keeps h2) (fun _ => ?_)
  split
  · exact modThread_keeps (fun _ hq => stepOn_sound (setS_sound hq)) h2
  · split
    · exact faultThread_keeps h2
    · split
      · extract_lets -underBinder -merge -useContext +onlyGivenNames _ _
        exact modThread_keeps (fun _ hq => stepOn_sound (setS_sound hq)) (Keeps.upd h2 (thread := fun h => append_all h.thread (List.forall_mem_singleton.2 ⟨childRegs_length _ _ _, rfl⟩)))
      · exact modThread_keeps (fun _ hq => stepOn_sound (setS_sound hq)) h2

theorem execSync_keeps {t : Tid} {w : InsFields} {s : State} (h0 : Keeps b z s) : KeepsA b z (execSync t w s) := by
  unfold execSync
  exact live_keeps h0 (fun _ h1 => lane_keeps (fun _ _ _ _ h2 => syncKick_keeps (modThread_keeps (fun _ hq => hq) h2)) h1)

theorem execTime_keeps {t : Tid} {w : InsFields} {s : State} (h0 : Keeps b z s) : KeepsA b z (execTime t w s) := by
  unfold execTime
  exact live_keeps h0 (fun _ h1 => lane_keeps (fun _ _ _ _ h2 => modThread_keeps (fun _ hq => stepOn_sound (setS_sound hq)) h2) h1)

theorem execSetres_keeps {t : Tid} {w : InsFields} {s : State} (h0 : Keeps b z s) : KeepsA b z (execSetres t w s) := by
  unfold execSetres
  exact live_keeps h0 (fun _ h1 => lane_keeps (fun _ _ _ _ h2 => modThread_keeps (fun _ hq => stepOn_sound hq) (modCtx_keeps h2)) h1)

theorem execTrap_keeps {t : Tid} {w : InsFields} {s : State} (h0 : Keeps b z s) : KeepsA b z (execTrap t w s) := by
  unfold execTrap
  exact live_keeps h0 (fun _ h1 => lane_keeps (fun _ _ _ _ h2 => faultWith_keeps h2) h1)

theorem access_keeps {c : Comm} {y : Thread} {a : W64} {n : Nat} {here : State → State} {far : Coord → State → State} {s : State} (h0 : ∀ y0, Keeps b z y0 → Keeps b z (here y0)) (h1 : ∀ y0 y1, Keeps b z y1 → Keeps b z (far y0 y1)) (h2 : Keeps b z s) : Keeps b z (access c y a n here far s) := by
  unfold access
  refine Keeps.ite (fun _ => faultThread_keeps h2) (fun _ => ?_)
  split
  · exact faultThread_keeps h2
  · exact Keeps.ite (fun _ => faultThread_keeps h2) (fun _ => h0 _ h2)
  · exact h1 _ _ h2

theorem whenRead_keeps {y : Thread} {ps : List (Nat × Nat)} {f : State → State} {s : State} (h0 : ∀ y0, Keeps b z y0 → Keeps b z (f y0)) (h1 : Keeps b z s) : Keeps b z (whenRead y ps f s) := by
  unfold whenRead
  exact Keeps.ite (fun _ => useBus_keeps (h0 _ h1)) (fun _ => stall_keeps (askBus_keeps h1))

theorem loadAt_keeps {c : Comm} {y : Thread} {a : W64} {n : Nat} {owner : ReqOwner} {f : Bytes → Thread → Thread} {s : State} (h0 : ∀ (l : Bytes) (q : Thread), q.Sound → (f l q).Sound)
    (h1 : Keeps b z s) : Keeps b z (loadAt c y a n owner f s) := by
  unfold loadAt
  exact access_keeps (fun _ h3 => whenRead_keeps (fun _ h2 => modThread_keeps (fun _ hq => stepOn_sound (h0 _ _ hq)) h2) h3) (fun _ _ h3 => Keeps.ite (fun _ => stall_keeps h3) (fun _ => modThread_keeps (fun _ hq => hq) (issueReq_keeps h3))) h1

theorem storeAt_keeps {c : Comm} {y : Thread} {a : W64} {bytes : Bytes} {s : State} (h0 : Keeps b z s) : Keeps b z (storeAt c y a bytes s) := by
  unfold storeAt
  exact access_keeps (fun _ h1 => modThread_keeps (fun _ hq => hq) h1) (fun _ _ h2 => Keeps.ite (fun _ => stall_keeps h2) (fun _ => modThread_keeps (fun _ hq => hq) (issueReq_keeps h2))) h0

theorem execLd_keeps {t : Tid} {w : InsFields} {s : State} (h0 : Keeps b z s) : KeepsA b z (execLd t w s) := by
  unfold execLd
  extract_lets -underBinder -merge -useContext +onlyGivenNames _
  exact live_keeps h0 (fun _ h2 => lane_keeps (fun _ _ _ _ h3 => loadAt_keeps (fun _ _ hq => setS_sound hq) h3) h2)

theorem execSt_keeps {t : Tid} {w : InsFields} {s : State} (h0 : Keeps b z s) : KeepsA b z (execSt t w s) := by
  unfold execSt
  exact live_keeps h0 (fun _ h1 => lane_keeps (fun _ _ _ _ h2 => storeAt_keeps h2) h1)

theorem execVld_keeps {t : Tid} {w : InsFields} {s : State} (h0 : Keeps b z s) : KeepsA b z (execVld t w s) := by
  unfold execVld
  refine live_keeps h0 ?_
  intro _ h1
  refine lane_keeps ?_ h1
  intro _ _ _ _ h2
  refine Keeps.ite (fun _ => loadAt_keeps (fun _ _ hq => setV_sound hq) h2) (fun _ => ?_)
  split
  · exact faultThread_keeps h2
  · extract_lets -underBinder -merge -useContext +onlyGivenNames _
    exact modThread_keeps (fun _ hq => stepOn_sound (setV_sound hq)) h2

theorem execVst_keeps {t : Tid} {w : InsFields} {s : State} (h0 : Keeps b z s) : KeepsA b z (execVst t w s) := by
  unfold execVst
  exact live_keeps h0 (fun _ h1 => lane_keeps (fun _ _ _ _ h2 => storeAt_keeps h2) h1)

theorem execFence_keeps {t : Tid} {w : InsFields} {s : State} (h0 : Keeps b z s) : KeepsA b z (execFence t w s) := by
  unfold execFence
  exact live_keeps h0 (fun _ h1 => lane_keeps (fun _ _ _ _ h2 => Keeps.ite (fun _ => modThread_keeps (fun _ hq => hq) h2) (fun _ => storesDone_keeps h2)) h1)

theorem slotWrite_keeps {y : Thread} {o : Nat} {bb : Bytes} {s : State} (h0 : Keeps b z s) : Keeps b z (slotWrite y o bb s) := by
  unfold slotWrite
  exact Keeps.upd h0 (slotForm := fun h => memWrite_wf _ _ h.slotForm)

theorem execSld_keeps {t : Tid} {w : InsFields} {s : State} (h0 : Keeps b z s) : KeepsA b z (execSld t w s) := by
  unfold execSld
  refine live_keeps h0 ?_
  intro _ h1
  refine lane_keeps ?_ h1
  intro _ _ _ _ h2
  extract_lets -underBinder -merge -useContext +onlyGivenNames _
  exact Keeps.ite (fun _ => faultThread_keeps h2) (fun _ => Keeps.ite (fun _ => faultThread_keeps h2) (fun _ => modThread_keeps (fun _ hq => stepOn_sound (setV_sound hq)) h2))

theorem execSst_keeps {t : Tid} {w : InsFields} {s : State} (h0 : Keeps b z s) : KeepsA b z (execSst t w s) := by
  unfold execSst
  refine live_keeps h0 ?_
  intro _ h1
  refine lane_keeps ?_ h1
  intro _ _ _ _ h2
  extract_lets -underBinder -merge -useContext +onlyGivenNames _
  exact Keeps.ite (fun _ => faultThread_keeps h2) (fun _ => Keeps.ite (fun _ => faultThread_keeps h2) (fun _ => modThread_keeps (fun _ hq => stepOn_sound hq) (slotWrite_keeps h2)))

theorem execVaddf_keeps {t : Tid} {w : InsFields} {s : State} (h0 : Keeps b z s) : KeepsA b z (execVaddf t w s) := by
  unfold execVaddf
  refine live_keeps h0 ?_
  intro _ h1
  refine lane_keeps ?_ h1
  intro _ _ _ _ h2
  extract_lets -underBinder -merge -useContext +onlyGivenNames _ _ g3
  have h4 : ∀ x0, Keeps b z (g3 x0) := by
    exact fun _ => modCtx_keeps h2
  clear_value g3
  refine Keeps.ite ?_ ?_
  · intro _
    extract_lets -underBinder -merge -useContext +onlyGivenNames _
    exact modThread_keeps (fun _ hq => stepOn_sound (setV_sound hq)) (h4 _)
  · intro _
    refine Keeps.ite (fun _ => faultThread_keeps h2) ?_
    intro _
    extract_lets -underBinder -merge -useContext +onlyGivenNames _ _ _
    exact modThread_keeps (fun _ hq => stepOn_sound (setV_sound (setV_sound hq))) (h4 _)

theorem execVmm_keeps {t : Tid} {w : InsFields} {s : State} (h0 : Keeps b z s) : KeepsA b z (execVmm t w s) := by
  unfold execVmm
  extract_lets -underBinder -merge -useContext +onlyGivenNames _ _ _
  exact live_keeps h0 (fun _ h4 => lane_keeps (fun _ _ _ _ h5 => onThread_keeps (fun _ hq => setV_sound hq) h5) h4)

theorem execVcvt_keeps {t : Tid} {w : InsFields} {s : State} (h0 : Keeps b z s) : KeepsA b z (execVcvt t w s) := by
  unfold execVcvt
  extract_lets -underBinder -merge -useContext +onlyGivenNames _ _
  refine live_keeps h0 ?_
  intro _ h3
  refine lane_keeps ?_ h3
  intro _ _ _ _ h4
  extract_lets -underBinder -merge -useContext +onlyGivenNames _ _
  exact modThread_keeps (fun _ hq => stepOn_sound (setV_sound hq)) (modCtx_keeps h4)

theorem execVbit_keeps {t : Tid} {w : InsFields} {s : State} (h0 : Keeps b z s) : KeepsA b z (execVbit t w s) := by
  unfold execVbit
  exact live_keeps h0 (fun _ h1 => lane_keeps (fun _ _ _ _ h2 => onThread_keeps (fun _ hq => setV_sound hq) h2) h1)

theorem execVbcast_keeps {t : Tid} {w : InsFields} {s : State} (h0 : Keeps b z s) : KeepsA b z (execVbcast t w s) := by
  unfold execVbcast
  exact live_keeps h0 (fun _ h1 => lane_keeps (fun _ _ _ _ h2 => onThread_keeps (fun _ hq => setV_sound hq) h2) h1)

theorem markUse_keeps {y : Thread} {slot : Nat} {n : Nat} {s : State} (h0 : Keeps b z s) : Keeps b z (markUse y slot n s) := by
  unfold markUse
  extract_lets -underBinder -merge -useContext +onlyGivenNames _
  exact slotWrite_keeps h0

theorem lacPut_keeps {y : Thread} {n : Nat} {v : BitVec 640 × BitVec 5} {s : State} (h0 : Keeps b z s) : Keeps b z (lacPut y n v s) := by
  unfold lacPut
  extract_lets -underBinder -merge -useContext +onlyGivenNames _
  exact markUse_keeps (slotWrite_keeps (slotWrite_keeps h0))

theorem intAdd_keeps {y : Thread} {n : Nat} {v : Int} {s : State} (h0 : Keeps b z s) : Keeps b z (intAdd y n v s) := by
  unfold intAdd
  extract_lets -underBinder -merge -useContext +onlyGivenNames _ _ _ s4
  have h5 : Keeps b z s4 := Keeps.ite (fun _ => slotWrite_keeps h0) (fun _ => bumpFree_keeps (slotWrite_keeps h0))
  clear_value s4
  exact markUse_keeps h5

theorem lacClear_keeps {y : Thread} {n : Nat} {s : State} (h0 : Keeps b z s) : Keeps b z (lacClear y n s) := by
  unfold lacClear
  extract_lets -underBinder -merge -useContext +onlyGivenNames _
  exact slotWrite_keeps (slotWrite_keeps h0)

theorem intClear_keeps {y : Thread} {n : Nat} {s : State} (h0 : Keeps b z s) : Keeps b z (intClear y n s) := by
  unfold intClear
  extract_lets -underBinder -merge -useContext +onlyGivenNames _
  exact slotWrite_keeps (slotWrite_keeps h0)

theorem accumulate_keeps {dt : Nat} {term : Nat → FVal} {iterm : Nat → Int} {w : InsFields} {y : Thread} {s : State} (h0 : Keeps b z s) : Keeps b z (accumulate dt term iterm w y s) := by
  unfold accumulate
  extract_lets -underBinder -merge -useContext +onlyGivenNames _
  refine Keeps.ite (fun _ => faultThread_keeps h0) (fun _ => ?_)
  refine modThread_keeps (fun _ hq => stepOn_sound hq) ?_
  refine Keeps.foldl (fun t3 _ h2 => ?_) h0
  refine Keeps.ite (fun _ => intAdd_keeps h2) (fun _ => ?_)
  extract_lets -underBinder -merge -useContext +onlyGivenNames _
  exact lacPut_keeps h2

theorem execAccx_keeps {t : Tid} {w : InsFields} {s : State} (h0 : Keeps b z s) : KeepsA b z (execAccx t w s) := by
  unfold execAccx
  extract_lets -underBinder -merge -useContext +onlyGivenNames _ _
  refine live_keeps h0 ?_
  intro _ h3
  refine lane_keeps ?_ h3
  intro _ _ _ _ h4
  extract_lets -underBinder -merge -useContext +onlyGivenNames _
  exact accumulate_keeps h4

theorem execAccp_keeps {t : Tid} {w : InsFields} {s : State} (h0 : Keeps b z s) : KeepsA b z (execAccp t w s) := by
  unfold execAccp
  extract_lets -underBinder -merge -useContext +onlyGivenNames _ _
  refine live_keeps h0 ?_
  intro _ h3
  refine lane_keeps ?_ h3
  intro _ _ _ _ h4
  extract_lets -underBinder -merge -useContext +onlyGivenNames _ _
  exact accumulate_keeps h4

theorem addLp_keeps {y : Thread} {n : Nat} {bb : Bytes} {s : State} (h0 : Keeps b z s) : Keeps b z (addLp y n bb s) := by
  unfold addLp
  split
  · exact lacPut_keeps h0
  · exact bumpFree_keeps (slotWrite_keeps h0)

theorem execAcclp_keeps {t : Tid} {w : InsFields} {s : State} (h0 : Keeps b z s) : KeepsA b z (execAcclp t w s) := by
  unfold execAcclp
  refine live_keeps h0 ?_
  intro _ h1
  refine lane_keeps ?_ h1
  intro _ _ _ _ h2
  extract_lets -underBinder -merge -useContext +onlyGivenNames _ _
  exact Keeps.ite (fun _ => faultThread_keeps h2) (fun _ => modThread_keeps (fun _ hq => stepOn_sound hq) (Keeps.foldl (fun t6 _ h5 => addLp_keeps h5) h2))

theorem execAccesc_keeps {t : Tid} {w : InsFields} {s : State} (h0 : Keeps b z s) : KeepsA b z (execAccesc t w s) := by
  unfold execAccesc
  refine live_keeps h0 ?_
  intro _ h1
  refine lane_keeps ?_ h1
  intro _ _ _ _ h2
  extract_lets -underBinder -merge -useContext +onlyGivenNames _
  refine Keeps.ite (fun _ => faultThread_keeps h2) (fun _ => ?_)
  refine Keeps.ite (fun _ => faultThread_keeps h2) (fun _ => ?_)
  extract_lets -underBinder -merge -useContext +onlyGivenNames _ _
  exact modThread_keeps (fun _ hq => stepOn_sound hq) (lacPut_keeps h2)

theorem execAccDrain_keeps {t : Tid} {w : InsFields} {s : State} (h0 : Keeps b z s) : KeepsA b z (execAccDrain t w s) := by
  unfold execAccDrain
  extract_lets -underBinder -merge -useContext +onlyGivenNames _ _ _
  refine live_keeps h0 ?_
  intro _ h4
  refine lane_keeps ?_ h4
  intro _ _ _ _ h5
  extract_lets -underBinder -merge -useContext +onlyGivenNames _ _
  refine Keeps.ite (fun _ => ?_) (fun _ => ?_)
  · refine Keeps.ite (fun _ => faultThread_keeps h5) (fun _ => ?_)
    refine Keeps.ite (fun _ => faultThread_keeps h5) (fun _ => ?_)
    extract_lets -underBinder -merge -useContext +onlyGivenNames _ _
    exact modThread_keeps (fun _ hq => stepOn_sound (setV_sound (setV_sound hq))) (modCtx_keeps (lacClear_keeps h5))
  · refine Keeps.ite (fun _ => faultThread_keeps h5) (fun _ => ?_)
    extract_lets -underBinder -merge -useContext +onlyGivenNames _ s11
    have h12 : Keeps b z s11 := Keeps.foldl (fun t14 _ h13 => Keeps.ite (fun _ => intClear_keeps h13) (fun _ => lacClear_keeps h13)) h5
    clear_value s11
    exact modThread_keeps (fun _ hq => stepOn_sound (setV_sound hq)) (modCtx_keeps h12)

theorem execTolp_keeps {t : Tid} {w : InsFields} {s : State} (h0 : Keeps b z s) : KeepsA b z (execTolp t w s) := by
  unfold execTolp
  refine live_keeps h0 ?_
  intro _ h1
  refine lane_keeps ?_ h1
  intro _ _ _ _ h2
  extract_lets -underBinder -merge -useContext +onlyGivenNames _
  refine Keeps.ite (fun _ => faultThread_keeps h2) (fun _ => ?_)
  extract_lets -underBinder -merge -useContext +onlyGivenNames _ s5
  have h6 : Keeps b z s5 := Keeps.foldl (fun t8 _ h7 => Keeps.ite (fun _ => lacClear_keeps h7) (fun _ => h7)) h2
  clear_value s5
  extract_lets -underBinder -merge -useContext +onlyGivenNames _ _
  exact modThread_keeps (fun _ hq => stepOn_sound (setS_sound (setV_sound hq))) (modCtx_keeps h6)

theorem execSlotclr_keeps {t : Tid} {w : InsFields} {s : State} (h0 : Keeps b z s) : KeepsA b z (execSlotclr t w s) := by
  unfold execSlotclr
  refine live_keeps h0 ?_
  intro _ h1
  refine lane_keeps ?_ h1
  intro _ _ _ _ h2
  extract_lets -underBinder -merge -useContext +onlyGivenNames _ _
  exact Keeps.ite (fun _ => faultThread_keeps h2) (fun _ => modThread_keeps (fun _ hq => stepOn_sound hq) (resetSlots_keeps h2))

theorem withSource_keeps {c : Comm} {y : Thread} {w : InsFields} {n : Nat} {f : State → State} {s : State} (h0 : ∀ y0, Keeps b z y0 → Keeps b z (f y0)) (h1 : Keeps b z s) : Keeps b z (withSource c y w n f s) := by
  unfold withSource
  extract_lets -underBinder -merge -useContext +onlyGivenNames _
  split
  · exact faultThread_keeps h1
  · refine Keeps.ite (fun _ => Keeps.ite (fun _ => h0 _ h1) (fun _ => Keeps.ite (fun _ => stall_keeps h1) (fun _ => modThread_keeps (fun _ hq => hq) (issueReq_keeps h1)))) ?_
    intro _
    extract_lets -underBinder -merge -useContext +onlyGivenNames _
    exact Keeps.ite (fun _ => h0 _ h1) (fun _ => stall_keeps (askBus_keeps h1))

theorem csendGo_keeps {c : Comm} {x : Machine.Ctx} {y : Thread} {w : InsFields} {to_ : List Nat × Option (BitVec 3 × Coord)} {n : Nat} {s : State} (h0 : Keeps b z s) : Keeps b z (csendGo c x y w to_ n s) := by
  unfold csendGo
  extract_lets -underBinder -merge -useContext +onlyGivenNames _
  exact Keeps.ite (fun _ => modThread_keeps (fun _ hq => hq) (useBus_keeps (sendChunk_keeps (modCtx_keeps h0)))) (fun _ => stall_keeps h0)

theorem execCsend_keeps {t : Tid} {w : InsFields} {s : State} (h0 : Keeps b z s) : KeepsA b z (execCsend t w s) := by
  unfold execCsend
  refine live_keeps h0 ?_
  intro _ h1
  refine lane_keeps ?_ h1
  intro _ _ _ _ h2
  extract_lets -underBinder -merge -useContext +onlyGivenNames _ _
  split
  · exact faultThread_keeps h2
  · refine Keeps.ite (fun _ => faultThread_keeps h2) ?_
    intro _
    refine withSource_keeps ?_ h2
    intro _ h5
    extract_lets -underBinder -merge -useContext +onlyGivenNames _
    exact Keeps.ite (fun _ => faultThread_keeps h5) (fun _ => withSource_keeps (fun _ h6 => csendGo_keeps h6) h5)

theorem execCrecv_keeps {t : Tid} {w : InsFields} {s : State} (h0 : Keeps b z s) : KeepsA b z (execCrecv t w s) := by
  unfold execCrecv
  refine live_keeps h0 ?_
  intro _ h1
  refine lane_keeps ?_ h1
  intro _ _ _ _ h2
  split
  · exact modThread_keeps (fun _ hq => hq) (modCtx_keeps h2)
  · extract_lets -underBinder -merge -useContext +onlyGivenNames _ _ _
    exact modThread_keeps (fun _ hq => stepOn_sound (setS_sound hq)) (modCtx_keeps h2)

theorem execCdone_keeps {t : Tid} {w : InsFields} {s : State} (h0 : Keeps b z s) : KeepsA b z (execCdone t w s) := by
  unfold execCdone
  refine live_keeps h0 ?_
  intro _ h1
  refine lane_keeps ?_ h1
  intro _ _ _ _ h2
  split
  · exact faultThread_keeps h2
  · extract_lets -underBinder -merge -useContext +onlyGivenNames _
    exact grantKick_keeps (confirmChunk_keeps (modThread_keeps (fun _ hq => hq) (modCtx_keeps h2)))

end Sys2Proof.Laws
end

