-- ==== Sys2Proof/Laws/KeepsExec.lean ====
section
/-! SUPPORT. Laws/KeepsExec.lean: what the functions of every command keep, one lemma each. -/

namespace Sys2Proof.Laws

set_option Elab.async false -- a thousand proofs at once would need a thread each

open Sys2Proof Sys2Proof.Machine

variable {b : Bool} {z : State}

/-- The commands that keep the timestamp: all but the two cold resets and the keeper's tick (02:R30). -/
def keepsTime : Instr → Bool
  | .coldReset .. | .powerLoss | .keeperTick => false
  | _ => true

/-- What every command keeps. -/
theorem exec_keeps (c : Instr) (s : State) : KeepsA (keepsTime c) s (exec c s) := by
  cases c with
  | coldReset => exact execColdReset_keeps (b := true) (.refl s)
  | powerLoss => exact execPowerLoss_keeps (b := true) (.refl s)
  | warmReset => exact execWarmReset_keeps (.refl s)
  | hostLinkReset => exact execHostLinkReset_keeps (.refl s)
  | powerupSelftest => exact execPowerupSelftest_keeps (.refl s)
  | authentication => exact execAuthentication_keeps (.refl s)
  | octozReady => exact execOctozReady_keeps (.refl s)
  | bootWatchdog => exact execBootWatchdog_keeps (.refl s)
  | dozeEntry => exact execDozeEntry_keeps (.refl s)
  | napEntry => exact execNapEntry_keeps (.refl s)
  | deepEntry => exact execDeepEntry_keeps (.refl s)
  | deepEntryDone => exact execDeepEntryDone_keeps (.refl s)
  | wakeDone => exact execWakeDone_keeps (.refl s)
  | wakePin => exact execWakePin_keeps (.refl s)
  | alarmFire => exact execAlarmFire_keeps (.refl s)
  | heraldHoldExpiry => exact execHeraldHoldExpiry_keeps (.refl s)
  | sidebandWrite => exact execSidebandWrite_keeps (.refl s)
  | sidebandRead => exact execSidebandRead_keeps (.refl s)
  | sidebandTimeout => exact execSidebandTimeout_keeps (.refl s)
  | lowHalfRead => exact execLowHalfRead_keeps (.refl s)
  | registerWrite => exact execRegisterWrite_keeps (.refl s)
  | powerTimerWrite => exact execPowerTimerWrite_keeps (.refl s)
  | alarmWrite => exact execAlarmWrite_keeps (.refl s)
  | alarmArm => exact execAlarmArm_keeps (.refl s)
  | wakeGo => exact execWakeGo_keeps (.refl s)
  | resetCtl => exact execResetCtl_keeps (.refl s)
  | recoveryGo => exact execRecoveryGo_keeps (.refl s)
  | lagCtlClear => exact execLagCtlClear_keeps (.refl s)
  | tanneryApertureWrite => exact execTanneryApertureWrite_keeps (.refl s)
  | pcieConfigRequest => exact execPcieConfigRequest_keeps (.refl s)
  | bar2Access => exact execBar2Access_keeps (.refl s)
  | bar4Access => exact execBar4Access_keeps (.refl s)
  | sqTailWrite => exact execSqTailWrite_keeps (.refl s)
  | cqHeadWrite => exact execCqHeadWrite_keeps (.refl s)
  | queueEnable => exact execQueueEnable_keeps (.refl s)
  | queueDisable => exact execQueueDisable_keeps (.refl s)
  | fetch => exact execFetch_keeps (.refl s)
  | imodTimer => exact execImodTimer_keeps (.refl s)
  | ident => exact execIdent_keeps (.refl s)
  | configSet => exact execConfigSet_keeps (.refl s)
  | powerPolicy => exact execPowerPolicy_keeps (.refl s)
  | prewarm => exact execPrewarm_keeps (.refl s)
  | windowMap => exact execWindowMap_keeps (.refl s)
  | windowUnmap => exact execWindowUnmap_keeps (.refl s)
  | rankmapLoad => exact execRankmapLoad_keeps (.refl s)
  | rankmapPatch => exact execRankmapPatch_keeps (.refl s)
  | commCreate => exact execCommCreate_keeps (.refl s)
  | commDestroy => exact execCommDestroy_keeps (.refl s)
  | drain => exact execDrain_keeps (.refl s)
  | drainRelease => exact execDrainRelease_keeps (.refl s)
  | routeUpdate => exact execRouteUpdate_keeps (.refl s)
  | selftest => exact execSelftest_keeps (.refl s)
  | logRead => exact execLogRead_keeps (.refl s)
  | fwUpdateWrite => exact execFwUpdateWrite_keeps (.refl s)
  | fwUpdateActivate => exact execFwUpdateActivate_keeps (.refl s)
  | fwUpdateCommit => exact execFwUpdateCommit_keeps (.refl s)
  | progLoad => exact execProgLoad_keeps (.refl s)
  | collSubmit => exact execCollSubmit_keeps (.refl s)
  | collectiveComplete => exact execCollectiveComplete_keeps (.refl s)
  | commandTimeout => exact execCommandTimeout_keeps (.refl s)
  | put => exact execPut_keeps (.refl s)
  | get => exact execGet_keeps (.refl s)
  | atomic => exact execAtomic_keeps (.refl s)
  | tmOp => exact execTmOp_keeps (.refl s)
  | accumArm => exact execAccumArm_keeps (.refl s)
  | accumDisarm => exact execAccumDisarm_keeps (.refl s)
  | tmFence => exact execTmFence_keeps (.refl s)
  | statePark => exact execStatePark_keeps (.refl s)
  | stateUnpark => exact execStateUnpark_keeps (.refl s)
  | stateFork => exact execStateFork_keeps (.refl s)
  | stateDrop => exact execStateDrop_keeps (.refl s)
  | routeDispatch => exact execRouteDispatch_keeps (.refl s)
  | combineAllreduce => exact execCombineAllreduce_keeps (.refl s)
  | contextSave => exact execContextSave_keeps (.refl s)
  | contextSaved => exact execContextSaved_keeps (.refl s)
  | contextRestore => exact execContextRestore_keeps (.refl s)
  | add => exact execAdd_keeps (.refl s)
  | sub => exact execSub_keeps (.refl s)
  | and => exact execAnd_keeps (.refl s)
  | or => exact execOr_keeps (.refl s)
  | xor => exact execXor_keeps (.refl s)
  | mul => exact execMul_keeps (.refl s)
  | shl => exact execShl_keeps (.refl s)
  | shr => exact execShr_keeps (.refl s)
  | sar => exact execSar_keeps (.refl s)
  | cmp => exact execCmp_keeps (.refl s)
  | movi => exact execMovi_keeps (.refl s)
  | br => exact execBr_keeps (.refl s)
  | yield => exact execYield_keeps (.refl s)
  | endThread => exact execEndThread_keeps (.refl s)
  | spawn => exact execSpawn_keeps (.refl s)
  | sync => exact execSync_keeps (.refl s)
  | time => exact execTime_keeps (.refl s)
  | setres => exact execSetres_keeps (.refl s)
  | trap => exact execTrap_keeps (.refl s)
  | ld => exact execLd_keeps (.refl s)
  | st => exact execSt_keeps (.refl s)
  | vld => exact execVld_keeps (.refl s)
  | vst => exact execVst_keeps (.refl s)
  | fence => exact execFence_keeps (.refl s)
  | sld => exact execSld_keeps (.refl s)
  | sst => exact execSst_keeps (.refl s)
  | vaddf => exact execVaddf_keeps (.refl s)
  | vmm => exact execVmm_keeps (.refl s)
  | vcvt => exact execVcvt_keeps (.refl s)
  | vbit => exact execVbit_keeps (.refl s)
  | vbcast => exact execVbcast_keeps (.refl s)
  | accx => exact execAccx_keeps (.refl s)
  | accp => exact execAccp_keeps (.refl s)
  | acclp => exact execAcclp_keeps (.refl s)
  | accesc => exact execAccesc_keeps (.refl s)
  | accDrain => exact execAccDrain_keeps (.refl s)
  | tolp => exact execTolp_keeps (.refl s)
  | slotclr => exact execSlotclr_keeps (.refl s)
  | csend => exact execCsend_keeps (.refl s)
  | crecv => exact execCrecv_keeps (.refl s)
  | cdone => exact execCdone_keeps (.refl s)
  | chunk => exact execChunk_keeps (.refl s)
  | chunkGrant => exact execChunkGrant_keeps (.refl s)
  | countChunk => exact execCountChunk_keeps (.refl s)
  | chunkRereq => exact execChunkRereq_keeps (.refl s)
  | chunkTimeout => exact execChunkTimeout_keeps (.refl s)
  | cinchUp => exact execCinchUp_keeps (.refl s)
  | cinchDown => exact execCinchDown_keeps (.refl s)
  | cinchRereq => exact execCinchRereq_keeps (.refl s)
  | cinchSetTimeout => exact execCinchSetTimeout_keeps (.refl s)
  | voteUp => exact execVoteUp_keeps (.refl s)
  | voteDown => exact execVoteDown_keeps (.refl s)
  | abortNotice port p => exact execAbortNotice_keeps (port := port) (p := p) (.refl s)
  | herald port p e => exact execHerald_keeps (port := port) (p := p) (emitter := e) (.refl s)
  | heraldFrame => exact execHeraldFrame_keeps (.refl s)
  | creditFrame => exact execCreditFrame_keeps (.refl s)
  | busyFrame => exact execBusyFrame_keeps (.refl s)
  | heraldFrameTimeout => exact execHeraldFrameTimeout_keeps (.refl s)
  | wakeFrame => exact execWakeFrame_keeps (.refl s)
  | deepFrame => exact execDeepFrame_keeps (.refl s)
  | resumeFrame => exact execResumeFrame_keeps (.refl s)
  | group => exact execGroup_keeps (.refl s)
  | retryReq => exact execRetryReq_keeps (.refl s)
  | ack => exact execAck_keeps (.refl s)
  | ackTimeout => exact execAckTimeout_keeps (.refl s)
  | credit => exact execCredit_keeps (.refl s)
  | identity => exact execIdentity_keeps (.refl s)
  | lpiReq => exact execLpiReq_keeps (.refl s)
  | lpiAck => exact execLpiAck_keeps (.refl s)
  | signalDetect => exact execSignalDetect_keeps (.refl s)
  | trainingDone => exact execTrainingDone_keeps (.refl s)
  | trainingStepTimeout => exact execTrainingStepTimeout_keeps (.refl s)
  | trainingRetry => exact execTrainingRetry_keeps (.refl s)
  | lockLoss => exact execLockLoss_keeps (.refl s)
  | farGone => exact execFarGone_keeps (.refl s)
  | gb2Fault => exact execGb2Fault_keeps (.refl s)
  | arbitrationWindow => exact execArbitrationWindow_keeps (.refl s)
  | packetStart => exact execPacketStart_keeps (.refl s)
  | packetForward => exact execPacketForward_keeps (.refl s)
  | putPacket => exact execPutPacket_keeps (.refl s)
  | getReq => exact execGetReq_keeps (.refl s)
  | laneStore => exact execLaneStore_keeps (.refl s)
  | laneLoad => exact execLaneLoad_keeps (.refl s)
  | atomicReq => exact execAtomicReq_keeps (.refl s)
  | readResp => exact execReadResp_keeps (.refl s)
  | atomicResp => exact execAtomicResp_keeps (.refl s)
  | missAck => exact execMissAck_keeps (.refl s)
  | drainMarker => exact execDrainMarker_keeps (.refl s)
  | e2eAck => exact execE2eAck_keeps (.refl s)
  | e2eAckSend => exact execE2eAckSend_keeps (.refl s)
  | e2eBusy => exact execE2eBusy_keeps (.refl s)
  | busyResend => exact execBusyResend_keeps (.refl s)
  | e2eRereq => exact execE2eRereq_keeps (.refl s)
  | rereqTimeout => exact execRereqTimeout_keeps (.refl s)
  | reissueTimeout => exact execReissueTimeout_keeps (.refl s)
  | flagRelease => exact execFlagRelease_keeps (.refl s)
  | rateRise => exact execRateRise_keeps (.refl s)
  | rateReset => exact execRateReset_keeps (.refl s)
  | probe => exact execProbe_keeps (.refl s)
  | probeAnswer => exact execProbeAnswer_keeps (.refl s)
  | probeTimeout => exact execProbeTimeout_keeps (.refl s)
  | lossNotice => exact execLossNotice_keeps (.refl s)
  | rejoinNotice => exact execRejoinNotice_keeps (.refl s)
  | degradedRoutingEnd => exact execDegradedRoutingEnd_keeps (.refl s)
  | tmOpExecute => exact execTmOpExecute_keeps (.refl s)
  | moduleDown => exact execModuleDown_keeps (.refl s)
  | patrolScrub => exact execPatrolScrub_keeps (.refl s)
  | laneError => exact execLaneError_keeps (.refl s)
  | stagingError => exact execStagingError_keeps (.refl s)
  | tanneryError => exact execTanneryError_keeps (.refl s)
  | lockstepMismatch => exact execLockstepMismatch_keeps (.refl s)
  | treeWatchdog => exact execTreeWatchdog_keeps (.refl s)
  | targetedSelftestEnd => exact execTargetedSelftestEnd_keeps (.refl s)
  | thermalWarning => exact execThermalWarning_keeps (.refl s)
  | throttle => exact execThrottle_keeps (.refl s)
  | thermalClear => exact execThermalClear_keeps (.refl s)
  | thermalTrip => exact execThermalTrip_keeps (.refl s)
  | tmTempReport => exact execTmTempReport_keeps (.refl s)
  | gb2Temperature => exact execGb2Temperature_keeps (.refl s)
  | extest => exact execExtest_keeps (.refl s)
  | idcode => exact execIdcode_keeps (.refl s)
  | samplePreload => exact execSamplePreload_keeps (.refl s)
  | bypass => exact execBypass_keeps (.refl s)
  | scanChain => exact execScanChain_keeps (.refl s)
  | memAccess => exact execMemAccess_keeps (.refl s)
  | treeHalt => exact execTreeHalt_keeps (.refl s)
  | fuseRead => exact execFuseRead_keeps (.refl s)
  | keeperTick => exact execKeeperTick_keeps (b := true) (.refl s)
  | wakeNRise => exact execWakeNRise_keeps (.refl s)
  | perstNRise => exact execPerstNRise_keeps (.refl s)
  | refclkStop => exact execRefclkStop_keeps (.refl s)
  | bar0Read => exact execBar0Read_keeps (.refl s)
  | pcieReadCompletion => exact execPcieReadCompletion_keeps (.refl s)
  | flashWriteDone => exact execFlashWriteDone_keeps (.refl s)

end Sys2Proof.Laws
end

