-- ==== Sys2Proof/WellFormed.lean ====
section
/-! DEFINITION. WellFormed.lean: the operands that a command of the interface can carry: existing ports, lanes and
queues, and the sizes that the rules of its row give. -/

namespace Sys2Proof

/-- A fabric port exists: 0 to 11 (07:R173). -/
def portWf (p : BitVec 4) : Bool := p.toNat < 12

/-- A lane thread exists: 168 physical lanes (13:R348). -/
def Tid.wf (t : Tid) : Bool := t.lane.toNat < 168

/-- A packet's payload has at most 8,192 bytes (08:R200). -/
def Packet.wf (p : Packet) : Bool := p.payload.length ≤ 8192

/-- A register access of 4 or 8 bytes at a multiple of its size (04:R92). -/
def accessWf (offset : W32) (size : Nat) : Bool := (size = 4 || size = 8) && offset.toNat % size = 0

/-- A targeted self-test's unit exists (16 Table 16-2). -/
def TestUnit.wf : TestUnit → Bool
  | .lane p => p.toNat < 168
  | .link p => portWf p
  | .tannery _ _ _ => true
  | .treePair _ => true
  | .staging p => p.toNat < 17

/-- A queue page, or the event ring page 64 (04:R94). -/
def pageWf (p : BitVec 7) : Bool := p.toNat ≤ 64

/-- A physical staging bank or GB2 unit that exists. -/
def unitWf (u : BitVec 2) : Bool := u.toNat < 3

/-- The commands whose operands name things that exist. -/
def Instr.wf : Instr → Bool
  | .coldReset _ _ _ => true
  | .powerLoss => true
  | .warmReset _ => true
  | .hostLinkReset _ => true
  | .powerupSelftest _ _ _ => true
  | .authentication => true
  | .octozReady _ _ => true
  | .bootWatchdog => true
  | .dozeEntry => true
  | .napEntry => true
  | .deepEntry => true
  | .deepEntryDone => true
  | .wakeDone => true
  | .wakePin => true
  | .alarmFire => true
  | .heraldHoldExpiry => true
  | .sidebandWrite _ words => decide (1 ≤ words.length) && decide (words.length ≤ 62)
  | .sidebandRead _ _ => true
  | .sidebandTimeout => true
  | .lowHalfRead _ _ => true
  | .registerWrite offset size _ => accessWf offset size
  | .powerTimerWrite _ _ _ => true
  | .alarmWrite _ _ _ => true
  | .alarmArm _ _ => true
  | .wakeGo _ _ => true
  | .resetCtl _ _ => true
  | .recoveryGo _ _ => true
  | .lagCtlClear _ => true
  | .tanneryApertureWrite _ _ _ => true
  | .pcieConfigRequest _ => true
  | .bar2Access _ => true
  | .bar4Access _ => true
  | .sqTailWrite _ _ => true
  | .cqHeadWrite page _ => pageWf page
  | .queueEnable page _ => pageWf page
  | .queueDisable page _ => pageWf page
  | .fetch _ => true
  | .imodTimer page => pageWf page
  | .ident _ _ => true
  | .configSet _ _ => true
  | .powerPolicy _ _ => true
  | .prewarm _ _ => true
  | .windowMap _ _ => true
  | .windowUnmap _ _ => true
  | .rankmapLoad _ _ => true
  | .rankmapPatch _ _ => true
  | .commCreate _ _ => true
  | .commDestroy _ _ => true
  | .drain _ _ => true
  | .drainRelease _ _ => true
  | .routeUpdate _ _ => true
  | .selftest _ _ => true
  | .logRead _ _ => true
  | .fwUpdateWrite _ _ => true
  | .fwUpdateActivate _ _ => true
  | .fwUpdateCommit _ _ => true
  | .progLoad _ _ => true
  | .collSubmit _ _ => true
  | .collectiveComplete _ => true
  | .commandTimeout _ => true
  | .put _ _ => true
  | .get _ _ => true
  | .atomic _ _ => true
  | .tmOp _ _ => true
  | .accumArm _ _ => true
  | .accumDisarm _ _ => true
  | .tmFence _ _ => true
  | .statePark _ _ => true
  | .stateUnpark _ _ => true
  | .stateFork _ _ => true
  | .stateDrop _ _ => true
  | .routeDispatch _ _ => true
  | .combineAllreduce _ _ => true
  | .contextSave => true
  | .contextSaved _ => true
  | .contextRestore _ => true
  | .add t _ => t.wf
  | .sub t _ => t.wf
  | .and t _ => t.wf
  | .or t _ => t.wf
  | .xor t _ => t.wf
  | .mul t _ => t.wf
  | .shl t _ => t.wf
  | .shr t _ => t.wf
  | .sar t _ => t.wf
  | .cmp t _ => t.wf
  | .movi t _ => t.wf
  | .br t _ => t.wf
  | .yield t _ => t.wf
  | .endThread t _ => t.wf
  | .spawn t _ => t.wf
  | .sync t _ => t.wf
  | .time t _ => t.wf
  | .setres t _ => t.wf
  | .trap t _ => t.wf
  | .ld t _ => t.wf
  | .st t _ => t.wf
  | .vld t _ => t.wf
  | .vst t _ => t.wf
  | .fence t _ => t.wf
  | .sld t _ => t.wf
  | .sst t _ => t.wf
  | .vaddf t _ => t.wf
  | .vmm t _ => t.wf
  | .vcvt t _ => t.wf
  | .vbit t _ => t.wf
  | .vbcast t _ => t.wf
  | .accx t _ => t.wf
  | .accp t _ => t.wf
  | .acclp t _ => t.wf
  | .accesc t _ => t.wf
  | .accDrain t _ => t.wf
  | .tolp t _ => t.wf
  | .slotclr t _ => t.wf
  | .csend t _ => t.wf
  | .crecv t _ => t.wf
  | .cdone t _ => t.wf
  | .chunk p => p.wf
  | .chunkGrant p => p.wf
  | .countChunk p => p.wf
  | .chunkRereq p => p.wf
  | .chunkTimeout _ _ _ _ _ _ => true
  | .cinchUp p => p.wf
  | .cinchDown p => p.wf
  | .cinchRereq p => p.wf
  | .cinchSetTimeout _ _ _ _ => true
  | .voteUp p => p.wf
  | .voteDown p => p.wf
  | .abortNotice port p => portWf port && p.wf
  | .herald port p _ => portWf port && p.wf
  | .heraldFrame port p _ => portWf port && p.wf
  | .creditFrame port => portWf port
  | .busyFrame port => portWf port
  | .heraldFrameTimeout port => portWf port
  | .wakeFrame port => portWf port
  | .deepFrame port => portWf port
  | .resumeFrame port => portWf port
  | .group port _ => portWf port
  | .retryReq port _ => portWf port
  | .ack port _ => portWf port
  | .ackTimeout port => portWf port
  | .credit port _ => portWf port
  | .identity port _ => portWf port
  | .lpiReq port _ => portWf port
  | .lpiAck port _ => portWf port
  | .signalDetect port => portWf port
  | .trainingDone port _ => portWf port
  | .trainingStepTimeout port => portWf port
  | .trainingRetry port => portWf port
  | .lockLoss port _ => portWf port
  | .farGone port => portWf port
  | .gb2Fault unit => unitWf unit
  | .arbitrationWindow port => portWf port
  | .packetStart port => portWf port
  | .packetForward src => (match src with | .input p _ => portWf p | .inject => true)
  | .putPacket p => p.wf
  | .getReq p => p.wf
  | .laneStore p => p.wf
  | .laneLoad p => p.wf
  | .atomicReq p => p.wf
  | .readResp p => p.wf
  | .atomicResp p => p.wf
  | .missAck p => p.wf
  | .drainMarker p => p.wf
  | .e2eAck p => p.wf
  | .e2eAckSend _ => true
  | .e2eBusy p => p.wf
  | .busyResend _ => true
  | .e2eRereq p => p.wf
  | .rereqTimeout _ => true
  | .reissueTimeout _ => true
  | .flagRelease _ => true
  | .rateRise _ => true
  | .rateReset _ => true
  | .probe p => p.wf
  | .probeAnswer p => p.wf
  | .probeTimeout _ => true
  | .lossNotice port p => portWf port && p.wf
  | .rejoinNotice port p => portWf port && p.wf
  | .degradedRoutingEnd => true
  | .tmOpExecute _ _ => true
  | .moduleDown _ _ => true
  | .patrolScrub _ _ => true
  | .laneError lane _ => decide (lane.toNat < 168)
  | .stagingError _ _ _ => true
  | .tanneryError _ _ => true
  | .lockstepMismatch => true
  | .treeWatchdog => true
  | .targetedSelftestEnd unit _ => unit.wf
  | .thermalWarning _ _ => true
  | .throttle _ _ => true
  | .thermalClear _ _ => true
  | .thermalTrip _ _ => true
  | .tmTempReport _ _ => true
  | .gb2Temperature unit _ => unitWf unit
  | .extest => true
  | .idcode => true
  | .samplePreload _ _ => true
  | .bypass _ => true
  | .scanChain => true
  | .memAccess => true
  | .treeHalt => true
  | .fuseRead => true
  | .keeperTick => true
  | .wakeNRise => true
  | .perstNRise => true
  | .refclkStop => true
  | .bar0Read offset size => accessWf offset size
  | .pcieReadCompletion _ _ _ => true
  | .flashWriteDone _ => true

end Sys2Proof
end

