-- ==== Sys2Proof/Tests/Slice0.lean ====
section
/-! SUPPORT. Tests/Slice0.lean: ill-formed commands that WellFormed refuses, for each statement concrete states and operands
that meet its hypotheses (witness_…), and single steps on small states (test_…). Expected values are worked out by hand from
the rule that the comment cites. -/

namespace Sys2Proof.Tests

set_option Elab.async false -- a thousand proofs at once would need a thread each

open Sys2Proof Sys2Proof.Machine

/-! ## Small states -/

/-- A running node with one TM48 and bus mastering on. -/
def ready : State := { State.reset with
  boot := { Boot.reset with phase := phReady, runTpMask := 1, runRails := 2, laneMap := [0, 1, 2, 3], spares := [4, 5] }
  host := { HostPort.reset with busMaster := true } }

/-- That node with its keeper replaced through `f`. -/
def keeper (f : Keeper → Keeper) : State := { ready with kp := f ready.kp }

/-- That node at a time. -/
def at_ (t : W64) : State := keeper fun k => { k with timestamp := t }

/-- That node asleep. -/
def napping : State := keeper fun k => { k with power := .nap }

/-- That node with port 0 replaced through `f`. -/
def port0 (f : Port → Port) : State := modPort 0 f ready

/-- An entry from its opcode and BODY fields (offset, value). -/
def ent (op : Nat) (fields : List (Nat × Nat)) : Entry :=
  BitVec.ofNat 1024 (op + 7 * 2 ^ 32 + (fields.map fun f => f.2 * 2 ^ (8 * (16 + f.1))).sum)

/-- That node with an entry alone at the head of queue 0. -/
def headOf (s : State) (e : Entry) : State :=
  modPage 0 (fun g => { g with enable := true, fetched := [{ entry := e, marked := false }] }) s

/-- The answer is a next state of which `f` holds. -/
def leads (o : Host.Outcome State Fault Refusal) (f : State → Bool) : Bool :=
  match o with
  | .next t => f t
  | _ => false

/-! ## The block as a whole, the keeper -/

theorem witness_StepRunsFrontCommand :
    { ready with pending := [.dozeEntry, .idcode] }.pending = .dozeEntry :: [.idcode] ∧ ready.pending = [] := by decide +kernel

theorem witness_NoCommandStops : ready.undef = false ∧ leads (Machine.exec .refclkStop ready) (fun t => t.undef) = true := by decide +kernel

theorem witness_DefinedOperation :
    { ready with undef := true }.undef = true ∧ resetRow .dozeEntry = false ∧ resetRow .powerLoss = true ∧ ready.pins.pwrgood = true ∧
    testRow .dozeEntry = false ∧ testRow .extest = true ∧
    (keeper fun k => { k with power := .off }).undef = false ∧ (keeper fun k => { k with power := .off }).kp.power = .off ∧
    (keeper fun k => { k with tripped := true }).kp.tripped = true ∧ keeperRow .dozeEntry = false := by decide +kernel

theorem witness_TickAndPins :
    ready.KeeperRuns ∧ ready.Runs ∧ ready.pins.wakeN = true ∧ ready.kp.power = .active ∧ napping.KeeperRuns ∧
    napping.pins.wakeN = true ∧ napping.kp.power ≠ .active ∧ napping.kp.trans = .none ∧
    asleep napping = true ∧ (∀ p ∈ napping.ports, carries p = false) ∧ napping.ports.length = 12 ∧ napping.cmds = [] ∧
    (keeper fun k => { k with tripped := true }).kp.tripped = true ∧ (keeper fun k => { k with tripped := true }).KeeperRuns ∧
    { ready with pins := { ready.pins with perstN := false } }.Runs ∧ ready.pins.pwrgood = true ∧
    (modPort 0 (fun p => { p with width := 4 }) (at_ 24)).KeeperRuns ∧
    ((at_ 24).kp.timestamp + 1).toNat % 25 = 0 ∧ ((at_ 23).kp.timestamp + 1).toNat % 25 ≠ 0 ∧
    (getPort 0 (modPort 0 (fun p => { p with width := 4 }) (at_ 24))).width = 4 := by decide +kernel

/-- An alarm that is due, and one a tick early. -/
def alarmed (t : W64) : State := keeper fun k => { k with power := .nap, armed := true, alarm := 100, timestamp := t }

theorem witness_AlarmAndHolds :
    (alarmed 100).KeeperRuns ∧ (alarmed 100).kp.armed = true ∧ (alarmed 100).kp.alarm.toNat ≤ now (alarmed 100) ∧
    (alarmed 100).kp.power ≠ .active ∧ (alarmed 100).kp.trans = .none ∧
    now (alarmed 99) < (alarmed 99).kp.alarm.toNat ∧ ready.kp.armed = false ∧
    ready.PathRuns .bar0 ∧ (keeper fun k => { k with tripped := true }).PathRuns .sideband ∧
    (keeper fun k => { k with alarmLow := some 5 }).kp.alarmLow = some 5 ∧ ready.kp.alarmLow = none := by decide +kernel

theorem witness_TimerRegisterWrites :
    ready.PathRuns .bar0 ∧ ready.PathRuns .sideband ∧ (keeper fun k => { k with tripped := true }).PathRuns .sideband := by decide +kernel

theorem witness_WakeGoStartsWake :
    napping.PathRuns .bar0 ∧ napping.PathRuns .sideband ∧ (1 : W32).getLsbD 0 = true ∧ napping.kp.power ≠ .active ∧
    napping.kp.trans = .none ∧ ready.PathRuns .bar0 ∧ ready.kp.power = .active ∧ (2 : W32).getLsbD 0 = false := by decide +kernel

/-- The node in RECOVERY; its staging memory holds no image. -/
def recovery : State := { ready with boot := { ready.boot with phase := phRecovery } }

theorem witness_ResetAndRecoveryWrites :
    ready.PathRuns .bar0 ∧ (0x5752 : W32).setWidth 16 = (0x5752 : W16) ∧ (0x15752 : W32).setWidth 16 = (0x5752 : W16) ∧
    (0x5753 : W32).setWidth 16 ≠ (0x5752 : W16) ∧ ready.tree.resetReq = none ∧ ready.boot.phase ≠ phRecovery ∧ recovery.PathRuns .sideband ∧
    recovery.boot.phase = phRecovery ∧
    authImage recovery (fun o k => slice o k (stgRead recovery 0 (natBits 0 24 (4096 : W32).toNat))) = none := by decide +kernel

/-- DOZE, NAP and DEEP one entry before, each at the tick at which its timer runs out. -/
def dozeDueS : State := at_ 50
def napDueS : State := keeper fun k => { k with power := .doze, timestamp := 12500 }
def deepDueS : State := keeper fun k => { k with power := .nap, timestamp := 1250000 }
def deepening : State := { keeper (fun k => { k with power := .nap, trans := .deepEntry }) with
  ports := (List.replicate 12 { Port.reset with st := .lpi }) }
def waking : State := keeper fun k => { k with power := .nap, trans := .wake 4 0 }

theorem witness_SleepAndWake :
    (dozeDueS.Runs ∧ dozeDueS.kp.trans = .none ∧ dozeDueS.boot.phase = phReady ∧ dozeDueS.kp.power = .active ∧ idle dozeDueS = true ∧
      dozeDueS.kp.acting.dozeAfter ≠ 0 ∧ dozeDueS.kp.idleSince + dozeDueS.kp.acting.dozeAfter.toNat ≤ now dozeDueS ∧ 1 ≤ floorEff dozeDueS) ∧
    (napDueS.Runs ∧ napDueS.kp.trans = .none ∧ napDueS.kp.power = .doze ∧ napDueS.kp.acting.napAfter ≠ 0 ∧
      napDueS.kp.stateSince + napDueS.kp.acting.napAfter.toNat ≤ now napDueS ∧ 2 ≤ floorEff napDueS ∧ routerEmpty napDueS = true ∧
      (∀ i, i < 12 → carries (getPort i napDueS) = false)) ∧
    (let s := modPort 11 (fun p => { p with st := .up, width := 8, ident := .up }) napDueS
     s.Runs ∧ s.kp.power = .doze ∧ s.kp.stateSince + s.kp.acting.napAfter.toNat ≤ now s ∧ 2 ≤ floorEff s ∧ routerEmpty s = true ∧
      carries (getPort 11 s) = true ∧ s.ports.length = 12) ∧
    (deepDueS.Runs ∧ deepDueS.kp.trans = .none ∧ deepDueS.kp.power = .nap ∧ deepDueS.kp.acting.deepAfter ≠ 0 ∧
      deepDueS.kp.stateSince + deepDueS.kp.acting.deepAfter.toNat ≤ now deepDueS ∧ 3 ≤ floorEff deepDueS ∧ routerEmpty deepDueS = true ∧
      (∀ p ∈ deepDueS.ports, p.st ≠ .training ∧ carries p = false)) ∧
    ((keeper fun k => { k with acting := { k.acting with dozeAfter := 0, napAfter := 0, deepAfter := 0 } }).kp.trans = .none) ∧
    (deepening.Runs ∧ deepening.kp.trans = .deepEntry ∧ deepening.ports.length = 12 ∧ 3 ≤ floorEff deepening ∧
      routerEmpty deepening = true ∧ (∀ p ∈ deepening.ports, p.st ≠ .training ∧ carries p = false) ∧
      (getPort 5 deepening).st = .lpi ∧ (getPort 6 deepening).st = .lpi) ∧
    floorEff { deepening with kp := { deepening.kp with acting := { deepening.kp.acting with floor := 2 } } } < 3 ∧
    (waking.Runs ∧ waking.kp.trans = .wake 4 0 ∧ waking.host.waits = [] ∧ waking.kp.buffer = [] ∧ waking.kp.fullAt = none ∧
      waking.evs = [] ∧ resumePorts waking = []) ∧ ready.kp.trans ≠ .deepEntry := by
  refine ⟨?_, ?_, ?_, ?_, ?_, ?_, ?_, ?_, ?_⟩ <;> decide +kernel

/-! ## Resets and boot -/

/-- A firmware image without code, VERSION 0x11 and SECURITY_VERSION 3, signed with the private key 2 (03 Table 3-3), and the
digest of its public key. -/
def image : Bytes := leBytes 272 0x5522c00f380c22af1752c9ce6965d495c3dd503f925ce862623ac886386df05b8b611d2bf2071ec62a917e26cb3b00d731c80005c7e5d7020d582650aebb08b4a66d56d340f2a4be06cd2d2010399dcb987ddc5f7e3c796414fa6f60d4417a07800e940a701e50612de2394de943fd5f25b46a255f504e903ec46cbc75d875b274ba6dfddfe8bfb7ed3c1b5bfaf1808e61df9552c7a9965bf8640ebe6ee8e04f9e6eb99fd107d251d634f4a659590289f0975bc545002669d9d2a37b0599d9085bb99848f1d21ad5fb656fe7bfde4e27dae1f663bfc70c4c4307be1411b7fd216ae3b1b17e32d94c3896ac51a760b038000000000000000000000000000000030000001100000000000000015a54434f
def keyDigest : Nat := 0xe4c84b28eb54eb63637cad95d03297437812c32d56757026dc0e83922601795774cf64193ca3dc4793998f7c1f0b8f72

/-- The signature holds: verified from its two scalar multiplications. -/
theorem image_signed : ecdsaOk (slice 80 96 image) (sha384 (slice 0 176 image)) (slice 176 96 image) = true := by decide +kernel

theorem auth_of (s : State) (rd : Nat → Nat → Bytes) (h0 : rd 0 272 = image) (h1 : rd 4096 0 = [])
    (hf : s.fuses = BitVec.ofNat 1024 keyDigest) : authImage s rd = some (0x11, 3, false) := by
  have hd : fuseDigest s false = leBytes 48 keyDigest := by
    simp only [fuseDigest, hf]
    decide +kernel
  have hr : (fuseRevoke s).getLsbD 0 = false := by
    simp only [fuseRevoke, hf]
    decide +kernel
  have hs : fuseSvn s = 0 := by
    simp only [fuseSvn, hf]
    decide +kernel
  have hp : (decide (sha384 (slice 80 96 image) = leBytes 48 keyDigest)) = true := by decide +kernel
  have hl : fieldAt 8 4 image = 0 := by decide +kernel
  have he : sha384 [] = slice 32 48 image := by decide +kernel
  have hb : (decide (fieldAt 0 4 image ≠ 0x5A54434F) || decide (fieldAt 4 2 image ≠ 1) || decide (8384512 < fieldAt 8 4 image)) = false := by
    decide +kernel
  have hv : BitVec.ofNat 32 (fieldAt 12 4 image) = (0x11 : W32) ∧ BitVec.ofNat 32 (fieldAt 16 4 image) = (3 : W32) := by decide +kernel
  have hn : ¬fieldAt 16 4 image < 0 := by decide +kernel
  simp only [authImage, h0, hl, h1, hd, hr, hs, hp, he, image_signed]
  simp [hv.1, hv.2]
  decide +kernel

/-- The node in a phase of its boot. -/
def booting (ph : BitVec 4) : State := { State.reset with boot := { Boot.reset with phase := ph } }

/-- The boot ROM before authentication, with the image in slot A and the digest of its key in the fuses. -/
def withImage : State := { booting phImage with fuses := BitVec.ofNat 1024 keyDigest, flash := memWrite 0xFF [] 0x100000 image }

/-- RECOVERY with the image in staging memory. -/
def recoveryImage : State := { booting phRecovery with
  fuses := BitVec.ofNat 1024 keyDigest, stg := { Staging.reset with mem := memWrite 0 [] 0 image } }

theorem flash_image (s : State) (a : Nat) (bs : Bytes) (n : Nat) (hs : s.flash = memWrite 0xFF [] a bs) (hn : bs.length = n) :
    flashRead s a n = bs := by
  subst hn
  rw [flashRead, hs]
  exact Laws.memRead_memWrite (by decide) a bs

theorem staged_image (s : State) (bs : Bytes) (n : Nat) (hs : s.stg = { Staging.reset with mem := memWrite 0 [] 0 bs })
    (hn : bs.length = n) (hl : n ≤ 272) : stgRead s 0 n = bs := by
  have hk : ∀ i, i < 272 → ((Staging.reset.map.getD (i / Config.stagingBank) 0).toNat * Config.stagingBank + i % Config.stagingBank) = i := by
    decide +kernel
  have hm := Laws.memRead_memWrite (d := 0) (m := []) (by decide) 0 bs
  rw [hn, Laws.memRead_eq_map] at hm
  rw [stgRead, ← hm]
  refine List.map_congr_left fun i hi => ?_
  have hi' : i < 272 := by have := List.mem_range.1 hi; omega
  simp only [stgKey, hs, Nat.zero_add]
  rw [hk i hi']

theorem witness_ColdResetLeaves :
    ready.pins.pwrgood = true ∧ { ready with pins := { ready.pins with pwrgood := false } }.pins.pwrgood = false := by decide +kernel

/-- The boot record of slot A after three attempts, and of both slots. -/
def tried (b : Nat) : State := bootAppend 0 3 b 1 (booting phRom)

theorem witness_SelftestAndSlots :
    ((bootState (booting phRom)).2.1 < 3 ∧ (bootState (booting phRom)).1 = 0) ∧
    (3 ≤ (bootState (tried 0)).2.1 ∧ (bootState (tried 0)).2.2 < 3 ∧ (bootState (tried 0)).1 = 0) ∧
    (3 ≤ (bootState (tried 3)).2.1 ∧ 3 ≤ (bootState (tried 3)).2.2) ∧
    ((booting phRom).Runs ∧ (booting phRom).boot.phase = phRom) ∧
    -- 167, 160 and 159 lanes pass
    (((List.range 168).filter fun i => !(~~~ (~~~ (1 : BitVec 168)) ||| (mapLoad (booting phRom)).boot.lanesRetired).getLsbD i).length = 167 ∧
     ((List.range 168).filter fun i => !(~~~ (~~~ (0xFF : BitVec 168)) ||| (mapLoad (booting phRom)).boot.lanesRetired).getLsbD i).length = 160 ∧
     ((List.range 168).filter fun i => !(~~~ (~~~ (0x1FF : BitVec 168)) ||| (mapLoad (booting phRom)).boot.lanesRetired).getLsbD i).length = 159 ∧
     ~~~ (0 : BitVec 2) ||| (mapLoad (booting phRom)).boot.treeRetired = 3 ∧
     ~~~ (2 : BitVec 2) ||| (mapLoad (booting phRom)).boot.treeRetired ≠ 3 ∧
     1 < popBits 17 (~~~ (0x1FFFC : BitVec 17) ||| (mapLoad (booting phRom)).boot.stagingRetired).toNat ∧
     popBits 17 (~~~ (0x1FFFE : BitVec 17) ||| (mapLoad (booting phRom)).boot.stagingRetired).toNat = 1) := by decide +kernel

theorem witness_ImageAndReady_authenticates :
    withImage.Runs ∧ withImage.boot.phase = phImage ∧
    authImage withImage (fun o n => flashRead withImage (slotBase withImage.boot.runSlot + o) n) = some (0x11, 3, false) := by
  refine ⟨by decide +kernel, by decide +kernel, auth_of _ _ ?_ (by decide +kernel) (by decide +kernel)⟩
  have ha : slotBase withImage.boot.runSlot + 0 = 0x100000 := by decide +kernel
  exact (congrArg (fun a => flashRead withImage a 272) ha).trans
    (flash_image withImage 0x100000 image 272 (by simp only [withImage]) (by decide +kernel))

theorem witness_ImageAndReady :
    ((booting phImage).Runs ∧ authImage (booting phImage) (fun o n => flashRead (booting phImage) (slotBase false + o) n) = none ∧
      setAt (b2n (booting phImage).boot.runSlot) true (booting phImage).boot.failed ≠ [true, true] ∧
      setAt (b2n false) true [false, true] = [true, true]) ∧
    ((booting phTrain).Runs ∧ (booting phTrain).boot.phase = phTrain) ∧
    (let s := { booting phTrain with kp := { Keeper.reset with bootWd := some 7, timestamp := 25000007 } }
     s.Runs ∧ s.kp.bootWd = some 7 ∧ s.boot.phase ≠ phReady ∧ s.tree.resetReq = none ∧ 7 + 25000000 ≤ now s) ∧
    (let s := { booting phTrain with kp := { Keeper.reset with bootWd := some 7, timestamp := 25000006 } }
     s.Runs ∧ now s < 7 + 25000000) := by decide +kernel

theorem witness_ResetAndRecoveryWrites_image :
    recoveryImage.PathRuns .sideband ∧ recoveryImage.boot.phase = phRecovery ∧ recoveryImage.tree.resetReq = none ∧
    authImage recoveryImage (fun o k => slice o k (stgRead recoveryImage 0 (natBits 0 24 (272 : W32).toNat))) ≠ none := by
  refine ⟨by decide +kernel, by decide +kernel, by decide +kernel, ?_⟩
  have hr : stgRead recoveryImage 0 272 = image := staged_image recoveryImage image 272 (by simp only [recoveryImage]) (by decide +kernel) (by decide)
  have hb : natBits 0 24 (272 : W32).toNat = 272 := by decide +kernel
  rw [hb, hr, auth_of _ _ (by decide +kernel) (by decide +kernel) (by decide +kernel)]
  nofun

theorem witness_WarmAndLinkResets :
    (let s := { ready with tree := { Tree.reset with resetReq := some (.resetCtl, 3) } }
     s.Runs ∧ s.tree.resetReq = some (.resetCtl, 3)) ∧
    (ready.Runs ∧ ready.ctxs = [] ∧ ready.saved = [] ∧ ready.cmds = [] ∧ ready.ni.serving = [] ∧ ready.host.bar2Log = 30) := by
  decide +kernel

/-! ## Registers, the host port and the sideband -/

theorem witness_RegisterReads :
    ready.Runs ∧ ready.KeeperRuns ∧ ready.Awake ∧ barOpen ready = true ∧
    (keeper fun k => { k with latch0 := some (.tmNext, 9) }).kp.latch0 = some (.tmNext, 9) ∧
    (keeper fun k => { k with latchSb := some (.timestamp, 9) }).kp.latchSb = some (.timestamp, 9) ∧
    (0x2002 : W32).toNat % 4 ≠ 0 ∧ (0x2004 : W32).toNat % 8 ≠ 0 ∧ (0x2004 : W32).toNat % 4 = 0 ∧ reg64At 0x2004 = none ∧
    reg64HighAt 0x2004 = none ∧ reg64Offset .timestamp % 4 = 0 ∧ (booting phTrain).Awake ∧ barOpen (booting phTrain) = false ∧
    napping.Runs ∧ asleep napping = true ∧ napping.kp.trans = .none ∧ keeperOff 0x2000 = false := by decide +kernel

theorem witness_SidebandAndConfig :
    ready.KeeperRuns ∧ (0x9000 : W16).toNat = 0x9000 ∧ napping.KeeperRuns ∧ asleep napping = true ∧ napping.kp.trans = .none ∧
    (0x2000 : W16).toNat % 4 = 0 ∧ (0x8FFC : W16).toNat % 4 = 0 ∧ 0x8FFC < 0x9000 ∧ 0x1000 ≤ (0x1000 : W16).toNat ∧
    ready.Runs ∧ ready.host.inReset = false ∧ { ready with host := { ready.host with inReset := true } }.host.inReset = true ∧
    (30 : BitVec 6).toNat = 30 ∧ (39 : BitVec 6).toNat = 39 := by decide +kernel

theorem witness_RegisterWrites :
    ready.Awake ∧ barOpen ready = true ∧ ready.qs.length = 64 ∧ (getPage 63 ready).enable = false ∧
    (getPage 0 (modPage 0 (fun g => { g with enable := true }) ready)).enable = true ∧ keeperOff 0x2000 = false ∧
    napping.Runs ∧ asleep napping = true ∧ napping.kp.trans = .none ∧ (0x141000 : W32).toNat = 0x141000 ∧
    (0xFFFFC : W32).toNat < 0x100000 ∧ ready.tm.apertures.length = 8 ∧
    (getAperture { ready with tm := { ready.tm with apertures := setAt 7 { bank := false, base := 0, low := some 5 } ready.tm.apertures } } 7).low =
      some 5 := by decide +kernel

theorem witness_MemoryWindows :
    ready.Runs ∧ ready.boot.phase = phReady ∧ ready.CacheRoom ∧ ready.tm.stale = [] ∧
    (let s := { ready with tm := { ready.tm with apertures := setAt 0 { bank := true, base := 0, low := none } ready.tm.apertures } }
     s.CacheRoom ∧ (bar2View s 0).1 = true ∧ (bar2View s 0).2 < 2 ^ 39 ∧ bvRow (bar2View s 0).2 < 98304 ∧
     moduleUp s (bvModule (bar2View s 0).2) = true) ∧
    (booting phTrain).Runs ∧ (booting phTrain).boot.phase ≠ phReady ∧ (0x03FFFFFF : W64).toNat + 1 ≤ Config.stagingOpen ∧
    barOpen ready = true ∧ Memory.wf 0 ready.stg.mem = true ∧ barOpen (booting phTrain) = false := by decide +kernel

/-! ## Queues and management commands -/

/-- A queue page of `ready` replaced through `f`. -/
def page (p : Nat) (f : QPage → QPage) : State := modPage p f ready

theorem witness_DoorbellDiscarded :
    ready.Awake ∧ (getPage 0 ready).enable = false ∧ (getPage 64 ready).enable = false ∧
    (getPage 63 (page 63 fun g => { g with enable := true, stopped := true })).stopped = true := by decide +kernel

theorem witness_SubmissionDoorbell :
    (let s := page 63 fun g => { g with enable := true, sqTail := 4, sqHead := 4 }
     let g := getPage 63 s
     s.Awake ∧ barOpen s = true ∧ s.qs.length = 64 ∧ g.enable = true ∧ g.stopped = false ∧
     -- a tail at the ring's last index is taken, one past it is not
     15 < g.sqEntries.toNat ∧ visible g ≤ (15 + g.sqEntries.toNat - g.sqHead.toNat) % g.sqEntries.toNat ∧
     backlog { s.touched with qs := modAt (fun g => { g with sqTail := 15 }) 63 s.qs } ≤ Config.backlogMax ∧
     g.sqEntries.toNat ≤ ((16 : W32).setWidth 12 : BitVec 12).toNat ∧ s.evs = [] ∧ s.evq.enable = false) ∧
    (let g := getPage 0 (page 0 fun g => { g with enable := true, sqTail := 5 })
     (4 + g.sqEntries.toNat - g.sqHead.toNat) % g.sqEntries.toNat < visible g) ∧
    napping.Runs ∧ asleep napping = true ∧ napping.kp.trans = .none := by decide +kernel

theorem witness_CompletionDoorbell :
    (let s := page 0 fun g => { g with enable := true, cqTail := 3 }
     let g := getPage 0 s
     let n := g.cqEntries.toNat
     s.Awake ∧ barOpen s = true ∧ s.qs.length = 64 ∧ s.evs = [] ∧ g.enable = true ∧ g.stopped = false ∧
     3 < n ∧ (3 + n - g.cqHead.toNat) % n ≤ (g.cqTail.toNat + n - g.cqHead.toNat) % n ∧
     ¬((4 + n - g.cqHead.toNat) % n ≤ (g.cqTail.toNat + n - g.cqHead.toNat) % n)) ∧
    (getPage 64 (page 64 fun g => { g with enable := true })).enable = true := by decide +kernel

theorem witness_QueueControl :
    ready.Awake ∧ barOpen ready = true ∧ ready.qs.length = 64 ∧ ready.evs = [] ∧ (1 : W32).getLsbD 0 = true ∧
    (getPage 64 ready).enable = false ∧ (2 : W32).getLsbD 0 = false ∧ (getPage 0 (page 0 fun g => { g with enable := true })).enable = true ∧
    (let s := { page 0 (fun g => { g with unsigAt := some 0, irqEn := true, imodTime := 9 }) with
       kp := { ready.kp with timestamp := 9 }
       host := { ready.host with msixOn := true, msix := List.replicate 128 { addr := 0, data := 0, masked := false } } }
     s.Runs ∧ s.qs.length = 64 ∧ (getPage 0 s).unsigAt = some 0 ∧ (getPage 0 s).irqEn = true ∧ 0 + (getPage 0 s).imodTime.toNat ≤ now s ∧
     s.host.msixOn = true ∧ s.host.busMaster = true ∧ s.host.msixMask = false ∧
     (s.host.msix.getD 0 { addr := 0, data := 0, masked := true }).masked = false ∧
     now { s with kp := { s.kp with timestamp := 8 } } < 0 + (getPage 0 s).imodTime.toNat) := by
  refine ⟨?_, ?_, ?_, ?_, ?_, ?_, ?_, ?_, ?_⟩ <;> decide +kernel

/-- One visible entry of queue 0, and the read that fetches it. -/
def fetching : State := page 0 fun g => { g with enable := true, sqTail := 1 }
def oneRead : PcieRead := { tag := 9, kind := .sqFetch 0 0 1, addr := 0, len := 128, stale := false }
def fetched1 : State := { page 0 (fun g => { g with enable := true, sqTail := 1, reading := 1 }) with
  host := { ready.host with reads := [oneRead] } }

theorem witness_FetchAndReads :
    (fetching.OctozServes ∧ fetching.host.busMaster = true ∧ nextVisit fetching = some 0 ∧ fetching.qs.length = 64 ∧
      (let g := getPage 0 fetching
       0 < min (min g.burst.toNat (visible g)) (g.cqEntries.toNat - 1 - (pendingOf g + cqUsed g)) ∧ g.sqHead.toNat + 1 ≤ g.sqEntries.toNat)) ∧
    (let s := modPage 0 (fun g => { g with cqTail := 15 }) fetching
     let g := getPage 0 s
     nextVisit s = some 0 ∧ min (min g.burst.toNat (visible g)) (g.cqEntries.toNat - 1 - (pendingOf g + cqUsed g)) = 0) ∧
    (let r : PcieRead := { oneRead with kind := .data }
     let s := { ready with host := { ready.host with reads := [r] } }
     s.Runs ∧ s.NothingWaits ∧ s.host.reads.find? (fun x => x.tag = r.tag) = some r ∧ r.stale = false ∧
     (List.replicate 128 (0 : Byte)).length = r.len ∧ Memory.wf 0 s.bus = true ∧ (∀ x ∈ s.host.reads, x.tag ≠ 8)) ∧
    (let g := getPage 0 fetched1
     fetched1.Runs ∧ fetched1.NothingWaits ∧ fetched1.qs.length = 64 ∧ fetched1.host.reads = [oneRead] ∧ g.reading = 1 ∧ g.fetched = [] ∧
     g.sqHead.toNat < g.sqEntries.toNat ∧ (leBytes 128 1).length = 128 ∧ g.marks = [] ∧
     opcodeKnown (entOpcode (BitVec.ofNat 1024 (leNat (leBytes 128 1)))) = true ∧ fetched1.evq.enable = false ∧ fetched1.evs = []) := by
  refine ⟨?_, ?_, ?_, ?_⟩ <;> decide +kernel

theorem witness_CompletionEntry :
    ready.host.busMaster = true ∧ ready.qs.length = 64 ∧ Memory.wf 0 ready.bus = true ∧
    (getPage 0 (page 0 fun g => { g with cqTail := 15 })).cqTail.toNat + 1 = (getPage 0 ready).cqEntries.toNat ∧
    (getPage 0 ready).cqTail.toNat + 1 ≠ (getPage 0 ready).cqEntries.toNat := by decide +kernel

theorem witness_EntryGuards :
    (headOf ready (ent 1 [(8, 1)])).AtHead 0 (ent 1 [(8, 1)]) ∧ noReserved [(0, 64)] (ent 1 [(8, 1)]) = false ∧
    entOpcode (ent 1 [(8, 1)]) = 0x01 ∧
    (let e : Entry := ent 1 [] ||| ((1 : Entry) <<< 8)
     let s := modPage 0 (fun g => { g with started := 1 }) (headOf ready e)
     s.OctozServes ∧ (getPage 0 s).fetched = [{ entry := e, marked := false }] ∧ opcodeKnown (entOpcode e) = true ∧
     entFence e = true ∧ 0 < (getPage 0 s).started) := by decide +kernel

/-- A node with a rank map loaded. -/
def mapped : State := { ready with maps := setAt 3 (some [0]) ready.maps }

theorem witness_IdentConfigPolicy :
    (let e := ent 1 [(0, 64)]
     (headOf ready e).AtHead 0 e ∧ entOpcode e = 0x01 ∧ noReserved [(0, 64)] e = true ∧ bodyField e 0 8 % 64 = 0 ∧
     bodyField (ent 1 [(0, 65)]) 0 8 % 64 ≠ 0) ∧
    (let e := ent 2 [(0, 4), (8, 250)]
     (headOf ready e).AtHead 0 e ∧ entOpcode e = 0x02 ∧ noReserved [(0, 16), (2, 1), (8, 64)] e = true ∧ bodyField e 0 2 = 4 ∧
     bodyField e 2 1 = 0 ∧ 250 ≤ bodyField e 8 8 ∧ ¬250 ≤ bodyField (ent 2 [(0, 4), (8, 249)]) 8 8 ∧ bodyField e 0 2 ≠ 1 ∧ bodyField e 0 2 ≠ 2 ∧
     natBit 0 (bodyField (ent 2 [(0, 4), (2, 1), (8, 250)]) 2 1) = true) ∧
    (let e := ent 2 [(0, 1), (8, 0x1FFFF)]
     (headOf ready e).AtHead 0 e ∧ noReserved [(0, 16), (2, 1), (8, 64)] e = true ∧ bodyField e 2 1 = 0 ∧ bodyField e 8 8 < 0x20000 ∧
     (∀ m ∈ (headOf ready e).maps, m = none) ∧ (∀ i, i < 12 → carries (getPort i (headOf ready e)) = false) ∧ bodyField e 0 2 = 1 ∧
     bodyField (ent 2 [(0, 2), (8, 3)]) 0 2 = 2 ∧ (headOf mapped e).AtHead 0 e ∧ (∃ m ∈ (headOf mapped e).maps, m.isSome = true)) ∧
    (let e := ent 3 [(0, 31), (4, 25), (8, 250), (12, 25000), (16, 25000000), (20, 3)]
     (headOf ready e).AtHead 0 e ∧ entOpcode e = 0x03 ∧ noReserved [(0, 5), (4, 32), (8, 32), (12, 32), (16, 32), (20, 8)] e = true ∧
     bodyField e 4 4 = 25 ∧ bodyField (ent 3 [(0, 1), (4, 24)]) 4 4 = 24) := by
  refine ⟨?_, ?_, ?_, ?_⟩ <;> decide +kernel

/-- A ring of four nodes on X, of which this is node 0, its rank map, and a communicator of nodes 0 and 1. -/
def comm : Comm :=
  { handle := 5, map := 0, lo := 0, hi := 1, base := 0, sx := 1, sy := 1, sz := 1, stats := 0, key := 0, seq := 0, prewarms := 0
    drained := false, patched := false, notices := [], lag := LagStats.reset }
def ringed : State := { ready with
  cfg := { ready.cfg with dims := 3 }, maps := setAt 0 (some [0, 1, 2, 3]) ready.maps, comms := [comm] }

/-- A window of 1 MiB at offset 0. -/
def window : Window := { id := 0, offset := 0, bus := 0x10000000, len := 0x100000, perm := 7, closing := false }
def windowed : State := { ringed with wins := [window] }

/-- Every WINDOW_ID is taken. -/
theorem witness_WindowsAndRankmaps_full :
    freeWindow { ready with wins := (List.range 1024).map fun i => { window with id := BitVec.ofNat 10 i } } = none := by
  simp only [freeWindow, List.find?_eq_none]
  intro i _
  rw [Bool.not_eq_true, Bool.not_eq_false', List.any_eq_true]
  exact ⟨{ window with id := i }, List.mem_map.2 ⟨i.toNat, List.mem_range.2 (by omega), by simp⟩, by simp [window]⟩

theorem witness_WindowsAndRankmaps :
    (let e := ent 5 [(0, 2 ^ 44 - 4096), (8, 4096), (16, 4096), (24, 7)]
     let s := headOf windowed e
     s.AtHead 0 e ∧ entOpcode e = 0x05 ∧ noReserved [(0, 64), (8, 64), (16, 64), (24, 4)] e = true ∧ (∀ w ∈ s.wins, 0 < w.len) ∧
     bodyField e 0 8 + bodyField e 16 8 ≤ 2 ^ 44 ∧ bodyField e 0 8 % 4096 = 0 ∧ freeWindow s = some 1 ∧
     (∀ w ∈ s.wins, w.closing = false → ¬(w.offset < bodyField e 0 8 + bodyField e 16 8 ∧ bodyField e 0 8 < w.offset + w.len)) ∧
     bodyField (ent 5 [(0, 1)]) 0 8 % 4096 ≠ 0) ∧
    (let e := ent 6 []
     let s := headOf windowed e
     s.AtHead 0 e ∧ entOpcode e = 0x06 ∧ noReserved [(0, 32)] e = true ∧
     s.wins.find? (fun w => !w.closing && w.id.toNat = bodyField e 0 4) = some window ∧ s.cmds = [] ∧ s.ni.serving = [] ∧ s.ctxs = [] ∧
     s.saved = [] ∧ (∀ w ∈ s.wins, w.closing = false → w.id.toNat ≠ bodyField (ent 6 [(0, 1)]) 0 4)) ∧
    (let e := ent 7 [(0, 1), (4, 2), (8, 4096)]
     let s := headOf ringed e
     let ps := pieces s 4096 8
     let r := { s with host := { s.host with got := ps }, bus := memWrite 0 [] 4096 (leBytes 4 1 ++ leBytes 4 3) }
     s.AtHead 0 e ∧ entOpcode e = 0x07 ∧ noReserved [(0, 8), (4, 32), (8, 64)] e = true ∧ mapLoadBad e s = false ∧ busReady ps s = false ∧
     r.AtHead 0 e ∧ busReady ps r = true ∧ mapWords r 2 (busRead r 4096 8) = some [1, 3] ∧
     mapWords r 2 (leBytes 4 1 ++ leBytes 4 4) = none ∧ mapLoadBad (ent 7 [(0, 0), (4, 2)]) s = true) ∧
    (let e := ent 8 [(4, 3), (8, 1), (16, 2)]
     let s := headOf ringed e
     s.AtHead 0 e ∧ entOpcode e = 0x08 ∧ noReserved [(0, 8), (4, 32), (8, 32), (16, 32)] e = true ∧
     s.maps.getD 0 none = some [0, 1, 2, 3] ∧ 0 < s.maps.length ∧ mapWords s 1 (leBytes 4 (bodyField e 16 4)) = some [2] ∧
     3 + bodyField e 8 4 ≤ 4 ∧ bodyField (ent 8 [(4, 4), (8, 1)]) 4 4 + 1 > 4) := by
  refine ⟨?_, ?_, ?_, ?_⟩ <;> decide +kernel

/-- The entry that describes a second communicator of nodes 0 and 1. -/
def commEnt : Entry := ent 9 [(0, 6), (12, 1), (20, 1), (24, 1), (28, 1)]

theorem witness_CommunicatorCommands :
    (let s := headOf ringed commEnt
     s.AtHead 0 commEnt ∧ entOpcode commEnt = 0x09 ∧ noReserved commFields commEnt = true ∧ commBad s commEnt = false ∧ s.comms.length < 4096 ∧
     commBad s (ent 9 [(0, 5), (12, 1)]) = true) ∧
    (let s := { headOf ringed commEnt with comms := List.replicate 4096 comm }
     commBad s commEnt = false ∧ 4096 ≤ s.comms.length) ∧
    (let e := ent 0xA [(0, 5)]
     let s := headOf ringed e
     s.AtHead 0 e ∧ entOpcode e = 0x0A ∧ noReserved [(0, 32)] e = true ∧ commHere 5 s = some comm ∧ s.ctxs = [] ∧ s.saved = [] ∧ s.cmds = [] ∧
     commHere 6 s = none) := by
  refine ⟨?_, ?_, ?_⟩ <;> decide +kernel

theorem witness_DrainAndRoutes :
    (let e := ent 0xB [(0, 5)]
     let s := headOf ringed e
     s.AtHead 0 e ∧ entOpcode e = 0x0B ∧ noReserved [(0, 32), (4, 8)] e = true ∧ bodyField e 4 1 = 0 ∧ named 5 s ≠ [] ∧ s.ctxs = [] ∧
     s.saved = [] ∧ s.cmds = [] ∧ s.ni.sentTo = [] ∧ s.ni.rounds = [] ∧ named 6 s = [] ∧ (6 : W32) ≠ 0xFFFFFFFF ∧
     1 < bodyField (ent 0xB [(0, 5), (4, 2)]) 4 1 ∧ bodyField (ent 0xB [(0, 5), (4, 1)]) 4 1 = 1) ∧
    (let e := ent 0xC [(0, 5), (4, 1), (6, 1), (8, 4096)]
     let s := { headOf ringed e with comms := [{ comm with drained := true }] }
     let ps := pieces s 4096 8
     -- DEST 0 under mask 0, from the NI to +X, on VC1
     let w : Nat := 7 * 2 ^ 34 + 2 ^ 42 + 2 ^ 45
     let r := { s with host := { s.host with got := ps }, bus := memWrite 0 [] 4096 (leBytes 8 w) }
     r.AtHead 0 e ∧ entOpcode e = 0x0C ∧ noReserved [(0, 32), (4, 16), (6, 1), (8, 64)] e = true ∧ named 5 r ≠ [] ∧ routeBad e r = false ∧
     busReady ps r = true ∧ bankServes r = false ∧ routeWordOk (BitVec.ofNat 64 (fieldAt 0 8 (busRead r 4096 8))) = true ∧
     natBit 0 (bodyField e 6 1) = true ∧ r.ni.sentTo = [] ∧ r.ni.rounds = [] ∧ natBit 0 (bodyField (ent 0xC [(0, 5), (4, 1)]) 6 1) = false ∧
     (∃ c ∈ named 5 (headOf ringed e), c.drained = false) ∧
     bankServes { r with ni := { r.ni with rounds := [{ num := 0, epoch := true, dests := [1], all := [1] }] } } = true) := by
  refine ⟨?_, ?_⟩ <;> decide +kernel

theorem witness_PrewarmTestsLog :
    (let e := ent 4 [(0, 5), (4, 25)]
     let s := headOf ringed e
     s.AtHead 0 e ∧ entOpcode e = 0x04 ∧ noReserved [(0, 32), (4, 32)] e = true ∧ commHere 5 s = some comm ∧ commHere 6 s = none ∧
     bodyField e 4 4 = 25 ∧ bodyField (ent 4 [(4, 24)]) 4 4 < 25 ∧ 250000000 < bodyField (ent 4 [(4, 250000001)]) 4 4 ∧ s.cmds = [] ∧
     -- on a ring the heralds wait for their ports; a box of one node has none to send
     leads (Machine.exec (.prewarm 0 e) s) (fun t => !prewarmLeft t 5 1) = true ∧
     (let one := { s with comms := [{ comm with hi := 0 }] }
      commHere 5 one = some { comm with hi := 0 } ∧ leads (Machine.exec (.prewarm 0 e) one) (fun t => prewarmLeft t 5 1) = true)) ∧
    (let e := ent 0xD [(0, 0), (4, 4)]
     let s := headOf ready e
     s.AtHead 0 e ∧ entOpcode e = 0x0D ∧ noReserved [(0, 8), (4, 32)] e = true ∧ bodyField e 4 4 ≤ 167 ∧
     BitVec.ofNat 8 (bodyField e 4 4) ∈ s.boot.spares ∧ s.tree.tests = [] ∧ s.boot.lanesRetired.getLsbD 4 = false ∧
     4 < bodyField (ent 0xD [(0, 5)]) 0 1 ∧ 167 < bodyField (ent 0xD [(0, 0), (4, 168)]) 4 4 ∧ 11 < bodyField (ent 0xD [(0, 1), (4, 12)]) 4 4 ∧
     4095 < bodyField (ent 0xD [(0, 2), (4, 4096)]) 4 4 ∧ 16 < bodyField (ent 0xD [(0, 4), (4, 17)]) 4 4) ∧
    (let e := ent 0xD [(0, 4), (4, 16)]
     let s := headOf ready e
     s.AtHead 0 e ∧ bodyField e 0 1 = 4 ∧ bodyField e 4 4 ≤ 16 ∧ s.stg.spare = some (BitVec.ofNat 5 (bodyField e 4 4)) ∧
     s.boot.stagingRetired.getLsbD 16 = false) ∧
    (let e := ent 0xD [(0, 2), (4, 4095)]
     let s := headOf ready e
     s.AtHead 0 e ∧ bodyField e 0 1 = 2 ∧ bodyField e 4 4 ≤ 4095 ∧ moduleUp s (bodyField e 4 4 / 512) = false) ∧
    (let e := ent 0xE [(0, 64), (12, 64)]
     let s := headOf ready e
     s.AtHead 0 e ∧ entOpcode e = 0x0E ∧ noReserved [(0, 64), (8, 32), (12, 32)] e = true ∧ bodyField e 0 8 % 64 = 0 ∧ bodyField e 12 4 = 64 ∧
     bodyField (ent 0xE [(12, 63)]) 12 4 < 64 ∧ 4194304 < bodyField (ent 0xE [(12, 4194305)]) 12 4) := by
  refine ⟨?_, ?_, ?_, ?_, ?_⟩ <;> decide +kernel

/-- A started command of queue 1. -/
def cmdOf (k : CmdKind) : Cmd := { id := 0, q := 1, tag := 2, noIrq := false, deadline := none, degraded := false, kind := k }

/-- A program of one word beside its header, in the staging memory. -/
def progHead : Nat := 0xF0 * 2 ^ 56 + 0x00000A00
def progWords : Bytes := leBytes 8 progHead ++ leBytes 8 0

theorem witness_FirmwareAndPrograms :
    (let e := ent 0xF [(0, 1)]
     let s := { headOf ready e with cmds := [cmdOf (.fwWrite true [] false)] }
     s.AtHead 0 e ∧ entOpcode e = 0x0F ∧ noReserved fwFields e = true ∧ fwWriting s = true ∧ s.host.busMaster = true ∧ s.tree.heldLog = [] ∧
     fwWriting (headOf ready e) = false ∧ bodyField (ent 0xF [(0, 2)]) 0 1 = 2 ∧ noReserved fwFields (ent 0xF [(0, 2), (1, 1)]) = true) ∧
    (let e := ent 0xF [(0, 0), (4, 4096)]
     let s := headOf ready e
     s.AtHead 0 e ∧ noReserved fwFields e = true ∧ bodyField e 0 1 = 0 ∧ fwWriting s = false ∧
     stageOk (bodyField e 8 8) (bodyField e 4 4) 4096 = true ∧ bodyField e 4 4 ≤ 8388608 ∧ Memory.wf 0xFF s.flash = true) ∧
    (let e := ent 0x10 [(0, 0x100), (2, 0xFFF), (4, 16)]
     let s := { headOf ready e with stg := { Staging.reset with mem := memWrite 0 [] 0 progWords } }
     s.AtHead 0 e ∧ entOpcode e = 0x10 ∧ noReserved [(0, 16), (2, 12), (4, 32), (8, 64)] e = true ∧ 0x100 ≤ bodyField e 0 2 ∧
     bodyField e 2 2 ≠ 0 ∧ bodyField e 4 4 = 16 ∧ stageOk (bodyField e 8 8) (bodyField e 4 4) 8 = true ∧
     headOk (BitVec.ofNat 64 (fieldAt 0 8 (stgRead s 0 16))) (bodyField e 2 2) = true ∧
     (∀ b, b < 12 → natBit b (bodyField e 2 2) = true → libraryUsed (replaceProg s 0x100 0xFFF) b + 16 ≤ 40960) ∧
     headOk 0 0xFFF = false ∧ bodyField (ent 0x10 [(0, 0xFF)]) 0 2 < 0x100 ∧
     (let p : Program := { id := 0x101, benches := 1, gen := 0, words := List.replicate 5120 0 }
      40960 < libraryUsed (replaceProg { s with progs := [p] } 0x100 0xFFF) 0 + 16)) := by
  refine ⟨?_, ?_, ?_⟩ <;> decide +kernel

/-- A signed image that a WRITE takes: 4096 bytes of staging hold it, and the fuses its key. -/
def writeEnt : Entry := ent 0xF [(0, 0), (4, 4096)]
def writeImage : State := { headOf ready writeEnt with
  fuses := BitVec.ofNat 1024 keyDigest, stg := { Staging.reset with mem := memWrite 0 [] 0 image } }

theorem stgRead_prefix (s : State) (k n : Nat) (h : k ≤ n) : slice 0 k (stgRead s 0 n) = stgRead s 0 k := by
  simp only [slice, stgRead, List.drop_zero, List.length_map, List.length_range, Nat.min_eq_left h, Nat.sub_self,
    List.replicate_zero, List.append_nil, ← List.map_take, List.take_range]

theorem fieldAt_of_slice (k o n : Nat) (b : Bytes) (h : o + n ≤ k) (hb : k ≤ b.length) : fieldAt o n b = fieldAt o n (slice 0 k b) := by
  have e : (b.drop o).take n = ((b.take k).drop o).take n := by
    rw [List.drop_take, List.take_take, Nat.min_eq_left (by omega)]
  have l : (b.take k).length = k := by simp; omega
  simp only [fieldAt, slice, List.drop_zero, l, Nat.sub_self, List.replicate_zero, List.append_nil, e]

theorem witness_FirmwareAndPrograms_image :
    writeImage.AtHead 0 writeEnt ∧ bodyField writeEnt 0 1 = 0 ∧ fwWriting writeImage = false ∧ Memory.wf 0xFF writeImage.flash = true ∧
    (let img := stgRead writeImage (bodyField writeEnt 8 8) (bodyField writeEnt 4 4)
     authImage writeImage (fun a k => slice a k img) = some (0x11, 3, false) ∧ 4096 + fieldAt 8 4 img ≤ bodyField writeEnt 4 4) := by
  have h0 : bodyField writeEnt 8 8 = 0 ∧ bodyField writeEnt 4 4 = 4096 := by decide +kernel
  have hr : slice 0 272 (stgRead writeImage 0 4096) = image := (stgRead_prefix writeImage 272 4096 (by decide)).trans
    (staged_image writeImage image 272 (by simp only [writeImage]) (by decide +kernel) (by decide))
  have hl : (stgRead writeImage 0 4096).length = 4096 := by simp [stgRead]
  refine ⟨by decide +kernel, by decide +kernel, by decide +kernel, by decide +kernel, ?_⟩
  rw [h0.1, h0.2]
  refine ⟨auth_of _ _ hr ?_ (by simp only [writeImage]), ?_⟩
  · simp [slice]
  · rw [fieldAt_of_slice 272 8 4 _ (by decide) (by omega), hr]
    decide +kernel

/-! ## The Tannery tier -/

/-- A fabric address of this node, as an entry's field. -/
def here (space off : Nat) : Nat := (localAddr space off).toNat

/-- TM_OP entries: COPY of one row in the bank view, of 256 bytes in the interleaved view, and an arm of 4096 bytes. -/
def bankCopy : Entry := ent 0x30 [(0, 1), (1, 1), (8, 1024), (16, 0), (32, 1024), (48, 1), (52, 1), (56, 1)]
def pairCopy : Entry := ent 0x30 [(0, 0x10), (8, here 1 2097152), (16, here 1 0), (32, 256)]
def armEnt : Entry := ent 0x30 [(0, 0x20), (2, 3), (8, here 1 4096), (32, 4096), (40, 3)]
def disarmEnt : Entry := ent 0x30 [(0, 0x21), (8, here 1 4096)]
def armedRange : Armed := { dst := 4096, len := 4096, dtype := 3, op := 3, armed := true, disarm := false }
def armedNode (s : State) : State := { s with tm := { s.tm with armed := [armedRange] } }
def noTannery (s : State) : State := { s with boot := { s.boot with runTpMask := 0 } }

theorem witness_TanneryCommands :
    ((headOf ready bankCopy).AtHead 0 bankCopy ∧ entOpcode bankCopy = 0x30 ∧ noReserved tmOpFields bankCopy = true ∧
     runningPorts (headOf ready bankCopy) ≠ [] ∧ runningPorts (noTannery (headOf ready bankCopy)) = [] ∧
     (noTannery (headOf ready bankCopy)).AtHead 0 bankCopy ∧ tmOpCheck (headOf ready bankCopy) bankCopy = none ∧
     tmFull (headOf ready bankCopy) (tmTouches (headOf ready bankCopy) (tmOpOf bankCopy)) = false ∧
     tmTouches (headOf ready bankCopy) (tmOpOf bankCopy) &&& ~~~ (headOf ready bankCopy).tm.down ≠ 0 ∧
     (headOf ready bankCopy).tm.queue = [] ∧ (headOf ready bankCopy).cmds = [] ∧
     tmFull { headOf ready bankCopy with tm := { ready.tm with queue := List.replicate 256 { tmOpOf bankCopy with todo := 1 } } } 1 = true) ∧
    ((headOf ready pairCopy).AtHead 0 pairCopy ∧ noReserved tmOpFields pairCopy = true ∧ tmOpCheck (headOf ready pairCopy) pairCopy = none ∧
     tmOpCheck (headOf ready (ent 0x30 [(0, 7)])) (ent 0x30 [(0, 7)]) = some stBadDesc) ∧
    ((headOf ready armEnt).AtHead 0 armEnt ∧ noReserved tmOpFields armEnt = true ∧ bodyField armEnt 0 1 = 0x20 ∧
     controlCheck (headOf ready armEnt) armEnt true = none ∧ (tmOpOf armEnt).dtype = 3 ∧ natBits 0 8 (tmOpOf armEnt).imm.toNat = 3 ∧
     armedOverlap (headOf ready armEnt) 4096 4096 = false ∧ armedOverlap (armedNode ready) 4096 4096 = true ∧
     armedOverlap { ready with tm := { ready.tm with armed := List.replicate 16 { armedRange with dst := 8192 } } } 4096 4096 = false ∧
     tmRunning ready &&& ~~~ ready.tm.down ≠ 0) ∧
    ((headOf (armedNode ready) disarmEnt).AtHead 0 disarmEnt ∧ noReserved tmOpFields disarmEnt = true ∧ bodyField disarmEnt 0 1 = 0x21 ∧
     controlCheck (headOf (armedNode ready) disarmEnt) disarmEnt true = none ∧ (tmOpOf disarmEnt).dtype = 0 ∧
     (armedNode ready).tm.armed.find? (fun r => decide (r.dst = 4096) && !r.disarm) = some armedRange ∧ (tmOpOf disarmEnt).len = 0 ∧
     (∀ r ∈ (armedNode ready).tm.armed, r.dst = 8192 → r.disarm = true)) ∧
    (let e := ent 0x31 [(0, 1)]
     let s := headOf { ready with tm := { ready.tm with next := 2 } } e
     s.AtHead 0 e ∧ entOpcode e = 0x31 ∧ noReserved [(0, 64)] e = true ∧ runningPorts s ≠ [] ∧ bodyField e 0 8 ≤ s.tm.next.toNat - 1 ∧ s.cmds = [] ∧
     bodyField e 0 8 ≤ (tmDone s).toNat ∧ s.tm.failedTickets = [] ∧ ready.tm.next.toNat - 1 < bodyField e 0 8 ∧
     (tmDone { s with tm := { s.tm with queue := [{ tmOpOf bankCopy with ticket := some 1, todo := 1 }] } }).toNat < bodyField e 0 8) := by
  refine ⟨?_, ?_, ?_, ?_, ?_⟩ <;> decide +kernel

/-- STATE_ entries: a park of 64 bytes from staging, an unpark into it, a fork and a drop of a block. -/
def parkEnt : Entry := ent 0x32 [(0, here 0 0), (8, here 1 64), (16, 64), (24, 1)]
def unparkEnt : Entry := ent 0x33 [(0, here 1 64), (8, here 0 0), (16, 64), (24, 2)]
def forkEnt : Entry := ent 0x34 [(0, here 1 0), (8, here 1 2097152), (16, 256)]
def dropEnt : Entry := ent 0x35 [(8, here 1 256), (16, 256)]

theorem witness_TanneryState :
    ((headOf ready parkEnt).AtHead 0 parkEnt ∧ entOpcode parkEnt = 0x32 ∧ noReserved stateFields parkEnt = true ∧
     localPieces (headOf ready parkEnt) (bodyAddr parkEnt 0) 64 = [] ∧
     parkCheck (headOf ready parkEnt) (bodyAddr parkEnt 0) (bodyAddr parkEnt 8) 64 = none ∧
     localPoison (headOf ready parkEnt) (bodyAddr parkEnt 0) 64 = false ∧ ready.tm.down = 0 ∧
     parkCheck ready (bodyAddr parkEnt 0) (bodyAddr parkEnt 8) 63 = some stBadDesc) ∧
    ((headOf ready unparkEnt).AtHead 0 unparkEnt ∧ entOpcode unparkEnt = 0x33 ∧ noReserved stateFields unparkEnt = true ∧
     parkCheck (headOf ready unparkEnt) (bodyAddr unparkEnt 8) (bodyAddr unparkEnt 0) 64 = none ∧ natBit 1 (bodyField unparkEnt 24 1) = true ∧
     localPoison (headOf ready unparkEnt) (bodyAddr unparkEnt 0) 64 = false ∧
     crc32c (localRead (headOf ready unparkEnt) (bodyAddr unparkEnt 0) 64) ≠ BitVec.ofNat 32 (bodyField unparkEnt 28 4)) ∧
    ((headOf ready forkEnt).AtHead 0 forkEnt ∧ entOpcode forkEnt = 0x34 ∧ noReserved stateFields forkEnt = true ∧
     tmRunning ready &&& ~~~ ready.tm.down ≠ 0 ∧ ready.tm.queue = [] ∧ (∀ c ∈ ready.cmds, ∀ t, c.kind ≠ .tmFence t) ∧
     tmFull ready (tmRunning ready) = false ∧ faRank (bodyAddr forkEnt 0) = rankSelf ∧ faSpace (bodyAddr forkEnt 8) = 1 ∧
     faOffset (bodyAddr forkEnt 0) % 2097152 = faOffset (bodyAddr forkEnt 8) % 2097152 ∧
     faOffset (bodyAddr forkEnt 8) + 256 ≤ tmCapacity ready) ∧
    ((headOf ready dropEnt).AtHead 0 dropEnt ∧ entOpcode dropEnt = 0x35 ∧ noReserved stateFields dropEnt = true ∧
     faOffset (bodyAddr dropEnt 8) % 256 = 0 ∧ faSpace (bodyAddr dropEnt 8) = 1 ∧ faRank (bodyAddr dropEnt 8) = rankSelf) ∧
    (let o : TmQueued := { tmOpOf bankCopy with ticket := some 1, todo := 1 }
     let s := { ready with tm := { ready.tm with next := 2, queue := [o] } }
     s.Runs ∧ moduleUp s 0 = true ∧ o.bankView = true ∧ o.failed = false ∧ o.disturbed = false ∧ o.ticket = some (s.tm.next - 1) ∧
     o.todo = (1 : Byte) <<< 0 ∧ o.pcMask = (1 : BitVec 32) <<< 0 ∧ o.bankMask = (1 : BitVec 16) <<< 0 ∧ o.bXor = 0 ∧ o.dXor = 0 ∧ o.len = 1024 ∧
     o.dst % 1024 = 0 ∧ o.srcA % 1024 = 0 ∧ o.srcB % 1024 = 0 ∧ o.dst < 2 ^ 27 ∧ o.dst ≠ o.srcA ∧ o.dst ≠ o.srcB ∧ s.cmds = [] ∧ s.tm.poison = [] ∧
     s.tm.cache = [] ∧ Memory.wf 0 s.tm.mem = true ∧ o.top = 1 ∧ (∀ x ∈ ready.tm.queue, x.todo.getLsbD 0 = false) ∧
     ready.boot.phase = phReady ∧ moduleUp ready 0 = true ∧ ready.tree.tests = [] ∧ bvGranule (errAddr 0
       { pc := 0, bank := 0, row := 0, col := 0, cause := 0, uncorrectable := true }) ∉ ready.tm.poison) := by
  refine ⟨?_, ?_, ?_, ?_, ?_⟩ <;> decide +kernel

/-! ## One-sided commands and collectives -/

/-- One-sided entries: within this node's staging memory, and to and from rank 1. -/
def there (off : Nat) : Nat := 2 ^ 46 + off
def putHere : Entry := ent 0x21 [(0, 5), (8, 16), (16, here 0 0), (24, here 0 4096)]
def putThere : Entry := ent 0x21 [(0, 5), (8, 16), (16, here 0 0), (24, there 4096)]
def getThere : Entry := ent 0x22 [(0, 5), (8, 8192), (16, there 0), (24, here 0 4096)]

theorem witness_PutAndGet :
    ((headOf ringed putHere).AtHead 0 putHere ∧ entOpcode putHere = 0x21 ∧ noReserved xferFields putHere = true ∧
     commHere 5 (headOf ringed putHere) = some comm ∧ commHere 6 (headOf ringed putHere) = none ∧
     xferCheck (headOf ringed putHere) comm putHere false = none ∧ bodyField putHere 4 1 = 0 ∧ ringed.cmds = [] ∧ ringed.ni.reqs = [] ∧
     isLocal (headOf ringed putHere) 0 (bodyAddr putHere 24) = some true ∧ ringed.tm.armed = [] ∧
     busReady (localPieces (headOf ringed putHere) (bodyAddr putHere 16) 16) (headOf ringed putHere) = true ∧
     localPoison (headOf ringed putHere) (bodyAddr putHere 16) 16 = false ∧
     bodyField putHere 8 8 ≤ 4096 - faOffset (bodyAddr putHere 24) % 4096) ∧
    (let s := headOf ringed putThere
     let far := bodyAddr putThere 24
     s.AtHead 0 putThere ∧ xferCheck s comm putThere false = none ∧ isLocal s 0 far = some false ∧ coordOf s 0 far ∉ s.ni.lost ∧
     s.StreamOpen (coordOf s 0 far) ∧ busReady (localPieces s (bodyAddr putThere 16) 16) s = true) ∧
    (let s := headOf ringed getThere
     let far := bodyAddr getThere 16
     s.AtHead 0 getThere ∧ entOpcode getThere = 0x22 ∧ noReserved xferFields getThere = true ∧ xferCheck s comm getThere true = none ∧
     isLocal s 0 far = some false ∧ s.StreamOpen (coordOf s 0 far) ∧ bodyField getThere 8 8 = 8192) ∧
    xferCheck ringed comm (ent 0x21 [(0, 5), (8, 16), (16, here 0 0), (24, 3 * 2 ^ 44)]) false = some stBadDesc := by
  refine ⟨?_, ?_, ?_, ?_⟩ <;> decide +kernel

theorem witness_AtomicCommand :
    (let e := ent 0x23 [(0, 5), (4, 1), (5, 8), (8, here 0 8), (16, 1)]
     let s := headOf ringed e
     s.AtHead 0 e ∧ entOpcode e = 0x23 ∧ noReserved atomicFields e = true ∧ commHere 5 s = some comm ∧ commHere 6 s = none ∧
     atomicCheck s comm e = none ∧ isLocal s 0 (bodyAddr e 8) = some true ∧ busReady (localPieces s (bodyAddr e 8) 8) s = true ∧
     faOffset (localAddr 0 4) % 8 ≠ 0) ∧
    (let e := ent 0x23 [(0, 5), (4, 8), (5, 4), (8, there 4), (16, 1)]
     let s := headOf ringed e
     s.AtHead 0 e ∧ atomicCheck s comm e = none ∧ isLocal s 0 (bodyAddr e 8) = some false ∧ coordOf s 0 (bodyAddr e 8) ∉ s.ni.lost ∧
     s.ni.reqs.length < 16384 ∧ s.StreamOpen (coordOf s 0 (bodyAddr e 8))) := by
  refine ⟨?_, ?_⟩ <;> decide +kernel

/-- An ALLREDUCE of 64 FP32 sums by DIRECT_AXIS from staging memory, and a program that serves it. -/
def collEnt : Entry := ent 0x20 [(0, 5), (4, 1), (5, 1), (6, 1), (7, 2), (8, 1), (9, 1), (16, 64), (24, here 0 0), (32, here 0 4096)]
def alone : State := { ringed with comms := [{ comm with hi := 0 }] }
def serving : Program := { id := 0x100, benches := 0xFFF, gen := 1, words := [BitVec.ofNat 64 (0xF0 * 2 ^ 56 + 0xFFFFFF01), 0] }
def served : State := { alone with progs := [serving] }

/-- Rein entries: one token of 128 elements, whose expert a selection record states, and the combination of one row. -/
def routeEnt : Entry := ent 0x40 [(0, 5), (4, 1), (5, 1), (6, 1), (7, 1), (9, 3), (16, 2), (18, 2), (20, 1), (24, 128), (28, 0x3F800000),
  (32, here 0 0), (48, here 0 4096), (56, here 0 8192), (64, here 0 12288), (72, here 0 16384), (80, here 0 20480), (88, here 0 24576)]
def combineEnt : Entry := ent 0x41 [(0, 5), (4, 1), (5, 1), (6, 1), (12, 1), (16, 1), (20, 128), (24, here 0 0), (40, here 0 4096)]
def routeRec : RouteRec := { slot := 0, tokens := 1, totalRows := 1, hidden := 128, entries := [{ row0 := 0, row1 := 0, w0 := 0x3F800000, w1 := 0 }] }
def combining : State := headOf { alone with rein := { alone.rein with slots := [routeRec] } } combineEnt

theorem witness_CollectivesStart :
    (let s := headOf ringed collEnt
     let x := prepCtx (popHead 0 s) 0 collEnt comm
     s.AtHead 0 collEnt ∧ entOpcode collEnt = 0x20 ∧ noReserved collFields collEnt = true ∧ commHere 5 s = some comm ∧ commHere 6 s = none ∧
     busReady (collReads 0 collEnt s) s = true ∧ collCheck (popHead 0 s) comm x = none ∧ commHeld s comm = false ∧
     (startColl comm x (popHead 0 s)).isSome = true ∧ commHeld s { comm with drained := true } = true ∧
     collCheck (popHead 0 s) comm { x with body := 0 } = some stBadDesc) ∧
    (let s := headOf served collEnt
     let c := { comm with hi := 0 }
     let x := prepCtx (popHead 0 s) 0 collEnt c
     s.AtHead 0 collEnt ∧ commHere 5 s = some c ∧ busReady (collReads 0 collEnt s) s = true ∧ collCheck (popHead 0 s) c x = none ∧
     commHeld s c = false ∧ x.alg ≠ 4 ∧ servingProg (popHead 0 s) x = some serving ∧ freeContext (popHead 0 s) = some 0 ∧
     chooseLanes (popHead 0 s) (lanesFor x (commSize s c)) (headThreads (serving.words.headD 0)) (headSlots (serving.words.headD 0)) = some [0] ∧
     boxDirs s c.lo c.hi = [] ∧ c.notices = [] ∧ c.patched = false ∧ s.ni.lost = [] ∧ s.ni.early = [] ∧ s.kp.filter = []) ∧
    (let s := headOf ringed (ent 0x20 [(0, 5), (4, 1), (5, 1), (6, 1), (7, 2), (8, 1), (9, 1), (16, 64), (24, here 2 0), (32, here 0 4096)])
     let w := { s with wins := [{ window with perm := 15 }] }
     busReady (collReads 0 (ent 0x20 [(0, 5), (4, 1), (5, 1), (6, 1), (7, 2), (8, 1), (9, 1), (16, 64), (24, here 2 0), (32, here 0 4096)]) w) w = false) ∧
    (let s := headOf alone routeEnt
     let c := { comm with hi := 0 }
     let x := reinCtx (popHead 0 s) 0 routeEnt true
     s.AtHead 0 routeEnt ∧ entOpcode routeEnt = 0x40 ∧ noReserved routeFields routeEnt = true ∧ commHere 5 s = some c ∧
     busReady (reinReads 0 routeEnt true s) s = true ∧ reinCheck (popHead 0 s) c true routeEnt x = none ∧ commHeld s c = false ∧
     routeSlotBusy (popHead 0 s) x = false ∧
     reinCheck (popHead 0 s) c true (ent 0x40 [(4, 3)]) x = some stBadDesc) ∧
    (let s := combining
     let c := { comm with hi := 0 }
     let x := reinCtx (popHead 0 s) 0 combineEnt false
     s.AtHead 0 combineEnt ∧ entOpcode combineEnt = 0x41 ∧ noReserved combineFields combineEnt = true ∧ commHere 5 s = some c ∧
     busReady (reinReads 0 combineEnt false s) s = true ∧ reinCheck (popHead 0 s) c false combineEnt x = none ∧
     routeSlotBusy (popHead 0 s) x = false ∧ combineBad (popHead 0 s) x = false ∧ (startRein c x (popHead 0 s)).isSome = true ∧
     combineBad (popHead 0 (headOf alone combineEnt)) x = true) := by
  refine ⟨?_, ?_, ?_, ?_, ?_⟩ <;> decide +kernel

/-- A bound context of the collective `collEnt`, and a lane thread of it. -/
def ctx0 : Ctx := { prepCtx alone 0 collEnt comm with seq := 1 }
def thread0 : Thread :=
  { id := { lane := 0, thr := 0 }, ctx := 0, logical := 0, prog := 0x100, gen := 1, pc := 1, s := List.replicate 32 0, v := List.replicate 8 0
    st := .running, waitArg := 0, slotBase := 0, slots := 2, stores := 0, missed := false, handles := [], pend := [], source := none }
def bound (x : Ctx) (ys : List Thread) : State := { ringed with ctxs := [x], threads := ys, progs := [serving] }

/-- Every context bound, those of index 0 and 1 blocked for longer than CONTEXT_SAVE_AFTER, and an entry that wants one. -/
def crowded : State :=
  { headOf ringed collEnt with
    ctxs := ctx0 :: { ctx0 with idx := 1, blockedSince := 7 } :: (List.range 510).map fun i => { ctx0 with idx := BitVec.ofNat 9 (i + 2), finished := true }
    kp := { ready.kp with timestamp := 0x100000000 } }

/-- A marked context, saved, with the head of its record in the save area. -/
def head12 : Bytes := bvBytes 4 (0x58435453 : W32) ++ bvBytes 4 (5 : W32) ++ bvBytes 4 (1 : W32)
def saved0 : Saved :=
  { record := 0, ctx := { ctx0 with lanes := 1 }, threads := [{ thread0 with st := .inCrecv }], slots := [], at_ := 0, total := 0, writing := false
    marked := true, ending := none, image := head12 }
def restoring : State := { ringed with
  saved := [saved0], tm := { ringed.tm with mem := memWrite 0 [] (interleave ringed (recordAt ringed 0)) head12 } }

theorem witness_EndsAndSaves :
    ((bound ctx0 []).OctozServes ∧ findCtx 0 (bound ctx0 []) = some ctx0 ∧ ctx0.serving = none ∧ ctx0.finished = false ∧
     findCtx 0 (bound { ctx0 with finished := true } []) = some { ctx0 with finished := true } ∧
     findCtx 0 (bound { ctx0 with serving := some 0x100 } [thread0]) = some { ctx0 with serving := some 0x100 } ∧
     thread0 ∈ (bound { ctx0 with serving := some 0x100 } [thread0]).threads ∧ thread0.ctx = 0 ∧ thread0.st ≠ .ended) ∧
    (let e : Entry := ent 7 [] ||| (100 : Entry) <<< 64
     let s := { headOf ringed e with kp := { ready.kp with timestamp := 100 } }
     s.AtHead 0 e ∧ entOpcode e = 0x07 ∧ 0 < entTimeout e ∧ (getPage 0 s).headSince + entTimeout e ≤ now s ∧
     now { s with kp := { ready.kp with timestamp := 99 } } < (getPage 0 s).headSince + entTimeout e ∧
     (headOf ringed collEnt).AtHead 0 collEnt ∧ opcodeKnown (entOpcode collEnt) = true ∧ entOpcode collEnt = 0x20) ∧
    (let c : Cmd := { cmdOf (.tmFence 1) with deadline := some 5 }
     let s := { at_ 5 with cmds := [c] }
     s.Runs ∧ findCmd c.id s = some c ∧ c.deadline = some 5 ∧ 5 ≤ now s ∧ (getPage c.q.toNat s).fetched = [] ∧ now { s with kp := ready.kp } < 5) ∧
    (let x := { ctx0 with deadline := some 5 }
     let s := { bound x [] with kp := { ready.kp with timestamp := 5 } }
     s.Runs ∧ findCtx 0 s = some x ∧ findComm x.handle s = some comm ∧ x.deadline = some 5 ∧ 5 ≤ now s ∧ now (bound x []) < 5) ∧
    (let y := { saved0 with ctx := { ctx0 with deadline := some 5 } }
     let s := { ringed with saved := [y] }
     s.Runs ∧ s.saved.find? (fun y => decide (y.record = 0) && !y.writing) = some y ∧ y.ctx.deadline = some 5 ∧ now s < 5) ∧
    (crowded.OctozServes ∧ contextWanted crowded = true ∧ 512 ≤ crowded.ctxs.length ∧ runningPorts crowded ≠ [] ∧
     pickSave crowded = some ctx0 ∧ freeRecord crowded = some 0 ∧ contextWanted ready = false) ∧
    (let y := { saved0 with writing := true, ctx := ctx0 }
     let s := { bound ctx0 [{ thread0 with st := .inCrecv }] with saved := [y] }
     s.Runs ∧ s.saved.find? (fun y => y.writing && decide (y.ctx.idx = 0)) = some y ∧ findCtx 0 s = some ctx0 ∧ threadsBlocked s ctx0 = true ∧
     allConfirmed ctx0 = true ∧ threadsBlocked { s with threads := [thread0] } ctx0 = false) ∧
    (restoring.OctozServes ∧ restoring.ni.early = [] ∧ restoring.saved.find? (fun y => decide (y.record = 0) && y.marked && !y.writing) = some saved0 ∧
     anyContext restoring = some 0 ∧ saved0.ctx.isRein = false ∧ saved0.ending = none ∧ restoreLanes restoring saved0 = some [0] ∧
     recordKey (tmRead restoring (recordAt restoring 0) saved0.image.length) = recordKey saved0.image ∧
     tmReadPoison restoring (recordAt restoring 0) 12 = false) := by
  refine ⟨?_, ?_, ?_, ?_, ?_, ?_, ?_, ?_⟩ <;> decide +kernel

/-! ## Packets of collectives, heralds and notices -/

/-- A packet of node 1 with a payload of 64 bytes of fields (offset, value) and data behind them. -/
def pkt (kind : BitVec 4) (fields : List (Nat × Nat)) (data : Bytes) : Packet :=
  let body := leBytes 64 (fields.map fun f => f.2 * 2 ^ (8 * f.1)).sum ++ data
  { kind := kind, vc := 1, epoch := false, flag := false, mark := false, echo := false, job := 0, mcast := false, rerouted := false
    sync := true, dest := 0, seq := 1, src := 1, prior := 0, tag := 0, payload := body, crc := crc32c body, tflags := 0 }
def spoiled (p : Packet) : Packet := { p with tflags := 2 }

/-- The stream record with a packet taken. -/
def taken (s : State) (p : Packet) : RxStream := match rxCase (now s) (rxOf s p.src) p with
  | .take r => r
  | _ => rxOf s p.src

/-- A chunk of one element at offset 0 of phase 0, step 1, for the bound collective; a grant; a re-request. -/
def chunkPkt : Packet := pkt 4 [(0, 5), (4, 1), (11, 1), (13, 1), (16, 1), (20, 0x3FFFF), (28, 1)] (leBytes 4 0x3F800000)
def grantPkt : Packet := pkt 4 [(0, 5), (4, 1), (12, 1), (16, 1), (28, 1)] []
def rereqPkt : Packet := pkt 4 [(0, 5), (4, 1), (10, 0xC), (11, 1), (16, 1), (28, 1)] []
def ctxP : Ctx := { ctx0 with serving := some 0x100 }
def waiter : Thread := { thread0 with st := .inCrecv, waitArg := 0x100 }
def outChunk : OutChunk :=
  { rcvs := [1], mcast := none, phase := 0, step := 1, cflags := 0, wire := 1, count := 1, off := 0, data := leBytes 4 7, ovf := false
    poison := false, lag := (0x3FFFF, 0), src := none, leg := none }

theorem witness_ChunkPackets :
    (let s := bound ctxP [waiter]
     let p := chunkPkt
     let k := chunkOf (now s) s comm p
     s.Accepts p (taken s p) ∧ s.Serves p ctxP comm ∧ p.kind = 4 ∧ isGrant p = false ∧ isRereq p = false ∧ isCounts p = false ∧ pktPoison p = false ∧
     BitVec.ofNat 16 (payField p 8 2) = sig16 ctxP.sig ∧ chunkAt ctxP k.sender.toNat k.phase k.step k.off = none ∧ chunkGood ctxP k = true ∧
     ctxP.serving.isSome = true ∧ isCounts (pkt 4 [(12, 2)] [0]) = true) ∧
    (let s := bound { ctxP with sig := 1 } [waiter]
     s.Serves chunkPkt { ctxP with sig := 1 } comm ∧ BitVec.ofNat 16 (payField chunkPkt 8 2) ≠ sig16 (1 : W64)) ∧
    (let p := spoiled chunkPkt
     let s := bound ctxP [waiter]
     let k := chunkOf (now s) s comm p
     s.Accepts p (taken s p) ∧ s.Serves p ctxP comm ∧ pktPoison p = true ∧ failCount ctxP (k.sender, k.phase, k.step, k.off) < 3 ∧
     3 ≤ failCount { ctxP with fails := [(1, 0, 1, 0, 3)] } (k.sender, k.phase, k.step, k.off)) ∧
    (let s := bound ctxP [waiter]
     s.Accepts grantPkt (taken s grantPkt) ∧ s.Serves grantPkt ctxP comm ∧ isGrant grantPkt = true ∧ ctxP.outq = []) ∧
    (let x := { ctx0 with sent := [outChunk] }
     let s := bound x []
     s.Accepts rereqPkt (taken s rereqPkt) ∧ s.Serves rereqPkt x comm ∧ isRereq rereqPkt = true ∧ x.sent = [outChunk] ∧
     outChunk.phase.toNat % 4 = payField rereqPkt 10 1 % 4 ∧ outChunk.step.toNat = payField rereqPkt 11 1 ∧
     outChunk.off < payField rereqPkt 32 8 + payField rereqPkt 28 4 ∧ payField rereqPkt 32 8 < outChunk.off + outChunk.count ∧
     BitVec.ofNat 17 (chunkSender rereqPkt) ∈ outChunk.rcvs ∧ s.StreamOpen (memberAt s comm (chunkSender rereqPkt))) ∧
    (let s := bound ctxP [waiter]
     let t := { s with ni := { s.ni with rx := [{ taken s chunkPkt with accepted := 0 }] } }
     t.Runs ∧ routerRuns t = true ∧ inStream chunkPkt = true ∧ crcOk chunkPkt = true ∧
     rxCase (now t) (rxOf t 1) { chunkPkt with sync := false } = .duplicate) ∧
    (let s := { bound ctxP [waiter] with kp := { ready.kp with timestamp := 0x100000000 } }
     s.Runs ∧ findCtx 0 s = some ctxP ∧ findComm ctxP.handle s = some comm ∧ ctxP.waitSince + ctxP.chunkTimeout.toNat ≤ now s ∧
     waiter ∈ s.threads ∧ waiter.ctx = 0 ∧ waiter.waitArg.setWidth 16 = ((1 : Byte) ++ (0 : Byte) : BitVec 16) ∧ chunkAt ctxP 1 0 1 0 = none ∧
     now (bound ctxP [waiter]) < ctxP.waitSince + ctxP.chunkTimeout.toNat) := by
  refine ⟨?_, ?_, ?_, ?_, ?_, ?_, ?_⟩ <;> decide +kernel

/-- A Cinch packet of type `ct` on axis 0, fragment `i` of `n`, wire form FP32 raw. -/
def cinchPkt (ct i n : Nat) (data : Bytes) : Packet :=
  let body := leBytes 24 (5 + 1 * 2 ^ 32 + ct * 2 ^ 80 + 1 * 2 ^ 88 + i * 2 ^ 96 + n * 2 ^ 104 + data.length * 2 ^ 112) ++ data
  { pkt 2 [] [] with vc := 0, sync := false, payload := body, crc := crc32c body }
def ringed1 : State := { ringed with cfg := { ringed.cfg with coord := 1 } }
def cinchSent : CinchSent := { ctype := 1, axis := 0, rcvs := [1], wire := 1, stream := leBytes 40 9, lag := (0x3FFFF, 0), ovf := false }

theorem witness_CinchPackets :
    (let s := bound ctx0 []
     let p := cinchPkt 1 1 2 (leBytes 4 1)
     s.Runs ∧ routerRuns s = true ∧ p.kind = 2 ∧ payField p 10 1 % 16 = 1 ∧ s.Serves p ctx0 comm ∧ crcOk p = true ∧ pktPoison p = false ∧
     BitVec.ofNat 16 (payField p 8 2) = sig16 ctx0.sig ∧ (setOf (now s) (ctx0.crec false) p).frags = [] ∧ payField p 13 1 = 2 ∧
     (setOf (now s) (ctx0.crec false) p).bad = false ∧ (setOf (now s) (ctx0.crec false) p).copies < 3 ∧ pktPoison (spoiled p) = true ∧
     crcOk { p with crc := p.crc + 1 } = false ∧ sig16 (1 : W64) ≠ sig16 ctx0.sig) ∧
    (let x := { ctx0 with count := 1 }
     let s := bound x []
     let p := cinchPkt 2 0 1 (leBytes 4 1)
     s.Runs ∧ s.Serves p x comm ∧ payField p 10 1 % 16 = 2 ∧ payField p 13 1 = 1 ∧ payField p 12 1 = 0 ∧ (x.crec false).downDone = false ∧
     relayAxes s comm = [] ∧ (cinchVals (payField p 11 1) x.count x.din (leBytes 4 1)).isSome = true) ∧
    (let x := { ctx0 with outq := [outChunk] }
     let s := bound x []
     let p := cinchPkt 6 0 1 []
     s.Serves p x comm ∧ payField p 10 1 % 16 = 6 ∧ payField p 13 1 = 1 ∧ (x.crec true).downDone = false ∧ relayAxes s comm = [] ∧ x.plan = [] ∧
     x.outq ≠ []) ∧
    (let x := { ctx0 with cinch := { CinchRec.empty with sent := [cinchSent] } }
     let s := bound x []
     let p := cinchPkt 4 0 1 []
     s.Runs ∧ s.Serves p x comm ∧ payField p 10 1 % 16 = 4 ∧ crcOk p = true ∧ x.vote.sent = [] ∧ cinchSent.axis.toNat = payField p 10 1 / 16 % 4 ∧
     p.src ∈ cinchSent.rcvs ∧ cinchSent.stream.length ≤ 40) ∧
    (let p := cinchPkt 1 0 1 []
     findColl (chunkHandle p) (chunkSeq p) ready = none ∧ ready.saved = [] ∧ findComm (chunkHandle p) ready = none ∧ ready.Runs) ∧
    (let s := { bound ctx0 [] with kp := { ready.kp with timestamp := 0x100000000 } }
     s.Runs ∧ findCtx 0 s = some ctx0 ∧ findComm ctx0.handle s = some comm ∧ (ctx0.crec false).sets = [] ∧
     setExpected s comm ctx0 false true 0 1 = true ∧ setExpected { s with cfg := ringed1.cfg } comm ctx0 false false 0 0 = true ∧ ctx0.startTick + ctx0.chunkTimeout.toNat ≤ now s ∧
     setExpected s comm ctx0 false true 1 1 = false ∧ now (bound ctx0 []) < ctx0.startTick + ctx0.chunkTimeout.toNat) := by
  refine ⟨?_, ?_, ?_, ?_, ?_, ?_⟩ <;> decide +kernel

/-! ## Links, routers and the network interface -/

/-- Port 0 of `ready` in a state, at full width. -/
def portIn (st : LinkState) (f : Port → Port) : State := port0 fun p => f { p with st := st, width := 8, ident := .up }
def upPort : State := portIn .up id

/-- A herald of collective 1 of communicator 5, one of a prewarm, and a notice that aborts collective 1. -/
def heraldPkt : Packet := pkt 1 [(0, 5), (4, 1), (8, 77)] []
def prewarmPkt : Packet := pkt 1 [(0, 5), (4, 1), (8, 1), (16, 1), (20, 250)] []
def noticePkt : Packet := pkt 2 [(0, 5), (4, 1), (10, 3), (32, 1), (36, 1)] []
def seen (k : HeraldKey) (s : State) : State := { s with kp := { s.kp with filter := [{ key := k, sig := 77, emitter := none, src := 1 }] } }
def sleepPort (st : LinkState) : State := modPort 0 (fun p => { p with st := st }) napping

theorem witness_HeraldsAndNotices :
    (ringed.Runs ∧ routerRuns ringed = true ∧ heraldKey heraldPkt = some (.collective 5 1) ∧ heraldPkt.kind = 1 ∧
     filterHas ringed (.collective 5 1) = false ∧ crcOk heraldPkt = true ∧ filterHas (seen (.collective 5 1) ringed) (.collective 5 1) = true ∧
     crcOk { heraldPkt with crc := 0 } = false ∧ ringed.kp.acting.heraldHold ≠ 0) ∧
    (heraldKey prewarmPkt = some (.prewarm 5 1 1) ∧ prewarmPkt.kind = 1 ∧ crcOk prewarmPkt = true ∧ 0 < payField prewarmPkt 20 4 ∧
     filterHas ringed (.prewarm 5 1 1) = false) ∧
    (heraldKey noticePkt = some (.abort 5 1) ∧ isAbort noticePkt = true ∧ crcOk noticePkt = true ∧ filterHas ringed (.abort 5 1) = false ∧
     findComm 5 ringed = some comm ∧ payField noticePkt 0 4 = 5 ∧ 1 ≤ seqAhead comm.seq (noticeOf noticePkt).seq ∧
     seqAhead comm.seq (noticeOf noticePkt).seq < 2 ^ 31 ∧ comm.notices = [] ∧
     (let s := { bound ctx0 [] with comms := [{ comm with seq := 1 }] }
      s.Runs ∧ routerRuns s = true ∧ findComm 5 s = some { comm with seq := 1 } ∧ seqAhead 1 (noticeOf noticePkt).seq = 0 ∧
      findColl 5 (noticeOf noticePkt).seq s = some ctx0)) ∧
    (let s := sleepPort .lpi
     s.Runs ∧ asleep s = true ∧ (getPort 0 s).st = .lpi ∧ s.kp.buffer.length < 16 ∧ filterHas s (.collective 5 1) = false ∧ s.kp.trans = .none ∧
     filterHas (seen (.collective 5 1) s) (.collective 5 1) = true ∧ (getPort 0 (sleepPort .sleep)).st = .sleep ∧
     16 ≤ { s.kp with buffer := List.replicate 16 (0, heraldPkt) }.buffer.length) := by
  refine ⟨?_, ?_, ?_, ?_⟩ <;> decide +kernel

/-- A port in LPI with a herald queued, and one whose herald the far end has not answered. -/
def outPkt (p : Packet) : OutPkt := { need := 1, pkt := p, from_ := none }
def heldHerald (f : Port → Port) : State := portIn .lpi fun p => f { p with heldFrame := some heraldPkt, heraldCredit := false }

theorem witness_SleepFrames :
    (let s := portIn .lpi id
     s.Runs ∧ s.HasPort 0 ∧ (getPort 0 s).st = .lpi ∧ (getPort 0 s).outq.getD 0 [] = [] ∧ (getPort 0 s).heldFrame = none ∧
     routerRuns s = true ∧ (getPort 0 (portIn .sleep id)).st = .sleep ∧ routerRuns (portIn .sleep id) = true ∧ (getPort 0 upPort).st ≠ .lpi) ∧
    (let s := portIn .lpi fun p => { p with outq := [[outPkt heraldPkt], [], [], []] }
     (getPort 0 s).outq.getD 0 [] = [outPkt heraldPkt] ∧ (getPort 0 s).outq.length = 4 ∧ (getPort 0 s).busy = false) ∧
    (let p := getPort 0 (heldHerald fun p => { p with frameTries := 3 })
     p.st = .lpi ∧ p.heldFrame = some heraldPkt ∧ p.busy = false ∧ p.frameTries < 4 ∧
     ¬(getPort 0 (heldHerald fun p => { p with frameTries := 4 })).frameTries < 4 ∧
     (getPort 0 (heldHerald fun p => { p with busy := true })).busy = true) ∧
    (let s := sleepPort .sleep
     s.Runs ∧ s.HasPort 0 ∧ (getPort 0 s).st = .sleep ∧ asleep s = true ∧ s.kp.trans = .none) ∧
    (let s := modPort 6 (fun p => { p with st := .lpi }) (portIn .lpi id)
     s.HasPort 0 ∧ (getPort 0 s).st = .lpi ∧ (getPort 6 s).st = .lpi) := by
  refine ⟨?_, ?_, ?_, ?_, ?_⟩ <;> decide +kernel

/-- A group that holds the two flits of a chunk and padding. -/
def groupData : BitVec 2048 := BitVec.ofNat 2048 (leNat ((flitsOf chunkPkt).flatMap (bvBytes 64)))
def group0 : FlitGroup := { data := groupData, groupSeq := 0, ackSeq := 0, crc := groupCrc groupData 0 0 }
def txGroup (n : W16) : TxGroup := { seq := n, data := groupData, pkts := [0], insertion := false }

theorem witness_LinkFlits :
    (upPort.Runs ∧ upPort.HasPort 0 ∧ (getPort 0 upPort).st = .up ∧ (getPort 0 (portIn .down id)).st = .down ∧
     (let f : CtrlFlit := { ctrlFlit 1 0 0 0 with crc := 0 }
      f ≠ ctrlFlit f.type f.ackSeq f.retrySeq f.body) ∧ (getPort 0 upPort).winErr < 31) ∧
    (let s := portIn .up fun p => { p with txGroups := [txGroup 4, txGroup 5], txNext := 6, replayFrom := 4, replaySame := 15 }
     let p := getPort 0 s
     p.txGroups = [txGroup 4, txGroup 5] ∧ (ackGroups 3 p).replayFrom = 4 ∧ (ackGroups 3 p).replaySame + 1 = 16 ∧ groupLe 4 5 = true ∧
     -- an acknowledgement of the first group starts the count anew
     (ackGroups 4 p).replaySame = 0 ∧ ¬p.replaySame < 15 ∧ p.ackTimeouts < 3) ∧
    (let p := getPort 0 upPort
     p.txGroups = [] ∧ p.outq.all (fun l => l.isEmpty) = true ∧ p.txStream = [] ∧ p.txIns = [] ∧ p.lpiWanted = false ∧ p.lpiSent = false ∧
     (getPort 0 (portIn .up fun p => { p with lpiWanted := true })).lpiWanted = true ∧
     (getPort 0 (portIn .up fun p => { p with outq := [[], [outPkt chunkPkt], [], []] })).outq.all (fun l => l.isEmpty) = false) ∧
    (let s := portIn .up fun p => { p with txGroups := [txGroup 4], ackTimeouts := 2, replaySame := 14 }
     (getPort 0 s).txGroups = [txGroup 4] ∧ (getPort 0 s).ackTimeouts < 3 ∧ (getPort 0 s).replaySame < 15 ∧
     3 ≤ (getPort 0 (portIn .up fun p => { p with txGroups := [txGroup 4], ackTimeouts := 3 })).ackTimeouts) ∧
    (let s := portIn .up fun p => { p with rxCover := some (0, 0) }
     let p := getPort 0 s
     s.Runs ∧ s.HasPort 0 ∧ p.st = .up ∧ group0.groupSeq = p.rxNext ∧
     insertionMark p group0.groupSeq = some false ∧ cutFlits p.rxFlits (groupFlits group0.data) = ([chunkPkt], []) ∧ p.inq.length = 4 ∧
     p.rxWaitReplay = false ∧ p.winErr < 31) ∧
    (group0.crc = groupCrc group0.data group0.groupSeq group0.ackSeq ∧ group0.crc + 1 ≠ groupCrc group0.data group0.groupSeq group0.ackSeq) := by
  have h : ∀ x : W32, x + 1 ≠ x := fun x e => by bv_omega
  refine ⟨by decide +kernel, by decide +kernel, by decide +kernel, by decide +kernel, by decide +kernel, ?_, ?_⟩ <;> simp only [group0]
  exact h _

theorem witness_LinkTraining :
    (let s := portIn .down id
     s.Runs ∧ s.HasPort 0 ∧ mayTrain s 0 = true ∧ (getPort 0 s).st = .down ∧ routerRuns s = true ∧
     (getPort 0 (portIn .down fun p => { p with retired := true })).retired = true) ∧
    (let t : Training := { saved := false, attempt := 2, fromUp := false, half := false }
     let s := portIn .training fun p => { p with training := some t }
     s.Runs ∧ s.HasPort 0 ∧ (getPort 0 s).training = some t ∧ 0 < widthOf (lanesUsed (getPort 0 s) t 0x0F) ∧
     widthOf (lanesUsed (getPort 0 s) t 0x3C) = 0 ∧ t.attempt < 3 ∧
     (let h : Training := { t with half := true, saved := true }
      let u := portIn .training fun p => { p with training := some h, lanesLost := 0x01 }
      (getPort 0 u).training = some h ∧ widthOf (lanesUsed (getPort 0 u) h 0xFF) = 4)) ∧
    ((getPort 0 upPort).st = .up ∧ (getPort 0 upPort).width = 8 ∧ (getPort 0 upPort).training = none) ∧
    (let s := modPort 6 (fun p => { p with st := .up }) (modPort 7 (fun p => { p with st := .up }) ready)
     s.Runs ∧ s.boot.runRails = 2 ∧ (getPort 6 s).st = .up ∧ (getPort 7 s).st = .up ∧ { s.boot with runRails := 1 }.runRails ≠ 2) := by
  refine ⟨?_, ?_, ?_, ?_⟩ <;> decide +kernel

/-- The ring's node with port 0 (to +X) UP, the far end with free slots, and packets at that port. -/
def linked (f : Port → Port) : State :=
  modPort 0 (fun p => f { p with st := .up, width := 8, ident := .up, txFreed := [64, 64, 64, 64] }) ringed
def toNode1 : Packet := { chunkPkt with src := 0, dest := 1 }
/-- The ring's node with a packet at port 1 (from -X), for node 1, for this node, and a drain marker for this node. -/
def arriving (p : Packet) : State := modPort 1 (fun q => { q with inq := [[], [p], [], []] }) (linked id)

theorem witness_RouterMoves :
    (let s := { linked id with kp := { ringed.kp with timestamp := 100 } }
     s.Runs ∧ s.HasPort 0 ∧ now s % 100 = 0 ∧ (getPort 0 s).window ≠ now s / 100 + 1 ∧ now { s with kp := { ringed.kp with timestamp := 101 } } % 100 ≠ 0) ∧
    (let s := linked fun p => { p with outq := [[], [outPkt chunkPkt], [], []] }
     let p := getPort 0 s
     p.st = .up ∧ p.lpiSent = false ∧ p.width = 8 ∧ p.outq = [[], [outPkt chunkPkt], [], []] ∧ (outPkt chunkPkt).need ≤ slotsFree p 1 ∧ p.retry = [] ∧
     flitBytes chunkPkt ≤ 65536 ∧ p.txStream = [] ∧ s.cmds = [] ∧ (getPort 0 (linked id)).outq = [[], [], [], []] ∧
     (getPort 0 (linked fun p => { p with lpiSent := true })).lpiSent = true) ∧
    (let s := arriving toNode1
     s.Runs ∧ s.HasPort 1 ∧ routerRuns s = true ∧ s.cmds = [] ∧ (getPort 1 s).inq.getD 1 [] = [toNode1] ∧ (getPort 1 s).rxHeld.getD 1 0 < 3 ∧
     toNode1.mcast = false ∧ (routePacket s (some 1) toNode1 = .out 0 1 false) ∧ pickMember s toNode1.vc 0 = some 0 ∧
     canTake (getPort 0 s) 1 1 = true ∧ (getPort 0 s).lpiSent = false ∧ (getPort 0 s).inq.getD 1 [] = [] ∧
     canTake (getPort 0 (linked fun p => { p with txFreed := [0, 0, 0, 0] })) 1 1 = false) ∧
    (let p : Packet := { chunkPkt with kind := 15 }
     let s := arriving p
     (getPort 1 s).inq.getD 1 [] = [p] ∧ p.dest = myCoord s ∧ p.mcast = false ∧ (pkt 5 [(0, here 0 0)] []).dest = myCoord s) ∧
    (let s := { linked id with rt := { ringed.rt with inject := [(none, toNode1)] } }
     s.Runs ∧ routerRuns s = true ∧ s.rt.inject = [(none, toNode1)] ∧ routePacket s none toNode1 = .out 0 2 false ∧
     pickMember s toNode1.vc 0 = some 0 ∧ canTake (getPort 0 s) 1 2 = true ∧ rateAdmits s 0 toNode1 = true ∧ s.cmds = [] ∧
     rateAdmits { s with ni := { s.ni with rates := List.replicate 12 { Rate.reset false with nextAt := 1 } } } 0 toNode1 = false) ∧
    routerRuns napping = false ∧ ringed.rt.inject = [] := by
  refine ⟨?_, ?_, ?_, ?_, ?_, ?_⟩ <;> decide +kernel

/-- Requests of node 1: a PUT of 8 bytes, a read of 16, a fetch and add on 8 bytes, in this node's staging memory. -/
def putPkt (a : Nat) : Packet := { pkt 5 [] [] with payload := leBytes 8 a ++ leBytes 8 7, crc := crc32c (leBytes 8 a ++ leBytes 8 7) }
def getPkt : Packet := { pkt 6 [] [] with payload := leBytes 16 (here 0 0 + 16 * 2 ^ 64), crc := crc32c (leBytes 16 (here 0 0 + 16 * 2 ^ 64)) }
def atomicBody : Bytes := leBytes 32 (here 0 8 + 2 ^ 64 + 8 * 2 ^ 72 + 5 * 2 ^ 128)
def atomicPkt : Packet := { pkt 7 [] [] with payload := atomicBody, crc := crc32c atomicBody }

theorem witness_RequestsServed :
    (let p := putPkt (here 0 0)
     ringed.Accepts p (taken ringed p) ∧ ringed.NothingWaits ∧ reqFormed p = true ∧ p.kind.toNat = 5 ∧ missReason ringed p = none ∧
     ringed.StreamOpen p.src ∧ { p with kind := 8 }.kind.toNat = 8 ∧ missReason ringed { p with kind := 8 } = none) ∧
    (let p := putPkt (here 2 0)
     ringed.Accepts p (taken ringed p) ∧ reqFormed p = true ∧ missReason ringed p = some 1) ∧
    (ringed.Accepts getPkt (taken ringed getPkt) ∧ reqFormed getPkt = true ∧ missReason ringed getPkt = none ∧
     busReady (localPieces ringed (payAddr getPkt) (reqLen getPkt)) ringed = true ∧ missReason ringed { getPkt with kind := 9 } = none) ∧
    (ringed.Accepts atomicPkt (taken ringed atomicPkt) ∧ reqFormed atomicPkt = true ∧ missReason ringed atomicPkt = none ∧
     busReady (localPieces ringed (payAddr atomicPkt) (reqLen atomicPkt)) ringed = true ∧ ringed.StreamOpen atomicPkt.src) ∧
    (let p := { putPkt (here 0 0) with sync := false }
     let s := { ringed with ni := { ringed.ni with rx := [taken ringed p] } }
     s.Runs ∧ routerRuns s = true ∧ s.NothingWaits ∧ inStream p = true ∧ crcOk p = true ∧ ejectHeld s + flitBytes p ≤ Config.ejectMax ∧
     rxCase (now s) (rxOf s 1) p = .duplicate) ∧
    (let p := putPkt (here 0 0)
     let s := { ringed with ctxs := [{ ctx0 with given := [(1, 4096)] }] }
     s.Runs ∧ s.NothingWaits ∧ Config.ejectMax < ejectHeld s + flitBytes p) := by
  refine ⟨?_, ?_, ?_, ?_, ?_, ?_⟩ <;> decide +kernel

/-- A request of `ringed` to node 1 for a packet of a kind, and its answers. -/
def reqOf (owner : ReqOwner) (kind : BitVec 4) (a : W64) : Req :=
  { num := 9, owner := owner, pkt := { pkt kind [] [] with src := 0, dest := 1, tag := 9 }, rank := 1, localAddr := a, sentAt := 0, reissued := false }
def answer (kind : BitVec 4) (body : Bytes) : Packet := { pkt kind [] [] with tag := 9, payload := body, crc := crc32c body }
def asking (r : Req) (cs : List Cmd) : State := { ringed with ni := { ringed.ni with reqs := [r] }, cmds := cs }
def xferGet : Xfer :=
  { handle := 5, job := 0, rank := 1, coord := some 1, src := 0, dst := localAddr 0 0, len := 8, next := 8, flag := false, signal := none
    sigSent := false, sigFail := false, miss := none, poison := false, degraded := false }
def marker (tag : W32) : Packet := { pkt 0xE [] [] with tag := tag, payload := [], crc := 0 }

theorem witness_ResponsesTaken :
    (let p := answer 0xA (leBytes 8 7)
     let q := reqOf (.load { lane := 0, thr := 0 } 3 8) 9 0
     let s := { asking q [] with threads := [{ thread0 with st := .inLoad }] }
     s.Accepts p (taken s p) ∧ s.ni.serving = [] ∧ p.kind = 0xA ∧ s.host.busMaster = true ∧ s.qs.length = 64 ∧ s.cmds = [] ∧
     reqFor p [6, 9] s = some q ∧ findThread { lane := 0, thr := 0 } s = some { thread0 with st := .inLoad } ∧ thread0.s.length = 32 ∧
     reqFor { p with tag := 8 } [6, 9] s = none) ∧
    (let p := answer 0xA (leBytes 8 7)
     let q := reqOf (.cmd 0) 6 (localAddr 0 0)
     let s := asking q [cmdOf (.get xferGet)]
     s.Accepts p (taken s p) ∧ reqFor p [6, 9] s = some q ∧ s.ni.reqs = [q] ∧ q.owner = .cmd (cmdOf (.get xferGet)).id ∧
     xferGet.len ≤ xferGet.next ∧ xferGet.signal = none ∧ xferGet.miss = none ∧ xferGet.poison = false ∧ pktPoison p = false) ∧
    (let q := reqOf (.cmd 0) 7 0
     let s := asking q [cmdOf (.atomic 5 1 1)]
     let p := answer 0xB (leBytes 8 7)
     let m := answer 0xC [4]
     s.Accepts p (taken s p) ∧ s.Accepts m (taken s m) ∧ Memory.wf 0 s.bus = true ∧ reqFor p [7] s = some q ∧ p.payload.length = 8 ∧
     reqFor m [5, 6, 7, 8, 9] s = some q) ∧
    (let p := marker 4
     ringed.Runs ∧ routerRuns ringed = true ∧ inStream p = true ∧ crcOk p = true ∧ p.kind = 0xE ∧
     rxCase (now ringed) (rxOf ringed p.src) p = .take (taken ringed p) ∧ p.flag = false ∧ p.tag.getLsbD 0 = false ∧ ringed.StreamOpen p.src) ∧
    (let p := marker 5
     let w : Round := { num := 1, epoch := true, dests := [1, 2], all := [1, 2] }
     let s := { ringed with ni := { ringed.ni with rounds := [w] } }
     p.tag.getLsbD 0 = true ∧ s.ni.rounds = [w] ∧ w.num = p.tag >>> 2 ∧ w.dests.length = 2 ∧ p.src ∈ w.dests ∧ w.dests.Nodup ∧
     s.ni.serving = []) := by
  refine ⟨?_, ?_, ?_, ?_, ?_⟩ <;> decide +kernel

/-! ## Streams, losses, errors and the test port -/

/-- A control packet of node 1: type and number. -/
def ctrlPkt (type seq : Nat) : Packet :=
  { pkt 3 [] [] with vc := 0, sync := false, tag := BitVec.ofNat 32 (type + seq * 2 ^ 16), payload := [], crc := 0 }
def streamTo1 (ps : List Packet) : State :=
  { ringed with ni := { ringed.ni with tx := [{ dst := 1, next := 5, fresh := false, unacked := ps, waiting := [] }] } }
def rx1 : RxStream := { taken ringed chunkPkt with accepted := 1 }
def receiving (r : RxStream) (t : W64) : State :=
  { ringed with ni := { ringed.ni with rx := [r] }, kp := { ringed.kp with timestamp := t } }
def late (s : State) : State := { s with kp := { s.kp with timestamp := 0x100000000 } }

theorem witness_StreamsKept :
    (let s := streamTo1 [{ chunkPkt with seq := 3 }, { chunkPkt with seq := 4 }]
     let p := ctrlPkt 1 4
     s.Runs ∧ routerRuns s = true ∧ p.kind = 3 ∧ p.tag.setWidth 8 = (1 : Byte) ∧ p.echo = false ∧ s.cmds = [] ∧ s.ni.reqs = [] ∧ s.ctxs = [] ∧
     (txOf s 1).waiting = [] ∧ (rxOf s 1).missed = [] ∧ (ctrlPkt 3 4).tag.setWidth 8 = (3 : Byte) ∧
     (txOf s 1).unacked.find? (fun q => decide (q.seq = 4)) = some { chunkPkt with seq := 4 } ∧
     (txOf s 1).unacked.find? (fun q => decide (q.seq = 9)) = none ∧ isRequest chunkPkt = false ∧
     (let q := { putPkt 0 with seq := 4, tag := 9 }
      let u := streamTo1 [q]
      (txOf u 1).unacked.find? (fun q => decide (q.seq = 4)) = some q ∧ isRequest q = true ∧ u.ni.reqs = []) ∧
     (ctrlPkt 2 9).tag.setWidth 8 = (2 : Byte)) ∧
    (let s := receiving rx1 0
     s.Runs ∧ routerRuns s = true ∧ 0 < (rxOf s 1).accepted ∧ (rxOf s 1).src = 1 ∧ (rxOf s 1).next = some 2 ∧ (rxOf s 1).missed = [] ∧
     (rxOf s 1).held = [] ∧ (rxOf ringed 1).accepted = 0 ∧ { chunkPkt with flag := true } ∈ (rxOf (receiving { rx1 with held := [{ chunkPkt with flag := true }] } 0) 1).held ∧
     seqBelow chunkPkt.seq 2 = true) ∧
    (let r := reqOf (.cmd 0) 5 0
     let s := asking r []
     let p := ctrlPkt 2 9
     s.Runs ∧ s.ni.reqs = [r] ∧ r.pkt.dest = p.src ∧ r.num.setWidth 16 = (p.tag >>> 16).setWidth 16 ∧ s.ni.busy = [] ∧
     (let u := { s with ni := { s.ni with busy := [(9, 0)] }, kp := { s.kp with timestamp := 50 } }
      u.Runs ∧ routerRuns u = true ∧ u.ni.reqs = [r] ∧ u.ni.busy = [(r.num, 0)] ∧ 0 + 50 ≤ now u ∧ now { u with kp := { s.kp with timestamp := 49 } } < 0 + 50)) ∧
    (let s := late (receiving { rx1 with bitmap := 2 } 0)
     s.Runs ∧ (rxOf s 1).next = some 2 ∧ (rxOf s 1).bitmap ≠ 0 ∧ (rxOf s 1).stuckAt + s.cfg.chunkTimeout.toNat ≤ now s ∧
     ¬(rxOf s 1).stuckAt + s.cfg.chunkTimeout.toNat ≤ now (receiving rx1 0)) ∧
    (let r := reqOf (.cmd 0) 7 0
     let s := late (asking { r with reissued := true } [cmdOf (.atomic 5 1 1)])
     s.Runs ∧ routerRuns s = true ∧ r.sentAt + s.cfg.chunkTimeout.toNat ≤ now s ∧ (txOf s r.pkt.dest).waiting = [] ∧ r.reissued = false ∧
     r.pkt.kind = 7 ∧ r.owner = .cmd (cmdOf (.atomic 5 1 1)).id ∧ s.cmds = [cmdOf (.atomic 5 1 1)] ∧ (reqOf (.cmd 0) 5 0).pkt.kind ≠ 7) ∧
    (let p := { putPkt (here 0 0) with seq := 2, flag := true, prior := 1 }
     let s := receiving { rx1 with held := [p], next := some 3 } 0
     s.Runs ∧ routerRuns s = true ∧ s.NothingWaits ∧ (rxOf s 1).held = [p] ∧ (rxOf s 1).src = 1 ∧ flagReady (rxOf s 1) p = true ∧ p.kind = 5 ∧
     reqFormed p = true ∧ missReason s p = none ∧ 0 < (rxOf s 1).accepted ∧ (rxOf s 1).missed = [] ∧ (rxOf ringed 1).held = [] ∧ ringed.wins = []) ∧
    (let k : RateClass := { vc2 := false, dir := 5 }
     k.dir.toNat < 6 ∧ ringed.ni.rates.length = 12 ∧ (rateOf k ringed).lastEcho + 1250 ≤ now (late ringed) ∧
     (rateOf k ringed).lastRise + 25 ≤ now (late ringed) ∧ now ringed < (rateOf k ringed).lastEcho + 25) := by
  refine ⟨?_, ?_, ?_, ?_, ?_, ?_, ?_⟩ <;> decide +kernel

/-- A management packet of node 1 about a coordinate. -/
def mgmtPkt (mtype num : Nat) (c : W32) : Packet := { mgmtPacket ringed1 0 mtype num c 1 0 with sync := true, seq := 1, vc := 1 }

theorem witness_NodeLoss :
    (ringed.Accepts (mgmtPkt 1 7 2) (taken ringed (mgmtPkt 1 7 2)) ∧ treeRuns ringed = true ∧ isMgmt 1 (mgmtPkt 1 7 2) = true ∧ ringed.StreamOpen 1 ∧
     isMgmt 2 (mgmtPkt 2 7 2) = true ∧ isMgmt 3 (mgmtPkt 3 7 2) = true ∧ isMgmt 4 (mgmtPkt 4 7 2) = true ∧ (2 : Coord) ∉ ringed.ni.lost ∧
     ringed.ni.lost.length < 1024 ∧ (mgmtPkt 3 7 2).src = 1 ∧ (2 : Coord) ∈ { ringed.ni with lost := [2] }.lost) ∧
    (let s := { ringed with ni := { ringed.ni with probes := [(1, 1, 0)] }, kp := { ringed.kp with timestamp := 5000 } }
     s.Runs ∧ treeRuns s = true ∧ (1, 1, 0) ∈ s.ni.probes ∧ 0 + 5000 ≤ now s ∧ now { s with kp := { ringed.kp with timestamp := 4999 } } < 0 + 5000 ∧
     goneDir s 2 = none) ∧
    (let s := { ringed with ports := ringed.ports.map fun p => { p with st := .down, cause := 6 } }
     s.Runs ∧ (goneDir s 1).isSome = true ∧ (1 : Coord) ∉ s.ni.lost) ∧
    (let s := { ringed with ni := { ringed.ni with degradedAt := some 0 }, kp := { ringed.kp with timestamp := 25000 } }
     s.Runs ∧ s.ni.degradedAt = some 0 ∧ 0 + 25000 ≤ now s ∧ now ringed < 0 + 25000 ∧ ringed.ni.degradedAt = none) := by
  refine ⟨?_, ?_, ?_, ?_⟩ <;> decide +kernel

theorem witness_UnitsFail :
    (ready.Runs ∧ treeRuns ready = true ∧ ready.boot.phase = phReady ∧ ready.threads = [] ∧ ready.tree.tests = [] ∧ (9 : Byte) ∉ ready.boot.laneMap ∧
     (9 : Byte) ∉ ready.boot.spares ∧ (4 : Byte) ∈ ready.boot.spares ∧ (3 : Byte) ∈ ready.boot.laneMap ∧ spareFor ready 3 = some 4) ∧
    (6291456 ≤ (786432 : W32).toNat * 8 ∧ (786431 : W32).toNat * 8 < 6291456 ∧ ready.stg.spare.isSome = true ∧
     { ready.stg with spare := none }.spare = none ∧ stagingTest ready = false ∧ (0 : BitVec 4).toNat * 6291456 + (0 : W32).toNat * 8 < 0x04000000) ∧
    (let s := { ready with kp := { ready.kp with timestamp := 125000 } }
     s.Runs ∧ treeUp s = true ∧ s.tree.wdAt + 125000 ≤ now s ∧ s.tree.standby = true ∧ { s.tree with standby := false }.standby = false ∧
     now ready < ready.tree.wdAt + 125000 ∧ testRunning ready (.lane 4) = false) ∧
    (let x : UnitTest := { unit := .lane 4, byError := false, threshold := false, row := 0, since := 0, waiters := [0] }
     let c := cmdOf (.selftest (.lane 4))
     let s := { ready with tree := { ready.tree with tests := [x] }, cmds := [c] }
     s.Runs ∧ treeRuns s = true ∧ s.tree.tests = [x] ∧ x.unit = .lane 4 ∧ x.byError = false ∧ x.waiters = [c.id] ∧ s.cmds = [c] ∧
     s.boot.lanesRetired.getLsbD 4 = false ∧ (4 : Byte).toNat < 168) := by
  refine ⟨?_, ?_, ?_, ?_⟩ <;> decide +kernel

theorem witness_BoardEvents :
    (ready.Runs ∧ ready.kp.therm.length = 8 ∧ (379 : W16).toInt < 380 ∧ 380 ≤ (380 : W16).toInt ∧ sensorLevel 7 ready = 0 ∧
     sensorLevel 7 (keeper fun k => { k with therm := List.replicate 8 { temp := 380, level := 1 } }) ≠ 0 ∧ 420 ≤ (420 : W16).toInt ∧
     (399 : W16).toInt < 400 ∧ 460 ≤ (460 : W16).toInt ∧
     (let s := keeper fun k => { k with throttled := true, therm := List.replicate 8 { temp := 399, level := 2 } }
      s.kp.throttled = true ∧ (∀ x ∈ s.kp.therm, x.temp.toInt < 400)) ∧
     (let s := keeper fun k => { k with throttled := true, therm := List.replicate 8 { temp := 400, level := 2 } }
      s.kp.therm[1]? = some { temp := 400, level := 2 } ∧ 400 ≤ (400 : W16).toInt)) ∧
    (ready.boot.phase = phReady ∧ moduleUp ready 0 = true ∧ ready.tm.queue = [] ∧ ready.tm.temp.length = 8 ∧ (319 : W16).toInt < 320 ∧
     (319 : W16) ≠ 0x8000 ∧ 340 ≤ (340 : W16).toInt ∧ (340 : W16).toInt < 380 ∧ ready.cmds = []) ∧
    (let s := modPort 10 (fun p => { p with st := .up }) (modPort 11 (fun p => { p with st := .up }) { ready with board := .vn8d })
     s.Runs ∧ builtDual s = true ∧ (2 : BitVec 2) ≠ 3 ∧ s.kp.gbStop = [false, false, false] ∧ s.kp.gbWarn = [false, false, false] ∧
     s.kp.gbTemp.length = 3 ∧ s.ports.length = 12 ∧ (getPort 10 s).st = .up ∧ (getPort 11 s).st = .up) ∧
    (ready.kp.power ≠ .off ∧ { ready with undef := true }.kp.power ≠ .off ∧ debugOff ready = true ∧ debugOff { ready with fuses := 0 } = false ∧
     3 ≤ (3 : Byte).toNat ∧ ¬(0x10 ≤ (0x14 : Byte).toNat ∧ (0x14 : Byte).toNat ≤ 0x13) ∧ (0x13 : Byte).toNat ≤ 0x13) := by
  refine ⟨?_, ?_, ?_, ?_⟩ <;> decide +kernel

/-! ## Lane instructions -/

/-- A lane whose thread 0 stands before one instruction, with register 2 of value 1, and the collective's other threads. -/
def ctxL : Ctx := { ctxP with lanes := 1 }
def lane0 : Tid := { lane := 0, thr := 0 }
def zeroW : InsFields := { d := 0, a := 0, b := 0, c := 0, md := 0, imm := 0 }
def thr0 : Thread := { thread0 with s := setAt 2 1 (List.replicate 32 0), v := List.replicate 8 1 }
def laned (opc : Nat) (w : InsFields) (y : Thread) (others : List Thread) : State :=
  { bound ctxL (y :: others) with progs := [{ serving with words := [BitVec.ofNat 64 (0xF0 * 2 ^ 56 + 0xFFFFFF01), insWord opc w] }] }
abbrev May (opc : Nat) (w : InsFields) (y : Thread) : Prop := (laned opc w y []).Issues lane0 opc w y ctxL comm

theorem witness_LaneScalars :
    (∀ opc ∈ [0x01, 0x02, 0x03, 0x04, 0x05, 0x06, 0x07, 0x08, 0x09, 0x0A], May opc { zeroW with d := 31, a := 2, b := 3 } thr0 ∧
      May opc { zeroW with d := 31, a := 2, md := 1, imm := 5 } thr0) ∧
    May 0x0B { zeroW with d := 31, imm := 0x80000000 } thr0 ∧ May 0x0B { zeroW with d := 31, md := 1, imm := 7 } thr0 ∧
    (∀ m ∈ [0, 1, 2, 3, 4], May 0x10 { zeroW with a := 2, md := m, imm := 0xFFFFFFFF } thr0) ∧ May 0x12 zeroW thr0 ∧
    May 0x16 { zeroW with d := 31 } thr0 ∧ May 0x17 { zeroW with a := 2 } thr0 ∧
    May 0x01 { zeroW with d := 31, a := 2, b := 3 } { thr0 with st := .stalled } := by
  refine ⟨?_, ?_, ?_, ?_, ?_, ?_, ?_, ?_⟩ <;> decide +kernel

theorem witness_LaneThreads :
    (findThread lane0 ready = none ∧ ready.Runs ∧ findThread lane0 (laned 1 zeroW { thr0 with st := .ended } []) = some { thr0 with st := .ended } ∧
     (let s := { laned 1 zeroW thr0 [{ thr0 with id := { lane := 0, thr := 1 } }] with turns := [{ lane := 0, cls := .scalar, thr := 0 }] }
      s.Runs ∧ findThread lane0 s = some thr0 ∧ myTurn s thr0 (classOf 1) = false ∧ fetchAt s thr0 (insWord 1 zeroW) = .row) ∧
     fetchAt (laned 1 zeroW thr0 []) thr0 (insWord 2 zeroW) = .other ∧
     fetchAt (laned 1 zeroW { thr0 with pc := 2 } []) { thr0 with pc := 2 } (insWord 1 zeroW) = .fault 0x02 ∧
     fetchAt (laned 0x60 zeroW thr0 []) thr0 (insWord 1 zeroW) = .fault 0x01 ∧ May 0x01 { zeroW with md := 5 } thr0) ∧
    (May 0x13 zeroW thr0 ∧ May 0x13 zeroW { thr0 with stores := 1 } ∧ May 0x13 zeroW { thr0 with missed := true } ∧
     May 0x18 { zeroW with imm := 300 } thr0 ∧ May 0x15 { zeroW with imm := 4 } thr0) ∧
    (let z := { thr0 with id := { lane := 0, thr := 1 } }
      let s := laned 0x15 { zeroW with imm := 4 } thr0 [z]
      z ∈ s.threads ∧ z.ctx = thr0.ctx ∧ z.id ≠ lane0 ∧ z.st = .running ∧ s.Issues lane0 0x15 { zeroW with imm := 4 } thr0 ctxL comm) ∧
    (let z := { thr0 with id := { lane := 0, thr := 1 }, st := .inSync, waitArg := 4 }
      let s := laned 0x15 { zeroW with imm := 4 } thr0 [z]
      s.Issues lane0 0x15 { zeroW with imm := 4 } thr0 ctxL comm ∧
      ∀ z ∈ s.threads, z.ctx = thr0.ctx → z.id = lane0 ∨ z.st = .ended ∨ (z.st = .inSync ∧ z.waitArg = 4)) ∧
    (let w : InsFields := { zeroW with d := 31, b := 2, imm := 0x100 }
     let s := laned 0x14 w thr0 []
     s.Issues lane0 0x14 w thr0 ctxL comm ∧ thr0.logical.toNat < ctxL.lanes ∧ sibling s ctxL 0 = some thr0 ∧ (progOn s 0x100 0).isSome = true ∧
     freeThreads s 0 = [1, 2, 3, 4, 5, 6, 7] ∧ progOn s 0x101 0 = none ∧
     May 0x14 { w with md := 1, c := 2 } thr0 ∧ ctxL.lanes ≤ (sreg thr0 2).toNat ∧
     freeThreads (laned 0x14 w thr0 ((List.range 7).map fun i => { thr0 with id := { lane := 0, thr := BitVec.ofNat 3 (i + 1) } })) 0 = [] ∧
     sibling { s with threads := [] } ctxL 0 = none) := by
  refine ⟨?_, ?_, ?_, ?_, ?_⟩ <;> first | decide +kernel | (refine ⟨?_, ?_, ?_, ?_, ?_⟩ <;> decide +kernel)

/-- Register 2 holds an address. -/
def at2 (a : W64) : Thread := { thread0 with s := setAt 2 a (List.replicate 32 0) }
def ldW : InsFields := { zeroW with d := 7, a := 2, md := 3 }
def stW : InsFields := { zeroW with b := 7, a := 2, md := 3 }

theorem witness_LaneMemory :
    (May 0x20 ldW (at2 (localAddr 0 64)) ∧ May 0x20 ldW (at2 (BitVec.ofNat 64 (there 64))) ∧
     May 0x20 ldW (at2 (localAddr 0 1)) ∧ May 0x20 ldW (at2 (localAddr 2 64)) ∧
     May 0x20 ldW (at2 (BitVec.ofNat 64 (9 * 2 ^ 46)))) ∧
    (May 0x22 { ldW with md := 0 } (at2 (localAddr 0 64)) ∧ May 0x22 { ldW with md := 0 } (at2 (BitVec.ofNat 64 (there 64))) ∧
     May 0x21 stW (at2 (localAddr 0 64)) ∧ May 0x21 stW (at2 (BitVec.ofNat 64 (there 64))) ∧
     May 0x23 { stW with md := 0 } (at2 (localAddr 0 64)) ∧ May 0x23 { stW with md := 0 } (at2 (BitVec.ofNat 64 (there 64)))) ∧
    (isLocal ringed 0 (localAddr 0 64) = some true ∧ localCheck ringed (localAddr 0 64) 64 = none ∧ faOffset (localAddr 0 64) % 64 = 0 ∧
     busReady (localPieces ringed (localAddr 0 64) 64) ringed = true ∧ faOffset (localAddr 0 1) % 8 ≠ 0 ∧
     localCheck ringed (localAddr 2 64) 8 ≠ none ∧ isLocal ringed 0 (localAddr 2 64) = some true ∧
     busReady (localPieces { ringed with wins := [{ window with perm := 15 }] } (localAddr 2 64) 8) ringed = false ∧
     isLocal ringed 0 (BitVec.ofNat 64 (there 64)) = some false ∧ isLocal ringed 0 (BitVec.ofNat 64 (9 * 2 ^ 46)) = none ∧
     ringed.ni.reqs.length < 16384 ∧ ringed.StreamOpen 1 ∧ reqRoom (streamTo1 (List.replicate 64 chunkPkt)) 1 = false) ∧
    (let k := chunkOf 0 ringed comm chunkPkt
     May 0x22 { zeroW with d := 7, a := 3, md := 1 } { thr0 with handles := [(0, k)] } ∧ heldChunk { thr0 with handles := [(0, k)] } 3 = some k ∧
     heldChunk thr0 3 = none) ∧
    (May 0x24 zeroW { thr0 with pend := [(localAddr 0 0, [7])] } ∧ May 0x24 zeroW { thr0 with stores := 1 } ∧
     May 0x24 zeroW { thr0 with missed := true }) ∧
    (May 0x28 { zeroW with d := 7, a := 3, imm := 960 } thr0 ∧ May 0x28 { zeroW with b := 7, a := 3, md := 1, imm := 960 } thr0 ∧
     (960 : Nat) % 64 = 0 ∧ 960 + 64 ≤ thr0.slots * 512 ∧ thr0.slots * 512 < 1024 + 64) := by
  refine ⟨?_, ?_, ?_, ?_, ?_, ?_⟩ <;> first | decide +kernel | (refine ⟨?_, ?_, ?_, ?_, ?_⟩ <;> decide +kernel)

theorem witness_LaneVectors :
    (thr0.v.length = 8 ∧ May 0x30 { zeroW with d := 7, a := 6, b := 5 } thr0 ∧ May 0x30 { zeroW with d := 6, a := 4, b := 5, md := 2 } thr0 ∧
     May 0x30 { zeroW with d := 7, a := 4, b := 5, md := 1 } thr0) ∧ (∀ m ∈ [0, 1, 2, 3, 4, 5], May 0x31 { zeroW with d := 7, a := 6, b := 5, md := m } thr0) ∧
    (∀ m ∈ [0, 1, 2], May 0x33 { zeroW with d := 7, a := 6, b := 5, md := m } thr0) ∧ May 0x34 { zeroW with d := 7, a := 2 } thr0 ∧
    (May 0x32 { zeroW with d := 7, a := 6, c := 1, md := 1 } thr0 ∧ (fmtOf 1).isSome = true ∧ isFloatType 1 = true ∧
     (1 + 1) * 16 * dtypeSize 1 ≤ 64) := by
  refine ⟨?_, ?_, ?_, ?_, ?_⟩ <;> decide +kernel

theorem witness_LaneAccumulators :
    (thr0.s.length = 32 ∧ Memory.wf 0 ringed.slots = true ∧ (8 + 3) / 6 < thr0.slots ∧ ¬(9 + 3) / 6 < thr0.slots ∧ (26 + 3) / 30 < thr0.slots) ∧
    (∀ m ∈ [1, 3, 9], May 0x40 { zeroW with d := 3, a := 7, md := m, imm := 8 } thr0 ∧ May 0x41 { zeroW with d := 3, a := 7, b := 6, md := m, imm := 8 } thr0 ∧
      0 < dtypeSize m.toNat ∧ (0 + 1) * 4 * dtypeSize m.toNat ≤ 64) ∧
    (isFloatType 1 = true ∧ isIntType 1 = false ∧ isIntType 9 = true ∧ (intGet ringed thr0 0).1 = 0) ∧
    (May 0x42 { zeroW with d := 3, a := 7, imm := 8 } { thr0 with v := List.replicate 8 0 } ∧
     (ofLp128 (slice 0 16 (vbytes 0))).isSome = true ∧ May 0x43 { zeroW with d := 3, a := 6, imm := 11 } thr0 ∧ May 0x43 { zeroW with d := 3, a := 7 } thr0 ∧
     11 / 6 < thr0.slots ∧ thr0.slots ≤ 12 / 6) ∧
    (May 0x44 { zeroW with d := 3, a := 6, imm := 11 } thr0 ∧ May 0x44 { zeroW with d := 3, a := 7 } thr0 ∧
     (∀ m ∈ [1, 3, 9], May 0x44 { zeroW with d := 3, a := 7, md := m, imm := 8 } thr0)) ∧
    (May 0x45 { zeroW with d := 3, a := 7, b := 31, imm := 8 } thr0 ∧
     (∀ i, i < 4 → (toLp128 (lacGet ringed thr0 (8 + i)).1 (lacGet ringed thr0 (8 + i)).2).isSome = true)) ∧
    (May 0x46 { zeroW with a := 2, imm := 1 } thr0 ∧ (sreg thr0 2).toNat + (1 : W32).toNat ≤ thr0.slots ∧
     thr0.slots < (sreg thr0 2).toNat + (2 : W32).toNat) := by
  refine ⟨?_, ?_, ?_, ?_, ?_, ?_, ?_⟩ <;> decide +kernel

/-- CSEND of register 4's elements of FP32 at register 3 to the rank in register 2, with and without a grant. -/
def csendW (m : BitVec 4) : InsFields := { zeroW with a := 3, b := 2, c := 4, md := m, imm := 0x10000 * 3 }
def granted : Ctx := { ctxL with grants := [(1, 4)] }
def sender (a n : W64) : Thread := { thread0 with s := setAt 4 n (setAt 3 a (setAt 2 1 (List.replicate 32 0))) }
def sending (m : BitVec 4) (a n : W64) : State := { laned 0x50 (csendW m) (sender a n) [] with ctxs := [granted] }

theorem witness_LaneChunks :
    (∀ m ∈ [0, 1, 2, 3], (sending m (if m.getLsbD 0 then 0 else localAddr 0 0) 2032).Issues lane0 0x50 (csendW m)
      (sender (if m.getLsbD 0 then 0 else localAddr 0 0) 2032) granted comm ∧ wireSize (csendWire (csendW m)) = 4 ∧
      natBit 21 (csendW m).imm.toNat = false ∧ (csendTo ringed comm (csendW m) 1).isSome = true) ∧
    (csendTo ringed comm (csendW 1) 1 = some ([1], none) ∧ (csendTo ringed comm (csendW 3) 1).map (fun x => x.2.isSome) = some true ∧
     csendTo ringed comm (csendW 3) 0 = none ∧ (0 : Nat) + 256 * 4 ≤ thread0.slots * 512 ∧ thread0.slots * 512 < (0 : Nat) + 2032 * 4 ∧
     2032 * 4 = 8128 ∧ 8128 < 2033 * 4 ∧ localCheck ringed (localAddr 0 0) 8128 = none ∧ ringed.StreamOpen (memberAt ringed comm 1) ∧
     commSize ringed comm ≤ 2 ^ 17 ∧ 0 < allowance granted 1 ∧ allowance ctxL 1 = 0 ∧ (sender 0 1).source = none ∧
     (sending 0 (BitVec.ofNat 64 (there 0)) 2).Issues lane0 0x50 (csendW 0) (sender (BitVec.ofNat 64 (there 0)) 2) granted comm) ∧
    (let w : InsFields := { zeroW with d := 31, b := 2, imm := 0x100 }
     let k := chunkOf 0 ringed comm chunkPkt
     let x := { ctxL with chunks := [k] }
     let s := { laned 0x51 w thr0 [] with ctxs := [x] }
     May 0x51 w thr0 ∧ crecvChunk ctxL thr0 w = none ∧ s.Issues lane0 0x51 w thr0 x comm ∧ crecvChunk x thr0 w = some k ∧ k.count < 2 ^ 16) ∧
    (let k := chunkOf 0 ringed comm chunkPkt
     May 0x52 { zeroW with a := 3 } thr0 ∧ heldChunk thr0 3 = none ∧ May 0x52 { zeroW with a := 3 } { thr0 with handles := [(0, k)] } ∧
     heldChunk { thr0 with handles := [(0, k)] } 3 = some k) := by
  refine ⟨?_, ?_, ?_, ?_⟩ <;> decide +kernel

/-! ## The machine over any command -/

theorem witness_TimestampKept :
    ready.pins.pwrgood = true ∧ ready.KeeperRuns ∧ resetRow .dozeEntry = false ∧ (.dozeEntry : Instr) ≠ .keeperTick ∧
    leads (Machine.exec .idcode ready) (fun _ => true) = true := by decide +kernel

theorem witness_CommandsKeep :
    leads (Machine.exec .fuseRead { ready with fuses := 5 }) (fun _ => true) = true ∧ (5 : BitVec 1024).getLsbD 2 = true := by decide +kernel

theorem witness_OffStaysOff :
    let s := { keeper (fun k => { k with power := .off }) with pending := [.dozeEntry] }
    s.undef = false ∧ s.kp.power = .off ∧ (∀ c ∈ s.pending, resetRow c = false) ∧ leads (Machine.step s) (fun _ => true) = true := by decide +kernel

theorem witness_StepKeepsSound : ready.Sound ∧ leads (Machine.step ready) (fun _ => true) = true := by
  refine ⟨⟨?_, ?_, ?_, ?_, ?_, ?_, ?_, ?_, ?_, ?_, ?_, ?_, ?_, ?_, ?_⟩, ?_⟩ <;> decide +kernel

/-! ## Ill-formed commands, and single steps -/

/-- WellFormed refuses a command for each of its checks. -/
theorem test_illformed :
    Instr.wf (.packetStart 12) = false ∧ Instr.wf (.add { lane := 168, thr := 0 } zeroW) = false ∧ Instr.wf (.laneError 168 .datapath) = false ∧
    Instr.wf (.registerWrite 0x1002 4 0) = false ∧ Instr.wf (.bar0Read 0x1000 2) = false ∧ Instr.wf (.bar0Read 0x1004 8) = false ∧
    Instr.wf (.queueEnable 65 1) = false ∧ Instr.wf (.gb2Fault 3) = false ∧ Instr.wf (.sidebandWrite 0 []) = false ∧
    Instr.wf (.sidebandWrite 0 (List.replicate 63 0)) = false ∧ Instr.wf (.targetedSelftestEnd (.lane 168) true) = false ∧
    Instr.wf (.targetedSelftestEnd (.link 12) true) = false ∧ Instr.wf (.targetedSelftestEnd (.staging 17) true) = false := by decide +kernel

theorem test_illformed_packet : Instr.wf (.chunk { chunkPkt with payload := List.replicate 8193 0 }) = false := by
  change decide ((List.replicate 8193 (0 : Byte)).length ≤ 8192) = false
  rw [List.length_replicate]
  decide

/-- 00 Worked case 0-1: the fabric address 0x0001_5000_0123_4000. -/
theorem test_fabric_address :
    faRank 0x0001500001234000 = 5 ∧ faSpace 0x0001500001234000 = 1 ∧ faOffset 0x0001500001234000 = 19087360 ∧
    bvBytes 8 (0x0001500001234000 : W64) = [0x00, 0x40, 0x23, 0x01, 0x00, 0x50, 0x01, 0x00] := by decide +kernel

/-- 08 Worked case 8-1: the header of a chunk packet, here with no payload. -/
theorem test_packet_header :
    (packetBytes { chunkPkt with vc := 1, job := 3, sync := false, dest := 0x45, seq := 0x123, src := 0x42, payload := [], crc := 0 }).take 16 =
      [0x14, 0x0C, 0, 0, 0x45, 0x00, 0x46, 0x02, 0x42, 0, 0, 0, 0, 0, 0, 0] := by decide +kernel

/-- 12 Worked case 12-1: the terms 2^25, 3.0, -2^25 and 0.75 give 4.75 folded in order and 3.75 exactly. -/
theorem test_fold_and_exact :
    (([0x40400000, 0xCC000000, 0x3F400000] : List W32).foldl (fun a b => (fl32add a b).1) 0x4C000000 = 0x40980000) ∧
    (let acc := ([0x4C000000, 0x40400000, 0xCC000000, 0x3F400000] : List Nat).foldl (fun a b => lacAdd a.1 a.2 (codeVal 3 b)) ((0, lacNegZero) : BitVec 640 × BitVec 5)
     (fencode fp32 false (lacVal acc.1 acc.2)).1 = 0x40700000) := by decide +kernel

/-- The parity symbols make every syndrome zero (07:R188). -/
theorem test_fec_parity : rsGen.length = 31 ∧ rsSyndromes (rsEncode [5, 6, 1023]) = List.replicate 30 0 := by decide +kernel

/-- A sum wraps modulo 2^64, a branch of -1 goes back by one word, and an arithmetic shift keeps the sign (13 Table 13-3). -/
theorem test_lane_arithmetic :
    (let y := { thr0 with s := setAt 2 0xFFFFFFFFFFFFFFFF (setAt 3 2 (List.replicate 32 0)) }
     let w : InsFields := { zeroW with d := 31, a := 2, b := 3 }
     leads (Machine.exec (.add lane0 w) (laned 0x01 w y [])) (fun t => (findThread lane0 t).map (fun z => sreg z 31) = some 1) = true ∧
     leads (Machine.exec (.sar lane0 w) (laned 0x09 w y [])) (fun t => (findThread lane0 t).map (fun z => sreg z 31) = some 0xFFFFFFFFFFFFFFFF) = true) ∧
    (let w : InsFields := { zeroW with imm := 0xFFFFFFFF }
     leads (Machine.exec (.br lane0 w) (laned 0x10 w thr0 [])) (fun t => (findThread lane0 t).map (fun z => z.pc) = some 0) = true) := by
  refine ⟨?_, ?_⟩ <;> decide +kernel

/-- A PUT of node 1 writes its bytes, and a fetch and add answers the old value (10:R284, R285). -/
theorem test_requests :
    leads (Machine.exec (.putPacket (putPkt (here 0 0))) ringed) (fun t => stgRead t 0 8 = leBytes 8 7) = true ∧
    leads (Machine.exec (.atomicReq atomicPkt) { ringed with stg := { Staging.reset with mem := memWrite 0 [] 8 [9] } }) (fun t =>
      stgRead t 8 8 = leBytes 8 14 && (t.rt.inject.map fun x => x.2.payload) = [leBytes 8 9]) = true := by decide +kernel

/-- 14 Worked case 14-1: eight tokens that all rank expert 2 first, by TOP1 with CAP_FACTOR 1.0 and FALLBACK 1. -/
def case141 : Ctx := { reinCtx alone 0 (ent 0x40 [(9, 1), (11, 1), (16, 0x100), (18, 4), (20, 8), (24, 1024)]) true with idx := 0 }
theorem test_route_placing :
    (placeAll case141 [] [[2, 0, 1, 3], [2, 1, 3, 0], [2, 0, 3, 1], [2, 3, 1, 0], [2, 0, 3, 1], [2, 3, 1, 0], [2, 1, 0, 3], [2, 0, 1, 3]]).kept.reverse =
      [((0, 0), 2), ((1, 0), 2), ((2, 0), 0), ((3, 0), 3), ((4, 0), 0), ((5, 0), 3), ((6, 0), 1)] := by decide +kernel

end Sys2Proof.Tests
end

/-! The rows of entries: the guards that every command of a queue's entries passes before it starts (00:R7; 04:R104 to R106),
and O24 from them. -/

namespace Sys2Proof.Proofs

open Sys2Proof Sys2Proof.Machine Sys2Proof.Laws

/-! ## The entries that wait at the head of a queue -/

/-- An update of pages that keeps their fetched entries keeps them on every page. -/
theorem modPage_fetched (p r : Nat) (f : QPage → QPage) (s : State) (hf : ∀ g, (f g).fetched = g.fetched := by exact fun _ => rfl) :
    (getPage r (modPage p f s)).fetched = (getPage r s).fetched := by
  by_cases hr : r = p
  · subst hr
    by_cases hl : r = 64 ∨ r < s.qs.length
    · rw [getPage_modPage_self r f s hl, hf]
    · obtain ⟨h64, hlen⟩ := not_or.1 hl
      simp [getPage, modPage, h64, modAt_get, List.getElem?_eq_none (Nat.le_of_not_lt hlen)]
  · rw [getPage_modPage_other p r f s hr]

theorem sendMsix_page (v : BitVec 7) (r : Nat) (s : State) : getPage r (sendMsix v s) = getPage r s := by
  simp only [sendMsix, apply_ite (getPage r)]
  split
  · rfl
  · split <;> rfl

theorem signalEntry_fetched (p : Nat) (noIrq : Bool) (r : Nat) (s : State) :
    (getPage r (signalEntry p noIrq s)).fetched = (getPage r s).fetched := by
  unfold signalEntry
  extract_lets g
  split
  · rfl
  · split
    · rw [sendMsix_page]
      exact modPage_fetched p r _ s
    · exact modPage_fetched p r _ s

theorem pushTail_fetched (g : QPage) : (pushTail g).fetched = g.fetched := by
  unfold pushTail
  split <;> rfl

theorem busWrite_page (a : Nat) (bs : Bytes) (r : Nat) (s : State) : getPage r (busWrite a bs s) = getPage r s := by
  unfold busWrite busSend
  split <;> rfl

/-- A completion that host memory takes leaves every queue's fetched entries where they are. -/
theorem endEntry_fetched {s : State} (hm : s.host.busMaster = true) (q : BitVec 6) (e : Entry) (status : Byte) (r : Nat) :
    (getPage r (endEntry q e status s)).fetched = (getPage r s).fetched := by
  unfold endEntry postCompletion
  simp only [modPage_host, hm, if_true]
  rw [signalEntry_fetched, modPage_fetched _ _ pushTail _ pushTail_fetched, busWrite_page]
  exact modPage_fetched q.toNat r _ s

/-- The entry that starts leaves the head. -/
theorem popHead_fetched {s : State} (hl : s.qs.length = 64) (q : BitVec 6) :
    (getPage q.toNat (popHead q s)).fetched = (getPage q.toNat s).fetched.drop 1 := by
  unfold popHead
  rw [getPage_modPage_self _ _ _ (.inr (by omega))]

/-- Nothing settles on a queue without fetched entries. -/
theorem settleHead_nil {q : BitVec 6} {s : State} (h : (getPage q.toNat s).fetched = []) : settleHead q s = s := by
  rw [settleHead, h]
  rfl

/-- An entry that a command row starts stays at the head until the row does so. -/
theorem settleHead_known {q : BitVec 6} {e : Entry} {s : State}
    (h : (getPage q.toNat s).fetched = [{ entry := e, marked := false }]) (hk : opcodeKnown (entOpcode e) = true) :
    settleHead q s = s := by
  simp [settleHead, settleGo, h, hk]

/-! ## The guards of a command row -/

theorem runs_of_awake {s : State} (h : s.Awake) : s.Runs := by
  obtain ⟨hdef, hactive, htrip⟩ := h
  exact ⟨hdef, by simp [hactive], htrip⟩

theorem octozRuns_of_serves {s : State} (h : s.OctozServes) : octozRuns s = true := by
  obtain ⟨⟨-, hactive, -⟩, hready, hhalt⟩ := h
  simp [octozRuns, hactive, hready, hhalt]

theorem headIs_of_atHead {q : BitVec 6} {e : Entry} {s : State} (h : s.AtHead q e) : headIs q e s = true := by
  obtain ⟨hserves, -, -, hhead, hfree, -⟩ := h
  simp [headIs, octozRuns_of_serves hserves, hhead, hfree]

theorem fenceHolds_of_atHead {q : BitVec 6} {e : Entry} {s : State} (h : s.AtHead q e) : fenceHolds q e s = false := by
  obtain ⟨-, -, -, -, -, hnone | hnone⟩ := h <;> simp [fenceHolds, hnone]

/-- A row whose opcode the entry at the head carries refuses an entry with reserved bits before its command runs. -/
theorem octozRow_reserved {q : BitVec 6} {e : Entry} {fields : List (Nat × Nat)} {s : State} (h : s.AtHead q e)
    (hk : opcodeKnown (entOpcode e) = true) (hres : noReserved fields e = false) (run : State → Option State) :
    octozRow q e true fields run s = endEntry q e stBadDesc (popHead q s) := by
  obtain ⟨-, hmaster, hlen, hhead, -, -⟩ := id h
  have hpopped : (getPage q.toNat (endEntry q e stBadDesc (popHead q s))).fetched = [] := by
    rw [endEntry_fetched (by simpa [popHead] using hmaster), popHead_fetched hlen, hhead]
    rfl
  simp [octozRow, settleHead_known hhead hk, headIs_of_atHead h, fenceHolds_of_atHead h, hres, settleHead_nil hpopped]

/-- A fenced entry behind a command of its queue that has not completed stays at the head. -/
theorem octozRow_fenced {q : BitVec 6} {e : Entry} {s : State}
    (hhead : (getPage q.toNat s).fetched = [{ entry := e, marked := false }]) (hk : opcodeKnown (entOpcode e) = true)
    (hfence : fenceHolds q e s = true) (ok : Bool) (fields : List (Nat × Nat)) (run : State → Option State) :
    octozRow q e ok fields run s = s := by
  simp only [octozRow, settleHead_known hhead hk, ite_self, hfence, if_true]

/-- A row that reads memory asks for no byte while its entry is refused or fenced. -/
theorem octozRead_eq_row {q : BitVec 6} {e : Entry} {fields : List (Nat × Nat)} {s : State}
    (h : noReserved fields e = false ∨ fenceHolds q e s = true) (ok : Bool) (src : State → List (Nat × Nat))
    (run : State → Option State) :
    octozRead q e ok fields src run s = octozRow q e ok fields (fun t => (run t).map (useBus (src s))) s := by
  unfold octozRead
  refine if_neg ?_
  obtain h | h := h <;> simp [h]

/-! ## The commands that entries spell -/

/-- `f` is the meaning of a command row of entry `e` of queue `q`: the entry spells the row when `ok` holds, which gives it an
assigned opcode (04 Table 4-8), `fields` are the BODY's bits in use, and everything else stands behind the row's guards. -/
structure EntryRow (q : BitVec 6) (e : Entry) (ok : Bool) (fields : List (Nat × Nat)) (f : State → Out) : Prop where
  known : ok = true → opcodeKnown (entOpcode e) = true
  guarded : (∃ run, f = fun s => live s (octozRow q e ok fields run)) ∨
    ∃ src run, f = fun s => live s (octozRead q e ok fields src run)

section
variable {q : BitVec 6} {e : Entry} {ok : Bool} {fields : List (Nat × Nat)} {f : State → Out} {s : State}

/-- 00:R7: the row refuses an entry with reserved bits, and does nothing else. -/
theorem EntryRow.refuses (hrow : EntryRow q e ok fields f) (h : s.AtHead q e) (hok : ok = true)
    (hres : noReserved fields e = false) : f s = .next (endEntry q e stBadDesc (popHead q s)) := by
  have hk := hrow.known hok
  have hruns := runs_of_awake h.1.1
  subst hok
  obtain ⟨run, rfl⟩ | ⟨src, run, rfl⟩ := hrow.guarded
  · beta_reduce
    rw [live_runs hruns, octozRow_reserved h hk hres]
  · beta_reduce
    rw [live_runs hruns, octozRead_eq_row (.inl hres), octozRow_reserved h hk hres]

/-- 04:R105: the row does not start an entry that its FENCE holds. -/
theorem EntryRow.waits (hrow : EntryRow q e ok fields f) (hserves : s.OctozServes)
    (hhead : (getPage q.toNat s).fetched = [{ entry := e, marked := false }]) (hk : opcodeKnown (entOpcode e) = true)
    (hfence : fenceHolds q e s = true) : f s = .next s := by
  have hruns := runs_of_awake hserves.1
  obtain ⟨run, rfl⟩ | ⟨src, run, rfl⟩ := hrow.guarded
  · beta_reduce
    rw [live_runs hruns, octozRow_fenced hhead hk hfence]
  · beta_reduce
    rw [live_runs hruns, octozRead_eq_row (.inr hfence), octozRow_fenced hhead hk hfence]

/-- The premise `known` of a row that its opcode alone names. -/
theorem known_of_opcode {n : Nat} (hn : opcodeKnown n = true) (h : decide (entOpcode e = n) = true) :
    opcodeKnown (entOpcode e) = true := by rwa [of_decide_eq_true h]

/-- The premise `known` of one of several rows of an opcode, told apart by a field of the BODY. -/
theorem known_of_opcode_and {n : Nat} {c : Bool} (hn : opcodeKnown n = true) (h : (decide (entOpcode e = n) && c) = true) :
    opcodeKnown (entOpcode e) = true := known_of_opcode hn (Bool.and_eq_true_iff.1 h).1

end

section
variable (q : BitVec 6) (e : Entry)

/-! Management (05). -/

theorem ident_row : EntryRow q e (entOpcode e = 0x01) [(0, 64)] (Machine.exec (.ident q e)) :=
  ⟨known_of_opcode rfl, .inl ⟨_, rfl⟩⟩
theorem configSet_row : EntryRow q e (entOpcode e = 0x02) [(0, 16), (2, 1), (8, 64)] (Machine.exec (.configSet q e)) :=
  ⟨known_of_opcode rfl, .inl ⟨_, rfl⟩⟩
theorem powerPolicy_row : EntryRow q e (entOpcode e = 0x03) [(0, 5), (4, 32), (8, 32), (12, 32), (16, 32), (20, 8)]
    (Machine.exec (.powerPolicy q e)) := ⟨known_of_opcode rfl, .inl ⟨_, rfl⟩⟩
theorem prewarm_row : EntryRow q e (entOpcode e = 0x04) [(0, 32), (4, 32)] (Machine.exec (.prewarm q e)) :=
  ⟨known_of_opcode rfl, .inl ⟨_, rfl⟩⟩
theorem windowMap_row : EntryRow q e (entOpcode e = 0x05) [(0, 64), (8, 64), (16, 64), (24, 4)] (Machine.exec (.windowMap q e)) :=
  ⟨known_of_opcode rfl, .inl ⟨_, rfl⟩⟩
theorem windowUnmap_row : EntryRow q e (entOpcode e = 0x06) [(0, 32)] (Machine.exec (.windowUnmap q e)) :=
  ⟨known_of_opcode rfl, .inl ⟨_, rfl⟩⟩
theorem rankmapLoad_row : EntryRow q e (entOpcode e = 0x07) [(0, 8), (4, 32), (8, 64)] (Machine.exec (.rankmapLoad q e)) :=
  ⟨known_of_opcode rfl, .inr ⟨_, _, rfl⟩⟩
/-- The BODY's length follows from COUNT (05:R140). -/
theorem rankmapPatch_row : EntryRow q e (entOpcode e = 0x08) [(0, 8), (4, 32), (8, 32), (16, 32 * min (bodyField e 8 4) 24)]
    (Machine.exec (.rankmapPatch q e)) := ⟨known_of_opcode rfl, .inl ⟨_, rfl⟩⟩
theorem commCreate_row : EntryRow q e (entOpcode e = 0x09) commFields (Machine.exec (.commCreate q e)) :=
  ⟨known_of_opcode rfl, .inl ⟨_, rfl⟩⟩
theorem commDestroy_row : EntryRow q e (entOpcode e = 0x0A) [(0, 32)] (Machine.exec (.commDestroy q e)) :=
  ⟨known_of_opcode rfl, .inl ⟨_, rfl⟩⟩
theorem drainRow_row (release : Bool) :
    EntryRow q e (entOpcode e = 0x0B && (if release then bodyField e 4 1 = 1 else bodyField e 4 1 ≠ 1)) [(0, 32), (4, 8)]
      (fun s => live s (drainRow q e release)) :=
  ⟨known_of_opcode_and rfl, .inl ⟨_, funext fun s => congrArg (live s) (funext fun _ => by unfold drainRow; rfl)⟩⟩
theorem drain_row : EntryRow q e (entOpcode e = 0x0B && bodyField e 4 1 ≠ 1) [(0, 32), (4, 8)] (Machine.exec (.drain q e)) := by
  have h := drainRow_row q e false
  simp only [Bool.false_eq_true, if_false] at h
  exact h
theorem drainRelease_row : EntryRow q e (entOpcode e = 0x0B && bodyField e 4 1 = 1) [(0, 32), (4, 8)]
    (Machine.exec (.drainRelease q e)) := by
  have h := drainRow_row q e true
  simp only [if_true] at h
  exact h
theorem routeUpdate_row : EntryRow q e (entOpcode e = 0x0C) [(0, 32), (4, 16), (6, 1), (8, 64)] (Machine.exec (.routeUpdate q e)) :=
  ⟨known_of_opcode rfl, .inr ⟨_, _, rfl⟩⟩
theorem selftest_row : EntryRow q e (entOpcode e = 0x0D) [(0, 8), (4, 32)] (Machine.exec (.selftest q e)) :=
  ⟨known_of_opcode rfl, .inl ⟨_, rfl⟩⟩
theorem logRead_row : EntryRow q e (entOpcode e = 0x0E) [(0, 64), (8, 32), (12, 32)] (Machine.exec (.logRead q e)) :=
  ⟨known_of_opcode rfl, .inl ⟨_, rfl⟩⟩
theorem fwUpdateWrite_row : EntryRow q e (entOpcode e = 0x0F && !decide (bodyField e 0 1 = 1) && !decide (bodyField e 0 1 = 2)) fwFields
    (Machine.exec (.fwUpdateWrite q e)) := by
  simp only [← decide_not]
  exact ⟨fun h => known_of_opcode_and rfl (Bool.and_eq_true_iff.1 h).1, .inl ⟨_, rfl⟩⟩
theorem fwUpdateActivate_row : EntryRow q e (entOpcode e = 0x0F && bodyField e 0 1 = 1) fwFields
    (Machine.exec (.fwUpdateActivate q e)) := ⟨known_of_opcode_and rfl, .inl ⟨_, rfl⟩⟩
theorem fwUpdateCommit_row : EntryRow q e (entOpcode e = 0x0F && bodyField e 0 1 = 2) fwFields
    (Machine.exec (.fwUpdateCommit q e)) := ⟨known_of_opcode_and rfl, .inl ⟨_, rfl⟩⟩
theorem progLoad_row : EntryRow q e (entOpcode e = 0x10) [(0, 16), (2, 12), (4, 32), (8, 64)] (Machine.exec (.progLoad q e)) :=
  ⟨known_of_opcode rfl, .inl ⟨_, rfl⟩⟩

/-! Collectives and one-sided transfers (10). -/

theorem collSubmit_row : EntryRow q e (entOpcode e = 0x20) collFields (Machine.exec (.collSubmit q e)) :=
  ⟨known_of_opcode rfl, .inr ⟨_, _, rfl⟩⟩
theorem put_row : EntryRow q e (entOpcode e = 0x21) xferFields (Machine.exec (.put q e)) :=
  ⟨known_of_opcode rfl, .inr ⟨_, _, rfl⟩⟩
theorem get_row : EntryRow q e (entOpcode e = 0x22) xferFields (Machine.exec (.get q e)) :=
  ⟨known_of_opcode rfl, .inr ⟨_, _, rfl⟩⟩
theorem atomic_row : EntryRow q e (entOpcode e = 0x23) atomicFields (Machine.exec (.atomic q e)) :=
  ⟨known_of_opcode rfl, .inr ⟨_, _, rfl⟩⟩

/-! Tannery (15). -/

theorem tmOp_row : EntryRow q e (entOpcode e = 0x30 && !decide (bodyField e 0 1 = 0x20) && !decide (bodyField e 0 1 = 0x21)) tmOpFields
    (Machine.exec (.tmOp q e)) := by
  simp only [← decide_not]
  exact ⟨fun h => known_of_opcode_and rfl (Bool.and_eq_true_iff.1 h).1, .inl ⟨_, rfl⟩⟩
theorem accumArm_row : EntryRow q e (entOpcode e = 0x30 && bodyField e 0 1 = 0x20) tmOpFields (Machine.exec (.accumArm q e)) :=
  ⟨known_of_opcode_and rfl, .inl ⟨_, rfl⟩⟩
theorem accumDisarm_row : EntryRow q e (entOpcode e = 0x30 && bodyField e 0 1 = 0x21) tmOpFields (Machine.exec (.accumDisarm q e)) :=
  ⟨known_of_opcode_and rfl, .inl ⟨_, rfl⟩⟩
theorem tmFence_row : EntryRow q e (entOpcode e = 0x31) [(0, 64)] (Machine.exec (.tmFence q e)) :=
  ⟨known_of_opcode rfl, .inl ⟨_, rfl⟩⟩
theorem statePark_row : EntryRow q e (entOpcode e = 0x32) stateFields (Machine.exec (.statePark q e)) :=
  ⟨known_of_opcode rfl, .inr ⟨_, _, rfl⟩⟩
theorem stateUnpark_row : EntryRow q e (entOpcode e = 0x33) stateFields (Machine.exec (.stateUnpark q e)) :=
  ⟨known_of_opcode rfl, .inl ⟨_, rfl⟩⟩
theorem stateFork_row : EntryRow q e (entOpcode e = 0x34) stateFields (Machine.exec (.stateFork q e)) :=
  ⟨known_of_opcode rfl, .inl ⟨_, rfl⟩⟩
theorem stateDrop_row : EntryRow q e (entOpcode e = 0x35) stateFields (Machine.exec (.stateDrop q e)) :=
  ⟨known_of_opcode rfl, .inl ⟨_, rfl⟩⟩

/-! Rein (14). -/

theorem routeDispatch_row : EntryRow q e (entOpcode e = 0x40) routeFields (Machine.exec (.routeDispatch q e)) :=
  ⟨known_of_opcode rfl, .inr ⟨_, _, rfl⟩⟩
theorem combineAllreduce_row : EntryRow q e (entOpcode e = 0x41) combineFields (Machine.exec (.combineAllreduce q e)) :=
  ⟨known_of_opcode rfl, .inr ⟨_, _, rfl⟩⟩

end

/-- Settles O24: every command of an entry stands behind the guards of `octozRow`, which refuse the entry with reserved bits
before the command runs, and keep the fenced one at the head. -/
theorem entryGuards : Obligations.EntryGuards := by
  unfold Obligations.EntryGuards
  refine ⟨fun q e s h => ?_, fun q e s hserves hhead hk hf hstarted => ?_⟩
  · simp only [List.forall_mem_cons, List.not_mem_nil, false_imp_iff, implies_true, and_true]
    exact ⟨(ident_row q e).refuses h, (configSet_row q e).refuses h, (powerPolicy_row q e).refuses h, (prewarm_row q e).refuses h,
      (windowMap_row q e).refuses h, (windowUnmap_row q e).refuses h, (rankmapLoad_row q e).refuses h, (commCreate_row q e).refuses h,
      (commDestroy_row q e).refuses h, (drainRelease_row q e).refuses h, (drain_row q e).refuses h, (routeUpdate_row q e).refuses h,
      (selftest_row q e).refuses h, (logRead_row q e).refuses h, (fwUpdateWrite_row q e).refuses h,
      (fwUpdateActivate_row q e).refuses h, (fwUpdateCommit_row q e).refuses h, (progLoad_row q e).refuses h,
      (collSubmit_row q e).refuses h, (put_row q e).refuses h, (get_row q e).refuses h, (atomic_row q e).refuses h,
      (tmOp_row q e).refuses h, (accumArm_row q e).refuses h, (accumDisarm_row q e).refuses h, (tmFence_row q e).refuses h,
      (statePark_row q e).refuses h, (stateUnpark_row q e).refuses h, (stateFork_row q e).refuses h, (stateDrop_row q e).refuses h,
      (routeDispatch_row q e).refuses h, (combineAllreduce_row q e).refuses h⟩
  · have hfence : fenceHolds q e s = true := by simp [fenceHolds, hf, hstarted]
    have waits {ok : Bool} {fields : List (Nat × Nat)} {c : Instr} (hrow : EntryRow q e ok fields (Machine.exec c)) :
        Machine.exec c s = .next s := hrow.waits hserves hhead hk hfence
    simp only [List.forall_mem_cons, List.not_mem_nil, false_imp_iff, implies_true, and_true]
    exact ⟨waits (ident_row q e), waits (configSet_row q e), waits (powerPolicy_row q e), waits (prewarm_row q e),
      waits (windowMap_row q e), waits (windowUnmap_row q e), waits (rankmapLoad_row q e), waits (rankmapPatch_row q e),
      waits (commCreate_row q e), waits (commDestroy_row q e), waits (drain_row q e), waits (drainRelease_row q e),
      waits (routeUpdate_row q e), waits (selftest_row q e), waits (logRead_row q e), waits (fwUpdateWrite_row q e),
      waits (fwUpdateActivate_row q e), waits (fwUpdateCommit_row q e), waits (progLoad_row q e), waits (collSubmit_row q e),
      waits (put_row q e), waits (get_row q e), waits (atomic_row q e), waits (tmOp_row q e), waits (accumArm_row q e),
      waits (accumDisarm_row q e), waits (tmFence_row q e), waits (statePark_row q e), waits (stateUnpark_row q e),
      waits (stateFork_row q e), waits (stateDrop_row q e), waits (routeDispatch_row q e), waits (combineAllreduce_row q e)⟩

end Sys2Proof.Proofs

/-! Register writes: an access of the host to the engine awake and asleep (02:R36, R38), what a write of one word
of BAR0 reaches (04:R92, R121, R122), and O16 from them. -/

namespace Sys2Proof.Proofs

open Sys2Proof Sys2Proof.Machine Sys2Proof.Laws

/-! ## Accesses and wakes -/

/-- In ACTIVE a wake source only starts the DOZE_AFTER count anew (02:R36). -/
theorem wakeSource_active {s : State} (h : s.kp.power = .active) (cause : BitVec 4) : wakeSource cause s = s.touched := by
  simp [wakeSource, h, State.touched]

/-- In NAP or DEEP, with no wake under way, a wake source starts one and records its cause (02:R36). -/
theorem wakeSource_asleep {s : State} (h : asleep s = true) (ht : ∀ c k, s.kp.trans ≠ .wake c k) (cause : BitVec 4) :
    wakeSource cause s =
      { s with kp := { s.kp with idleSince := now s, trans := .wake cause (now s), lastWake := cause } } := by
  have hp : s.kp.power = .nap ∨ s.kp.power = .deep := by simpa [asleep] using h
  unfold wakeSource
  extract_lets k
  split
  · simp_all
  · simp_all
  · exact absurd ‹_› (ht _ _)
  · rfl

theorem hostAccess_awake {s : State} (h : s.Awake) {off : Nat} (hoff : keeperOff off = false) (w : HostWait) (f : State → State) :
    hostAccess off w f s = f s.touched := by
  obtain ⟨-, hactive, -⟩ := h
  have hup : asleep s = false := by simp [asleep, hactive]
  simp [hostAccess, hoff, hup, wakeSource_active hactive]

theorem hostAccess_asleep {s : State} (h : asleep s = true) (ht : ∀ c k, s.kp.trans ≠ .wake c k) {off : Nat}
    (hoff : keeperOff off = false) {w : HostWait} (hw : isDoorbell w = false) (f : State → State) :
    hostAccess off w f s = { s with
      kp := { s.kp with idleSince := now s, trans := .wake 7 (now s), lastWake := 7 }
      host := { s.host with waits := s.host.waits ++ [w] } } := by
  simp [hostAccess, hoff, h, hw, wakeSource_asleep h ht]

theorem openWrite_open {s : State} (h : barOpen s = true) (off : Nat) (f : State → State) : openWrite off f s = f s := by
  simp [openWrite, h]

theorem touched_barOpen (s : State) : barOpen s.touched = barOpen s := rfl
theorem touched_page (p : Nat) (s : State) : getPage p s.touched = getPage p s := rfl

/-! ## One word of BAR0 -/

/-- A write of a wrong size or alignment is discarded (04:R92). -/
theorem writeBar0_misaligned {off size : Nat} (h : (size ≠ 4 ∧ size ≠ 8) ∨ off % size ≠ 0) (v : W64) (s : State) :
    writeBar0 off size v s = s := by
  refine if_pos ?_
  obtain ⟨h4, h8⟩ | h := h
  · simp [h4, h8]
  · simp [h]

theorem writeBar0_word {s : State} (h : barOpen s = true) {off : Nat} (hoff : off % 4 = 0) (v : W64) :
    writeBar0 off 4 v s = write32 off (v.setWidth 32) s := by
  simp [writeBar0, hoff, openWrite_open h]

/-- The queue pages lie outside the keeper block. -/
theorem pageOff_not_keeper (p r : Nat) : keeperOff (pageOff p r) = false := by
  simp only [keeperOff, Bool.and_eq_false_iff, decide_eq_false_iff_not]
  unfold pageOff
  omega

/-- A word of a queue page goes to the page's register. -/
theorem write32_page {p r : Nat} (hp : p ≤ 64) (hr : r < 0x1000) (v : W32) (s : State) :
    write32 (pageOff p r) v s = pageWrite p r v s := by
  have hkeeper := pageOff_not_keeper p r
  have hin : 0x100000 ≤ pageOff p r ∧ pageOff p r < 0x141000 := by unfold pageOff; omega
  have hpage : (pageOff p r - 0x100000) / 0x1000 = p := by unfold pageOff; omega
  have hreg : (pageOff p r - 0x100000) % 0x1000 = r := by unfold pageOff; omega
  generalize pageOff p r = o at *
  subst hpage hreg
  unfold write32
  rw [hkeeper]
  simp only [Bool.false_eq_true, if_false]
  split
  · omega
  · omega
  · omega
  · rw [if_neg (by simp; omega), if_pos (by simpa using hin)]

theorem execRegisterWrite_awake {s : State} (h : s.Awake) {off : W32} (hoff : keeperOff off.toNat = false) (size : Nat) (v : W64) :
    Machine.exec (.registerWrite off size v) s = .next (writeBar0 off.toNat size v s.touched) := by
  refine (live_runs (runs_of_awake h)).trans ?_
  rw [hostAccess_awake h hoff]

/-- A word written to a register of a queue page, in ACTIVE with BAR0 open. -/
theorem execRegisterWrite_page {s : State} (h : s.Awake) (hopen : barOpen s = true) {p r : Nat} (hp : p ≤ 64) (hr : r < 0x1000)
    (hr4 : r % 4 = 0) (v : W64) :
    Machine.exec (.registerWrite (BitVec.ofNat 32 (pageOff p r)) 4 v) s = .next (pageWrite p r (v.setWidth 32) s.touched) := by
  have hnat : (BitVec.ofNat 32 (pageOff p r)).toNat = pageOff p r := by simp [pageOff]; omega
  have halign : pageOff p r % 4 = 0 := by unfold pageOff; omega
  rw [execRegisterWrite_awake h (by rw [hnat]; exact pageOff_not_keeper p r), hnat,
    writeBar0_word (by rwa [touched_barOpen]) halign, write32_page hp hr]

theorem modPage_queue {p : Nat} (h : p ≠ 64) (f : QPage → QPage) (s : State) : modPage p f s = { s with qs := modAt f p s.qs } :=
  if_neg h

/-- 04:R94: a configuration register takes the value while its queue is disabled. -/
theorem configWrite_disabled {p : Nat} {s : State} (h : (getPage p s).enable = false) (f : QPage → QPage) :
    configWrite p f s = modPage p f s := by simp [configWrite, h]

/-- 04:R94: a configuration register of an enabled queue keeps its value, and QERR.CONFIG_BUSY is set. -/
theorem configWrite_enabled {p : Nat} {s : State} (h : (getPage p s).enable = true) (f : QPage → QPage) :
    configWrite p f s = setQerr p qerrBusy s := by simp [configWrite, h]

/-! ## The registers of O16 -/

section
variable {s : State} (h : s.Awake) (hopen : barOpen s = true)
include h hopen

/-- 19 Table 19-3: ERR_STATUS clears the bits written as 1. -/
theorem registerWrite_errStatus (v : W64) : Machine.exec (.registerWrite 0x2000 4 v) s =
    .next { s.touched with err := { s.err with status := s.err.status &&& ~~~ ((v.setWidth 32 : W32).setWidth 11) } } := by
  rw [execRegisterWrite_awake h rfl, writeBar0_word (by exact hopen) rfl]
  rfl

/-- 19 Table 19-3: ERR_MASK takes the value. -/
theorem registerWrite_errMask (v : W64) : Machine.exec (.registerWrite 0x2004 4 v) s =
    .next { s.touched with err := { s.err with mask := (v.setWidth 32 : W32).setWidth 11 } } := by
  rw [execRegisterWrite_awake h rfl, writeBar0_word (by exact hopen) rfl]
  rfl

variable {q : Nat} (hq : q < 64)
include hq

/-- DEFAULT_TIMEOUT takes the value. -/
theorem registerWrite_defTimeout (v : W64) : Machine.exec (.registerWrite (BitVec.ofNat 32 (pageOff q 0x30)) 4 v) s =
    .next { s.touched with qs := modAt (fun g => { g with defTimeout := v.setWidth 32 }) q s.qs } := by
  have h64 : q ≠ 64 := by omega
  rw [execRegisterWrite_page h hopen hq.le (by decide) rfl]
  simp [pageWrite, h64, modPage_queue]

/-- QERR clears the bits written as 1. -/
theorem registerWrite_qerr (v : W64) : Machine.exec (.registerWrite (BitVec.ofNat 32 (pageOff q 0x2C)) 4 v) s =
    .next { s.touched with
      qs := modAt (fun g => { g with qerr := g.qerr &&& ~~~ ((v.setWidth 32 : W32).setWidth 4) }) q s.qs } := by
  have h64 : q ≠ 64 := by omega
  rw [execRegisterWrite_page h hopen hq.le (by decide) rfl]
  simp only [pageWrite, modPage_queue h64]
  rfl

/-- QSTATUS is read-only. -/
theorem registerWrite_qstatus (v : W64) :
    Machine.exec (.registerWrite (BitVec.ofNat 32 (pageOff q 0x0C)) 4 v) s = .next s.touched := by
  rw [execRegisterWrite_page h hopen hq.le (by decide) rfl]
  rfl

/-- 04:R94: the low word of SQ_BASE of a disabled queue. -/
theorem registerWrite_sqBase_disabled (hoff : (getPage q s).enable = false) (v : W64) :
    Machine.exec (.registerWrite (BitVec.ofNat 32 (pageOff q 0x10)) 4 v) s =
      .next { s.touched with qs := modAt (fun g => { g with
        sqBase := (g.sqBase.extractLsb' 32 32 : W32) ++ ((v.setWidth 32 : W32) &&& 0xFFFFF000) }) q s.qs } := by
  have h64 : q ≠ 64 := by omega
  rw [execRegisterWrite_page h hopen hq.le (by decide) rfl]
  simp only [pageWrite, decide_eq_true_eq, if_neg h64, configWrite_disabled ((touched_page q s).symm ▸ hoff), modPage_queue h64]
  rfl

/-- 04:R94: SQ_BASE of an enabled queue. -/
theorem registerWrite_sqBase_enabled (hon : (getPage q s).enable = true) (v : W64) :
    Machine.exec (.registerWrite (BitVec.ofNat 32 (pageOff q 0x10)) 4 v) s = .next (setQerr q qerrBusy s.touched) := by
  have h64 : q ≠ 64 := by omega
  rw [execRegisterWrite_page h hopen hq.le (by decide) rfl]
  simp only [pageWrite, decide_eq_true_eq, if_neg h64, configWrite_enabled ((touched_page q s).symm ▸ hon)]

end

/-- A write outside the keeper block and the queue pages waits for the wake that it starts (02:R36, R38). -/
theorem registerWrite_asleep {s : State} (h : s.Runs) (hsleep : asleep s = true) (ht : ∀ c k, s.kp.trans ≠ .wake c k) {off : W32}
    (hoff : keeperOff off.toNat = false) (hpage : off.toNat < 0x100000 ∨ 0x141000 ≤ off.toNat) (size : Nat) (v : W64) :
    Machine.exec (.registerWrite off size v) s = .next { s with
      kp := { s.kp with idleSince := now s, trans := .wake 7 (now s), lastWake := 7 }
      host := { s.host with waits := s.host.waits ++ [.write off size v] } } := by
  have hbell : isDoorbell (.write off size v) = false := by simp [isDoorbell]; omega
  refine (live_runs h).trans ?_
  rw [hostAccess_asleep hsleep ht hoff hbell]

/-- 19:R537. -/
theorem lagCtlClear_awake {s : State} (h : s.Awake) (hopen : barOpen s = true) (v : W32) : Machine.exec (.lagCtlClear v) s =
    .next (if v.getLsbD 0 then { s.touched with lag := LagStats.reset } else s.touched) := by
  refine (live_runs (runs_of_awake h)).trans ?_
  rw [hostAccess_awake h rfl, openWrite_open (by exact hopen)]
  rfl

/-- 19:R539: in ACTIVE with BAR0 open the write of an aperture takes place at once. -/
theorem tanneryApertureWrite_awake {s : State} (h : s.Awake) (hopen : barOpen s = true) (a : BitVec 3) (half : Half) (v : W64) :
    Machine.exec (.tanneryApertureWrite a half v) s = .next (apertureWrite a.toNat half v s.touched) := by
  have hkeeper : keeperOff (0x8020 + 8 * a.toNat + (if half = .high then 4 else 0)) = false := by
    simp [keeperOff]
    omega
  refine (live_runs (runs_of_awake h)).trans ?_
  rw [hostAccess_awake h hkeeper, openWrite_open (by exact hopen)]

/-- Settles O16, one register at a time. -/
theorem registerWrites : Obligations.RegisterWrites := by
  unfold Obligations.RegisterWrites
  refine ⟨⟨fun v q s h hopen hq hlen => ?_, fun off size v s h hoff hbad => ?_,
    fun off size v s h hsleep ht hoff hpage => registerWrite_asleep h hsleep ht hoff hpage size v⟩,
    fun v s h hopen => lagCtlClear_awake h hopen v, fun a v s h hopen _ => ?_⟩
  · refine ⟨registerWrite_errStatus h hopen v, registerWrite_errMask h hopen v, registerWrite_defTimeout h hopen hq v,
      registerWrite_qerr h hopen hq v, registerWrite_qstatus h hopen hq v,
      fun hoff => registerWrite_sqBase_disabled h hopen hq hoff v,
      fun hon => ⟨_, registerWrite_sqBase_enabled h hopen hq hon v, ?_, by simp [setQerr, errQueue], ?_⟩⟩
    · exact getPage_modPage_self q _ s.touched (.inr (by simpa [hlen] using hq))
    · rw [setQerr, modPage_queue (by omega)]
      rfl
  · rw [execRegisterWrite_awake h hoff, writeBar0_misaligned hbad]
  · refine ⟨tanneryApertureWrite_awake h hopen a .both v, tanneryApertureWrite_awake h hopen a .low v, fun lo hlo => ?_⟩
    rw [tanneryApertureWrite_awake h hopen]
    have hheld : (getAperture s.touched a.toNat).low = some lo := hlo
    simp only [apertureWrite, hheld, Option.getD_some]
    rfl

end Sys2Proof.Proofs

/-! The keeper's tick (02:R30, R33; 07 Table 7-8): what it counts, and that ports without flits send nothing in it; the keeper's
pins (18:R504, R502); O56 and O4 from them. -/

namespace Sys2Proof.Proofs

open Sys2Proof Sys2Proof.Machine Sys2Proof.Laws

/-! ## The tick -/

/-- What KEEPER_TICK does while the keeper runs. -/
theorem keeperTick_runs {s : State} (h : s.KeeperRuns) : Machine.exec .keeperTick s =
    .next (if (tick s).kp.tripped then tick s
      else if routerRuns (portsTick (tick s)) then grantKick (portsTick (tick s)) else portsTick (tick s)) := by
  obtain ⟨hdef, hon⟩ := h
  unfold Machine.exec execKeeperTick
  exact liveKeeper_runs hdef hon (.inl rfl)

theorem tick_kp (s : State) : (tick s).kp = { s.kp with
    timestamp := s.kp.timestamp + 1, acting := s.kp.policy
    idleSince := if idle s then s.kp.idleSince else (s.kp.timestamp + 1).toNat } := by
  unfold tick
  extract_lets t k
  split <;> rfl

/-- The tick touches the keeper and the ports alone. -/
theorem tick_frame (s : State) : tick s = { s with kp := (tick s).kp, ports := (tick s).ports } := by
  unfold tick
  extract_lets t k
  split <;> rfl

theorem tick_ports_length (s : State) : (tick s).ports.length = s.ports.length := by
  unfold tick
  extract_lets t k
  split
  · exact updWhere_length _ _ _
  · rfl

/-- A member of a list updated where a condition holds. -/
theorem updWhere_getD {α : Type} (p : α → Bool) (f : α → α) {i : Nat} {l : List α} (hi : i < l.length) (d : α) :
    (updWhere p f l).getD i d = if p (l.getD i d) then f (l.getD i d) else l.getD i d := by
  simp [updWhere, List.getD_eq_getElem?_getD, List.getElem?_eq_getElem hi]

/-- Once a microsecond HALF_WIDTH_US of a port at width 4 counts on (07 Table 7-8). -/
theorem getPort_tick {s : State} {i : Nat} (hi : i < s.ports.length) : getPort i (tick s) =
    if (s.kp.timestamp + 1).toNat % 25 = 0 ∧ (getPort i s).width = 4
    then { getPort i s with cnt := { (getPort i s).cnt with halfUs := satInc (getPort i s).cnt.halfUs } }
    else getPort i s := by
  unfold tick
  extract_lets t k
  by_cases h25 : t.toNat % 25 = 0
  · rw [if_pos h25, getPort, updWhere_getD _ _ hi]
    simp only [decide_eq_true_eq, show (s.kp.timestamp + 1).toNat % 25 = 0 from h25, true_and]
    rfl
  · rw [if_neg h25, if_neg fun h => h25 h.1]
    rfl

theorem carries_tick {s : State} {i : Nat} (hi : i < s.ports.length) : carries (getPort i (tick s)) = carries (getPort i s) := by
  rw [getPort_tick hi]
  split <;> rfl

/-- With the clocks stopped by a trip nothing follows the tick. -/
theorem keeperTick_tripped {s : State} (h : s.KeeperRuns) (ht : s.kp.tripped = true) :
    Machine.exec .keeperTick s = .next (tick s) := by
  rw [keeperTick_runs h, if_pos (by rw [tick_kp]; exact ht)]

/-! ## Ports without flits -/

theorem getPort_mem {s : State} {i : Nat} (hi : i < s.ports.length) : getPort i s ∈ s.ports := by
  rw [getPort, List.getD_eq_getElem _ _ hi]
  exact List.getElem_mem hi

/-- A fold whose every step leaves the state alone does. -/
theorem foldl_fixed_of_mem {α σ : Type} {f : σ → α → σ} {l : List α} {s : σ} (hf : ∀ x ∈ l, f s x = s) :
    l.foldl f s = s := by
  induction l with
  | nil => rfl
  | cons x r ih =>
    rw [List.foldl_cons, hf x List.mem_cons_self]
    exact ih fun y hy => hf y (List.mem_cons_of_mem x hy)

/-- Where no port carries flits and no command waits, the ports send nothing in a tick. -/
theorem portsTick_quiet {s : State} (hq : ∀ i, i < 12 → carries (getPort i s) = false) (hc : s.cmds = []) : portsTick s = s := by
  have hports : (List.range 12).foldl portTick s = s :=
    foldl_fixed_of_mem fun i hi => by simp [portTick, hq i (List.mem_range.1 hi)]
  rw [portsTick, hports, prewarmKick, hc, List.foldl_nil]

/-- In a sleep state with no port that carries flits and no PREWARM that waits, nothing follows the tick. -/
theorem keeperTick_quiet {s : State} (h : s.KeeperRuns) (hsleep : asleep s = true) (hq : ∀ p ∈ s.ports, carries p = false)
    (hlen : s.ports.length = 12) (hc : s.cmds = []) : Machine.exec .keeperTick s = .next (tick s) := by
  have hports : portsTick (tick s) = tick s :=
    portsTick_quiet (fun i hi => by rw [carries_tick (by omega)]; exact hq _ (getPort_mem (by omega)))
      (by rw [tick_frame]; exact hc)
  have hoff : routerRuns (tick s) = false := by
    have hp : s.kp.power = .nap ∨ s.kp.power = .deep := by simpa [asleep] using hsleep
    rcases hp with hp | hp <;> simp [routerRuns, tick_kp, hp]
  rw [keeperTick_runs h, hports, hoff, if_neg Bool.false_ne_true, ite_self]

/-! ## The timestamp -/

/-- 02:R30: the tick adds one, whatever the ports send in it. -/
theorem keeperTick_timestamp {s : State} (h : s.KeeperRuns) :
    ∃ t, Machine.exec .keeperTick s = .next t ∧ t.kp.timestamp = s.kp.timestamp + 1 := by
  have hports : Keeps true (tick s) (portsTick (tick s)) := portsTick_keeps (.refl _)
  have hlast : Keeps true (tick s) (if (tick s).kp.tripped then tick s
      else if routerRuns (portsTick (tick s)) then grantKick (portsTick (tick s)) else portsTick (tick s)) :=
    .ite (fun _ => .refl _) fun _ => .ite (fun _ => grantKick_keeps hports) fun _ => hports
  refine ⟨_, keeperTick_runs h, (hlast.time rfl).trans ?_⟩
  rw [tick_kp]

/-- 02:R30: the keeper starts a cold reset with the timestamp zero. -/
theorem coldReset_timestamp {src : ColdSource} {s : State} (h : src = .pwrgoodRise ∨ s.pins.pwrgood = true) (saddr : BitVec 2)
    (ok : Bool) : ∃ t, Machine.exec (.coldReset src saddr ok) s = .next t ∧ t.kp.timestamp = 0 := by
  have hgo (strap : Option (BitVec 2)) :
      (if ok then setPhase phRom 0 (coldState strap s) else bootFault 0x01 (coldState strap s)).kp.timestamp = 0 := by
    cases ok <;> rfl
  cases src with
  | pwrgoodRise => exact ⟨_, rfl, hgo _⟩
  | crstLow =>
    have hpwr : s.pins.pwrgood = true := h.resolve_left (by decide)
    exact ⟨_, if_pos hpwr, hgo _⟩

/-- Every command but the two cold resets and the tick keeps the timestamp. -/
theorem keepsTime_of_not_reset {c : Instr} (hr : resetRow c = false) (ht : c ≠ .keeperTick) : keepsTime c = true := by
  unfold keepsTime
  split
  · cases hr
  · cases hr
  · exact absurd rfl ht
  · rfl

/-- Settles O56: the tick and the cold reset by their meaning, every other command by what it keeps. -/
theorem timestampKept : Obligations.TimestampKept := by
  unfold Obligations.TimestampKept
  exact ⟨fun _ saddr ok _ h => coldReset_timestamp h saddr ok, fun _ h => keeperTick_timestamp h,
    fun c s t hr ht he => (exec_keeps c s t he).time (keepsTime_of_not_reset hr ht)⟩

/-! ## The pins -/

/-- Outside ACTIVE, with no wake under way, a wake source starts one and records its cause (02:R36). -/
theorem wakeSource_sleeping {s : State} (hoff : s.kp.power ≠ .off) (hp : s.kp.power ≠ .active) (ht : ∀ c k, s.kp.trans ≠ .wake c k)
    (cause : BitVec 4) : wakeSource cause s =
      { s with kp := { s.kp with idleSince := now s, trans := .wake cause (now s), lastWake := cause } } := by
  unfold wakeSource
  extract_lets k
  split
  · exact absurd ‹_› hp
  · exact absurd ‹_› hoff
  · exact absurd ‹_› (ht _ _)
  · rfl

/-- 18:R504: the falling edge on WAKE_N is a wake source. -/
theorem wakePin_falls {s : State} (h : s.KeeperRuns) (hpin : s.pins.wakeN = true) :
    Machine.exec .wakePin s = .next (wakeSource 4 { s with pins := { s.pins with wakeN := false } }) := by
  obtain ⟨hdef, hon⟩ := h
  refine (liveKeeper_runs hdef hon (.inl rfl)).trans ?_
  rw [onlyIf_true hpin]

/-- Settles O4: the tick by its fields, then one pin at a time. -/
theorem tickAndPins : Obligations.TickAndPins := by
  unfold Obligations.TickAndPins
  refine ⟨⟨fun _ h => keeperTick_timestamp h, fun s h hstill => ?_⟩, fun s h hpin hp ht => ?_, fun s h hpin hp => ?_,
    fun s h => ?_, fun s h hpin => ?_, fun s h hpin => ?_⟩
  · have hexec : Machine.exec .keeperTick s = .next (tick s) := by
      rcases hstill with ht | ⟨hsleep, hq, hlen, hc⟩
      · exact keeperTick_tripped h ht
      · exact keeperTick_quiet h hsleep hq hlen hc
    exact ⟨tick s, hexec, tick_kp s, tick_ports_length s, fun _ hi => getPort_tick hi, tick_frame s⟩
  · have hon : s.kp.power ≠ .off := h.2
    rw [wakePin_falls h hpin, wakeSource_sleeping (by exact hon) (by exact hp) (by exact ht)]
    rfl
  · rw [wakePin_falls h hpin, wakeSource_active (by exact hp)]
    rfl
  · obtain ⟨hdef, hon⟩ := h
    unfold Machine.exec execWakeNRise
    exact liveKeeper_runs hdef hon (.inl rfl)
  · refine (live_runs h).trans ?_
    rw [onlyIf_true (by simp [hpin])]
  · refine (live_runs h).trans ?_
    rw [onlyIf_true hpin]

end Sys2Proof.Proofs

/-! NAP_ENTRY with a bridge port UP: O9 fails. The statement has the LPI_REQ flit leave every field of its port but `lpiWanted` as it
was; on a bridge port the near GB2 encodes the flit (07:R188, Table 7-2), whose 512 bits then wait in the port's coder. -/

namespace Sys2Proof.Proofs

open Sys2Proof Sys2Proof.Machine Sys2Proof.Laws

/-- A node in DOZE at the tick at which NAP_AFTER runs out, bridge port 6 UP and every other port DOWN. -/
def napDueBridgeUp : State := { State.reset with
  kp := { Keeper.reset with power := .doze, timestamp := 12500 }
  ports := modAt (fun p => { p with st := .up }) 6 State.reset.ports }

/-- While one port carries flits and has not asked for LPI, NAP_ENTRY asks on it and the engine stays where it is (07:R192, log 20). -/
theorem napEntry_asks {s : State} (h : s.Runs) (hdue : napDue s = true) {i : Nat}
    (htodo : portsWhere (fun p => carries p && !p.lpiWanted) s = [i]) (hcarry : (portsWhere carries s).isEmpty = false) :
    Machine.exec .napEntry s = .next (sendCtrl i 0x05 0 (modPort i (fun p => { p with lpiWanted := true }) s)) := by
  refine (live_runs h).trans ?_
  rw [onlyIf_true hdue]
  simp only [htodo, hcarry, List.foldl_cons, List.foldl_nil, if_neg Bool.false_ne_true]

/-- The flit's bits wait in the coder of the port, which was empty. -/
theorem lpiReq_waits_in_coder :
    (getPort 6 (sendCtrl 6 0x05 0 (modPort 6 (fun p => { p with lpiWanted := true }) napDueBridgeUp))).txFec.1 = 512 := by
  rfl

/-- Refutes O9: in `napDueBridgeUp` NAP_ENTRY changes the coder of port 6 beside `lpiWanted`. -/
theorem not_sleepAndWake : ¬ Obligations.SleepAndWake := by
  unfold Obligations.SleepAndWake
  intro h
  obtain ⟨-, hnap, -⟩ := h
  obtain ⟨-, hasks⟩ := hnap napDueBridgeUp (by decide) rfl rfl (by decide) (by decide) (by decide) (by decide)
  obtain ⟨t, hexec, -, -, hports⟩ := hasks ⟨6, by decide, by decide⟩ rfl
  obtain rfl := Host.Outcome.next.inj ((napEntry_asks (i := 6) (by decide) (by decide) (by decide) (by decide)).symm.trans hexec)
  have hsame := hports 6 (by decide)
  rw [if_pos (by decide)] at hsame
  exact absurd (lpiReq_waits_in_coder.symm.trans (congrArg (fun p => p.txFec.1) hsame)) (by decide)

end Sys2Proof.Proofs

/-! What the end of a collective leaves of the bound contexts: its own is gone and no function behind it binds one (10:R281, 04:R109,
05:R138 to R142). One frame lemma for each function that a completion runs through. -/

namespace Sys2Proof.Proofs

open Sys2Proof Sys2Proof.Machine Sys2Proof.Laws

/-- A part of the state that every step of a fold keeps is kept by the fold. -/
theorem foldl_frame {α β σ : Type} {π : σ → β} {f : σ → α → σ} {l : List α} {s : σ} (hf : ∀ t x, π (f t x) = π t) :
    π (l.foldl f s) = π s := by
  induction l generalizing s with
  | nil => rfl
  | cons x r ih => exact ih.trans (hf s x)

/-! ## Memory -/

@[simp] theorem stgWrite_ctxs (o : Nat) (bs : Bytes) (s : State) : (stgWrite o bs s).ctxs = s.ctxs := by
  induction bs generalizing o s with
  | nil => rfl
  | cons x r ih => exact ih _ _

@[simp] theorem tmWriteByte_ctxs (b : Nat) (x : Byte) (s : State) : (tmWriteByte b x s).ctxs = s.ctxs := by
  unfold tmWriteByte
  rw [apply_ite State.ctxs, ite_self]

theorem tmWriteGo_ctxs (o : Nat) (bs : Bytes) (s : State) : (tmWriteGo o bs s).ctxs = s.ctxs := by
  induction bs generalizing o s with
  | nil => rfl
  | cons x r ih =>
    unfold tmWriteGo
    rw [ih, tmWriteByte_ctxs]

@[simp] theorem tmWrite_ctxs (o : Nat) (bs : Bytes) (s : State) : (tmWrite o bs s).ctxs = s.ctxs := tmWriteGo_ctxs o bs s

@[simp] theorem busSend_ctxs (relaxed poisoned : Bool) (a : Nat) (bs : Bytes) (s : State) :
    (busSend relaxed poisoned a bs s).ctxs = s.ctxs := by
  unfold busSend
  split <;> rfl

@[simp] theorem busWrite_ctxs (a : Nat) (bs : Bytes) (s : State) : (busWrite a bs s).ctxs = s.ctxs := busSend_ctxs ..

@[simp] theorem accelWrite_ctxs (poisoned : Bool) (o : Nat) (bs : Bytes) (s : State) : (accelWrite poisoned o bs s).ctxs = s.ctxs :=
  foldl_frame (π := State.ctxs) fun t _ => busSend_ctxs _ _ _ _ t

@[simp] theorem localWrite_ctxs (a : W64) (bs : Bytes) (s : State) : (localWrite a bs s).ctxs = s.ctxs := by
  unfold localWrite
  extract_lets o
  split <;> simp

/-! ## Events and completions -/

@[simp] theorem sendMsix_ctxs (v : BitVec 7) (s : State) : (sendMsix v s).ctxs = s.ctxs := by
  unfold sendMsix
  split
  · rfl
  · extract_lets e
    split <;> rfl

@[simp] theorem signalEntry_ctxs (p : Nat) (noIrq : Bool) (s : State) : (signalEntry p noIrq s).ctxs = s.ctxs := by
  unfold signalEntry
  extract_lets g
  split
  · rfl
  · split <;> simp

@[simp] theorem setQerr_ctxs (p bit : Nat) (s : State) : (setQerr p bit s).ctxs = s.ctxs := by simp [setQerr]

@[simp] theorem queueEvent_ctxs (source code : Nat) (detail : BitVec 256) (s : State) :
    (queueEvent source code detail s).ctxs = s.ctxs := by
  unfold queueEvent
  extract_lets src r e r1 full r2 s1
  split <;> rfl

@[simp] theorem writeEvent_ctxs (e : Event) (missed : Bool) (coalesced : W32) (s : State) :
    (writeEvent e missed coalesced s).ctxs = s.ctxs := by
  unfold writeEvent
  split <;> simp

@[simp] theorem flushOne_ctxs (r : EvSource) (s : State) : (flushOne r s).ctxs = s.ctxs := by
  unfold flushOne
  split
  · simp
  · split <;> simp

theorem flushGo_ctxs (n : Nat) (s : State) : (flushGo n s).ctxs = s.ctxs := by
  induction n generalizing s with
  | zero => rfl
  | succ n ih =>
    unfold flushGo
    split
    · split
      · rfl
      · rw [ih, flushOne_ctxs]
    · rfl

@[simp] theorem flushEvents_ctxs (s : State) : (flushEvents s).ctxs = s.ctxs := by
  unfold flushEvents
  split
  · exact flushGo_ctxs _ _
  · rfl

/-- A wake source touches the DOZE_AFTER count, the transition and the recorded cause alone (02:R36). -/
theorem wakeSource_frame (cause : BitVec 4) (s : State) : wakeSource cause s = { s with kp := { s.kp with
    idleSince := (wakeSource cause s).kp.idleSince, trans := (wakeSource cause s).kp.trans
    lastWake := (wakeSource cause s).kp.lastWake } } := by
  unfold wakeSource
  extract_lets k
  split
  · rfl
  · rfl
  · split <;> rfl
  · rfl

@[simp] theorem wakeSource_ctxs (cause : BitVec 4) (s : State) : (wakeSource cause s).ctxs = s.ctxs := by
  rw [wakeSource_frame]

@[simp] theorem raiseEvent_ctxs (source code : Nat) (detail : BitVec 256) (s : State) :
    (raiseEvent source code detail s).ctxs = s.ctxs := by simp [raiseEvent]

@[simp] theorem postCompletion_ctxs (q : Nat) (c : Completion) (s : State) : (postCompletion q c s).ctxs = s.ctxs := by
  unfold postCompletion
  extract_lets s0
  split <;> simp [s0]

@[simp] theorem endEntry_ctxs (q : BitVec 6) (e : Entry) (status : Byte) (s : State) : (endEntry q e status s).ctxs = s.ctxs :=
  postCompletion_ctxs ..

@[simp] theorem endCmd_ctxs (c : Cmd) (status flags : Byte) (result : W64) (s : State) :
    (endCmd c status flags result s).ctxs = s.ctxs := postCompletion_ctxs ..

/-! ## Queues that are released -/

@[simp] theorem popHead_ctxs (q : BitVec 6) (s : State) : (popHead q s).ctxs = s.ctxs := modPage_ctxs ..

theorem settleGo_ctxs (q : BitVec 6) (n : Nat) (s : State) : (settleGo q n s).ctxs = s.ctxs := by
  induction n generalizing s with
  | zero => rfl
  | succ n ih =>
    unfold settleGo
    split
    · rfl
    · simp only [apply_ite State.ctxs, ih, endEntry_ctxs, popHead_ctxs, ite_self]

@[simp] theorem releaseQueue_ctxs (q : BitVec 6) (s : State) : (releaseQueue q s).ctxs = s.ctxs := by
  unfold releaseQueue
  extract_lets t
  have ht : t.ctxs = s.ctxs := modPage_ctxs ..
  split
  · exact (settleGo_ctxs ..).trans ht
  · exact ht

@[simp] theorem endHeld_ctxs (c : Cmd) (status flags : Byte) (result : W64) (s : State) :
    (endHeld c status flags result s).ctxs = s.ctxs := by simp [endHeld]

/-! ## Streams and marker rounds -/

@[simp] theorem txPump_ctxs (c : Coord) (s : State) : (txPump c s).ctxs = s.ctxs := by
  unfold txPump
  exact foldl_frame (π := State.ctxs) fun _ _ => rfl

@[simp] theorem sendStream_ctxs (p : Packet) (s : State) : (sendStream p s).ctxs = s.ctxs := by
  unfold sendStream
  extract_lets marker t s1 s2
  rw [txPump_ctxs]
  exact (apply_ite State.ctxs ..).trans (ite_self _)

@[simp] theorem startRound_ctxs (epoch : Bool) (s : State) : (startRound epoch s).2.ctxs = s.ctxs := by
  unfold startRound
  extract_lets -underBinder -merge -useContext +onlyGivenNames _ _ _ _ _ _ s1 tag s2
  have hs2 : s2.ctxs = s.ctxs := foldl_frame (π := State.ctxs) fun t _ => sendStream_ctxs _ t
  exact (apply_ite State.ctxs ..).trans ((ite_self _).trans hs2)

/-! ## What waits for commands to end -/

theorem drainsKick_ctxs (s : State) : (drainsKick s).ctxs = s.ctxs := by
  refine foldl_frame (π := State.ctxs) fun t c => ?_
  split
  · split
    · rfl
    · extract_lets r
      split <;> simp [r]
  · rfl

theorem unmapKick_ctxs (s : State) : (unmapKick s).ctxs = s.ctxs := by
  refine foldl_frame (π := State.ctxs) fun t c => ?_
  split
  · split <;> simp
  · rfl

theorem destroyKick_ctxs (s : State) : (destroyKick s).ctxs = s.ctxs := by
  refine foldl_frame (π := State.ctxs) fun t c => ?_
  split
  · split <;> simp
  · rfl

@[simp] theorem drainKick_ctxs (s : State) : (drainKick s).ctxs = s.ctxs := by
  rw [drainKick, destroyKick_ctxs, unmapKick_ctxs, drainsKick_ctxs]

/-! ## The end of a collective -/

@[simp] theorem countLaggard_ctxs (x : Ctx) (s : State) : (countLaggard x s).ctxs = s.ctxs := by
  unfold countLaggard
  split
  · rfl
  · extract_lets own l s1
    split <;> simp [s1]

@[simp] theorem routeFail_ctxs (x : Ctx) (status : Byte) (s : State) : (routeFail x status s).ctxs = s.ctxs := by
  unfold routeFail
  split
  · rfl
  · rw [apply_ite State.ctxs, localWrite_ctxs, ite_self]

/-- The completion of a collective leaves every other context bound, and binds none. -/
theorem completeCtx_ctxs (x : Ctx) (status : Byte) (result : W64) (valid : Bool) (s : State) :
    (completeCtx x status result valid s).ctxs = s.ctxs.filter fun y => y.idx ≠ x.idx := by
  unfold completeCtx
  extract_lets many lagOk c s1
  have hs1 : s1.ctxs = s.ctxs.filter fun y => y.idx ≠ x.idx := by simp [s1, dropCtx]
  rw [drainKick_ctxs, apply_ite State.ctxs, countLaggard_ctxs, ite_self, hs1]

/-- A collective that fails is bound no more. -/
theorem failCtx_unbound (x : Ctx) (status : Byte) (result : W64) (s : State) : findCtx x.idx (failCtx x status result s) = none := by
  rw [findCtx, failCtx, completeCtx_ctxs, List.find?_eq_none]
  intro y hy
  simpa using (List.mem_filter.1 hy).2

end Sys2Proof.Proofs

/-! Heralds and abort notices (02:R42 to R45; 07:R194; 09:R249, R250; 11:R305): what the flood leaves alone, what a herald that the
filter does not hold leaves, and O39 from them. -/

namespace Sys2Proof.Proofs

open Sys2Proof Sys2Proof.Machine Sys2Proof.Laws

/-! ## The flood -/

/-- The state but for what the router and the ports hold and what has left the node. -/
def unsent (s : State) : State := { s with rt := State.reset.rt, ports := [], out := [] }

theorem freeFrom_unsent (from_ : Option (Nat × Nat)) (s : State) : unsent (freeFrom from_ s) = unsent s := by
  cases from_ <;> rfl

theorem kickFrames_unsent (i : Nat) (s : State) : unsent (kickFrames i s) = unsent s := by
  unfold kickFrames
  extract_lets p
  split
  · rfl
  · split
    · exact freeFrom_unsent _ _
    · rfl

theorem sendHop_unsent (p : Packet) (s : State) (d : Nat) : unsent (sendHop p s d) = unsent s := by
  unfold sendHop
  extract_lets q
  split
  · split
    · exact kickFrames_unsent _ _
    · rfl
  · rfl

/-- The flood sends, and changes nothing else. -/
theorem flood_unsent (sender : Option Coord) (lo hi : Coord) (p : Packet) (s : State) :
    unsent (flood sender lo hi p s) = unsent s := foldl_frame (π := unsent) (sendHop_unsent p)

@[simp] theorem flood_kp (sender : Option Coord) (lo hi : Coord) (p : Packet) (s : State) : (flood sender lo hi p s).kp = s.kp :=
  (congrArg State.kp (flood_unsent sender lo hi p s) :)
@[simp] theorem flood_ctxs (sender : Option Coord) (lo hi : Coord) (p : Packet) (s : State) :
    (flood sender lo hi p s).ctxs = s.ctxs := (congrArg State.ctxs (flood_unsent sender lo hi p s) :)
@[simp] theorem flood_comms (sender : Option Coord) (lo hi : Coord) (p : Packet) (s : State) :
    (flood sender lo hi p s).comms = s.comms := (congrArg State.comms (flood_unsent sender lo hi p s) :)

/-! ## The hold and the wake of a herald -/

/-- A herald's hold touches the holds alone (02:R43). -/
theorem heraldHold_frame (k : HeraldKey) (p : Packet) (s : State) :
    heraldHold k p s = { s with kp := { s.kp with holds := (heraldHold k p s).kp.holds } } := by
  cases k <;> rfl

/-- A hold of some ticks is among the holds (02:R43, R46). -/
theorem startHold_mem {key : HoldKey} {ticks : Nat} (h : ticks ≠ 0) (s : State) :
    { key := key, until_ := now s + ticks } ∈ (startHold key ticks s).kp.holds := by simp [startHold, h]

@[simp] theorem wakeSource_comms (cause : BitVec 4) (s : State) : (wakeSource cause s).comms = s.comms := by rw [wakeSource_frame]
@[simp] theorem wakeSource_filter (cause : BitVec 4) (s : State) : (wakeSource cause s).kp.filter = s.kp.filter := by
  rw [wakeSource_frame]
@[simp] theorem wakeSource_holds (cause : BitVec 4) (s : State) : (wakeSource cause s).kp.holds = s.kp.holds := by
  rw [wakeSource_frame]
@[simp] theorem wakeSource_buffer (cause : BitVec 4) (s : State) : (wakeSource cause s).kp.buffer = s.kp.buffer := by
  rw [wakeSource_frame]

/-! ## A herald that the filter does not hold -/

section
variable (k : HeraldKey) (p : Packet) (emitter : Option (BitVec 18)) (s : State)

@[simp] theorem takeHerald_ctxs : (takeHerald k p emitter s).ctxs = s.ctxs := by
  simp only [takeHerald, wakeSource_ctxs]
  rw [heraldHold_frame]
  simp [filterAdd]

@[simp] theorem takeHerald_comms : (takeHerald k p emitter s).comms = s.comms := by
  simp only [takeHerald, wakeSource_comms]
  rw [heraldHold_frame]
  simp [filterAdd]

@[simp] theorem takeHerald_buffer : (takeHerald k p emitter s).kp.buffer = s.kp.buffer := by
  simp only [takeHerald, wakeSource_buffer]
  rw [heraldHold_frame]
  simp [filterAdd]

/-- It enters the filter, the newest 64 kept (02:R42). -/
theorem takeHerald_filter : (takeHerald k p emitter s).kp.filter =
    ({ key := k, sig := BitVec.ofNat 64 (payField p 8 8), emitter := emitter, src := p.src } :: s.kp.filter).take 64 := by
  simp only [takeHerald, wakeSource_filter]
  rw [heraldHold_frame]
  simp [filterAdd, Config.heraldFilterMax]

theorem takeHerald_holds : (takeHerald k p emitter s).kp.holds = (heraldHold k p s).kp.holds := by
  simp only [takeHerald, wakeSource_holds]
  cases k <;> simp [heraldHold, startHold, filterAdd, now]

theorem takeHerald_filtered : filterHas (takeHerald k p emitter s) k = true := by
  simp [filterHas, takeHerald_filter]

/-- In NAP or DEEP it starts a wake with cause 0x2 (02:R36, R44). -/
theorem takeHerald_wakes (hsleep : asleep s = true) (ht : s.kp.trans = .none) :
    (takeHerald k p emitter s).kp.trans = .wake 2 (now s) := by
  simp only [takeHerald]
  rw [heraldHold_frame, wakeSource_asleep]
  · simp [filterAdd, now]
  · simpa [asleep, filterAdd] using hsleep
  · simp [filterAdd, ht]

end

/-- 02:R43: a collective's herald holds the engine for HERALD_HOLD. -/
theorem takeHerald_holds_collective {h n : W32} {s : State} (hhold : s.kp.acting.heraldHold ≠ 0) (p : Packet)
    (emitter : Option (BitVec 18)) :
    { key := .herald h n, until_ := now s + s.kp.acting.heraldHold.toNat } ∈ (takeHerald (.collective h n) p emitter s).kp.holds := by
  rw [takeHerald_holds]
  exact startHold_mem (by simpa [← BitVec.toNat_inj] using hhold) s

/-- 02:R46: a prewarm's herald holds it for the ticks that it names. -/
theorem takeHerald_holds_prewarm {p : Packet} (hticks : 0 < payField p 20 4) (h n : W32) (c : W32) (emitter : Option (BitVec 18))
    (s : State) : { key := .prewarm h, until_ := now s + payField p 20 4 } ∈ (takeHerald (.prewarm h c n) p emitter s).kp.holds := by
  rw [takeHerald_holds]
  exact startHold_mem hticks.ne' s

/-! ## Packets that reach a running router -/

section
variable {p : Packet} {k : HeraldKey} {s : State}

theorem herald_runs (h : s.Runs) (hr : routerRuns s = true) (hk : p.kind = 1) (port : BitVec 4) (emitter : BitVec 18) :
    Machine.exec (.herald port p emitter) s = .next (receiveHerald p (some emitter) s) := by
  refine (live_runs h).trans ?_
  rw [onlyIf_true (by simp [hr, hk])]

theorem abortNotice_runs (h : s.Runs) (hr : routerRuns s = true) (ha : isAbort p = true) (port : BitVec 4) :
    Machine.exec (.abortNotice port p) s = .next (receiveAbort p s) := by
  refine (live_runs h).trans ?_
  rw [onlyIf_true (by simp [hr, ha])]

theorem receiveHerald_dropped (hkey : heraldKey p = some k) (h : filterHas s k = true ∨ crcOk p = false) (emitter : Option (BitVec 18)) :
    receiveHerald p emitter s = s := by
  have hdrop : (filterHas s k || !crcOk p) = true := by simpa using h
  simp [receiveHerald, hkey, hdrop]

theorem receiveAbort_dropped (hkey : heraldKey p = some k) (h : filterHas s k = true ∨ crcOk p = false) : receiveAbort p s = s := by
  have hdrop : (filterHas s k || !crcOk p) = true := by simpa using h
  simp [receiveAbort, hkey, hdrop]

theorem receiveHerald_new (hkey : heraldKey p = some k) (hnew : filterHas s k = false) (hcrc : crcOk p = true)
    (emitter : Option (BitVec 18)) : receiveHerald p emitter s = takeHerald k p emitter s := by
  simp [receiveHerald, hkey, hnew, hcrc]

theorem receiveAbort_new (hkey : heraldKey p = some k) (hnew : filterHas s k = false) (hcrc : crcOk p = true) :
    receiveAbort p s = actNotice (BitVec.ofNat 32 (payField p 0 4)) (noticeOf p) (takeHerald k p none s) := by
  simp [receiveAbort, hkey, hnew, hcrc]

end

/-! ## What a notice does -/

theorem findComm_modComm {h : W32} {f : Comm → Comm} (hf : ∀ c, (f c).handle = c.handle) (s : State) :
    findComm h (modComm h f s) = (findComm h s).map f := by
  have hsame : (fun c : Comm => decide (c.handle = h)) ∘ (fun c => if decide (c.handle = h) then f c else c) =
      fun c => decide (c.handle = h) := by
    funext c
    by_cases hc : c.handle = h <;> simp [hc, hf]
  unfold findComm
  rw [modComm_comms, updWhere, List.find?_map, hsame]
  cases hfind : s.comms.find? fun c => decide (c.handle = h) with
  | none => rfl
  | some c =>
    have hc : c.handle = h := by simpa using List.find?_some hfind
    simp [hc]

/-- A communicator with one more notice, the newest kept (09:R250). -/
def keepNotice (n : Notice) (c : Comm) : Comm := { c with notices := (n :: c.notices).take Config.noticeMax }

section
variable {h : W32} {n : Notice} {c : Comm} {s : State}

/-- 09:R250: a notice for a collective that has not started is kept with the communicator. -/
theorem actNotice_kept (hc : findComm h s = some c) (hlo : 1 ≤ seqAhead c.seq n.seq) (hhi : seqAhead c.seq n.seq < 2 ^ 31)
    (hnew : ∀ m ∈ c.notices, m.seq ≠ n.seq) :
    (∃ d, findComm h (actNotice h n s) = some d ∧ n ∈ d.notices) ∧ (actNotice h n s).ctxs = s.ctxs := by
  have hfresh : c.notices.any (fun m => m.seq = n.seq) = false := by simpa using hnew
  have hact : actNotice h n s = modComm h (keepNotice n) s := by
    simp only [actNotice, hc, hfresh, hlo, hhi, decide_true, Bool.and_self, if_true, Bool.false_eq_true, if_false]
    rfl
  rw [hact]
  refine ⟨⟨keepNotice n c, ?_, ?_⟩, rfl⟩
  · rw [findComm_modComm (f := keepNotice n) (fun _ => rfl), hc, Option.map_some]
  · simp [keepNotice, Config.noticeMax]

/-- 09:R249: a notice for a bound collective ends it. -/
theorem actNotice_ends (hc : findComm h s = some c) (hnow : seqAhead c.seq n.seq = 0) {x : Ctx} (hx : findColl h n.seq s = some x) :
    findCtx x.idx (actNotice h n s) = none := by
  have hact : actNotice h n s = failCtx x n.cause (noticeResult n) s := by
    simp [actNotice, hc, hnow, hx]
  rw [hact, failCtx_unbound]

end

/-! ## Frames that reach a sleeping engine -/

/-- The frame brings a herald or a notice to a port in sleep signalling (07:R194). -/
theorem heraldFrame_condition {q : Port} {p : Packet} (hst : q.st = .lpi ∨ q.st = .sleep) (hp : p.kind = 1 ∨ isAbort p = true) :
    ((q.st = .lpi || q.st = .sleep) && (p.kind = 1 || isAbort p)) = true := by
  simp only [Bool.and_eq_true, Bool.or_eq_true, decide_eq_true_eq]
  exact ⟨hst, hp⟩

/-- The keeper has taken a new herald or notice, and holds it in its buffer (02:R44). -/
def storeHerald (k : HeraldKey) (port : BitVec 4) (p : Packet) (emitter : BitVec 18) (s : State) : State :=
  let t := takeHerald k p (some emitter) s
  { t with kp := { t.kp with buffer := t.kp.buffer ++ [(port, p)] } }

section
variable {port : BitVec 4} {p : Packet} {emitter : BitVec 18} {s : State} (h : s.Runs) (hsleep : asleep s = true)
  (hst : (getPort port.toNat s).st = .lpi ∨ (getPort port.toNat s).st = .sleep) (hp : p.kind = 1 ∨ isAbort p = true)
include hst hp hsleep h

/-- The keeper answers BUSY while its buffer is full (07:R194). -/
theorem heraldFrame_full (hfull : 16 ≤ s.kp.buffer.length) : Machine.exec (.heraldFrame port p emitter) s =
    .next (sendFrame port.toNat .busy { s with kp := { s.kp with busySent := satInc s.kp.busySent } }) := by
  refine (live_runs h).trans ?_
  rw [onlyIf_true (heraldFrame_condition hst hp)]
  simp only [hsleep, Config.heraldBufMax, hfull, Bool.not_true, Bool.false_eq_true, if_false, if_true]

/-- It answers CREDIT for a key that it has seen. -/
theorem heraldFrame_known {k : HeraldKey} (hroom : s.kp.buffer.length < 16) (hkey : heraldKey p = some k)
    (hseen : filterHas s k = true) :
    Machine.exec (.heraldFrame port p emitter) s = .next (sendFrame port.toNat .credit s) := by
  refine (live_runs h).trans ?_
  rw [onlyIf_true (heraldFrame_condition hst hp)]
  simp only [hsleep, Config.heraldBufMax, hroom.not_ge, hkey, hseen, Bool.not_true, Bool.false_eq_true, if_false, if_true]

/-- It stores a new one: CREDIT is withheld from the frame that fills the buffer. -/
theorem heraldFrame_new {k : HeraldKey} (hroom : s.kp.buffer.length < 16) (hkey : heraldKey p = some k)
    (hnew : filterHas s k = false) : Machine.exec (.heraldFrame port p emitter) s =
      .next (let t := storeHerald k port p emitter s
        if 16 ≤ t.kp.buffer.length then { t with kp := { t.kp with fullAt := some (bufferState port p t) } }
        else sendFrame port.toNat .credit t) := by
  refine (live_runs h).trans ?_
  rw [onlyIf_true (heraldFrame_condition hst hp)]
  simp only [hsleep, Config.heraldBufMax, hroom.not_ge, hkey, hnew, Bool.not_true, Bool.false_eq_true, if_false]
  rfl

/-- What it has stored is in the buffer and in the filter, and a wake is under way (02:R44). -/
theorem heraldFrame_stored {k : HeraldKey} (hroom : s.kp.buffer.length < 16) (hkey : heraldKey p = some k)
    (hnew : filterHas s k = false) (ht : s.kp.trans = .none) :
    ∃ t, Machine.exec (.heraldFrame port p emitter) s = .next t ∧ t.kp.buffer = s.kp.buffer ++ [(port, p)] ∧
      t.kp.trans = .wake 2 (now s) ∧ filterHas t k = true := by
  refine ⟨_, heraldFrame_new h hsleep hst hp hroom hkey hnew, ?_⟩
  have hbuf : (storeHerald k port p emitter s).kp.buffer = s.kp.buffer ++ [(port, p)] := by simp [storeHerald]
  have hwake : (storeHerald k port p emitter s).kp.trans = .wake 2 (now s) := takeHerald_wakes k p _ s hsleep ht
  have hseen : filterHas (storeHerald k port p emitter s) k = true := takeHerald_filtered k p _ s
  extract_lets t
  split <;> exact ⟨hbuf, hwake, hseen⟩

end

/-- Settles O39: a packet at a running router by what the filter says of it, a frame at a sleeping engine by what the filter and the
buffer say. -/
theorem heraldsAndNotices : Obligations.HeraldsAndNotices := by
  unfold Obligations.HeraldsAndNotices
  refine ⟨fun port p emitter k s h hr hkey => ⟨fun hdrop => ⟨fun hk => ?_, fun ha => ?_⟩, fun hk hnew hcrc => ?_,
    fun c ha hnew hcrc hc => ⟨fun hlo hhi hm => ?_, fun hnow x hx => ?_⟩⟩, fun port p emitter s h hsleep hst hp =>
    ⟨heraldFrame_full h hsleep hst hp, fun k => heraldFrame_known h hsleep hst hp, fun k => heraldFrame_stored h hsleep hst hp⟩⟩
  · rw [herald_runs h hr hk, receiveHerald_dropped hkey hdrop]
  · rw [abortNotice_runs h hr ha, receiveAbort_dropped hkey hdrop]
  · rw [herald_runs h hr hk, receiveHerald_new hkey hnew hcrc]
    refine ⟨_, rfl, takeHerald_filter .., fun h n hk hh => ?_, fun h c n hk ht => ?_⟩
    · subst hk
      exact takeHerald_holds_collective hh p _
    · subst hk
      exact takeHerald_holds_prewarm ht ..
  · rw [abortNotice_runs h hr ha, receiveAbort_new hkey hnew hcrc]
    obtain ⟨⟨d, hd, hn⟩, hctxs⟩ := actNotice_kept (s := takeHerald k p none s) (by simpa [findComm] using hc) hlo hhi hm
    exact ⟨_, d, rfl, hd, hn, hctxs.trans (takeHerald_ctxs ..)⟩
  · rw [abortNotice_runs h hr ha, receiveAbort_new hkey hnew hcrc]
    exact ⟨_, rfl, actNotice_ends (s := takeHerald k p none s) (by simpa [findComm] using hc) hnow (by simpa [findColl] using hx)⟩

end Sys2Proof.Proofs

/-! Undefined operation, OFF and a thermal trip (03:R78; 18:R496, R515 and Edges): what the two resets and the rows of the test port
do to undefined operation, and O3 from the guards. -/

namespace Sys2Proof.Proofs

open Sys2Proof Sys2Proof.Machine Sys2Proof.Laws

/-- While PWRGOOD is high each of the two resets ends undefined operation (03:R78; 18:R496; the loss of power: log 77). -/
theorem reset_ends_undef {c : Instr} {s : State} (hc : resetRow c = true) (hpwr : s.pins.pwrgood = true) :
    ∃ t, Machine.exec c s = .next t ∧ t.undef = false := by
  cases c
  case coldReset src saddr ok =>
    have hgo (strap : Option (BitVec 2)) :
        (if ok then setPhase phRom 0 (coldState strap s) else bootFault 0x01 (coldState strap s)).undef = false := by
      cases ok <;> rfl
    cases src with
    | pwrgoodRise => exact ⟨_, rfl, hgo _⟩
    | crstLow => exact ⟨_, if_pos hpwr, hgo _⟩
  case powerLoss => exact ⟨_, rfl, rfl⟩
  all_goals cases hc

/-- A row of the test port leaves undefined operation undefined (03:R78). -/
theorem testPort_undef {s : State} (hu : s.undef = true) {f : State → State} (hf : (f s).undef = true) :
    ∃ t, testPort s f = .next t ∧ t.undef = true := by
  by_cases hoff : s.kp.power = .off
  · exact ⟨s, testPort_off hoff, hu⟩
  · exact ⟨f s, testPort_on hoff, hf⟩

theorem privateTest_undef {s : State} (hu : s.undef = true) {f : State → State} (hf : (f s).undef = true) :
    ∃ t, privateTest f s = .next t ∧ t.undef = true :=
  testPort_undef hu (by
    split
    · exact hu
    · exact hf)

theorem test_keeps_undef {c : Instr} {s : State} (hc : testRow c = true) (hu : s.undef = true) :
    ∃ t, Machine.exec c s = .next t ∧ t.undef = true := by
  cases c
  case extest => unfold Machine.exec execExtest; exact testPort_undef hu rfl
  case idcode => unfold Machine.exec execIdcode; exact testPort_undef hu hu
  case samplePreload => unfold Machine.exec execSamplePreload; exact testPort_undef hu hu
  case bypass code =>
    unfold Machine.exec execBypass
    refine testPort_undef hu ?_
    split <;> exact hu
  case scanChain => unfold Machine.exec execScanChain; exact privateTest_undef hu hu
  case memAccess => unfold Machine.exec execMemAccess; exact privateTest_undef hu hu
  case treeHalt => unfold Machine.exec execTreeHalt; exact privateTest_undef hu hu
  case fuseRead => unfold Machine.exec execFuseRead; exact privateTest_undef hu hu
  all_goals cases hc

section
variable {c : Instr} {s : State}

/-- 03:R78: what goes through the guard faults once operation is undefined. -/
theorem guarded_faults {k : Bool} {o : Out} (h : Guarded k s o) (hu : s.undef = true) : o = .fault .operationUndefined := by
  obtain ⟨f, rfl⟩ := h
  exact liveKeeper_undef hu

/-- 18:R496: in OFF only the two resets act. -/
theorem exec_off (hoff : s.kp.power = .off) (hr : resetRow c = false) (hu : s.undef = false ∨ testRow c = true) :
    Machine.exec c s = .next s := by
  cases ht : testRow c with
  | true =>
    obtain ⟨f, hf⟩ := exec_test c s ht
    rw [hf, testPort_off hoff]
  | false =>
    obtain ⟨f, hf⟩ := exec_guarded c s hr ht
    rw [hf, liveKeeper_off (hu.resolve_right (by simp [ht])) hoff]

/-- 18:R515: after a trip only the keeper's rows, the test port's and the resets act. -/
theorem exec_tripped (hu : s.undef = false) (htrip : s.kp.tripped = true) (hk : keeperRow c = false) (ht : testRow c = false)
    (hr : resetRow c = false) : Machine.exec c s = .next s := by
  obtain ⟨f, hf⟩ := exec_guarded c s hr ht
  rw [hf, hk, liveKeeper_tripped hu htrip]

end

/-- Settles O3, by the guard that each command goes through. -/
theorem definedOperation : Obligations.DefinedOperation := by
  unfold Obligations.DefinedOperation
  exact ⟨fun c s hu => ⟨fun hr ht => guarded_faults (exec_guarded c s hr ht) hu, reset_ends_undef, fun ht => test_keeps_undef ht hu⟩,
    fun _ _ hoff hr hu => exec_off hoff hr hu, fun _ _ hu htrip hk ht hr => exec_tripped hu htrip hk ht hr⟩

end Sys2Proof.Proofs

/-! What a cold reset and the loss of power leave (03:R81, R76; 18:R496, R506), and O10 from it. -/

namespace Sys2Proof.Proofs

open Sys2Proof Sys2Proof.Machine Sys2Proof.Laws

/-- The boot state with which a cold reset starts, by whether the fuses could be sensed (03:R76). -/
def coldBoot (fuseOk : Bool) : Boot :=
  { Boot.reset with phase := if fuseOk then phRom else phFault, fault := if fuseOk then 0 else 0x01 }

theorem coldReset_boots (fuseOk : Bool) (strap : Option (BitVec 2)) (s : State) :
    (if fuseOk then setPhase phRom 0 (coldState strap s) else bootFault 0x01 (coldState strap s)) =
      { coldState strap s with boot := coldBoot fuseOk } := by
  cases fuseOk <;> rfl

/-- 18:R506: the rise of PWRGOOD samples the address strap. -/
theorem coldReset_pwrgoodRise (saddr : BitVec 2) (fuseOk : Bool) (s : State) :
    Machine.exec (.coldReset .pwrgoodRise saddr fuseOk) s = .next { coldState (some saddr) s with boot := coldBoot fuseOk } :=
  congrArg Host.Outcome.next (coldReset_boots fuseOk (some saddr) s)

/-- 18:R496: CRST_N acts while PWRGOOD is high, and keeps the strap. -/
theorem coldReset_crstLow {s : State} (hpwr : s.pins.pwrgood = true) (saddr : BitVec 2) (fuseOk : Bool) :
    Machine.exec (.coldReset .crstLow saddr fuseOk) s = .next { coldState none s with boot := coldBoot fuseOk } := by
  refine (if_pos hpwr).trans ?_
  rw [← coldReset_boots]

theorem coldReset_crstLow_unpowered {s : State} (hpwr : s.pins.pwrgood = false) (saddr : BitVec 2) (fuseOk : Bool) :
    Machine.exec (.coldReset .crstLow saddr fuseOk) s = .next s := if_neg (by simp [hpwr])

/-- Settles O10: the two cold resets and the loss of power by what they leave (Table 3-2, cold column; the state after the loss of
power is log 77), the reset values by evaluation (values that the spec does not give: log 12). -/
theorem coldResetLeaves : Obligations.ColdResetLeaves := by
  unfold Obligations.ColdResetLeaves
  refine ⟨fun saddr fuseOk s => ?_, ?_⟩
  · intro kept boot
    exact ⟨coldReset_pwrgoodRise saddr fuseOk s, fun hpwr => coldReset_crstLow hpwr saddr fuseOk,
      fun hpwr => coldReset_crstLow_unpowered hpwr saddr fuseOk, rfl⟩
  · decide

end Sys2Proof.Proofs

/-! AUTHENTICATION, OCTOZ_READY and BOOT_WATCHDOG (03:R67, R72, R73, R89; 01:R23): what the writes of the boot, the log and the
configuration store leave alone, and O12 from them. -/

namespace Sys2Proof.Proofs

open Sys2Proof Sys2Proof.Machine Sys2Proof.Laws

/-! ## The boot state page, the directory and the maps -/

/-- A boot state record goes to flash alone (03:R86). -/
theorem bootAppend_frame (pref a b writer : Nat) (s : State) : ∃ f, bootAppend pref a b writer s = { s with flash := f } := by
  unfold bootAppend
  extract_lets bseq body used
  split <;> exact ⟨_, rfl⟩

/-- A slot that starts is the running slot of a boot in phase IMAGE, and its attempt goes to flash (03:R71). -/
theorem startSlot_frame (slot : Bool) (s : State) : ∃ f, startSlot slot s =
    { s with flash := f, boot := { s.boot with runSlot := slot, phase := phImage, fault := 0 } } := by
  obtain ⟨a, ha⟩ := bootAppend_frame (bootState s).1 (bootState s).2.1 (min 255 ((bootState s).2.2 + 1)) 0x01 s
  obtain ⟨b, hb⟩ := bootAppend_frame (bootState s).1 (min 255 ((bootState s).2.1 + 1)) (bootState s).2.2 0x01 s
  cases slot
  · exact ⟨b, by simp only [startSlot, Bool.false_eq_true, if_false, hb, setPhase]⟩
  · exact ⟨a, by simp only [startSlot, if_true, ha, setPhase]⟩

theorem dirWrite_frame (i gen size : Nat) (s : State) : ∃ f, dirWrite i gen size s = { s with flash := f } := ⟨_, rfl⟩

/-- The directory copies go to flash alone (03:R85). -/
theorem dirRepair_frame (s : State) : ∃ f, dirRepair s = { s with flash := f } := by
  unfold dirRepair
  extract_lets copy
  split
  · exact ⟨s.flash, rfl⟩
  · exact dirWrite_frame _ _ _ s
  · exact dirWrite_frame _ _ _ s
  · obtain ⟨a, ha⟩ := dirWrite_frame 0 1 33554432 s
    rw [ha]
    exact dirWrite_frame _ _ _ { s with flash := a }

/-- The retirement map goes to flash alone (16:R474). -/
theorem mapStore_frame (s : State) : ∃ f, mapStore s = { s with flash := f } := ⟨_, rfl⟩

/-- So does the attempt of a boot that reaches READY together with the directory. -/
theorem bootDirectory_frame (pref a b writer : Nat) (s : State) :
    dirRepair (bootAppend pref a b writer s) = { s with flash := (dirRepair (bootAppend pref a b writer s)).flash } := by
  obtain ⟨f, hf⟩ := bootAppend_frame pref a b writer s
  obtain ⟨g, hg⟩ := dirRepair_frame { s with flash := f }
  rw [hf, hg]

/-! ## The log -/

/-- The state but for what a log record reaches (flash, the count of records and the Tree's held ones), what is logged with one (the
error summary), and the ports, which POPULATION_SET resets beside its records. -/
def unlogged (s : State) : State :=
  { s with flash := [], tree := Tree.reset, err := State.reset.err, ports := [], boot := { s.boot with nextRecord := 0 } }

/-- A log record, written or held, reaches nothing else (16:R473; 03:R80). -/
theorem logAppend_unlogged (kind cls index : Nat) (detail : Bytes) (s : State) :
    unlogged (logAppend kind cls index detail s) = unlogged s := by
  have hflush (draft : Bytes) : unlogged (logFlush draft s) = unlogged s := by
    unfold logFlush
    extract_lets n lost body s1
    have h1 : unlogged s1 = unlogged s := by
      unfold s1
      split <;> rfl
    exact h1
  unfold logAppend
  extract_lets d
  split
  · split <;> rfl
  · exact hflush d

theorem mapStore_unlogged (s : State) : unlogged (mapStore s) = unlogged s := by
  obtain ⟨f, hf⟩ := mapStore_frame s
  rw [hf]
  rfl

theorem logErr_unlogged (kind cls index bit : Nat) (detail : Bytes) (s : State) :
    unlogged (setErr bit (logAppend kind cls index detail s)) = unlogged s := logAppend_unlogged kind cls index detail s

/-! ## The configuration store and the population -/

/-- The stored items are configuration alone (05:R134). -/
theorem applyStored_frame (s : State) : ∃ c, applyStored s = { s with cfg := c } := by
  unfold applyStored
  generalize [1, 2, 3, 4, 5] = items
  induction items generalizing s with
  | nil => exact ⟨s.cfg, rfl⟩
  | cons i items ih =>
    rw [List.foldl_cons]
    split
    · exact ih s
    · next v _ =>
      split
      · exact ih (setConfig i v s)
      · exact ih s

/-- The population sets the running modules and rails; the rest are records of what failed, and the ports of unused rails (01:R23). -/
theorem populationSet_unlogged (tm : Byte) (gb : BitVec 3) (s : State) :
    unlogged (populationSet tm gb s) = unlogged { s with boot := { s.boot with
      runTpMask := portMask (runningPorts1 s.board tm), runRails := if builtDual s && gb = 7 then 2 else 1 } } := by
  unfold populationSet
  extract_lets dual _ s1 badTm badGb s2 s3
  have h3 : unlogged s3 = unlogged s1 :=
    (foldl_frame fun t _ => logErr_unlogged ..).trans (foldl_frame fun t _ => logErr_unlogged ..)
  rw [apply_ite unlogged]
  exact (ite_self _).trans h3

/-! ## The image that starts -/

section
variable {s : State}

/-- What the boot ROM makes of the image in the running slot (03:R72). -/
def slotAuth (s : State) : Option (W32 × W32 × Bool) := authImage s fun o n => flashRead s (slotBase s.boot.runSlot + o) n

/-- 03:R73: an image that passes starts Octoz, which only applies the stored items and trains the ports. -/
theorem authentication_passes (h : s.Runs) (hphase : s.boot.phase = phImage) {v svn : W32} {key : Bool}
    (hauth : slotAuth s = some (v, svn, key)) : ∃ t, Machine.exec .authentication s = .next t ∧
      t.boot = { s.boot with imageVersion := v, imageSvn := svn, imageKey := key, phase := phTrain, fault := 0 } ∧
      t.kp = { s.kp with bootWd := some (now s) } ∧
      t.pins = { s.pins with tmRstN := portMask (builtPorts s.board), gbRstN := if builtDual s then 7 else 0 } := by
  unfold slotAuth at hauth
  refine ⟨_, (live_runs h).trans (congrArg Host.Outcome.next (onlyIf_true (by simpa using hphase))), ?_⟩
  simp only [hauth]
  rw [Exists.choose_spec (applyStored_frame _)]
  exact ⟨rfl, rfl, rfl⟩

/-- 03:R73: a slot whose image fails is marked; the other one starts, or the node is in RECOVERY when both are marked. -/
theorem authentication_fails (h : s.Runs) (hphase : s.boot.phase = phImage) (hauth : slotAuth s = none) :
    Machine.exec .authentication s = .next (
      let failed := setAt (b2n s.boot.runSlot) true s.boot.failed
      if failed = [true, true] then setPhase phRecovery 0 { s with boot := { s.boot with failed := failed } }
      else startSlot (!s.boot.runSlot) { s with boot := { s.boot with failed := failed } }) := by
  unfold slotAuth at hauth
  refine (live_runs h).trans ?_
  rw [onlyIf_true (by simpa using hphase)]
  simp only [hauth]

/-- What OCTOZ_READY sets in the node `u` whose records are written (03:R89). -/
def readied (tm : BitVec 8) (u : State) : State :=
  setPhase phReady 0 { u with
    boot := { u.boot with fwVersion := u.boot.imageVersion, warm := true }
    kp := { u.kp with bootWd := none, power := .active, stateSince := now u, idleSince := now u }
    tm := { u.tm with savedEq := u.tm.savedEq ||| tm }
    tree := { u.tree with wdAt := now u } }

/-- 03:R89: before READY the attempt, the directory, the population, a cold boot's map and the BOOT record are written; beside those
records only the count of boots and the population change. -/
theorem octozReady_runs (h : s.Runs) (hphase : s.boot.phase = phTrain) (tm : BitVec 8) (gb : BitVec 3) :
    ∃ u n, Machine.exec (.octozReady tm gb) s = .next (readied tm u) ∧ unlogged u = unlogged { s with boot := { s.boot with
      bootCount := n, runTpMask := portMask (runningPorts1 s.board tm), runRails := if builtDual s && gb = 7 then 2 else 1 } } := by
  refine ⟨_, if s.boot.warm then s.boot.bootCount else s.boot.bootCount + 1,
    (live_runs h).trans (congrArg Host.Outcome.next ((onlyIf_true (by simpa using hphase)).trans rfl)), ?_⟩
  refine (logAppend_unlogged ..).trans ?_
  rw [apply_ite unlogged, mapStore_unlogged, ite_self, populationSet_unlogged, bootDirectory_frame]
  unfold unlogged
  rfl

/-- 03:R67: 1 s after the start of an image without READY. -/
theorem bootWatchdog_fires (h : s.Runs) {k : Nat} (hwd : s.kp.bootWd = some k) (hphase : s.boot.phase ≠ phReady)
    (hreq : s.tree.resetReq = none) (hdue : k + 25000000 ≤ now s) : Machine.exec .bootWatchdog s = .next { s with
      kp := { s.kp with bootWd := none }, tree := { s.tree with resetReq := some (.bootWatchdog, now s) } } := by
  unfold Machine.exec execBootWatchdog
  rw [live_runs h]
  simp only [hwd]
  rw [if_pos (by simp [hphase, hdue])]
  simp only [askReset, hreq, Option.isSome_none, Bool.false_eq_true, if_false]
  rfl

theorem bootWatchdog_early (h : s.Runs) {k : Nat} (hwd : s.kp.bootWd = some k) (hearly : now s < k + 25000000) :
    Machine.exec .bootWatchdog s = .next s := by
  unfold Machine.exec execBootWatchdog
  rw [live_runs h]
  simp only [hwd]
  rw [if_neg (by simp; omega)]

end

/-- Settles O12: authentication by what it makes of the image, READY by what the records before it leave, the watchdog by its time
(PHASE TRAIN from AUTHENTICATION on: log 47). -/
theorem imageAndReady : Obligations.ImageAndReady := by
  unfold Obligations.ImageAndReady
  refine ⟨fun s h hphase => ⟨fun v svn key hauth => ?_, fun hauth hboth => ?_, fun hauth hone => ?_⟩,
    fun tm gb s h hphase => ?_, fun k s h hwd hphase hreq hdue => bootWatchdog_fires h hwd hphase hreq hdue,
    fun k s h hwd hearly => bootWatchdog_early h hwd hearly⟩
  · obtain ⟨t, hexec, hboot, hkp, hpins⟩ := authentication_passes h hphase hauth
    exact ⟨t, hexec, by simp [hboot, hkp, hpins]⟩
  · refine ⟨_, authentication_fails h hphase hauth, ?_⟩
    simp only [hboth, if_true, setPhase]
  · obtain ⟨f, hf⟩ := startSlot_frame (!s.boot.runSlot) { s with boot := { s.boot with
      failed := setAt (b2n s.boot.runSlot) true s.boot.failed } }
    refine ⟨_, authentication_fails h hphase hauth, ?_⟩
    simp only [hone, if_false, hf, and_self]
  · obtain ⟨u, n, hexec, hu⟩ := octozReady_runs h hphase tm gb
    have hkp : u.kp = s.kp := (congrArg State.kp hu :)
    have hboot : { u.boot with nextRecord := 0 } = { s.boot with
      nextRecord := 0, bootCount := n, runTpMask := portMask (runningPorts1 s.board tm)
      runRails := if builtDual s && gb = 7 then 2 else 1 } := (congrArg State.boot hu :)
    refine ⟨_, hexec, rfl, rfl, (congrArg Boot.runTpMask hboot :), (congrArg Boot.runRails hboot :),
      (congrArg Boot.imageVersion hboot :), ?_, ?_⟩ <;>
      simp [readied, setPhase, hkp, now]

end Sys2Proof.Proofs

/-! FW_UPDATE, FLASH_WRITE_DONE and PROG_LOAD (03:R79, R80; 05:R147; 13:R356, R357): a management command that starts at the head of
its queue, what a flash write leaves of the other slot, which fuses COMMIT blows, and O30 from them. -/

namespace Sys2Proof.Proofs

open Sys2Proof Sys2Proof.Machine Sys2Proof.Laws

/-! ## A command that starts -/

/-- Taking the entry from the head touches the queue pages alone. -/
theorem popHead_frame (q : BitVec 6) (s : State) : ∃ l, popHead q s = { s with qs := l } :=
  ⟨_, modPage_queue (by omega) _ s⟩

section
variable (q : BitVec 6) (s : State)

@[simp] theorem popHead_boot : (popHead q s).boot = s.boot := modPage_boot ..
@[simp] theorem popHead_host : (popHead q s).host = s.host := modPage_host ..
@[simp] theorem popHead_fuses : (popHead q s).fuses = s.fuses := modPage_fuses ..
@[simp] theorem popHead_flash : (popHead q s).flash = s.flash := modPage_flash ..
@[simp] theorem popHead_progs : (popHead q s).progs = s.progs := modPage_progs ..
@[simp] theorem popHead_fwWriting : fwWriting (popHead q s) = fwWriting s := by
  simp only [fwWriting, popHead, modPage_cmds]
@[simp] theorem popHead_stgRead (o n : Nat) : stgRead (popHead q s) o n = stgRead s o n := by
  simp only [stgRead, stgKey, popHead, modPage_stg]
@[simp] theorem popHead_bootState : bootState (popHead q s) = bootState s := by
  obtain ⟨l, hl⟩ := popHead_frame q s
  rw [hl]
  rfl
@[simp] theorem popHead_replaceProg (id : W16) (mask : BitVec 12) : replaceProg (popHead q s) id mask = replaceProg s id mask := by
  obtain ⟨l, hl⟩ := popHead_frame q s
  rw [hl]
  rfl

end

section
variable {q : BitVec 6} {e : Entry} {fields : List (Nat × Nat)} {s t : State} {run : State → Option State}
  {ok : Bool} (hok : ok = true) (h : s.AtHead q e) (hk : opcodeKnown (entOpcode e) = true) (hres : noReserved fields e = true)
include hok h hk hres

/-- 04:R104: an entry in order at the head of its queue runs its command; with nothing behind it in the fetch the queue settles. -/
theorem octozRow_starts (hrun : run (popHead q s) = some t)
    (hlast : (getPage q.toNat t).fetched = (getPage q.toNat (popHead q s)).fetched) : octozRow q e ok fields run s = t := by
  obtain ⟨-, -, hlen, hhead, -, -⟩ := id h
  have hempty : (getPage q.toNat t).fetched = [] := by
    rw [hlast, popHead_fetched hlen, hhead]
    rfl
  subst hok
  simp [octozRow, settleHead_known hhead hk, headIs_of_atHead h, fenceHolds_of_atHead h, hres, hrun, settleHead_nil hempty]

/-- A command that has to wait leaves its entry at the head. -/
theorem octozRow_waits (hrun : run (popHead q s) = none) : octozRow q e ok fields run s = s := by
  obtain ⟨-, -, -, hhead, -, -⟩ := id h
  subst hok
  simp [octozRow, settleHead_known hhead hk, headIs_of_atHead h, fenceHolds_of_atHead h, hres, hrun]

/-- A command that ends at once posts its completion. -/
theorem octozRow_ends {u : State} {status : Byte} (hrun : run (popHead q s) = some (endEntry q e status u))
    (hlast : (getPage q.toNat u).fetched = (getPage q.toNat (popHead q s)).fetched) (hm : u.host.busMaster = s.host.busMaster) :
    octozRow q e ok fields run s = endEntry q e status u := by
  obtain ⟨-, hmaster, -⟩ := id h
  exact octozRow_starts hok h hk hres hrun ((endEntry_fetched (hm.trans hmaster) q e status q.toNat).trans hlast)

end

/-! ## Images -/

theorem authImage_congr {s u : State} (h : u.fuses = s.fuses) (rd : Nat → Nat → Bytes) : authImage u rd = authImage s rd := by
  have hdigest : fuseDigest u = fuseDigest s := by
    funext k
    rw [fuseDigest, fuseDigest, h]
  have hrevoke : fuseRevoke u = fuseRevoke s := by rw [fuseRevoke, fuseRevoke, h]
  have hsvn : fuseSvn u = fuseSvn s := by rw [fuseSvn, fuseSvn, h]
  unfold authImage
  rw [hdigest, hrevoke, hsvn]

/-- 03:R72: an image that passes fits a slot behind its header. -/
theorem authImage_length {s : State} {rd : Nat → Nat → Bytes} {x : W32 × W32 × Bool} (h : authImage s rd = some x) :
    fieldAt 8 4 (rd 0 272) ≤ 8384512 := by
  unfold authImage at h
  extract_lets hd len at h
  by_contra hlong
  rw [if_pos (by simp [len, hd]; omega)] at h
  cases h

@[simp] theorem slice_length (o n : Nat) (b : Bytes) : (slice o n b).length = n := by
  simp [slice]

theorem slice_getElem {o n i : Nat} {b : Bytes} (hi : i < n) :
    (slice o n b)[i]'(by simpa using hi) = b.getD (o + i) 0 := by
  simp only [slice, List.getElem_append, List.length_take, List.length_drop, List.getElem_take, List.getElem_drop,
    List.getElem_replicate, List.getD_eq_getElem?_getD]
  split
  · rw [List.getElem?_eq_getElem (by omega), Option.getD_some]
  · rw [List.getElem?_eq_none (by omega), Option.getD_none]

/-- A field of the first bytes is a field of the whole. -/
theorem slice_slice {k o n : Nat} (h : o + n ≤ k) (b : Bytes) : slice o n (slice 0 k b) = slice o n b := by
  refine List.ext_getElem (by simp) fun i hi _ => ?_
  have hn : i < n := by simpa using hi
  rw [slice_getElem hn, slice_getElem hn, List.getD_eq_getElem _ _ (by simp; omega), slice_getElem (by omega), Nat.zero_add]

theorem fieldAt_slice {k o n : Nat} (h : o + n ≤ k) (b : Bytes) : fieldAt o n (slice 0 k b) = fieldAt o n b := by
  rw [fieldAt, slice_slice h, fieldAt]

/-! ## Flash -/

/-- A byte outside what is left out is still there. -/
theorem memGet_filter {d : Byte} {p : Host.Cell → Bool} {x : Nat} (hp : ∀ b, p (x, b) = true) {m : Memory} :
    ∀ {lo : Option Nat}, memWfFrom d lo m = true → memGet d (m.filter p) x = memGet d m x := by
  induction m with
  | nil => exact fun _ => rfl
  | cons c r ih =>
    obtain ⟨k, y⟩ := c
    intro lo h
    simp only [memWfFrom, Bool.and_eq_true] at h
    obtain ⟨-, hr⟩ := h
    cases hpk : p (k, y) with
    | true => simp only [List.filter_cons, hpk, if_true, memGet, ih hr]
    | false =>
      have hne : x ≠ k := by
        rintro rfl
        simp [hp] at hpk
      rw [List.filter_cons_of_neg (by simp [hpk]), ih hr, memGet, if_neg hne]
      split
      · exact memGet_below hr (by omega)
      · rfl

/-- Erasing a range leaves every other byte. -/
theorem memGet_memErase_other {d : Byte} {m : Memory} (h : Memory.wf d m = true) {a n x : Nat} (hx : x < a ∨ a + n ≤ x) :
    memGet d (memErase m a n) x = memGet d m x := memGet_filter (fun _ => by simp; omega) h

/-- A slot's image, written behind its erased header, leaves every byte outside the slot. -/
theorem memGet_slotWrite {m : Memory} (h : Memory.wf 0xFF m = true) {base x : Nat} {bs : Bytes} (hlen : bs.length ≤ 8384512)
    (hx : x < base ∨ base + 8388608 ≤ x) :
    memGet 0xFF (memWrite 0xFF (memErase m base 8388608) (base + 4096) bs) x = memGet 0xFF m x := by
  rw [memGet_memWrite_other bs (memErase_wf h _ _) (by omega), memGet_memErase_other h hx]

/-- The two slots do not meet (03 Table 3-4). -/
theorem slotBase_apart {slot : Bool} {a : Nat} (hlo : slotBase slot ≤ a) (hhi : a < slotBase slot + 8388608) :
    a < slotBase (!slot) ∨ slotBase (!slot) + 8388608 ≤ a := by
  cases slot <;> simp only [slotBase, Bool.not_true, Bool.not_false, Bool.false_eq_true, if_true, if_false] at * <;> omega

/-! ## Fuses -/

/-- COMMIT blows SVN fuses alone (03 Table 3-6). -/
theorem blowSvn_outside (v k : Nat) {i : Nat} (hi : i < 770 ∨ 834 ≤ i) (f : BitVec 1024) :
    (blowSvn v k f).getLsbD i = f.getLsbD i := by
  induction k generalizing f with
  | zero => rfl
  | succ k ih =>
    unfold blowSvn
    dsimp only
    split
    · rfl
    · split
      · rfl
      · next j hj =>
        have hj64 : j < 64 := List.mem_range.1 (List.mem_of_find?_eq_some hj)
        rw [ih]
        simp
        omega

/-- An SVN that is reached already blows none. -/
theorem blowSvn_reached {v : Nat} {f : BitVec 1024} (h : v ≤ popBits 64 (f.toNat >>> 770)) (k : Nat) : blowSvn v k f = f := by
  cases k with
  | zero => rfl
  | succ k => simp [blowSvn, h]

/-! ## FW_UPDATE -/

/-- The end of a started command, where host memory takes its completion, leaves the Tree's records alone. -/
theorem endCmd_tree {s : State} (hm : s.host.busMaster = true) (c : Cmd) (status flags : Byte) (result : W64) :
    (endCmd c status flags result s).tree = s.tree := by
  have hmsix (v : BitVec 7) (u : State) : (sendMsix v u).tree = u.tree := by
    unfold sendMsix
    split
    · rfl
    · extract_lets e
      split <;> rfl
  have hsignal (p : Nat) (noIrq : Bool) (u : State) : (signalEntry p noIrq u).tree = u.tree := by
    unfold signalEntry
    extract_lets g
    split
    · rfl
    · split
      · rw [hmsix, modPage_tree]
      · exact modPage_tree ..
  unfold endCmd postCompletion
  simp only [modPage_host, hm, if_true]
  rw [hsignal, modPage_tree]
  unfold busWrite busSend
  split <;> exact modPage_tree ..

/-- Nothing is released where the Tree holds no record. -/
theorem logRelease_nil {s : State} (h : s.tree.heldLog = []) : logRelease s = s := by
  unfold logRelease
  rw [h, List.foldl_nil, ← h]

section
variable {q : BitVec 6} {e : Entry} {s : State} (h : s.AtHead q e) (hop : entOpcode e = 0x0F) (hres : noReserved fwFields e = true)
include h hop hres

/-- 03:R80: ACTIVATE waits while a WRITE runs. -/
theorem fwUpdateActivate_waits (hact : bodyField e 0 1 = 1) (hwriting : fwWriting s = true) :
    Machine.exec (.fwUpdateActivate q e) s = .next s := by
  refine (live_runs (runs_of_awake h.1.1)).trans (congrArg Host.Outcome.next ?_)
  exact octozRow_waits (by simp [hop, hact]) h (by rw [hop]; rfl) hres (if_pos (by simpa using hwriting))

/-- 03:R80: COMMIT waits while a WRITE runs. -/
theorem fwUpdateCommit_waits (hact : bodyField e 0 1 = 2) (hwriting : fwWriting s = true) :
    Machine.exec (.fwUpdateCommit q e) s = .next s := by
  refine (live_runs (runs_of_awake h.1.1)).trans (congrArg Host.Outcome.next ?_)
  exact octozRow_waits (by simp [hop, hact]) h (by rw [hop]; rfl) hres (if_pos (by simpa using hwriting))

/-- 03:R79: ACTIVATE prefers the slot that does not run, with no attempts made. -/
theorem fwUpdateActivate_prefers (hact : bodyField e 0 1 = 1) (hidle : fwWriting s = false) :
    Machine.exec (.fwUpdateActivate q e) s = .next (endEntry q e stOK
      (bootAppend (if s.boot.runSlot then 0 else 1) (if s.boot.runSlot then 0 else (bootState s).2.1)
        (if s.boot.runSlot then (bootState s).2.2 else 0) 0x03 (popHead q s))) := by
  refine (live_runs (runs_of_awake h.1.1)).trans (congrArg Host.Outcome.next ?_)
  obtain ⟨f, hf⟩ := bootAppend_frame (if s.boot.runSlot then 0 else 1) (if s.boot.runSlot then 0 else (bootState s).2.1)
    (if s.boot.runSlot then (bootState s).2.2 else 0) 0x03 (popHead q s)
  refine octozRow_ends (by simp [hop, hact]) h (by rw [hop]; rfl) hres ?_ (by rw [hf]; rfl) (by rw [hf]; simp)
  cases hslot : s.boot.runSlot <;> simp [hidle, hslot]

/-- The fuses after a COMMIT (03:R79): SVN at the running image's version, and KEY_REVOKE[0] where the entry asks for it and KEY1 signed
the image. -/
def committedFuses (e : Entry) (s : State) : BitVec 1024 :=
  let f := blowSvn s.boot.imageSvn.toNat 64 s.fuses
  if natBit 0 (bodyField e 1 1) && s.boot.imageKey then f ||| (1 : BitVec 1024) <<< 768 else f

theorem fwUpdateCommit_blows (hact : bodyField e 0 1 = 2) (hidle : fwWriting s = false) :
    Machine.exec (.fwUpdateCommit q e) s = .next (endEntry q e stOK { popHead q s with fuses := committedFuses e s }) := by
  refine (live_runs (runs_of_awake h.1.1)).trans (congrArg Host.Outcome.next ?_)
  refine octozRow_ends (by simp [hop, hact]) h (by rw [hop]; rfl) hres ?_ rfl (by simp)
  refine (if_neg (by simp [hidle])).trans ?_
  dsimp only [committedFuses]
  rw [popHead_fuses, popHead_boot]

end

section
variable (e : Entry) (s : State)

/-- No fuse is restored. -/
theorem committedFuses_mono {i : Nat} (hi : s.fuses.getLsbD i = true) : (committedFuses e s).getLsbD i = true := by
  have hsvn := blowSvn_mono s.boot.imageSvn.toNat 64 hi
  unfold committedFuses
  extract_lets f
  split
  · rw [BitVec.getLsbD_or, hsvn, Bool.true_or]
  · exact hsvn

/-- Only SVN and KEY_REVOKE[0] are blown. -/
theorem committedFuses_outside {i : Nat} (hkey : i ≠ 768) (hsvn : i < 770 ∨ 834 ≤ i) :
    (committedFuses e s).getLsbD i = s.fuses.getLsbD i := by
  unfold committedFuses
  extract_lets f
  have hf : f.getLsbD i = s.fuses.getLsbD i := blowSvn_outside _ _ hsvn _
  split
  · have hbit : ((1 : BitVec 1024) <<< 768).getLsbD i = false := by
      rw [BitVec.getLsbD_shiftLeft, show (1 : BitVec 1024) = 1#1024 from rfl, BitVec.getLsbD_one]
      simp
      omega
    rw [BitVec.getLsbD_or, hf, hbit, Bool.or_false]
  · exact hf

theorem committedFuses_revokes (hask : natBit 0 (bodyField e 1 1) = true) (hkey : s.boot.imageKey = true) :
    (committedFuses e s).getLsbD 768 = true := by
  simp [committedFuses, hask, hkey]

theorem committedFuses_unchanged (hask : natBit 0 (bodyField e 1 1) = false) (hsvn : s.boot.imageSvn.toNat ≤ fuseSvn s) :
    committedFuses e s = s.fuses := by
  simp only [committedFuses, hask, Bool.false_and, Bool.false_eq_true, if_false]
  exact blowSvn_reached hsvn 64

end

section
variable {q : BitVec 6} {e : Entry} {s : State} (h : s.AtHead q e) (hop : entOpcode e = 0x0F) (hres : noReserved fwFields e = true)
  (hact : bodyField e 0 1 = 0) (hidle : fwWriting s = false) (hstage : stageOk (bodyField e 8 8) (bodyField e 4 4) 4096 = true)
  (hfit : bodyField e 4 4 ≤ 8388608)

/-- The image that WRITE names. -/
def stagedImage (e : Entry) (s : State) : Bytes := stgRead s (bodyField e 8 8) (bodyField e 4 4)

/-- The node after WRITE has taken a staged image: the slot that does not run holds it behind an erased header, and the header waits
with the command (03:R79). -/
def fwStored (q : BitVec 6) (e : Entry) (s : State) : State :=
  let img := stagedImage e s
  let base := slotBase (!s.boot.runSlot)
  addCmd q e (.fwWrite (!s.boot.runSlot) (slice 0 4096 img) false)
    (flashWrite (base + 4096) (slice 4096 (fieldAt 8 4 img) img) (flashErase base 8388608 (popHead q s)))

include h hop hres hact hidle hstage hfit

/-- 03:R79: an image that does not authenticate is CHECK_FAIL. -/
theorem fwUpdateWrite_refuses (hauth : authImage s (fun a k => slice a k (stagedImage e s)) = none) :
    Machine.exec (.fwUpdateWrite q e) s = .next (endEntry q e stCheckFail (popHead q s)) := by
  refine (live_runs (runs_of_awake h.1.1)).trans (congrArg Host.Outcome.next ?_)
  refine octozRow_ends (by simp [hop, hact]) h (by rw [hop]; rfl) hres ?_ rfl (by simp)
  rw [stagedImage, ← authImage_congr (popHead_fuses q s)] at hauth
  simp [hact, hstage, hfit.not_gt, hidle, hauth]

/-- 03:R79: an image that does goes to the slot that does not run. -/
theorem fwUpdateWrite_stores {x : W32 × W32 × Bool} (hauth : authImage s (fun a k => slice a k (stagedImage e s)) = some x)
    (hlen : 4096 + fieldAt 8 4 (stagedImage e s) ≤ bodyField e 4 4) :
    Machine.exec (.fwUpdateWrite q e) s = .next (fwStored q e s) := by
  refine (live_runs (runs_of_awake h.1.1)).trans (congrArg Host.Outcome.next ?_)
  refine octozRow_starts (by simp [hop, hact]) h (by rw [hop]; rfl) hres ?_ (by unfold fwStored; rfl)
  rw [stagedImage] at hlen
  rw [stagedImage, ← authImage_congr (popHead_fuses q s)] at hauth
  simp [hact, hstage, hfit.not_gt, hidle, hauth, hlen.not_gt, fwStored, stagedImage]

end

section
variable {q : BitVec 6} {e : Entry} {s : State}

theorem fwStored_flash : (fwStored q e s).flash = memWrite 0xFF (memErase s.flash (slotBase (!s.boot.runSlot)) 8388608)
    (slotBase (!s.boot.runSlot) + 4096) (slice 4096 (fieldAt 8 4 (stagedImage e s)) (stagedImage e s)) := by
  simp [fwStored]

/-- The flash write has started, and belongs to the entry. -/
theorem fwStored_cmd : ∃ c ∈ (fwStored q e s).cmds, c.kind = .fwWrite (!s.boot.runSlot) (slice 0 4096 (stagedImage e s)) false ∧
    c.q = q ∧ c.tag = entTag e :=
  ⟨_, List.mem_append_right _ (List.mem_singleton_self _), rfl, rfl, rfl⟩

variable (hwf : Memory.wf 0xFF s.flash = true)
include hwf

/-- No byte of the running slot has changed (03:R80). -/
theorem fwStored_running {x : W32 × W32 × Bool} (hauth : authImage s (fun a k => slice a k (stagedImage e s)) = some x) {a : Nat}
    (hlo : slotBase s.boot.runSlot ≤ a) (hhi : a < slotBase s.boot.runSlot + 8388608) :
    memGet 0xFF (fwStored q e s).flash a = memGet 0xFF s.flash a := by
  have hlen := authImage_length hauth
  rw [fieldAt_slice (by decide)] at hlen
  rw [fwStored_flash, memGet_slotWrite hwf (by simpa using hlen) (slotBase_apart hlo hhi)]

/-- The slot holds the image's payload. -/
theorem fwStored_payload : flashRead (fwStored q e s) (slotBase (!s.boot.runSlot) + 4096) (fieldAt 8 4 (stagedImage e s)) =
    slice 4096 (fieldAt 8 4 (stagedImage e s)) (stagedImage e s) := by
  have hread := memRead_memWrite (memErase_wf hwf (slotBase (!s.boot.runSlot)) 8388608) (slotBase (!s.boot.runSlot) + 4096)
    (slice 4096 (fieldAt 8 4 (stagedImage e s)) (stagedImage e s))
  rw [slice_length] at hread
  rw [flashRead, fwStored_flash, hread]

end

/-! ## The end of a flash write -/

/-- 03:R79: the header goes in last, and the command completes; a write that has failed leaves the header away. -/
theorem flashWriteDone_ends {ok : Bool} {c : Cmd} {slot : Bool} {header : Bytes} {s : State} (h : s.Runs)
    (hm : s.host.busMaster = true) (hlog : s.tree.heldLog = []) (hcmds : s.cmds = [c]) (hkind : c.kind = .fwWrite slot header false) :
    Machine.exec (.flashWriteDone ok) s = .next (if ok then endCmd c stOK 0 0 (flashWrite (slotBase slot) header s)
      else endCmd c stInternal 0 0 s) := by
  change execFlashWriteDone ok s = _
  unfold execFlashWriteDone
  rw [live_runs h]
  refine congrArg Host.Outcome.next ?_
  have hend (status : Byte) (u : State) (hu : u.host.busMaster = true) (hl : u.tree.heldLog = []) :
      logRelease (endCmd c status 0 0 u) = endCmd c status 0 0 u := logRelease_nil (by rw [endCmd_tree hu, hl])
  extract_lets isFw
  have hfind : s.cmds.find? isFw = some c := by simp [isFw, hcmds, hkind]
  rw [hfind]
  simp only [hkind]
  cases ok
  · exact hend stInternal s hm hlog
  · exact hend stOK (flashWrite (slotBase slot) header s) hm hlog

/-! ## PROG_LOAD -/

/-- The fields of the entry are in range (05:R147). -/
def progForm (e : Entry) : Prop :=
  0x100 ≤ bodyField e 0 2 ∧ bodyField e 2 2 ≠ 0 ∧ 8 ≤ bodyField e 4 4 ∧ bodyField e 4 4 ≤ 65536 ∧ bodyField e 4 4 % 8 = 0 ∧
    stageOk (bodyField e 8 8) (bodyField e 4 4) 8 = true

/-- The words of the program that the entry names. -/
def progWords (e : Entry) (s : State) : List W64 :=
  (List.range (bodyField e 4 4 / 8)).map fun i => BitVec.ofNat 64 (fieldAt (8 * i) 8 (stgRead s (bodyField e 8 8) (bodyField e 4 4)))

/-- The libraries without the copies that the program takes the place of (13:R357). -/
def progRest (e : Entry) (s : State) : List Program :=
  replaceProg s (BitVec.ofNat 16 (bodyField e 0 2)) (BitVec.ofNat 12 (bodyField e 2 2))

/-- The program fits in the library of every bench that the entry names (13:R357). -/
def progFits (e : Entry) (s : State) : Prop :=
  ∀ b, b < 12 → natBit b (bodyField e 2 2) = true → libraryUsed (progRest e s) b + bodyField e 4 4 ≤ 40960

/-- The program as PROG_LOAD puts it in the libraries, newer than every other copy. -/
def loadedProg (e : Entry) (s : State) : Program :=
  { id := BitVec.ofNat 16 (bodyField e 0 2), benches := BitVec.ofNat 12 (bodyField e 2 2)
    gen := (s.progs.map fun p => p.gen).foldl max 0 + 1, words := progWords e s }

theorem loadedProg_newest (e : Entry) (s : State) : ∀ x ∈ s.progs, x.gen < (loadedProg e s).gen := by
  intro x hx
  have hle : x.gen ≤ (s.progs.map fun p => p.gen).foldr max 0 := List.le_max_of_le' 0 (List.mem_map_of_mem hx) le_rfl
  rw [← List.foldl_eq_foldr] at hle
  exact Nat.lt_succ_of_le hle

/-- What PROG_LOAD's check of its fields asks. -/
theorem progForm_iff (e : Entry) : (decide ((BitVec.ofNat 16 (bodyField e 0 2)).toNat < 0x100) || decide (bodyField e 2 2 = 0) ||
    !decide (8 ≤ bodyField e 4 4 && bodyField e 4 4 ≤ 65536 && bodyField e 4 4 % 8 = 0) ||
    !stageOk (bodyField e 8 8) (bodyField e 4 4) 8) = false ↔ progForm e := by
  have hid : bodyField e 0 2 < 65536 := Nat.mod_lt _ (by decide)
  simp only [progForm, BitVec.toNat_ofNat, Nat.mod_eq_of_lt hid, Bool.or_eq_false_iff, decide_eq_false_iff_not, Bool.not_eq_false',
    Bool.and_eq_true, decide_eq_true_eq, not_lt, and_assoc, ne_eq]

theorem progFits_iff (e : Entry) (s : State) : ((List.range 12).all fun i => !natBit i (bodyField e 2 2) ||
    decide (libraryUsed (progRest e s) i + bodyField e 4 4 ≤ 40960)) = true ↔ progFits e s := by
  simp [progFits, Decidable.imp_iff_not_or]

section
variable {q : BitVec 6} {e : Entry} {s : State} (h : s.AtHead q e) (hop : entOpcode e = 0x10)
  (hres : noReserved [(0, 16), (2, 12), (4, 32), (8, 64)] e = true)
include h hop hres

theorem progLoad_malformed (hform : ¬progForm e) :
    Machine.exec (.progLoad q e) s = .next (endEntry q e stBadDesc (popHead q s)) := by
  refine (live_runs (runs_of_awake h.1.1)).trans (congrArg Host.Outcome.next ?_)
  refine octozRow_ends (by simp [hop]) h (by rw [hop]; rfl) hres ?_ rfl (by simp)
  exact if_pos (by rwa [← progForm_iff, Bool.not_eq_false] at hform)

theorem progLoad_badHead (hform : progForm e) (hhead : headOk ((progWords e s).headD 0) (bodyField e 2 2) = false) :
    Machine.exec (.progLoad q e) s = .next (endEntry q e stBadDesc (popHead q s)) := by
  refine (live_runs (runs_of_awake h.1.1)).trans (congrArg Host.Outcome.next ?_)
  refine octozRow_ends (by simp [hop]) h (by rw [hop]; rfl) hres ?_ rfl (by simp)
  rw [progWords] at hhead
  refine (if_neg (by rw [(progForm_iff e).2 hform]; simp)).trans ?_
  rw [popHead_stgRead]
  exact if_pos (by rw [hhead]; rfl)

theorem progLoad_noRoom (hform : progForm e) (hhead : headOk ((progWords e s).headD 0) (bodyField e 2 2) = true)
    (hfits : ¬progFits e s) : Machine.exec (.progLoad q e) s = .next (endEntry q e stLimit (popHead q s)) := by
  refine (live_runs (runs_of_awake h.1.1)).trans (congrArg Host.Outcome.next ?_)
  refine octozRow_ends (by simp [hop]) h (by rw [hop]; rfl) hres ?_ rfl (by simp)
  rw [progWords] at hhead
  rw [← progFits_iff, Bool.not_eq_true, progRest] at hfits
  refine (if_neg (by rw [(progForm_iff e).2 hform]; simp)).trans ?_
  rw [popHead_stgRead, popHead_replaceProg]
  refine (if_neg (by rw [hhead]; simp)).trans ?_
  exact if_pos (by rw [hfits]; rfl)

theorem progLoad_loads (hform : progForm e) (hhead : headOk ((progWords e s).headD 0) (bodyField e 2 2) = true)
    (hfits : progFits e s) : Machine.exec (.progLoad q e) s =
      .next (endEntry q e stOK { popHead q s with progs := progRest e s ++ [loadedProg e s] }) := by
  refine (live_runs (runs_of_awake h.1.1)).trans (congrArg Host.Outcome.next ?_)
  refine octozRow_ends (by simp [hop]) h (by rw [hop]; rfl) hres ?_ rfl (by simp)
  rw [progWords] at hhead
  rw [← progFits_iff, progRest] at hfits
  refine (if_neg (by rw [(progForm_iff e).2 hform]; simp)).trans ?_
  rw [popHead_stgRead, popHead_replaceProg]
  refine (if_neg (by rw [hhead]; simp)).trans ?_
  refine (if_neg (by rw [hfits]; simp)).trans ?_
  rw [popHead_progs]
  rfl

end

/-- Settles O30: FW_UPDATE by its action and by what becomes of the image, PROG_LOAD by its checks in order. -/
theorem firmwareAndPrograms : Obligations.FirmwareAndPrograms := by
  unfold Obligations.FirmwareAndPrograms
  refine ⟨⟨fun q e s h hop hres hw =>
      ⟨fun ha => fwUpdateActivate_waits h hop hres ha hw, fun ha => fwUpdateCommit_waits h hop hres ha hw⟩,
    fun q e s h hop hres hact hidle hstage hfit hwf => ⟨fun hauth => fwUpdateWrite_refuses h hop hres hact hidle hstage hfit hauth,
      fun x hauth hlen => ⟨fwStored q e s, fwUpdateWrite_stores h hop hres hact hidle hstage hfit hauth hlen, fwStored_cmd,
        fun a hlo hhi => fwStored_running hwf hauth hlo hhi, fwStored_payload hwf⟩⟩,
    fun q e s h hop hres hact hidle => fwUpdateActivate_prefers h hop hres hact hidle,
    fun q e s h hop hres hact hidle => ⟨committedFuses e s, fwUpdateCommit_blows h hop hres hact hidle,
      fun _ hi => committedFuses_mono e s hi, fun _ hkey hsvn => committedFuses_outside e s hkey hsvn,
      committedFuses_revokes e s, committedFuses_unchanged e s⟩,
    fun ok c slot header s h hm hlog hcmds hkind => flashWriteDone_ends h hm hlog hcmds hkind⟩,
    fun q e s h hop hres => ?_⟩
  exact ⟨progLoad_malformed h hop hres, progLoad_badHead h hop hres, progLoad_noRoom h hop hres, fun hform hhead hfits =>
    ⟨loadedProg e s, rfl, rfl, rfl, loadedProg_newest e s, progLoad_loads h hop hres hform hhead hfits⟩⟩

end Sys2Proof.Proofs

/-! What the ends of collectives and the requests refused by a host-link reset leave alone (03:R62, R63): no fuse, no window, no saved
context, no route slot and no bus mastering is touched by an event, a completion, a packet or a notice. One lemma for each function
behind the two resets. -/

namespace Sys2Proof.Proofs

open Sys2Proof Sys2Proof.Machine Sys2Proof.Laws

/-- The fuses, the windows, the saved contexts, the route slots and bus mastering. -/
def lasting (s : State) : BitVec 1024 × List Window × List Saved × List RouteRec × Bool :=
  (s.fuses, s.wins, s.saved, s.rein.slots, s.host.busMaster)

/-! ## Memory -/

@[simp] theorem stgWrite_lasting (o : Nat) (bs : Bytes) (s : State) : lasting (stgWrite o bs s) = lasting s := by
  induction bs generalizing o s with
  | nil => rfl
  | cons x r ih => exact ih _ _

theorem tmWriteByte_lasting (b : Nat) (x : Byte) (s : State) : lasting (tmWriteByte b x s) = lasting s := by
  unfold tmWriteByte
  split <;> rfl

theorem tmWriteGo_lasting (o : Nat) (bs : Bytes) (s : State) : lasting (tmWriteGo o bs s) = lasting s := by
  induction bs generalizing o s with
  | nil => rfl
  | cons x r ih =>
    unfold tmWriteGo
    rw [ih, tmWriteByte_lasting]

@[simp] theorem tmWrite_lasting (o : Nat) (bs : Bytes) (s : State) : lasting (tmWrite o bs s) = lasting s := tmWriteGo_lasting o bs s

@[simp] theorem busSend_lasting (relaxed poisoned : Bool) (a : Nat) (bs : Bytes) (s : State) :
    lasting (busSend relaxed poisoned a bs s) = lasting s := by
  unfold busSend
  split <;> rfl

@[simp] theorem busWrite_lasting (a : Nat) (bs : Bytes) (s : State) : lasting (busWrite a bs s) = lasting s := busSend_lasting ..

@[simp] theorem localWrite_lasting (a : W64) (bs : Bytes) (s : State) : lasting (localWrite a bs s) = lasting s := by
  unfold localWrite
  extract_lets o
  split
  · exact stgWrite_lasting ..
  · exact tmWrite_lasting ..
  · exact foldl_frame fun t _ => busSend_lasting _ _ _ _ t
  · rfl

/-! ## Events and completions -/

@[simp] theorem modPage_lasting (p : Nat) (f : QPage → QPage) (s : State) : lasting (modPage p f s) = lasting s := by
  unfold modPage
  split <;> rfl

@[simp] theorem setErr_lasting (bit : Nat) (s : State) : lasting (setErr bit s) = lasting s := rfl

@[simp] theorem sendMsix_lasting (v : BitVec 7) (s : State) : lasting (sendMsix v s) = lasting s := by
  unfold sendMsix
  split
  · rfl
  · extract_lets e
    split <;> rfl

@[simp] theorem signalEntry_lasting (p : Nat) (noIrq : Bool) (s : State) : lasting (signalEntry p noIrq s) = lasting s := by
  unfold signalEntry
  extract_lets g
  split
  · rfl
  · split <;> simp

@[simp] theorem setQerr_lasting (p bit : Nat) (s : State) : lasting (setQerr p bit s) = lasting s := by simp [setQerr]

@[simp] theorem queueEvent_lasting (source code : Nat) (detail : BitVec 256) (s : State) :
    lasting (queueEvent source code detail s) = lasting s := by
  unfold queueEvent
  extract_lets src r e r1 full r2 s1
  split <;> rfl

@[simp] theorem writeEvent_lasting (e : Event) (missed : Bool) (coalesced : W32) (s : State) :
    lasting (writeEvent e missed coalesced s) = lasting s := by
  unfold writeEvent
  split <;> simp

theorem flushOne_lasting (r : EvSource) (s : State) : lasting (flushOne r s) = lasting s := by
  unfold flushOne
  split
  · exact writeEvent_lasting ..
  · split
    · rfl
    · exact writeEvent_lasting ..

theorem flushGo_lasting (n : Nat) (s : State) : lasting (flushGo n s) = lasting s := by
  induction n generalizing s with
  | zero => rfl
  | succ n ih =>
    unfold flushGo
    split
    · split
      · rfl
      · rw [ih, flushOne_lasting]
    · rfl

@[simp] theorem flushEvents_lasting (s : State) : lasting (flushEvents s) = lasting s := by
  unfold flushEvents
  split
  · exact flushGo_lasting _ _
  · rfl

@[simp] theorem wakeSource_lasting (cause : BitVec 4) (s : State) : lasting (wakeSource cause s) = lasting s := by
  rw [wakeSource_frame]
  rfl

@[simp] theorem raiseEvent_lasting (source code : Nat) (detail : BitVec 256) (s : State) :
    lasting (raiseEvent source code detail s) = lasting s := by simp [raiseEvent]

@[simp] theorem postCompletion_lasting (q : Nat) (c : Completion) (s : State) : lasting (postCompletion q c s) = lasting s := by
  unfold postCompletion
  extract_lets s0
  split <;> simp [s0]

/-! ## Queues that are released -/

theorem settleGo_lasting (q : BitVec 6) (n : Nat) (s : State) : lasting (settleGo q n s) = lasting s := by
  induction n generalizing s with
  | zero => rfl
  | succ n ih =>
    unfold settleGo
    split
    · rfl
    · simp only [apply_ite lasting, ih, endEntry, postCompletion_lasting, popHead, modPage_lasting, ite_self]

@[simp] theorem endHeld_lasting (c : Cmd) (status flags : Byte) (result : W64) (s : State) :
    lasting (endHeld c status flags result s) = lasting s := by
  have hend : lasting (endCmd c status flags result s) = lasting s := postCompletion_lasting ..
  unfold endHeld releaseQueue
  extract_lets t
  have ht : lasting t = lasting s := (modPage_lasting ..).trans hend
  split
  · exact (settleGo_lasting ..).trans ht
  · exact ht

/-! ## Streams, marker rounds and notices -/

theorem txPump_lasting (c : Coord) (s : State) : lasting (txPump c s) = lasting s := by
  unfold txPump
  exact foldl_frame (π := lasting) fun _ _ => rfl

@[simp] theorem sendStream_lasting (p : Packet) (s : State) : lasting (sendStream p s) = lasting s := by
  unfold sendStream
  extract_lets marker t s1 s2
  rw [txPump_lasting]
  exact (apply_ite lasting ..).trans (ite_self _)

@[simp] theorem startRound_lasting (epoch : Bool) (s : State) : lasting (startRound epoch s).2 = lasting s := by
  unfold startRound
  extract_lets -underBinder -merge -useContext +onlyGivenNames _ _ _ _ _ _ s1 tag s2
  have hs2 : lasting s2 = lasting s := foldl_frame (π := lasting) fun t _ => sendStream_lasting _ t
  exact (apply_ite lasting ..).trans ((ite_self _).trans hs2)

/-- A notice's flood and copies only send, beside the filter's entry (11:R305). -/
@[simp] theorem raiseNotice_lasting (c : Comm) (sig : W64) (n : Notice) (s : State) : lasting (raiseNotice c sig n s) = lasting s := by
  unfold raiseNotice
  extract_lets p s1 me others copy s2
  have hs2 : lasting s2 = lasting s := foldl_frame (π := lasting) fun _ _ => rfl
  split
  · refine Eq.trans (foldl_frame (π := lasting) fun t d => ?_) hs2
    split <;> rfl
  · exact (congrArg lasting (flood_unsent none c.lo c.hi p s2) :).trans hs2

/-- An undefined destination is memory alone (09:R249). -/
@[simp] theorem spoilDest_lasting (x : Ctx) (status : Byte) (s : State) : lasting (spoilDest x status s) = lasting s := by
  unfold spoilDest
  split
  · rfl
  · extract_lets prot keep
    split
    · rfl
    · exact foldl_frame fun t r => localWrite_lasting r.1 _ t

/-- A refused request answers with an event and a packet (06:R160). -/
theorem missRequest_lasting (p : Packet) (reason : Byte) (s : State) : lasting (missRequest p reason s) = lasting s := by
  unfold missRequest
  extract_lets seen _ s1 t num r
  have hs1 : lasting s1 = lasting s := by
    unfold s1
    split
    · rfl
    · exact raiseEvent_lasting ..
  exact (sendStream_lasting ..).trans hs1

end Sys2Proof.Proofs

/-! The warm reset and the host-link reset (03:R62, R63, R69, R81; 16:R450): what the steps before a warm reset keep, what slot selection
leaves, what the end of the host link takes away, and O13 from them. -/

namespace Sys2Proof.Proofs

open Sys2Proof Sys2Proof.Machine Sys2Proof.Laws

/-! ## Fuses, through the steps of Octoz before a warm reset -/

/-- What `lasting` holds of the fuses. -/
theorem fuses_of_lasting {s t : State} (h : lasting t = lasting s) : t.fuses = s.fuses := (congrArg Prod.fst h :)

theorem drainsKick_lasting (s : State) : lasting (drainsKick s) = lasting s := by
  refine foldl_frame (π := lasting) fun t c => ?_
  split
  · split
    · rfl
    · extract_lets r
      split
      · exact startRound_lasting _ t
      · exact (endHeld_lasting ..).trans (startRound_lasting _ t)
  · rfl

theorem destroyKick_lasting (s : State) : lasting (destroyKick s) = lasting s := by
  refine foldl_frame (π := lasting) fun t c => ?_
  split
  · split
    · rfl
    · exact endHeld_lasting ..
  · rfl

theorem unmapKick_fuses (s : State) : (unmapKick s).fuses = s.fuses := by
  unfold unmapKick
  extract_lets open_ s1
  have hs1 : lasting s1 = lasting s := by
    refine foldl_frame (π := lasting) fun t c => ?_
    split
    · split
      · rfl
      · exact endHeld_lasting ..
    · rfl
  exact (fuses_of_lasting hs1 :)

theorem countLaggard_lasting (x : Ctx) (s : State) : lasting (countLaggard x s) = lasting s := by
  unfold countLaggard
  split
  · rfl
  · extract_lets own l s1
    split
    · rfl
    · exact busWrite_lasting ..

theorem routeFail_fuses (x : Ctx) (status : Byte) (s : State) : (routeFail x status s).fuses = s.fuses := by
  unfold routeFail
  split
  · rfl
  · rw [apply_ite State.fuses, fuses_of_lasting (localWrite_lasting ..), ite_self]

/-- The completion of a collective blows no fuse. -/
theorem completeCtx_fuses (x : Ctx) (status : Byte) (result : W64) (valid : Bool) (s : State) :
    (completeCtx x status result valid s).fuses = s.fuses := by
  unfold completeCtx
  extract_lets many lagOk c s1
  have hs1 : s1.fuses = s.fuses := (fuses_of_lasting (postCompletion_lasting ..)).trans (routeFail_fuses ..)
  rw [drainKick, fuses_of_lasting (destroyKick_lasting _), unmapKick_fuses, fuses_of_lasting (drainsKick_lasting _),
    apply_ite State.fuses, fuses_of_lasting (countLaggard_lasting x s1), ite_self, hs1]

theorem abortColl_fuses (x : Ctx) (cause : Byte) (rank : BitVec 18) (namedSig : W16) (value : W64) (status : Byte)
    (result : Option W64) (s : State) : (abortColl x cause rank namedSig value status result s).fuses = s.fuses := by
  unfold abortColl
  split
  · rfl
  · rw [failCtx, completeCtx_fuses, fuses_of_lasting (spoilDest_lasting ..), fuses_of_lasting (raiseNotice_lasting ..)]

/-- 03:R62: the abort of every collective. -/
theorem abortEverything_fuses (s : State) : (abortEverything s).fuses = s.fuses := by
  unfold abortEverything
  extract_lets s1
  have hs1 : s1.fuses = s.fuses := by
    refine foldl_frame (π := State.fuses) fun t x => ?_
    split
    · rfl
    · exact abortColl_fuses ..
  exact Eq.trans (foldl_frame (π := State.fuses) fun t y => by rw [abortColl_fuses]) hs1

/-! ## The keeper, the boot status and the fuses -/

/-- What the steps before a warm reset leave alone where no collective is under way. -/
def standing (s : State) : Keeper × Boot × BitVec 1024 := (s.kp, s.boot, s.fuses)

theorem sendNotices_standing (s : State) : standing (sendNotices s) = standing s := by
  refine foldl_frame (π := standing) fun t x => ?_
  extract_lets d
  split <;> rfl

theorem dropCache_standing (s : State) : standing (dropCache s) = standing s := by
  unfold dropCache
  refine (foldl_frame (π := standing) fun t l => ?_).trans rfl
  simp only [standing, bumpFree_kp, bumpFree_boot, bumpFree_fuses]

theorem flushCache_standing (s : State) : standing (flushCache s) = standing s := rfl

/-- The record of a warm reset's source (16 Table 16-8) reaches the log alone. -/
theorem resetRecord_unlogged (src : WarmSource) (s : State) : unlogged (resetRecord src s) = unlogged s := by
  unfold resetRecord
  extract_lets put
  have hput (b : Byte) : unlogged (put b) = unlogged s := logAppend_unlogged ..
  split
  · exact hput 1
  · exact hput 2
  · exact hput 3
  · exact hput 4
  · rfl

/-- 03:R62: no source's own steps blow a fuse. -/
theorem warmFirst_fuses (src : WarmSource) (s : State) : (warmFirst src s).fuses = s.fuses := by
  have hsend : (sendNotices (abortEverything s)).fuses = s.fuses :=
    (congrArg (fun x => x.2.2) (sendNotices_standing (abortEverything s)) :).trans (abortEverything_fuses s)
  have hdrop : (dropCache s).fuses = s.fuses := (congrArg (fun x => x.2.2) (dropCache_standing s) :)
  unfold warmFirst
  extract_lets octoz
  refine (congrArg State.fuses (resetRecord_unlogged src _) :).trans ?_
  split
  · exact hsend
  · exact hdrop

theorem abortEverything_idle {s : State} (hc : s.ctxs = []) (hs : s.saved = []) : abortEverything s = s := by
  simp [abortEverything, hc, hs]

/-- Where no collective is under way those steps leave the keeper, and of the boot status all but the count of records. -/
theorem warmFirst_idle {s : State} (hc : s.ctxs = []) (hs : s.saved = []) (src : WarmSource) :
    (warmFirst src s).kp = s.kp ∧ (warmFirst src s).boot.stagingRetired = s.boot.stagingRetired := by
  have hfirst (c : Bool) : standing (if c then flushCache (sendNotices (abortEverything s)) else dropCache s) = standing s := by
    split
    · rw [flushCache_standing, sendNotices_standing, abortEverything_idle hc hs]
    · exact dropCache_standing s
  unfold warmFirst
  extract_lets octoz
  have hrec := resetRecord_unlogged src (if octoz then flushCache (sendNotices (abortEverything s)) else dropCache s)
  exact ⟨(congrArg State.kp hrec :).trans (congrArg Prod.fst (hfirst octoz) :),
    (congrArg (fun t => t.boot.stagingRetired) hrec :).trans (congrArg (fun x => x.2.1.stagingRetired) (hfirst octoz) :)⟩

/-! ## The warm reset -/

/-- 03:R71: slot selection leaves the boot in phase IMAGE or in RECOVERY, and touches flash and the boot status alone. -/
def Selected (s t : State) : Prop := ∃ f ph slot, (ph = phImage ∨ ph = phRecovery) ∧ t = { s with
  flash := f, boot := { s.boot with failed := [false, false], runSlot := slot, phase := ph, fault := 0 } }

theorem selectSlot_selected (s : State) : Selected s (selectSlot s) := by
  have hstart (slot : Bool) : Selected s (startSlot slot { s with boot := { s.boot with failed := [false, false] } }) := by
    obtain ⟨f, hf⟩ := startSlot_frame slot { s with boot := { s.boot with failed := [false, false] } }
    exact ⟨f, phImage, slot, .inl rfl, hf⟩
  unfold selectSlot
  generalize bootState s = x
  obtain ⟨pref, a, b⟩ := x
  exact iteInduction (motive := Selected s) (fun _ => hstart _) fun _ =>
    iteInduction (motive := Selected s) (fun _ => hstart _) fun _ => ⟨s.flash, phRecovery, s.boot.runSlot, .inr rfl, rfl⟩

/-- The state after a warm reset: what Table 3-2 keeps, with the boot ROM's choice or in FAULT STAGING. -/
theorem warmReset_leaves {src : WarmSource} {k : Nat} {s : State} (h : s.Runs) (hreq : s.tree.resetReq = some (src, k)) :
    ∃ f b, Machine.exec (.warmReset src) s = .next { warmState (warmFirst src s) with flash := f, boot := b } ∧ b.warm = true ∧
      (if 1 < popBits 17 (warmFirst src s).boot.stagingRetired.toNat then b.phase = phFault ∧ b.fault = 0x05
       else b.phase = phImage ∨ b.phase = phRecovery) := by
  have hexec : Machine.exec (.warmReset src) s = .next (
      if 1 < popBits 17 (warmState (warmFirst src s)).boot.stagingRetired.toNat then bootFault 0x05 (warmState (warmFirst src s))
      else selectSlot (warmState (warmFirst src s))) := by
    refine (live_runs h).trans ?_
    rw [onlyIf_true (by simp [resetAsked, hreq])]
  have hret : (warmState (warmFirst src s)).boot.stagingRetired = (warmFirst src s).boot.stagingRetired := rfl
  rw [hexec, hret]
  split
  · exact ⟨_, _, rfl, rfl, rfl, rfl⟩
  · obtain ⟨f, ph, slot, hph, hsel⟩ := selectSlot_selected (warmState (warmFirst src s))
    exact ⟨f, _, congrArg Host.Outcome.next hsel, rfl, hph⟩

/-! ## The host-link reset -/

section
variable {src : HostLinkSource} {s : State} (h : s.Runs)
include h

/-- 03:R63: on a node that serves nothing of the host, the link's state alone is gone. -/
theorem hostLinkReset_idle (hctxs : s.ctxs = []) (hsaved : s.saved = []) (hcmds : s.cmds = []) (hserv : s.ni.serving = [])
    (hbar : s.host.bar2Log = 30) : Machine.exec (.hostLinkReset src) s = .next { s with
      pins := { s.pins with perstN := if src = .perst then false else s.pins.perstN }
      host := { HostPort.reset with bar2Log := 30, nextTag := s.host.nextTag, waits := s.host.waits.filter isSbRead
                                    inReset := s.host.inReset || decide (src = .perst) }
      wins := [], rein := { s.rein with slots := [] }
      qs := List.replicate 64 QPage.reset, evq := QPage.reset } := by
  have hni : { s.ni with serving := [] } = s.ni := by rw [← hserv]
  change execHostLinkReset src s = _
  unfold execHostLinkReset
  rw [live_runs h]
  simp only [hctxs, hsaved, hcmds, hserv, hbar, List.foldl_nil, List.filter_nil, silentCmds, List.filterMap_nil, if_true, hni]

end

/-- 03:R63: a collective that the reset ends spoils its destination and sends its notice. -/
theorem linkAbort_lasting (s : State) (x : Ctx) : lasting (linkAbort s x) = lasting s := by
  unfold linkAbort
  split
  · rfl
  · exact (spoilDest_lasting ..).trans (raiseNotice_lasting ..)

/-- What `lasting` holds of bus mastering. -/
theorem busMaster_of_lasting {s t : State} (h : lasting t = lasting s) : t.host.busMaster = s.host.busMaster :=
  (congrArg (fun x => x.2.2.2.2) h :)

/-- The end of a saved context's collective sends its notice and marks the record. -/
theorem abortSaved_busMaster (cause status : Byte) (y : Saved) (s : State) :
    (abortSaved cause status y s).host.busMaster = s.host.busMaster := by
  unfold abortSaved
  split
  · rfl
  · exact (busMaster_of_lasting (raiseNotice_lasting ..) :)

theorem forgetCmd_lasting (id : Nat) (s : State) : lasting (forgetCmd id s) = lasting s :=
  foldl_frame (π := lasting) fun _ _ => rfl

/-- BAR2 comes back to its default size, whatever it was (03:R63; log 50). -/
theorem defaultBar2 (s : State) : lasting (if s.host.bar2Log = 30 then s else setBar2 30 s) = lasting s ∧
    (if s.host.bar2Log = 30 then s else setBar2 30 s).host.bar2Log = 30 := by
  split
  · next h => exact ⟨rfl, h⟩
  · exact ⟨rfl, rfl⟩

/-- 03:R63: whatever was under way, windows, saved contexts, route slots and bus mastering are gone, and BAR2 has its default size. -/
theorem hostLinkReset_ends {src : HostLinkSource} {s : State} (h : s.Runs) : ∃ t, Machine.exec (.hostLinkReset src) s = .next t ∧
    t.wins = [] ∧ t.saved = [] ∧ t.host.busMaster = false ∧ t.host.bar2Log = 30 ∧ t.rein.slots = [] := by
  change ∃ t, execHostLinkReset src s = .next t ∧ _
  unfold execHostLinkReset
  rw [live_runs h]
  refine ⟨_, rfl, ?_⟩
  extract_lets _ s0 _ s1 s2 s3 s4 away _ _ s5 s6
  have hm2 : s2.host.busMaster = false := (busMaster_of_lasting (foldl_frame (π := lasting) linkAbort_lasting) :)
  have hm3 : s3.host.busMaster = false :=
    (foldl_frame (π := fun t : State => t.host.busMaster) fun t y => abortSaved_busMaster _ _ y t).trans hm2
  have hm4 : s4.host.busMaster = false :=
    (busMaster_of_lasting (foldl_frame (π := lasting) fun t (c : Cmd) => forgetCmd_lasting c.id t) :).trans hm3
  obtain ⟨hlast, hbar⟩ := defaultBar2 s6
  have hend : lasting (if s6.host.bar2Log = 30 then s6 else setBar2 30 s6) = (s4.fuses, [], [], [], false) := by
    rw [hlast, ← hm4]
    exact foldl_frame (π := lasting) fun t p => missRequest_lasting p 1 t
  simp only [lasting, Prod.mk.injEq] at hend
  obtain ⟨-, hwins, hsaved, hslots, hmaster⟩ := hend
  exact ⟨hwins, hsaved, hmaster, hbar, hslots⟩

/-- Settles O13: the warm reset by what Table 3-2 keeps of the state that the source's own steps leave, the host-link reset by what
becomes of the host port and of what waits for it (the model's choices of logs 7, 50 and 75). -/
theorem warmAndLinkResets : Obligations.WarmAndLinkResets := by
  unfold Obligations.WarmAndLinkResets
  refine ⟨fun src k s h hreq => ?_, fun src s h hctxs hsaved hcmds hserv hbar => hostLinkReset_idle h hctxs hsaved hcmds hserv hbar,
    fun src s h => hostLinkReset_ends h⟩
  obtain ⟨f, b, hexec, hwarm, hboot⟩ := warmReset_leaves h hreq
  have hkeeps : Keeps true s (warmFirst src s) := warmFirst_keeps (.refl s)
  refine ⟨_, hexec, rfl, rfl, rfl, rfl, rfl, rfl, rfl, rfl, rfl, rfl, rfl, rfl, rfl, rfl, rfl, rfl, rfl, rfl, rfl, rfl, rfl, rfl, rfl, rfl,
    hkeeps.time rfl, warmFirst_fuses src s, hkeeps.board, hkeeps.pending, hwarm, ?_, fun hctxs hsaved => ?_⟩
  · split at hboot
    · exact .inr (.inr hboot)
    · obtain hph | hph := hboot
      · exact .inl hph
      · exact .inr (.inl hph)
  · obtain ⟨hkp, hret⟩ := warmFirst_idle hctxs hsaved src
    refine ⟨(congrArg Keeper.lastWake hkp :), ?_⟩
    rw [hret] at hboot
    split at hboot
    · next hlt => simp [hboot, hlt]
    · next hlt =>
      obtain hph | hph := hboot
      all_goals simp [hph, hlt, phImage, phRecovery, phFault]

end Sys2Proof.Proofs

/-! Queue pages (04:R95 to R102, R107, R114): what an event and a signal leave of the pages, the doorbells, the writes of QCTRL and the
moderation timer; O18 to O21 from them. -/

namespace Sys2Proof.Proofs

open Sys2Proof Sys2Proof.Machine Sys2Proof.Laws

/-! ## Pages and events -/

/-- Replacing a page by itself changes nothing. -/
theorem modPage_id {f : QPage → QPage} (hf : ∀ g, f g = g) (p : Nat) (s : State) : modPage p f s = s := by
  have hqs : modAt f p s.qs = s.qs := List.ext_getElem? fun j => by
    rw [modAt_get]
    split
    · simp [funext hf]
    · rfl
  unfold modPage
  rw [hf, hqs, ite_self]

theorem setQerr_page_self {p : Nat} {s : State} (hp : p = 64 ∨ p < s.qs.length) (bit : Nat) :
    getPage p (setQerr p bit s) = { getPage p s with qerr := (getPage p s).qerr ||| (1 : BitVec 4) <<< bit } :=
  getPage_modPage_self p _ s hp

theorem setQerr_page_other {p r : Nat} (h : r ≠ p) (bit : Nat) (s : State) : getPage r (setQerr p bit s) = getPage r s :=
  getPage_modPage_other p r _ s h

/-- A signal counts on the page of its entry alone. -/
theorem signalEntry_page_other {p r : Nat} (h : r ≠ p) (noIrq : Bool) (s : State) :
    getPage r (signalEntry p noIrq s) = getPage r s := by
  unfold signalEntry
  extract_lets g
  split
  · rfl
  · split
    · rw [sendMsix_page, getPage_modPage_other _ _ _ _ h]
    · exact getPage_modPage_other _ _ _ _ h

/-- An event that is raised waits at its source, on no page. -/
theorem queueEvent_page (source code : Nat) (detail : BitVec 256) (r : Nat) (s : State) :
    getPage r (queueEvent source code detail s) = getPage r s := by
  unfold queueEvent
  extract_lets src x e r1 full r2 s1
  split <;> rfl

section
variable {r : Nat} (h : r ≠ 64)
include h

/-- An entry of the event ring leaves the queue pages alone. -/
theorem writeEvent_page (e : Event) (missed : Bool) (coalesced : W32) (s : State) :
    getPage r (writeEvent e missed coalesced s) = getPage r s := by
  unfold writeEvent
  split
  · rw [signalEntry_page_other h, getPage_modPage_other _ _ _ _ h, busWrite_page]
  · rw [queueEvent_page, setQerr_page_other h, getPage_modPage_other _ _ _ _ h]

theorem flushOne_page (x : EvSource) (s : State) : getPage r (flushOne x s) = getPage r s := by
  unfold flushOne
  split
  · exact writeEvent_page h ..
  · split
    · rfl
    · exact writeEvent_page h ..

theorem flushGo_page (n : Nat) (s : State) : getPage r (flushGo n s) = getPage r s := by
  induction n generalizing s with
  | zero => rfl
  | succ n ih =>
    unfold flushGo
    split
    · split
      · rfl
      · rw [ih, flushOne_page h]
    · rfl

end

/-- Without an event that waits nothing is posted. -/
theorem flushEvents_none {s : State} (h : s.evs = []) : flushEvents s = s := by
  simp [flushEvents, flushGo, h]

/-- An event ring that is not enabled takes nothing (04:R118). -/
theorem flushEvents_disabled {s : State} (h : s.evq.enable = false) : flushEvents s = s := by
  simp [flushEvents, flushGo, eventRoom, h]

/-- Posting events leaves the queue pages alone, and the event ring's page where none waits. -/
theorem flushEvents_page {r : Nat} {s : State} (h : r ≠ 64 ∨ s.evs = []) : getPage r (flushEvents s) = getPage r s := by
  obtain h | h := h
  · unfold flushEvents
    split
    · exact flushGo_page h _ _
    · rfl
  · rw [flushEvents_none h]

/-- In ACTIVE, with a ring that takes none, the first event of a source waits there and changes nothing else but the idle count. -/
theorem raiseEvent_held {s : State} (hactive : s.kp.power = .active) (hnone : s.evs = []) (hoff : s.evq.enable = false)
    (source code : Nat) (detail : BitVec 256) : ∃ l, raiseEvent source code detail s = { s.touched with evs := l } := by
  obtain ⟨l, hqueued⟩ : ∃ l, queueEvent source code detail s = { s with evs := l } :=
    ⟨_, if_neg (by simp [hnone, Config.eventHeldMax])⟩
  refine ⟨l, ?_⟩
  rw [raiseEvent, hqueued, wakeSource_active (by exact hactive), flushEvents_disabled (by exact hoff)]
  rfl

/-! ## Doorbells -/

/-- In ACTIVE with BAR0 open a doorbell acts at once. -/
theorem doorbell_awake {s : State} (h : s.Awake) (w : HostWait) (f : State → State) :
    doorbell w f s = openWrite 0x100000 f s.touched := by
  obtain ⟨-, hactive, -⟩ := h
  have hup : asleep s = false := by simp [asleep, hactive]
  simp [doorbell, hup, wakeSource_active hactive]

theorem sqTailWrite_awake {s : State} (h : s.Awake) (q : BitVec 6) (v : W32) :
    Machine.exec (.sqTailWrite q v) s = .next (openWrite 0x100000 (bellSq q v) s.touched) := by
  refine (live_runs (runs_of_awake h)).trans ?_
  rw [doorbell_awake h]

theorem cqHeadWrite_awake {s : State} (h : s.Awake) (p : BitVec 7) (v : W32) :
    Machine.exec (.cqHeadWrite p v) s = .next (openWrite 0x100000 (bellCq p.toNat v) s.touched) := by
  refine (live_runs (runs_of_awake h)).trans ?_
  rw [doorbell_awake h]

/-- In NAP or DEEP, with no wake under way, a submission doorbell starts a wake with cause 0x1 and waits for it (02:R36). -/
theorem sqTailWrite_asleep {s : State} (h : s.Runs) (hsleep : asleep s = true) (ht : ∀ c k, s.kp.trans ≠ .wake c k) (q : BitVec 6)
    (v : W32) : Machine.exec (.sqTailWrite q v) s = .next { s with
      kp := { s.kp with idleSince := now s, trans := .wake 1 (now s), lastWake := 1 }
      host := { s.host with waits := s.host.waits ++ [.bell (q.setWidth 7) false v] } } := by
  refine (live_runs h).trans ?_
  rw [doorbell, if_pos hsleep, wakeSource_asleep hsleep ht]

/-- A write that changes nothing changes nothing whether BAR0 is open or not. -/
theorem openWrite_fixed {off : Nat} {f : State → State} {s : State} (h : f s = s) : openWrite off f s = s := by
  rw [openWrite, h, ite_self]

theorem bellSq_discarded {q : BitVec 6} {s : State} (h : (getPage q.toNat s).enable = false ∨ (getPage q.toNat s).stopped = true)
    (v : W32) : bellSq q v s = s := if_pos (by simpa using h)

theorem bellCq_discarded {p : Nat} {s : State} (h : (getPage p s).enable = false ∨ (getPage p s).stopped = true) (v : W32) :
    bellCq p v s = s := if_pos (by simpa using h)

/-- Settles O18: neither doorbell gets past the checks of ENABLE and STOPPED. -/
theorem doorbellDiscarded : Obligations.DoorbellDiscarded := by
  unfold Obligations.DoorbellDiscarded
  refine ⟨fun q v s h hq => ?_, fun p v s h hp => ?_⟩
  · rw [sqTailWrite_awake h, openWrite_fixed (bellSq_discarded (s := s.touched) hq v)]
  · rw [cqHeadWrite_awake h, openWrite_fixed (bellCq_discarded (s := s.touched) hp v)]

section
variable {q : BitVec 6} {v : W32} {s : State} (hon : (getPage q.toNat s).enable = true) (hrun : (getPage q.toNat s).stopped = false)
include hon hrun

/-- 04:R99: a tail inside the ring that does not pass the head moves SQ_TAIL; no entry is marked while the backlog has room (04:R107). -/
theorem bellSq_moves (hin : (v.setWidth 12 : BitVec 12).toNat < (getPage q.toNat s).sqEntries.toNat)
    (hpass : visible (getPage q.toNat s) ≤ ((v.setWidth 12 : BitVec 12).toNat + (getPage q.toNat s).sqEntries.toNat -
      (getPage q.toNat s).sqHead.toNat) % (getPage q.toNat s).sqEntries.toNat)
    (hroom : backlog (modPage q.toNat (fun g => { g with sqTail := v.setWidth 12 }) s) ≤ Config.backlogMax) :
    bellSq q v s = modPage q.toNat (fun g => { g with sqTail := v.setWidth 12 }) s := by
  unfold bellSq
  extract_lets g n new count s1 excess marks
  have hnone : marks = [] := by simp [marks, excess, s1, new, Nat.sub_eq_zero_of_le hroom]
  rw [if_neg (by simp [g, hon, hrun]), if_pos (by simpa only [Bool.and_eq_true, decide_eq_true_eq] using ⟨hin, hpass⟩), hnone]
  exact modPage_id (fun _ => rfl) _ _

/-- 04:R99: any other tail is discarded, with QERR.DOORBELL_RANGE and its event. -/
theorem bellSq_refused (hbad : (getPage q.toNat s).sqEntries.toNat ≤ (v.setWidth 12 : BitVec 12).toNat ∨
      ((v.setWidth 12 : BitVec 12).toNat + (getPage q.toNat s).sqEntries.toNat - (getPage q.toNat s).sqHead.toNat) %
        (getPage q.toNat s).sqEntries.toNat < visible (getPage q.toNat s)) :
    bellSq q v s = raiseEvent 0 1 (queueDetail q.toNat) (setQerr q.toNat qerrDoorbell s) := by
  unfold bellSq
  extract_lets g n new count s1 excess marks
  refine (if_neg (by simp [g, hon, hrun])).trans (if_neg ?_)
  simp only [Bool.and_eq_true, decide_eq_true_eq, not_and_or, not_lt, not_le]
  exact hbad

end

/-- Settles O19, from what the doorbell does with a tail that it takes, with another one, and asleep. -/
theorem submissionDoorbell : Obligations.SubmissionDoorbell := by
  unfold Obligations.SubmissionDoorbell
  refine ⟨fun q v s h hopen hlen hon hrun => ?_, fun q v s h hsleep ht => sqTailWrite_asleep h hsleep ht q v⟩
  have hq : q.toNat < 64 := q.isLt
  have hexec : Machine.exec (.sqTailWrite q v) s = .next (bellSq q v s.touched) := by
    rw [sqTailWrite_awake h, openWrite_open (by exact hopen)]
  extract_lets g n new base moved
  have hmoved : modPage q.toNat (fun g => { g with sqTail := new }) s.touched = moved := modPage_queue hq.ne _ _
  rw [hexec]
  refine ⟨fun hin hpass hroom => ?_, fun hbad hnone hoff => ?_⟩
  · rw [← hmoved] at hroom ⊢
    rw [bellSq_moves (s := s.touched) hon hrun hin hpass hroom]
  · obtain ⟨-, hactive, -⟩ := h
    obtain ⟨l, hheld⟩ := raiseEvent_held (s := setQerr q.toNat qerrDoorbell s.touched)
      (by simp [setQerr, setErr, State.touched, hactive]) (by simp [setQerr, setErr, State.touched, hnone])
      (by simp [setQerr, setErr, State.touched, modPage_queue hq.ne, hoff]) 0 1 (queueDetail q.toNat)
    rw [bellSq_refused (s := s.touched) hon hrun hbad, hheld]
    refine ⟨_, rfl, setQerr_page_self (s := s.touched) (.inr (by simpa [State.touched, hlen] using hq)) _,
      fun p _ hp => setQerr_page_other hp _ s.touched, ?_⟩
    simp [setQerr, setErr, errQueue, State.touched]

section
variable {p : Nat} {v : W32} {s : State} (hon : (getPage p s).enable = true) (hrun : (getPage p s).stopped = false)
include hon hrun

/-- 04:R102: a head inside the ring that does not pass the tail. -/
theorem bellCq_moves (htake : (v.setWidth 12 : BitVec 12).toNat < (getPage p s).cqEntries.toNat ∧
      ((v.setWidth 12 : BitVec 12).toNat + (getPage p s).cqEntries.toNat - (getPage p s).cqHead.toNat) %
        (getPage p s).cqEntries.toNat ≤ cqUsed (getPage p s)) :
    bellCq p v s = flushEvents (modPage p (fun g => { g with cqHead := v.setWidth 12 }) s) := by
  unfold bellCq
  extract_lets g n new
  exact (if_neg (by simp [g, hon, hrun])).trans (if_pos (by simpa only [Bool.and_eq_true, decide_eq_true_eq] using htake))

/-- 04:R102: any other head. -/
theorem bellCq_refused (hbad : ¬((v.setWidth 12 : BitVec 12).toNat < (getPage p s).cqEntries.toNat ∧
      ((v.setWidth 12 : BitVec 12).toNat + (getPage p s).cqEntries.toNat - (getPage p s).cqHead.toNat) %
        (getPage p s).cqEntries.toNat ≤ cqUsed (getPage p s))) :
    bellCq p v s = setQerr p qerrDoorbell s := by
  unfold bellCq
  extract_lets g n new
  exact (if_neg (by simp [g, hon, hrun])).trans (if_neg (by simpa only [Bool.and_eq_true, decide_eq_true_eq] using hbad))

end

/-- Settles O20, from what the doorbell does with a head that it takes and with another one. -/
theorem completionDoorbell : Obligations.CompletionDoorbell := by
  unfold Obligations.CompletionDoorbell
  intro p v s h hopen hlen hp hon hrun
  have hpage : p.toNat = 64 ∨ p.toNat < s.touched.qs.length := by
    simp only [State.touched, hlen]
    omega
  have hposts : p.toNat ≠ 64 ∨ s.evs = [] := hp.imp (fun h => by omega) And.right
  have hexec : Machine.exec (.cqHeadWrite p v) s = .next (bellCq p.toNat v s.touched) := by
    rw [cqHeadWrite_awake h, openWrite_open (by exact hopen)]
  extract_lets g n new
  by_cases htake : new.toNat < n ∧ (new.toNat + n - g.cqHead.toNat) % n ≤ (g.cqTail.toNat + n - g.cqHead.toNat) % n
  · rw [bellCq_moves (s := s.touched) hon hrun htake] at hexec
    refine ⟨_, hexec, fun _ => ?_, fun hbad => absurd htake hbad, fun r hr hrp => ?_⟩
    · rw [flushEvents_page (by simpa [State.touched] using hposts)]
      exact getPage_modPage_self p.toNat _ s.touched hpage
    · rw [flushEvents_page (.inl (by omega))]
      exact getPage_modPage_other p.toNat r _ s.touched hrp
  · rw [bellCq_refused (s := s.touched) hon hrun htake] at hexec
    exact ⟨_, hexec, fun hin => absurd hin htake, fun _ => setQerr_page_self hpage _, fun r _ hrp => setQerr_page_other hrp _ s.touched⟩

/-! ## QCTRL and the moderation timer -/

theorem queueEnable_awake {s : State} (h : s.Awake) (hopen : barOpen s = true) {v : W32} (hv : v.getLsbD 0 = true) (p : BitVec 7) :
    Machine.exec (.queueEnable p v) s = .next (writeQctrl p.toNat v s.touched) := by
  refine (live_runs (runs_of_awake h)).trans ?_
  rw [onlyIf_true hv, hostAccess_awake h (pageOff_not_keeper _ _), openWrite_open (by exact hopen)]

theorem queueDisable_awake {s : State} (h : s.Awake) (hopen : barOpen s = true) {v : W32} (hv : v.getLsbD 0 = false) (p : BitVec 7) :
    Machine.exec (.queueDisable p v) s = .next (writeQctrl p.toNat v s.touched) := by
  refine (live_runs (runs_of_awake h)).trans ?_
  rw [onlyIf_true (by rw [hv]; rfl), hostAccess_awake h (pageOff_not_keeper _ _), openWrite_open (by exact hopen)]

/-- The page after a write of QCTRL without its ENABLE (04 Table 4-4): IRQ_EN, VECTOR, and a FETCH_BURST in range on a queue page. -/
def qctrlFields (p : Nat) (v : W32) (g : QPage) : QPage :=
  { g with irqEn := v.getLsbD 1, vector := v.extractLsb' 8 7
           burst := if p < 64 ∧ 1 ≤ (v.extractLsb' 4 4 : BitVec 4).toNat ∧ (v.extractLsb' 4 4 : BitVec 4).toNat ≤ 8
             then v.extractLsb' 4 4 else g.burst }

section
variable {p : Nat} {v : W32} {s : State}

/-- QCTRL of a page touches no other queue's page. -/
theorem writeQctrl_page_other {r : Nat} (hr : r < 64) (h : r ≠ p) : getPage r (writeQctrl p v s) = getPage r s := by
  unfold writeQctrl
  rw [flushEvents_page (.inl (by omega))]
  exact getPage_modPage_other p r _ s h

variable (hp : p < 64 ∨ p = 64 ∧ s.evs = []) (hlen : s.qs.length = 64)
include hp hlen

/-- 04:R95: ENABLE from 0 to 1 sets the ring indices to 0 and the expected phase to 1 (and clears the count of 04:R114, log 88). -/
theorem writeQctrl_enables (hv : v.getLsbD 0 = true) (hoff : (getPage p s).enable = false) :
    getPage p (writeQctrl p v s) = { qctrlFields p v (getPage p s) with
      enable := true, sqTail := 0, sqHead := 0, cqHead := 0, cqTail := 0, phase := true, unsig := 0, unsigAt := none, marks := []
      reading := 0 } := by
  have hne : p ≠ 64 ↔ p < 64 := by omega
  unfold writeQctrl
  rw [flushEvents_page (by simpa using hp.imp (fun h => h.ne) And.right)]
  refine (getPage_modPage_self p _ s (by omega)).trans ?_
  simp [hv, hoff, qctrlFields, hne, and_assoc]

/-- 04:R96: ENABLE from 1 to 0 clears STOPPED and ends fetching; what the Tree has fetched stays. -/
theorem writeQctrl_disables (hv : v.getLsbD 0 = false) (hon : (getPage p s).enable = true) :
    getPage p (writeQctrl p v s) = { qctrlFields p v (getPage p s) with
      enable := false, stopped := false, marks := [], reading := 0 } := by
  have hne : p ≠ 64 ↔ p < 64 := by omega
  unfold writeQctrl
  rw [flushEvents_page (by simpa using hp.imp (fun h => h.ne) And.right)]
  refine (getPage_modPage_self p _ s (by omega)).trans ?_
  simp [hv, hon, qctrlFields, hne, and_assoc, -BitVec.getLsbD_eq_getElem]

end

/-- A vector that nothing masks sends its message (04:R114). -/
theorem sendMsix_unmasked {v : BitVec 7} {s : State} (hon : s.host.msixOn = true) (hmaster : s.host.busMaster = true)
    (hmask : s.host.msixMask = false)
    (he : (s.host.msix.getD v.toNat { addr := 0, data := 0, masked := true }).masked = false) :
    sendMsix v s = emit (.msix v (s.host.msix.getD v.toNat { addr := 0, data := 0, masked := true }).addr
      (s.host.msix.getD v.toNat { addr := 0, data := 0, masked := true }).data) s := by
  unfold sendMsix
  extract_lets e
  exact (if_neg (by simp [hon, hmaster])).trans (if_neg (by simp only [hmask, e, he]; decide))

section
variable {p k : Nat} {s : State} (hsince : (getPage p s).unsigAt = some k)
include hsince

theorem imodFire_due (hirq : (getPage p s).irqEn = true) (hdue : k + (getPage p s).imodTime.toNat ≤ now s) :
    imodFire p s = sendMsix (getPage p s).vector (modPage p (fun g => { g with unsig := 0, unsigAt := none }) s) := by
  simp [imodFire, hsince, hirq, hdue]

theorem imodFire_early (hearly : now s < k + (getPage p s).imodTime.toNat) : imodFire p s = s := by
  simp [imodFire, hsince, Nat.not_le.2 hearly]

end

/-- Settles O21: the writes of QCTRL by the page that they leave (the count of 04:R114 by the model's choice of log 88), and the
moderation timer by whether it is due. -/
theorem queueControl : Obligations.QueueControl := by
  unfold Obligations.QueueControl
  refine ⟨fun p v s h hopen hlen hp => ⟨fun hv hoff => ?_, fun hv hon => ?_⟩, fun p k s h hp hlen hsince hirq => ⟨?_, ?_⟩⟩
  · exact ⟨_, queueEnable_awake h hopen hv p, writeQctrl_enables (s := s.touched) hp hlen hv hoff,
      fun r hr hrp => writeQctrl_page_other (s := s.touched) hr hrp⟩
  · exact ⟨_, queueDisable_awake h hopen hv p, writeQctrl_disables (s := s.touched) hp hlen hv hon,
      fun r hr hrp => writeQctrl_page_other (s := s.touched) hr hrp⟩
  · intro hdue hmsix hmaster hmask he
    have hexec : Machine.exec (.imodTimer p) s = .next (imodFire p.toNat s) := live_runs h
    rw [hexec, imodFire_due hsince hirq hdue, sendMsix_unmasked (by simpa using hmsix) (by simpa using hmaster) (by simpa using hmask)
      (by simpa using he)]
    refine ⟨_, rfl, by simp [emit], getPage_modPage_self p.toNat _ s (by omega)⟩
  · intro hearly
    have hexec : Machine.exec (.imodTimer p) s = .next (imodFire p.toNat s) := live_runs h
    rw [hexec, imodFire_early hsince hearly]

end Sys2Proof.Proofs

/-! The completion entry (04:R109 to R111, R113, Table 4-6): what a completion writes and what becomes of its page; O23 from them. -/

namespace Sys2Proof.Proofs

open Sys2Proof Sys2Proof.Machine Sys2Proof.Laws

theorem leBytes_length (n x : Nat) : (leBytes n x).length = n := by
  induction n generalizing x with
  | zero => rfl
  | succ n ih => simp [leBytes, ih]

/-- A completion entry has 32 bytes (04 Table 4-6). -/
theorem complBytes_length (q : Nat) (g : QPage) (time : W64) (c : Completion) : (complBytes q g time c).length = 32 := by
  simp [complBytes, bvBytes, leBytes_length]

/-- The entry of a completion without a result (04:R113). -/
theorem complBytes_plain (q : BitVec 6) (e : Entry) (status : Byte) (g : QPage) (time : W64) :
    complBytes q.toNat g time (plainC (entTag e) (entNoIrq e) status 0 false) =
      bvBytes 4 (entTag e) ++ [status, 0, q.setWidth 8, 0] ++ leBytes 8 0 ++ leBytes 4 0x3FFFF ++ leBytes 4 0 ++
        leBytes 4 time.toNat ++ leBytes 2 g.sqHead.toNat ++ [0, if g.phase then 1 else 0] := by
  have hphase : BitVec.ofNat 8 (b2n g.phase) = if g.phase then 1 else 0 := by cases g.phase <;> rfl
  unfold complBytes
  rw [hphase, BitVec.ofNat_toNat]
  rfl

/-! ## Signals -/

theorem sendMsix_bus (v : BitVec 7) (s : State) : (sendMsix v s).bus = s.bus := by
  simp only [sendMsix, apply_ite State.bus]
  split
  · rfl
  · split <;> rfl

/-- A signal writes no host memory of the image. -/
theorem signalEntry_bus (p : Nat) (noIrq : Bool) (s : State) : (signalEntry p noIrq s).bus = s.bus := by
  unfold signalEntry
  extract_lets g
  split
  · rfl
  · split
    · rw [sendMsix_bus, modPage_bus]
    · exact modPage_bus ..

/-- A signal touches the count of its page alone (04:R114). -/
theorem signalEntry_page_self {p : Nat} {s : State} (hp : p = 64 ∨ p < s.qs.length) (noIrq : Bool) :
    ∃ n since, getPage p (signalEntry p noIrq s) = { getPage p s with unsig := n, unsigAt := since } := by
  unfold signalEntry
  extract_lets g
  split
  · exact ⟨g.unsig, g.unsigAt, rfl⟩
  · split
    · exact ⟨0, none, by rw [sendMsix_page, getPage_modPage_self _ _ _ hp]⟩
    · exact ⟨_, _, getPage_modPage_self _ _ _ hp⟩

@[simp] theorem modPage_qs_length (p : Nat) (f : QPage → QPage) (s : State) : (modPage p f s).qs.length = s.qs.length := by
  unfold modPage
  split
  · rfl
  · exact modAt_length ..

@[simp] theorem busWrite_qs (a : Nat) (bs : Bytes) (s : State) : (busWrite a bs s).qs = s.qs := by
  unfold busWrite busSend
  split <;> rfl

theorem busWrite_bus {s : State} (hm : s.host.busMaster = true) (a : Nat) (bs : Bytes) :
    (busWrite a bs s).bus = memWrite 0 s.bus a bs := by
  unfold busWrite busSend
  rw [if_pos hm]

/-! ## The tail -/

/-- The tail moves on by one, and PHASE stays, before the ring's end (04:R111). -/
theorem pushTail_inside {g : QPage} (h : g.cqTail.toNat + 1 ≠ g.cqEntries.toNat) : pushTail g = { g with cqTail := g.cqTail + 1 } :=
  if_neg h

/-- At the ring's end the tail wraps, and PHASE inverts (04:R111). -/
theorem pushTail_wraps {g : QPage} (h : g.cqTail.toNat + 1 = g.cqEntries.toNat) :
    pushTail g = { g with cqTail := 0, phase := !g.phase } := if_pos h

theorem pushTail_started (g : QPage) : (pushTail g).started = g.started := by
  unfold pushTail
  split <;> rfl

/-! ## A completion that host memory takes -/

/-! ## A completion that host memory takes -/

section
variable {s : State} (hm : s.host.busMaster = true) {q : Nat} (c : Completion)
include hm

theorem postCompletion_page_other {r : Nat} (h : r ≠ q) : getPage r (postCompletion q c s) = getPage r s := by
  unfold postCompletion
  simp only [modPage_host, hm, if_true]
  rw [signalEntry_page_other h, getPage_modPage_other _ _ _ _ h, busWrite_page, getPage_modPage_other _ _ _ _ h]

variable (hq : q < s.qs.length)
include hq

/-- 04:R109: the one entry that a completion writes lies at its queue's completion tail. -/
theorem postCompletion_bus : (postCompletion q c s).bus =
    memWrite 0 s.bus ((getPage q s).cqBase.toNat + 32 * (getPage q s).cqTail.toNat) (complBytes q (getPage q s) s.kp.timestamp c) := by
  unfold postCompletion
  simp only [modPage_host, hm, if_true]
  rw [signalEntry_bus, modPage_bus, busWrite_bus (by simpa using hm), getPage_modPage_self _ _ _ (.inr hq), modPage_bus, modPage_kp]
  rfl

/-- 04:R110, R111: one command of the queue fewer is under way, and the tail moves on; but for the times and counts of the head and of
the signals the page stays. -/
theorem postCompletion_page_self : ∃ since n first, getPage q (postCompletion q c s) =
    { pushTail { getPage q s with started := (getPage q s).started - 1, headSince := since } with unsig := n, unsigAt := first } := by
  unfold postCompletion
  simp only [modPage_host, hm, if_true]
  generalize hwritten : busWrite _ _ _ = b
  have hlen : q < b.qs.length := by rw [← hwritten]; simpa using hq
  have hpage := congrArg (getPage q) hwritten
  rw [busWrite_page, getPage_modPage_self _ _ _ (.inr hq)] at hpage
  obtain ⟨n, first, hsignal⟩ := signalEntry_page_self (s := modPage q pushTail b) (.inr (by simpa using hlen)) c.noIrq
  rw [getPage_modPage_self _ _ _ (.inr hlen), ← hpage] at hsignal
  exact ⟨_, n, first, hsignal⟩

end

/-- Settles O23, from what a completion writes and what it leaves of its page and of the others. -/
theorem completionEntry : Obligations.CompletionEntry := by
  unfold Obligations.CompletionEntry
  intro q e status s hm hlen hwf
  have hq : q.toNat < s.qs.length := hlen ▸ q.isLt
  extract_lets g t at_
  have hbus : t.bus = memWrite 0 s.bus at_ (complBytes q.toNat g s.kp.timestamp (plainC (entTag e) (entNoIrq e) status 0 false)) :=
    postCompletion_bus hm _ hq
  obtain ⟨since, n, first, hpage⟩ := postCompletion_page_self hm (plainC (entTag e) (entNoIrq e) status 0 false) hq
  change getPage q.toNat t = _ at hpage
  refine ⟨?_, fun a ha => ?_, fun hin => ?_, fun hwrap => ?_, ?_, ?_, fun r _ hr => postCompletion_page_other hm _ hr⟩
  · rw [busRead, hbus, ← complBytes_plain]
    simpa only [complBytes_length] using memRead_memWrite hwf at_ (complBytes q.toNat g s.kp.timestamp _)
  · rw [hbus, memGet_memWrite_other _ hwf (by rwa [complBytes_length])]
  · rw [hpage, pushTail_inside (by exact hin)]
    exact ⟨rfl, rfl⟩
  · rw [hpage, pushTail_wraps (by exact hwrap)]
    exact ⟨rfl, rfl⟩
  · rw [hpage]
    exact pushTail_started _
  · rw [hpage]
    exact pushTail_fetched _

end Sys2Proof.Proofs

/-! O22: what a completion of a PCI Express read that nothing waits for still changes. -/

namespace Sys2Proof.Proofs

open Sys2Proof Sys2Proof.Machine Sys2Proof.Laws

/-- A node after a cold reset with one window that an unmapping has closed and that nothing uses. -/
def closedWindow : State := { State.reset with wins := [{ id := 0, offset := 0, bus := 0, len := 4096, perm := 0, closing := true }] }

/-- Where no read, request or command waits, what comes of the completion is that the closed window is gone (05:R138). -/
theorem pcieReadCompletion_closedWindow (tag : BitVec 10) (res : ReadResult) (data : Bytes) :
    Machine.exec (.pcieReadCompletion tag res data) closedWindow = .next { closedWindow with wins := [] } :=
  (live_runs (s := closedWindow) (by decide)).trans rfl

/-- Refutes O22: `NothingWaits` allows a closed window that nothing uses, and the completion that no read waits for drops that
window, so the state does not stay `closedWindow`. -/
theorem not_fetchAndReads : ¬ Obligations.FetchAndReads := by
  unfold Obligations.FetchAndReads
  intro h
  obtain ⟨-, hdropped, -⟩ := h
  have hsame := hdropped 0 .ok [] closedWindow (by decide) (by decide) (by decide)
  rw [pcieReadCompletion_closedWindow] at hsame
  exact absurd (congrArg State.wins (Host.Outcome.next.inj hsame)) (by decide)

end Sys2Proof.Proofs

/-! What completions and events leave alone, and the rows of commands at the head of a queue, with what they read and what they
leave when they wait or end (04:R104, R109, R116). -/

namespace Sys2Proof.Proofs

open Sys2Proof Sys2Proof.Machine Sys2Proof.Laws

/-! ## Completions and events -/

/-- The state but for what a completion or an event reaches: the pages, the host port and its memory, the events that wait, the error
summary, the keeper (an event is a wake source) and what has left the node. -/
def unposted (s : State) : State :=
  { s with qs := [], evq := QPage.reset, host := State.reset.host, bus := [], evs := [], err := State.reset.err, kp := State.reset.kp
           out := [] }

@[simp] theorem modPage_unposted (p : Nat) (f : QPage → QPage) (s : State) : unposted (modPage p f s) = unposted s := by
  unfold modPage
  split <;> rfl

@[simp] theorem busWrite_unposted (a : Nat) (bs : Bytes) (s : State) : unposted (busWrite a bs s) = unposted s := by
  unfold busWrite busSend
  split <;> rfl

@[simp] theorem sendMsix_unposted (v : BitVec 7) (s : State) : unposted (sendMsix v s) = unposted s := by
  unfold sendMsix
  extract_lets e
  split
  · rfl
  · split <;> rfl

@[simp] theorem signalEntry_unposted (p : Nat) (noIrq : Bool) (s : State) : unposted (signalEntry p noIrq s) = unposted s := by
  unfold signalEntry
  extract_lets g
  split
  · rfl
  · split <;> simp

@[simp] theorem setQerr_unposted (p bit : Nat) (s : State) : unposted (setQerr p bit s) = unposted s :=
  modPage_unposted p _ s

@[simp] theorem queueEvent_unposted (source code : Nat) (detail : BitVec 256) (s : State) :
    unposted (queueEvent source code detail s) = unposted s := by
  unfold queueEvent
  extract_lets src r e r1 full r2 s1
  split <;> rfl

@[simp] theorem writeEvent_unposted (e : Event) (missed : Bool) (coalesced : W32) (s : State) :
    unposted (writeEvent e missed coalesced s) = unposted s := by
  unfold writeEvent
  split <;> simp

theorem flushOne_unposted (r : EvSource) (s : State) : unposted (flushOne r s) = unposted s := by
  unfold flushOne
  split
  · exact writeEvent_unposted ..
  · split
    · rfl
    · exact writeEvent_unposted ..

theorem flushGo_unposted (n : Nat) (s : State) : unposted (flushGo n s) = unposted s := by
  induction n generalizing s with
  | zero => rfl
  | succ n ih =>
    unfold flushGo
    split
    · split
      · rfl
      · rw [ih, flushOne_unposted]
    · rfl

@[simp] theorem flushEvents_unposted (s : State) : unposted (flushEvents s) = unposted s := by
  unfold flushEvents
  split
  · exact flushGo_unposted 4096 s
  · rfl

@[simp] theorem wakeSource_unposted (cause : BitVec 4) (s : State) : unposted (wakeSource cause s) = unposted s := by
  unfold wakeSource
  extract_lets k
  split
  · rfl
  · rfl
  · split <;> rfl
  · rfl

@[simp] theorem raiseEvent_unposted (source code : Nat) (detail : BitVec 256) (s : State) :
    unposted (raiseEvent source code detail s) = unposted s := by
  simp [raiseEvent]

@[simp] theorem postCompletion_unposted (q : Nat) (c : Completion) (s : State) : unposted (postCompletion q c s) = unposted s := by
  unfold postCompletion
  extract_lets s0
  split <;> simp [s0]

@[simp] theorem endEntry_unposted (q : BitVec 6) (e : Entry) (status : Byte) (s : State) :
    unposted (endEntry q e status s) = unposted s := postCompletion_unposted ..

@[simp] theorem popHead_unposted (q : BitVec 6) (s : State) : unposted (popHead q s) = unposted s := modPage_unposted ..

theorem settleGo_unposted (q : BitVec 6) (n : Nat) (s : State) : unposted (settleGo q n s) = unposted s := by
  induction n generalizing s with
  | zero => rfl
  | succ n ih =>
    unfold settleGo
    split
    · rfl
    · simp only [apply_ite unposted, ih, endEntry_unposted, popHead_unposted, ite_self]

@[simp] theorem settleHead_unposted (q : BitVec 6) (s : State) : unposted (settleHead q s) = unposted s := settleGo_unposted ..

/-- The end of a command that held its queue takes it from the list of commands. -/
theorem endHeld_unposted (c : Cmd) (status flags : Byte) (result : W64) (s : State) :
    unposted (endHeld c status flags result s) = unposted { s with cmds := s.cmds.filter fun x => x.id ≠ c.id } := by
  have hend : unposted (endCmd c status flags result s) = unposted { s with cmds := s.cmds.filter fun x => x.id ≠ c.id } :=
    postCompletion_unposted ..
  unfold endHeld releaseQueue
  extract_lets t
  have ht : unposted t = unposted (endCmd c status flags result s) := modPage_unposted ..
  split
  · rw [settleHead_unposted, ht, hend]
  · rw [ht, hend]

section
variable {s t : State} (h : unposted t = unposted s)
include h

theorem cfg_of_unposted : t.cfg = s.cfg := (congrArg State.cfg h :)
theorem maps_of_unposted : t.maps = s.maps := (congrArg State.maps h :)
theorem wins_of_unposted : t.wins = s.wins := (congrArg State.wins h :)
theorem comms_of_unposted : t.comms = s.comms := (congrArg State.comms h :)
theorem cmds_of_unposted : t.cmds = s.cmds := (congrArg State.cmds h :)
theorem ctxs_of_unposted : t.ctxs = s.ctxs := (congrArg State.ctxs h :)
theorem saved_of_unposted : t.saved = s.saved := (congrArg State.saved h :)
theorem ni_of_unposted : t.ni = s.ni := (congrArg State.ni h :)
theorem rt_of_unposted : t.rt = s.rt := (congrArg State.rt h :)

end

/-! ## Taking the entry from the head -/

section
variable (q : BitVec 6) (s : State)

@[simp] theorem popHead_cfg : (popHead q s).cfg = s.cfg := modPage_cfg ..
@[simp] theorem popHead_kp : (popHead q s).kp = s.kp := modPage_kp ..
@[simp] theorem popHead_maps : (popHead q s).maps = s.maps := modPage_maps ..
@[simp] theorem popHead_wins : (popHead q s).wins = s.wins := modPage_wins ..
@[simp] theorem popHead_comms : (popHead q s).comms = s.comms := modPage_comms ..
@[simp] theorem popHead_cmds : (popHead q s).cmds = s.cmds := modPage_cmds ..
@[simp] theorem popHead_saved : (popHead q s).saved = s.saved := modPage_saved ..
@[simp] theorem popHead_ni : (popHead q s).ni = s.ni := modPage_ni ..
@[simp] theorem popHead_rt : (popHead q s).rt = s.rt := modPage_rt ..
@[simp] theorem popHead_free : (popHead q s).free = s.free := modPage_free ..
@[simp] theorem popHead_busRead (a n : Nat) : busRead (popHead q s) a n = busRead s a n := congrArg (memRead 0 · a n) (modPage_bus ..)

end

/-- A command that starts where none has is alone. -/
theorem addCmd_alone {s : State} (h : s.cmds = []) (q : BitVec 6) (e : Entry) (k : CmdKind) :
    ∃ c, (addCmd q e k s).cmds = [c] ∧ c.kind = k := by
  have hadd : (addCmd q e k s).cmds = s.cmds ++ [_] := rfl
  rw [hadd, h]
  exact ⟨_, rfl, rfl⟩

/-! ## Command rows -/

section
variable {q : BitVec 6} {e : Entry} {fields : List (Nat × Nat)} {s t u : State} {run : State → Option State} {ok : Bool} {c : Instr}
  {status : Byte}

/-- A completion that host memory takes leaves every queue's fetched entries. -/
theorem postCompletion_fetched (hm : s.host.busMaster = true) (c : Completion) (p r : Nat) :
    (getPage r (postCompletion p c s)).fetched = (getPage r s).fetched := by
  unfold postCompletion
  simp only [modPage_host, hm, if_true]
  rw [signalEntry_fetched, modPage_fetched _ _ pushTail _ pushTail_fetched, busWrite_page]
  exact modPage_fetched p r _ s

section
variable (hrow : Machine.exec c = fun s => live s (octozRow q e ok fields run)) (hok : ok = true) (h : s.AtHead q e)
  (hk : opcodeKnown (entOpcode e) = true) (hres : noReserved fields e = true)
include hrow hok h hk hres

/-- A command that starts runs, and then what no command row starts leaves the head. -/
theorem row_runs (hrun : run (popHead q s) = some t) : Machine.exec c s = .next (settleHead q t) := by
  obtain ⟨-, -, -, hhead, -, -⟩ := id h
  subst hok
  simp [hrow, live_runs (runs_of_awake h.1.1), octozRow, settleHead_known hhead hk, headIs_of_atHead h, fenceHolds_of_atHead h, hres, hrun]

/-- A command that ends at once with a status. -/
theorem row_ends (hrun : run (popHead q s) = some (endEntry q e status u))
    (hlast : (getPage q.toNat u).fetched = (getPage q.toNat (popHead q s)).fetched := by rfl)
    (hm : u.host.busMaster = s.host.busMaster := by simp) : Machine.exec c s = .next (endEntry q e status u) := by
  exact ((congrFun hrow s).trans (live_runs (runs_of_awake h.1.1))).trans (congrArg _ (octozRow_ends hok h hk hres hrun hlast hm))

/-- A command that ends at once with a result. -/
theorem row_results {result : W64} (hrun : run (popHead q s) = some (endResult q e result u))
    (hlast : (getPage q.toNat u).fetched = (getPage q.toNat (popHead q s)).fetched := by rfl)
    (hm : u.host.busMaster = s.host.busMaster := by simp) : Machine.exec c s = .next (endResult q e result u) := by
  obtain ⟨-, hmaster, -⟩ := id h
  exact ((congrFun hrow s).trans (live_runs (runs_of_awake h.1.1))).trans (congrArg _
    (octozRow_starts hok h hk hres hrun ((postCompletion_fetched (hm.trans hmaster) _ _ _).trans hlast)))

end

section
variable {src : State → List (Nat × Nat)} {ps : List (Nat × Nat)}
  (hrow : Machine.exec c = fun s => live s (octozRead q e ok fields src run)) (h : s.AtHead q e) (hps : src s = ps)
include hrow h hps

/-- With its bytes there the command is a row like the others. -/
theorem read_ready (hready : busReady ps s = true) :
    Machine.exec c s = .next (octozRow q e ok fields (fun t => (run t).map (useBus ps)) s) := by
  subst hps
  refine ((congrFun hrow s).trans (live_runs (runs_of_awake h.1.1))).trans (congrArg _ ?_)
  simp [octozRead, hready]

variable (hok : ok = true) (hk : opcodeKnown (entOpcode e) = true) (hres : noReserved fields e = true)
include hok hres

/-- A command whose bytes are missing asks for them, and waits at the head. -/
theorem read_asks (hready : busReady ps s = false) : Machine.exec c s = .next (askBus ps s) := by
  subst hok hps
  simp [hrow, live_runs (runs_of_awake h.1.1), octozRead, headIs_of_atHead h, fenceHolds_of_atHead h, hres, hready]

variable (hready : busReady ps s = true)
include hk hready

/-- With its bytes there the command may still have to wait. -/
theorem read_waits (hrun : run (popHead q s) = none) : Machine.exec c s = .next s := by
  rw [read_ready hrow h hps hready, octozRow_waits hok h hk hres (by rw [hrun]; rfl)]

/-- A command that ends at once with a status has used its bytes. -/
theorem read_ends (hrun : run (popHead q s) = some (endEntry q e status u))
    (hlast : (getPage q.toNat u).fetched = (getPage q.toNat (popHead q s)).fetched := by rfl)
    (hm : u.host.busMaster = s.host.busMaster := by simp) : Machine.exec c s = .next (useBus ps (endEntry q e status u)) := by
  obtain ⟨-, hmaster, -⟩ := id h
  rw [read_ready hrow h hps hready]
  exact congrArg _ (octozRow_starts hok h hk hres (by rw [hrun]; rfl)
    ((endEntry_fetched (hm.trans hmaster) q e status q.toNat).trans hlast))

end

end

end Sys2Proof.Proofs

/-! IDENT, CONFIG_SET and POWER_POLICY (05:R133 to R135): what a change of the node's coordinate or torus does to ports without flits,
how POWER_POLICY's fields are set, and O25 from them. -/

namespace Sys2Proof.Proofs

open Sys2Proof Sys2Proof.Machine Sys2Proof.Laws

/-! ## Ports that give up their packets -/

/-- From `z` to `s` the configuration, the queue pages and the host port are the same, and no port has begun to carry flits. -/
structure StaysQuiet (z s : State) : Prop where
  cfg : s.cfg = z.cfg
  qs : s.qs = z.qs
  host : s.host = z.host
  quiet : (∀ i, i < 12 → carries (getPort i z) = false) → ∀ i, i < 12 → carries (getPort i s) = false

theorem StaysQuiet.refl (s : State) : StaysQuiet s s := ⟨rfl, rfl, rfl, id⟩

theorem StaysQuiet.trans {s t u : State} (h₁ : StaysQuiet s t) (h₂ : StaysQuiet t u) : StaysQuiet s u :=
  ⟨h₂.cfg.trans h₁.cfg, h₂.qs.trans h₁.qs, h₂.host.trans h₁.host, fun h => h₂.quiet (h₁.quiet h)⟩

theorem StaysQuiet.foldl {α : Type} {f : State → α → State} (hf : ∀ t x, StaysQuiet t (f t x)) (l : List α) (s : State) :
    StaysQuiet s (l.foldl f s) := by
  induction l generalizing s with
  | nil => exact .refl s
  | cons x r ih => exact (hf s x).trans (ih (f s x))

/-- An update of a port that does not put it into a state in which it carries flits. -/
theorem modPort_quiet (i : Nat) (s : State) {f : Port → Port}
    (hf : ∀ p, carries p = false → carries (f p) = false := by exact fun _ h => h) : StaysQuiet s (modPort i f s) := by
  refine ⟨rfl, rfl, rfl, fun h j hj => ?_⟩
  by_cases hji : j = i
  · subst hji
    by_cases hl : j < s.ports.length
    · rw [getPort_modPort_self j f s hl]
      exact hf _ (h j hj)
    · simp only [getPort, modPort, List.getD_eq_getElem?_getD, modAt_get, if_pos, List.getElem?_eq_none (Nat.le_of_not_lt hl)]
      rfl
  · rw [getPort_modPort_other i j f s hji]
    exact h j hj

theorem freeFrom_quiet (from_ : Option (Nat × Nat)) (s : State) : StaysQuiet s (freeFrom from_ s) := by
  unfold freeFrom
  split
  · exact .refl s
  · exact modPort_quiet _ s

theorem degradePacket_quiet (p : Packet) (s : State) : StaysQuiet s (degradePacket p s) := by
  unfold degradePacket
  split
  · exact ⟨rfl, rfl, rfl, id⟩
  · exact .refl s

theorem rehome_quiet (i : Nat) (o : OutPkt) (s : State) : StaysQuiet s (rehome i o s) := by
  have enqueued (i need : Nat) (p : Packet) : StaysQuiet s (enqueueOut i need o.from_ p s) := modPort_quiet i s
  unfold rehome
  extract_lets d p sister
  split
  · exact (enqueued ..).trans (degradePacket_quiet ..)
  split
  · exact freeFrom_quiet ..
  split
  · exact (freeFrom_quiet ..).trans (modPort_quiet ..)
  split
  · exact enqueued ..
  · exact (freeFrom_quiet o.from_ s).trans ⟨rfl, rfl, rfl, id⟩

theorem abandonPort_quiet (i : Nat) (s : State) : StaysQuiet s (abandonPort i s) := by
  unfold abandonPort
  extract_lets d p gone q cut s1 s2
  have h1 : StaysQuiet s s1 := modPort_quiet i s
  have h2 : StaysQuiet s1 s2 := by
    unfold s2
    split
    · exact .refl s1
    · exact (modPort_quiet (d + 6) s1).trans (modPort_quiet d _)
  exact (h1.trans h2).trans (.foldl (fun t o => rehome_quiet i o t) gone s2)

/-- 07:R179: the ports that follow a change of TORUS_DIMS are OFF, DOWN or train. -/
theorem axisPorts_quiet (old s : State) : StaysQuiet s (axisPorts old s) := by
  unfold axisPorts
  extract_lets off s1
  have h1 : StaysQuiet s s1 :=
    .foldl (fun t i => (modPort_quiet i t fun _ _ => rfl).trans (abandonPort_quiet i _)) off s
  refine h1.trans ⟨rfl, rfl, rfl, fun h i hi => ?_⟩
  have hport := h i hi
  simp only [getPort, List.getD_eq_getElem?_getD, List.getElem?_mapIdx] at hport ⊢
  cases hp : s1.ports[i]? with
  | none => rfl
  | some p =>
    rw [hp] at hport
    simp only [Option.map_some, Option.getD_some] at hport ⊢
    split
    · exact hport
    split
    · split <;> rfl
    · exact hport

/-- 07:R181: with no port that carries flits no IDENTITY goes out. -/
theorem resendIdentity_quiet {s : State} (h : ∀ i, i < 12 → carries (getPort i s) = false) : resendIdentity s = s := by
  have hnone : portsWhere carries s = [] := by
    simp only [portsWhere, List.filter_eq_nil_iff, List.mem_range]
    exact fun i hi => by simp [h i hi]
  rw [resendIdentity, hnone, List.foldl_nil]

/-! ## CONFIG_SET -/

/-- The items beside the coordinate and the torus have no consequences for the ports. -/
theorem applyConfig_plain {item : Nat} (h1 : item ≠ 1) (h2 : item ≠ 2) (v : Nat) (s : State) :
    applyConfig item v s = setConfig item v s := by
  simp [applyConfig, h1, h2]

/-- A coordinate set on a node whose ports carry no flits. -/
theorem applyConfig_coord {s : State} (h : ∀ i, i < 12 → carries (getPort i s) = false) (v : Nat) :
    applyConfig 1 v s = { s with cfg := { s.cfg with coord := BitVec.ofNat 32 v } } := resendIdentity_quiet h

/-- A torus set on a node whose ports carry no flits. -/
theorem applyConfig_dims {s : State} (h : ∀ i, i < 12 → carries (getPort i s) = false) (v : Nat) :
    StaysQuiet { s with cfg := { s.cfg with dims := BitVec.ofNat 32 v } } (applyConfig 2 v s) := by
  have hports := axisPorts_quiet s (setConfig 2 v s)
  have hsame : applyConfig 2 v s = axisPorts s (setConfig 2 v s) := resendIdentity_quiet (hports.quiet h)
  rw [hsame]
  exact hports

theorem getPage_of_qs {s t : State} (h : t.qs = s.qs) (q : BitVec 6) : getPage q.toNat t = getPage q.toNat s := by
  rw [getPage, getPage, if_neg (by omega), if_neg (by omega), h]

theorem popHead_quiet (q : BitVec 6) {s : State} (h : ∀ i, i < 12 → carries (getPort i s) = false) :
    ∀ i, i < 12 → carries (getPort i (popHead q s)) = false := by
  simpa [getPort, popHead] using h

/-- CONFIG_SET is refused: its value is out of range, or a coordinate or torus changes under a loaded rank map. -/
def configRefused (e : Entry) (s : State) : Prop :=
  configOk (bodyField e 0 2) (bodyField e 8 8) = false ∨
    (bodyField e 0 2 = 1 ∨ bodyField e 0 2 = 2) ∧ ∃ m ∈ s.maps, m.isSome = true

theorem configRefused_iff (e : Entry) (s : State) : (!configOk (bodyField e 0 2) (bodyField e 8 8) ||
    ((bodyField e 0 2 = 1 || bodyField e 0 2 = 2) && s.maps.any fun m => m.isSome)) = true ↔ configRefused e s := by
  simp [configRefused]

/-- A coordinate and a torus in range are not refused while no rank map is loaded. -/
theorem not_configRefused {e : Entry} {s : State} (hval : bodyField e 8 8 < 0x20000) (hmaps : ∀ m ∈ s.maps, m = none)
    (hitem : bodyField e 0 2 = 1 ∨ bodyField e 0 2 = 2) : ¬configRefused e s := by
  rintro (hrange | ⟨-, m, hm, hsome⟩)
  · obtain hitem | hitem := hitem <;> simp [configOk, hitem, hval] at hrange
  · simp [hmaps m hm] at hsome

section
variable {q : BitVec 6} {e : Entry} {s : State} (h : s.AtHead q e) (hop : entOpcode e = 0x02)
  (hres : noReserved [(0, 16), (2, 1), (8, 64)] e = true)
include h hop hres

theorem configSet_refuses (hbad : configRefused e s) :
    Machine.exec (.configSet q e) s = .next (endEntry q e stBadDesc (popHead q s)) := by
  refine row_ends rfl (by simp [hop]) h (by rw [hop]; rfl) hres (if_pos ?_)
  rwa [popHead_maps, configRefused_iff]

variable (hgood : ¬configRefused e s)
include hgood

/-- 05:R134: an item that is not to be stored is set. -/
theorem configSet_sets (hplain : natBit 0 (bodyField e 2 1) = false)
    (hqs : (applyConfig (bodyField e 0 2) (bodyField e 8 8) (popHead q s)).qs = (popHead q s).qs)
    (hhost : (applyConfig (bodyField e 0 2) (bodyField e 8 8) (popHead q s)).host = (popHead q s).host) :
    Machine.exec (.configSet q e) s =
      .next (endEntry q e stOK (applyConfig (bodyField e 0 2) (bodyField e 8 8) (popHead q s))) := by
  refine row_ends rfl (by simp [hop]) h (by rw [hop]; rfl) hres ?_ (by rw [getPage_of_qs hqs]) (by rw [hhost, popHead_host])
  refine (if_neg ?_).trans (if_pos (by rw [hplain]; rfl))
  rwa [popHead_maps, configRefused_iff]

variable (hstore : natBit 0 (bodyField e 2 1) = true)
include hstore

/-- 05:R134: an item whose write to the store fails is not set. -/
theorem configSet_storeFails (hfail : Config.freeBool s.free = true) :
    Machine.exec (.configSet q e) s = .next (endEntry q e stInternal { popHead q s with free := s.free + 1 }) := by
  refine row_ends rfl (by simp [hop]) h (by rw [hop]; rfl) hres ?_
  refine (if_neg ?_).trans ((if_neg (by rw [hstore]; decide)).trans ?_)
  · rwa [popHead_maps, configRefused_iff]
  · rw [popHead_free, if_pos hfail, bumpFree, popHead_free]

/-- 05:R134: an item that the store has taken is set. -/
theorem configSet_stores (h1 : bodyField e 0 2 ≠ 1) (h2 : bodyField e 0 2 ≠ 2) (hfail : Config.freeBool s.free = false) :
    Machine.exec (.configSet q e) s = .next (endEntry q e stOK (setConfig (bodyField e 0 2) (bodyField e 8 8)
      (storeItem (bodyField e 0 2) (bodyField e 8 8) { popHead q s with free := s.free + 1 }))) := by
  refine row_ends rfl (by simp [hop]) h (by rw [hop]; rfl) hres ?_
    (congrArg QPage.fetched (getPage_of_qs (by simp [setConfig, storeItem]) q)) (by simp [setConfig, storeItem])
  refine (if_neg ?_).trans ((if_neg (by rw [hstore]; decide)).trans ?_)
  · rwa [popHead_maps, configRefused_iff]
  · rw [popHead_free, if_neg (by rw [hfail]; decide), applyConfig_plain h1 h2, bumpFree, popHead_free]

end

section
variable {q : BitVec 6} {e : Entry} {s : State} (h : s.AtHead q e) (hop : entOpcode e = 0x02)
  (hres : noReserved [(0, 16), (2, 1), (8, 64)] e = true)
include h hop hres

/-- Every item but the coordinate and the torus, by its range, STORE and what becomes of the store. -/
theorem configSet_item (h1 : bodyField e 0 2 ≠ 1) (h2 : bodyField e 0 2 ≠ 2) : Machine.exec (.configSet q e) s = .next (
    if configOk (bodyField e 0 2) (bodyField e 8 8) = false then endEntry q e stBadDesc (popHead q s)
    else if natBit 0 (bodyField e 2 1) = false
    then endEntry q e stOK (setConfig (bodyField e 0 2) (bodyField e 8 8) (popHead q s))
    else if Config.freeBool s.free then endEntry q e stInternal { popHead q s with free := s.free + 1 }
    else endEntry q e stOK (setConfig (bodyField e 0 2) (bodyField e 8 8)
      (storeItem (bodyField e 0 2) (bodyField e 8 8) { popHead q s with free := s.free + 1 }))) := by
  have hgood : ¬configRefused e s ↔ ¬configOk (bodyField e 0 2) (bodyField e 8 8) = false := by simp [configRefused, h1, h2]
  split
  · next hrange => exact configSet_refuses h hop hres (.inl hrange)
  split
  · next hrange hplain =>
    have hset := configSet_sets h hop hres (hgood.2 hrange) hplain
    rw [applyConfig_plain h1 h2] at hset
    exact hset rfl rfl
  · next hrange hstore =>
    rw [Bool.not_eq_false] at hstore
    split
    · next hfail => exact configSet_storeFails h hop hres (hgood.2 hrange) hstore hfail
    · next hfail => exact configSet_stores h hop hres (hgood.2 hrange) hstore h1 h2 (by simpa using hfail)

theorem configSet_chunkTimeout (hitem : bodyField e 0 2 = 4) (hplain : natBit 0 (bodyField e 2 1) = false) :
    Machine.exec (.configSet q e) s = .next (
      if 250 ≤ bodyField e 8 8 ∧ bodyField e 8 8 ≤ 2500000
      then endEntry q e stOK { popHead q s with cfg := { s.cfg with chunkTimeout := BitVec.ofNat 32 (bodyField e 8 8) } }
      else endEntry q e stBadDesc (popHead q s)) := by
  have hrange : configOk 4 (bodyField e 8 8) = false ↔ ¬(250 ≤ bodyField e 8 8 ∧ bodyField e 8 8 ≤ 2500000) := by
    simp [configOk]
  have hset := configSet_item h hop hres (by rw [hitem]; decide) (by rw [hitem]; decide)
  simp only [hitem, hrange, hplain, if_true, ite_not, setConfig, popHead_cfg] at hset
  exact hset

variable (hplain : natBit 0 (bodyField e 2 1) = false) (hval : bodyField e 8 8 < 0x20000) (hmaps : ∀ m ∈ s.maps, m = none)
  (hquiet : ∀ i, i < 12 → carries (getPort i s) = false)
include hplain hval hmaps hquiet

theorem configSet_coord (hitem : bodyField e 0 2 = 1) : Machine.exec (.configSet q e) s =
    .next (endEntry q e stOK { popHead q s with cfg := { s.cfg with coord := BitVec.ofNat 32 (bodyField e 8 8) } }) := by
  have hset := configSet_sets h hop hres (not_configRefused hval hmaps (.inl hitem)) hplain
  rw [hitem, applyConfig_coord (popHead_quiet q hquiet)] at hset
  rw [hset rfl rfl, popHead_cfg]

theorem configSet_dims (hitem : bodyField e 0 2 = 2) :
    ∃ t, Machine.exec (.configSet q e) s = .next t ∧ t.cfg = { s.cfg with dims := BitVec.ofNat 32 (bodyField e 8 8) } := by
  have hset := configSet_sets h hop hres (not_configRefused hval hmaps (.inr hitem)) hplain
  have hdims := applyConfig_dims (popHead_quiet q hquiet) (bodyField e 8 8)
  rw [hitem] at hset
  refine ⟨_, hset hdims.qs hdims.host, ?_⟩
  rw [cfg_of_unposted (endEntry_unposted ..), hdims.cfg, popHead_cfg]

end

/-! ## POWER_POLICY -/

/-- The value that POWER_POLICY gives to field `i`, when its VALID names it. -/
def policyField (e : Entry) (i o n : Nat) : Option Nat := if natBit i (bodyField e 0 1) then some (bodyField e o n) else none

/-- The field of the policy afterwards. -/
def policyWord (e : Entry) (i o : Nat) (old : W32) : W32 :=
  match policyField e i o 4 with | some x => BitVec.ofNat 32 x | none => old

theorem policyWord_eq (e : Entry) (i o : Nat) (old : W32) :
    policyWord e i o old = if natBit i (bodyField e 0 1) then BitVec.ofNat 32 (bodyField e o 4) else old := by
  unfold policyWord policyField
  cases natBit i (bodyField e 0 1) <;> rfl

/-- FLOOR afterwards, which has two bits. -/
def policyFloor (e : Entry) (old : BitVec 2) : BitVec 2 := match policyField e 4 20 1 with | some x => BitVec.ofNat 2 x | none => old

theorem policyFloor_eq (e : Entry) (old : BitVec 2) :
    policyFloor e old = if natBit 4 (bodyField e 0 1) then (BitVec.ofNat 32 (bodyField e 20 1)).setWidth 2 else old := by
  unfold policyFloor policyField
  cases natBit 4 (bodyField e 0 1)
  · rfl
  · exact BitVec.eq_of_toNat_eq (by simp)

/-- The policy that POWER_POLICY leaves (05:R135). -/
def policyAfter (e : Entry) (p : Policy) : Policy :=
  { dozeAfter := policyWord e 0 4 p.dozeAfter, napAfter := policyWord e 1 8 p.napAfter, deepAfter := policyWord e 2 12 p.deepAfter
    heraldHold := policyWord e 3 16 p.heraldHold
    floor := policyFloor e p.floor }

/-- A timer that VALID names is zero or in range (02 Table 2-3). -/
def timerInRange (e : Entry) (i o lo hi : Nat) : Prop := ∀ x, policyField e i o 4 = some x → x = 0 ∨ (lo ≤ x ∧ x ≤ hi)

/-- Every field that VALID names is in range. -/
def policyInRange (e : Entry) : Prop :=
  timerInRange e 0 4 25 25000 ∧ timerInRange e 1 8 250 25000000 ∧ timerInRange e 2 12 25000 250000000 ∧
    timerInRange e 3 16 0 25000000 ∧ ∀ x, policyField e 4 20 1 = some x → x ≤ 3

theorem policyField_forall (e : Entry) (i o n : Nat) (P : Nat → Prop) :
    (∀ x, policyField e i o n = some x → P x) ↔ natBit i (bodyField e 0 1) = false ∨ P (bodyField e o n) := by
  unfold policyField
  cases natBit i (bodyField e 0 1) <;> simp

theorem policyInRange_iff (e : Entry) :
    (((policyFields e).filter fun f => natBit f.1 (bodyField e 0 1)).all fun f => timerOk f.2.1 f.2.2) = true ↔ policyInRange e := by
  have hhold (x : Nat) : x = 0 ∨ (0 ≤ x ∧ x ≤ 25000000) ↔ x ≤ 25000000 := by omega
  simp only [policyInRange, timerInRange, policyField_forall, hhold]
  simp [policyFields, List.all_filter, timerOk]

/-- Fields that are set one by one are set in the policy alone. -/
theorem setTimers_put (l : List (Nat × TimerField × Nat)) (s : State) :
    l.foldl (fun t f => setTimer f.2.1 (BitVec.ofNat 32 f.2.2) t) s =
      { s with kp := { s.kp with policy := l.foldl (fun p f => p.put f.2.1 (BitVec.ofNat 32 f.2.2)) s.kp.policy } } := by
  induction l generalizing s with
  | nil => rfl
  | cons f l ih => exact ih _

theorem policy_ext {p r : Policy} (hdoze : p.dozeAfter = r.dozeAfter) (hnap : p.napAfter = r.napAfter)
    (hdeep : p.deepAfter = r.deepAfter) (hhold : p.heraldHold = r.heraldHold) (hfloor : p.floor = r.floor) : p = r := by
  cases p
  cases r
  simp_all

/-- The fields that VALID names are set, and the others stay. -/
theorem policyFields_put (e : Entry) (p : Policy) :
    ((policyFields e).filter fun f => natBit f.1 (bodyField e 0 1)).foldl (fun p f => p.put f.2.1 (BitVec.ofNat 32 f.2.2)) p =
      policyAfter e p := by
  simp only [policyFields, List.foldl_filter, List.foldl_cons, List.foldl_nil, policyAfter, policyWord_eq, policyFloor_eq]
  apply policy_ext
  · simp [apply_ite Policy.dozeAfter, Policy.put]
  · simp [apply_ite Policy.napAfter, Policy.put]
  · simp [apply_ite Policy.deepAfter, Policy.put]
  · simp [apply_ite Policy.heraldHold, Policy.put]
  · simp [apply_ite Policy.floor, Policy.put]

section
variable {q : BitVec 6} {e : Entry} {s : State} (h : s.AtHead q e) (hop : entOpcode e = 0x03)
  (hres : noReserved [(0, 5), (4, 32), (8, 32), (12, 32), (16, 32), (20, 8)] e = true)
include h hop hres

theorem powerPolicy_sets (hok : policyInRange e) : Machine.exec (.powerPolicy q e) s =
    .next (endEntry q e stOK { popHead q s with kp := { s.kp with policy := policyAfter e s.kp.policy } }) := by
  refine row_ends rfl (by simp [hop]) h (by rw [hop]; rfl) hres ((if_pos ((policyInRange_iff e).2 hok)).trans ?_)
  rw [setTimers_put, policyFields_put, popHead_kp]

theorem powerPolicy_refuses (hbad : ¬policyInRange e) :
    Machine.exec (.powerPolicy q e) s = .next (endEntry q e stBadDesc (popHead q s)) :=
  row_ends rfl (by simp [hop]) h (by rw [hop]; rfl) hres (if_neg (by rwa [policyInRange_iff]))

end

/-! ## IDENT -/

section
variable {q : BitVec 6} {e : Entry} {s : State} (h : s.AtHead q e) (hop : entOpcode e = 0x01) (hres : noReserved [(0, 64)] e = true)
include h hop hres

theorem ident_unaligned (hdest : bodyField e 0 8 % 64 ≠ 0) :
    Machine.exec (.ident q e) s = .next (endEntry q e stBadDesc (popHead q s)) :=
  row_ends rfl (by simp [hop]) h (by rw [hop]; rfl) hres (if_pos hdest)

/-- 05:R133: the record goes to DEST. -/
theorem ident_writes (hdest : bodyField e 0 8 % 64 = 0) : Machine.exec (.ident q e) s =
    .next (endResult q e (s.boot.fwVersion.setWidth 64) (busWrite (bodyField e 0 8) (identRecord s) (popHead q s))) := by
  have hrecord : identRecord (popHead q s) = identRecord s := by
    obtain ⟨l, hl⟩ := popHead_frame q s
    rw [hl]
    rfl
  refine row_results rfl (by simp [hop]) h (by rw [hop]; rfl) hres ((if_neg (by simp [hdest])).trans ?_)
    (by rw [busWrite_page]) ((busMaster_of_lasting (busWrite_lasting ..)).trans (by simp))
  rw [hrecord, popHead_boot]

end

/-- Settles O25: IDENT by the alignment of DEST, CONFIG_SET by its item, what it may change and what becomes of the store (log 94),
POWER_POLICY by the range of its fields. -/
theorem identConfigPolicy : Obligations.IdentConfigPolicy := by
  unfold Obligations.IdentConfigPolicy
  intro q e s h u
  refine ⟨fun hop hres => ident_writes h hop hres, fun hop hres => ident_unaligned h hop hres, fun hop hres hitem hstore => ?_,
    fun hop hres => configSet_item h hop hres, fun hop hres hstore hval hmaps hquiet => ?_,
    fun hop hres hitem hmap => configSet_refuses h hop hres (.inr ⟨hitem, hmap⟩),
    fun hop hres => ⟨powerPolicy_sets h hop hres, powerPolicy_refuses h hop hres⟩⟩
  all_goals have hplain : natBit 0 (bodyField e 2 1) = false := by rw [hstore]; rfl
  · exact configSet_chunkTimeout h hop hres hitem hplain
  · exact ⟨configSet_coord h hop hres hplain hval hmaps hquiet, configSet_dims h hop hres hplain hval hmaps hquiet⟩

end Sys2Proof.Proofs

/-! WINDOW_MAP, WINDOW_UNMAP, RANKMAP_LOAD and RANKMAP_PATCH (05:R137 to R140): the bounds of a window, what a window that is unmapped
leaves of the lookup, the maps, and O26 from them. -/

namespace Sys2Proof.Proofs

open Sys2Proof Sys2Proof.Machine Sys2Proof.Laws

/-! ## WINDOW_MAP -/

theorem popHead_freeWindow (q : BitVec 6) (s : State) : freeWindow (popHead q s) = freeWindow s := by
  simp only [freeWindow, popHead_wins, popHead_cmds]

/-- The bounds that WINDOW_MAP takes: aligned, inside accelerator space, and apart from every open window (05:R137). -/
def windowFits (e : Entry) (s : State) : Prop :=
  bodyField e 0 8 % 4096 = 0 ∧ bodyField e 8 8 % 4096 = 0 ∧ bodyField e 16 8 % 4096 = 0 ∧ 4096 ≤ bodyField e 16 8 ∧
    bodyField e 0 8 + bodyField e 16 8 ≤ 2 ^ 44 ∧
    ∀ w ∈ s.wins, w.closing = false → ¬(w.offset < bodyField e 0 8 + bodyField e 16 8 ∧ bodyField e 0 8 < w.offset + w.len)

/-- The window that WINDOW_MAP registers. -/
def mappedWindow (e : Entry) (i : BitVec 10) : Window :=
  { id := i, offset := bodyField e 0 8, bus := bodyField e 8 8, len := bodyField e 16 8, perm := BitVec.ofNat 4 (bodyField e 24 1)
    closing := false }

theorem windowFits_iff {e : Entry} {s : State} (hlen : ∀ w ∈ s.wins, 0 < w.len) :
    (decide (bodyField e 0 8 % 4096 ≠ 0) || decide (bodyField e 8 8 % 4096 ≠ 0) || decide (bodyField e 16 8 % 4096 ≠ 0) ||
      decide (bodyField e 16 8 = 0) || decide (2 ^ 44 < bodyField e 0 8 + bodyField e 16 8) ||
      s.wins.any fun w => !w.closing && overlaps w.offset (bodyField e 0 8) w.len (bodyField e 16 8)) = true ↔ ¬windowFits e s := by
  unfold windowFits
  generalize bodyField e 0 8 = o
  generalize bodyField e 8 8 = a
  generalize bodyField e 16 8 = n
  have hmeets (hn : n ≠ 0) : (s.wins.any fun w => !w.closing && overlaps w.offset o w.len n) = true ↔
      ¬∀ w ∈ s.wins, w.closing = false → ¬(w.offset < o + n ∧ o < w.offset + w.len) := by
    simp only [List.any_eq_true, overlaps]
    push Not
    refine exists_congr fun w => and_congr_right fun hw => ?_
    have hpos := hlen w hw
    simp [hpos, Nat.pos_of_ne_zero hn]
  have hbounds : ((((o % 4096 ≠ 0 ∨ a % 4096 ≠ 0) ∨ n % 4096 ≠ 0) ∨ n = 0) ∨ 2 ^ 44 < o + n) ↔
      ¬(o % 4096 = 0 ∧ a % 4096 = 0 ∧ n % 4096 = 0 ∧ 4096 ≤ n ∧ o + n ≤ 2 ^ 44) := by omega
  simp only [Bool.or_eq_true, decide_eq_true_eq]
  by_cases hn : n = 0
  · simp [hn]
  · rw [hbounds, hmeets hn, ← not_and_or]
    simp only [and_assoc]

section
variable {q : BitVec 6} {e : Entry} {s : State} (h : s.AtHead q e) (hop : entOpcode e = 0x05)
  (hres : noReserved [(0, 64), (8, 64), (16, 64), (24, 4)] e = true) (hlen : ∀ w ∈ s.wins, 0 < w.len)
include h hop hres hlen

theorem windowMap_refuses (hbad : ¬windowFits e s) : Machine.exec (.windowMap q e) s = .next (endEntry q e stBadDesc (popHead q s)) := by
  refine row_ends rfl (by simp [hop]) h (by rw [hop]; rfl) hres (if_pos ?_)
  rwa [popHead_wins, windowFits_iff hlen]

variable (hfits : windowFits e s)
include hfits

theorem windowMap_full (hfull : freeWindow s = none) :
    Machine.exec (.windowMap q e) s = .next (endEntry q e stLimit (popHead q s)) := by
  refine row_ends rfl (by simp [hop]) h (by rw [hop]; rfl) hres ((if_neg ?_).trans ?_)
  · rw [popHead_wins, windowFits_iff hlen, not_not]
    exact hfits
  · rw [popHead_freeWindow, hfull]

theorem windowMap_maps {i : BitVec 10} (hfree : freeWindow s = some i) : Machine.exec (.windowMap q e) s =
    .next (endResult q e (i.setWidth 64) { popHead q s with wins := s.wins ++ [mappedWindow e i] }) := by
  refine row_results rfl (by simp [hop]) h (by rw [hop]; rfl) hres ((if_neg ?_).trans ?_)
  · rw [popHead_wins, windowFits_iff hlen, not_not]
    exact hfits
  · rw [popHead_freeWindow, hfree, popHead_wins]
    rfl

end

/-! ## WINDOW_UNMAP -/

/-- The open window of the WINDOW_ID that the entry names. -/
def namedWindow (e : Entry) (s : State) : Option Window := s.wins.find? fun w => !w.closing && w.id.toNat = bodyField e 0 4

/-- The windows with `w` closed. -/
def shutWindow (w : Window) (l : List Window) : List Window := l.map fun x => if x = w then { x with closing := true } else x

/-- A window that is still open is another one, and was there before. -/
theorem open_of_shutWindow {w v : Window} {l : List Window} (hv : v ∈ shutWindow w l) (hopen : v.closing = false) : v ∈ l ∧ v ≠ w := by
  obtain ⟨x, hx, hxv⟩ := List.mem_map.1 hv
  split at hxv
  · rw [← hxv] at hopen
    cases hopen
  · next hne =>
    subst hxv
    exact ⟨hx, hne⟩

/-- The lookup finds open windows (06:R158). -/
theorem windowOf_open {s : State} {o : Nat} {w : Window} (h : windowOf s o = some w) : w ∈ s.wins ∧ w.closing = false := by
  have hopen := List.find?_some h
  simp only [Bool.and_eq_true, Bool.not_eq_true'] at hopen
  obtain ⟨⟨hclosing, -⟩, -⟩ := hopen
  exact ⟨List.mem_of_find?_eq_some h, hclosing⟩

/-- The removals add no window. -/
theorem unmapKick_wins (s : State) : ∀ v ∈ (unmapKick s).wins, v ∈ s.wins := by
  unfold unmapKick
  extract_lets open_ s1
  have hs1 : lasting s1 = lasting s := by
    refine foldl_frame (π := lasting) fun t c => ?_
    split
    · split
      · rfl
      · exact endHeld_lasting ..
    · rfl
  have hwins : s1.wins = s.wins := (congrArg (fun x => x.2.1) hs1 :)
  intro v hv
  rw [← hwins]
  exact (List.mem_filter.1 hv).1

/-- 05:R138: a WINDOW_UNMAP alone, whose window nothing uses, ends, and closed windows go. -/
theorem unmapKick_alone {s : State} {c : Cmd} {o len : Nat} (hcmds : s.cmds = [c]) (hkind : c.kind = .windowUnmap o len)
    (hserving : s.ni.serving = []) (hctxs : s.ctxs = []) (hsaved : s.saved = []) :
    (unmapKick s).cmds = [] ∧ ∀ v ∈ (unmapKick s).wins, v.closing = false := by
  have hunused : windowInUse s o len = false := by simp [windowInUse, hctxs, hsaved, hserving, hcmds, hkind]
  unfold unmapKick
  extract_lets open_ s1
  have hs1 : s1 = endHeld c stOK 0 0 s := by simp [s1, hcmds, hkind, hunused]
  have hrest : unposted s1 = _ := hs1 ▸ endHeld_unposted c stOK 0 0 s
  have hnone : s1.cmds = [] := by
    rw [cmds_of_unposted hrest]
    simp [hcmds]
  refine ⟨hnone, fun v hv => ?_⟩
  have hgone : windowInUse s1 v.offset v.len = false := by
    simp [windowInUse, hnone, ctxs_of_unposted hrest, saved_of_unposted hrest, ni_of_unposted hrest, hctxs, hsaved, hserving]
  simpa [open_, hnone, hgone] using (List.mem_filter.1 hv).2

/-- The state in which the removals run: the window is closed, and its command started. -/
def unmapping (q : BitVec 6) (e : Entry) (w : Window) (s : State) : State :=
  addCmd q e (.windowUnmap w.offset w.len) { popHead q s with wins := shutWindow w s.wins }

section
variable {q : BitVec 6} {e : Entry} {s : State} (h : s.AtHead q e) (hop : entOpcode e = 0x06) (hres : noReserved [(0, 32)] e = true)
include h hop hres

theorem windowUnmap_refuses (hnone : namedWindow e s = none) :
    Machine.exec (.windowUnmap q e) s = .next (endEntry q e stBadDesc (popHead q s)) := by
  refine row_ends rfl (by simp [hop]) h (by rw [hop]; rfl) hres ?_
  rw [popHead_wins]
  rw [namedWindow] at hnone
  rw [hnone]

theorem windowUnmap_runs {w : Window} (hw : namedWindow e s = some w) :
    Machine.exec (.windowUnmap q e) s = .next (settleHead q (unmapKick (unmapping q e w s))) := by
  refine row_runs rfl (by simp [hop]) h (by rw [hop]; rfl) hres ?_
  rw [popHead_wins]
  rw [namedWindow] at hw
  rw [hw]
  rfl

end

/-! ## RANKMAP_LOAD -/

section
variable (q : BitVec 6) (s : State)

@[simp] theorem popHead_mapWords (n : Nat) (b : Bytes) : mapWords (popHead q s) n b = mapWords s n b := by
  obtain ⟨l, hl⟩ := popHead_frame q s
  rw [hl]
  rfl

@[simp] theorem popHead_mapLoadBad (e : Entry) : mapLoadBad e (popHead q s) = mapLoadBad e s := by
  simp only [mapLoadBad, mapUsed, popHead_comms]

end

/-- The bytes of the map, and the reads that bring them (05:R139). -/
def mapBytes (e : Entry) (s : State) : Bytes := busRead s (bodyField e 8 8) (4 * bodyField e 4 4)
def mapReads (e : Entry) (s : State) : List (Nat × Nat) := pieces s (bodyField e 8 8) (4 * bodyField e 4 4)

section
variable {q : BitVec 6} {e : Entry} {s : State} (h : s.AtHead q e) (hop : entOpcode e = 0x07)
  (hres : noReserved [(0, 8), (4, 32), (8, 64)] e = true)
include h hop hres

theorem rankmapLoad_refuses (hbad : mapLoadBad e s = true) :
    Machine.exec (.rankmapLoad q e) s = .next (useBus [] (endEntry q e stBadDesc (popHead q s))) :=
  read_ends rfl h (if_pos hbad) (by simp [hop]) (by rw [hop]; rfl) hres rfl (if_pos (by rwa [popHead_mapLoadBad]))

variable (hgood : mapLoadBad e s = false)
include hgood

theorem rankmapLoad_asks (hready : busReady (mapReads e s) s = false) :
    Machine.exec (.rankmapLoad q e) s = .next (askBus (mapReads e s) s) :=
  read_asks rfl h (if_neg (by simp [hgood])) (by simp [hop]) hres hready

variable (hready : busReady (mapReads e s) s = true)
include hready

/-- 05:R139: a word outside the torus refuses the load. -/
theorem rankmapLoad_outside (hwords : mapWords s (bodyField e 4 4) (mapBytes e s) = none) :
    Machine.exec (.rankmapLoad q e) s = .next (useBus (mapReads e s) (endEntry q e stBadDesc (popHead q s))) := by
  refine read_ends rfl h (if_neg (by simp [hgood])) (by simp [hop]) (by rw [hop]; rfl) hres hready ((if_neg (by simp [hgood])).trans ?_)
  rw [mapBytes] at hwords
  rw [popHead_busRead, popHead_mapWords, hwords]

/-- 05:R139: the map is replaced in full. -/
theorem rankmapLoad_loads {l : List Coord} (hwords : mapWords s (bodyField e 4 4) (mapBytes e s) = some l) :
    Machine.exec (.rankmapLoad q e) s =
      .next (useBus (mapReads e s) (endEntry q e stOK { popHead q s with maps := setAt (bodyField e 0 1) (some l) s.maps })) := by
  refine read_ends rfl h (if_neg (by simp [hgood])) (by simp [hop]) (by rw [hop]; rfl) hres hready ((if_neg (by simp [hgood])).trans ?_)
  rw [mapBytes] at hwords
  rw [popHead_busRead, popHead_mapWords, hwords, popHead_maps]

end

/-! ## RANKMAP_PATCH -/

/-- The coordinate words of a patch (05:R140). -/
def patchBytes (e : Entry) : Bytes := leBytes (4 * bodyField e 8 4) (bodyField e 16 (4 * bodyField e 8 4))

/-- The entries that a patch names lie on the loaded map. -/
def patchFits (e : Entry) (old : List Coord) : Prop :=
  1 ≤ bodyField e 8 4 ∧ bodyField e 8 4 ≤ 24 ∧ bodyField e 4 4 + bodyField e 8 4 ≤ old.length

/-- The map with the entries from FIRST on replaced. -/
def patchedMap (e : Entry) (old l : List Coord) : List Coord :=
  old.take (bodyField e 4 4) ++ l ++ old.drop (bodyField e 4 4 + bodyField e 8 4)

/-- A patch replaces its map, marks the communicators whose members it moves, and raises RANK_REMAP (06:R168, Table 6-5). -/
def patched (e : Entry) (old l : List Coord) (s : State) : State :=
  let m := bodyField e 0 1
  let first := bodyField e 4 4
  raiseEvent 0 8 (detailOf (remapDetail m first (bodyField e 8 4) (old.getD first 0) (l.headD 0)))
    { s with maps := setAt m (some (patchedMap e old l)) s.maps
             comms := s.comms.map fun c => if patchHits s m first l c then { c with patched := true } else c }

theorem patched_maps (e : Entry) (old l : List Coord) (s : State) :
    (patched e old l s).maps = setAt (bodyField e 0 1) (some (patchedMap e old l)) s.maps := maps_of_unposted (raiseEvent_unposted ..)

theorem patchFits_iff (e : Entry) (old : List Coord) : (decide (bodyField e 8 4 = 0) || decide (24 < bodyField e 8 4) ||
    decide (old.length < bodyField e 4 4 + bodyField e 8 4)) = true ↔ ¬patchFits e old := by
  simp only [patchFits, Bool.or_eq_true, decide_eq_true_eq]
  omega

section
variable {q : BitVec 6} {e : Entry} {s : State} (h : s.AtHead q e) (hop : entOpcode e = 0x08)
  (hres : noReserved [(0, 8), (4, 32), (8, 32), (16, 32 * min (bodyField e 8 4) 24)] e = true)
  {old : List Coord} (hmap : s.maps.getD (bodyField e 0 1) none = some old)
include h hop hres hmap

theorem rankmapPatch_refuses (hbad : ¬patchFits e old) :
    Machine.exec (.rankmapPatch q e) s = .next (endEntry q e stBadDesc (popHead q s)) := by
  refine row_ends rfl (by simp [hop]) h (by rw [hop]; rfl) hres ?_
  dsimp only
  rw [popHead_maps, hmap]
  exact if_pos ((patchFits_iff e old).2 hbad)

/-- 05:R140: the entries from FIRST on are replaced, and the others stay. -/
theorem rankmapPatch_patches (hfits : patchFits e old) {l : List Coord} (hwords : mapWords s (bodyField e 8 4) (patchBytes e) = some l) :
    Machine.exec (.rankmapPatch q e) s = .next (settleHead q (endEntry q e stOK (patched e old l (popHead q s)))) := by
  rw [patchBytes] at hwords
  refine row_runs rfl (by simp [hop]) h (by rw [hop]; rfl) hres ?_
  dsimp only
  rw [popHead_maps, hmap]
  refine (if_neg (by rw [patchFits_iff, not_not]; exact hfits)).trans ?_
  rw [popHead_mapWords, hwords, patched, popHead_maps]
  rfl

end

/-- Settles O26: the windows by their bounds and by who is left of them, the maps by their words. -/
theorem windowsAndRankmaps : Obligations.WindowsAndRankmaps := by
  unfold Obligations.WindowsAndRankmaps
  refine ⟨⟨?map, ?unmap⟩, ?load, ?patch⟩
  case map =>
    intro q e s h hop hres o a n ok hlen
    exact ⟨fun i hfits hfree => windowMap_maps h hop hres hlen hfits hfree, fun hfits hfull => windowMap_full h hop hres hlen hfits hfull,
      fun hbad => windowMap_refuses h hop hres hlen hbad⟩
  case unmap =>
    refine fun q e s h hop hres => ⟨fun hnone => ?_, fun w hw => ?_, fun w hw hcmds hserving hctxs hsaved => ?_⟩
    · refine windowUnmap_refuses h hop hres (List.find?_eq_none.2 fun w hw => ?_)
      cases hc : w.closing <;> simp [hnone w hw, hc]
    · refine ⟨_, windowUnmap_runs h hop hres hw, fun o _ _ v hv => ?_⟩
      obtain ⟨hmem, hopen⟩ := windowOf_open hv
      rw [wins_of_unposted (settleHead_unposted ..)] at hmem
      exact open_of_shutWindow (unmapKick_wins _ v hmem) hopen
    · obtain ⟨c, hc, hkind⟩ := addCmd_alone (s := { popHead q s with wins := shutWindow w s.wins }) ((popHead_cmds q s).trans hcmds) q e
        (.windowUnmap w.offset w.len)
      obtain ⟨hnone, hopen⟩ := unmapKick_alone (s := unmapping q e w s) hc hkind ((congrArg NI.serving (popHead_ni q s)).trans hserving)
        ((popHead_ctxs q s).trans hctxs) ((popHead_saved q s).trans hsaved)
      refine ⟨_, windowUnmap_runs h hop hres hw, ?_, fun hmem => ?_⟩
      · rw [cmds_of_unposted (settleHead_unposted ..), hnone]
      · rw [wins_of_unposted (settleHead_unposted ..)] at hmem
        obtain ⟨-, hother⟩ := open_of_shutWindow (unmapKick_wins _ w hmem) (hopen w hmem)
        exact hother rfl
  case load =>
    intro q e s h hop hres m n ps
    exact ⟨rankmapLoad_refuses h hop hres, rankmapLoad_asks h hop hres, rankmapLoad_outside h hop hres,
      fun l hgood hready hwords => rankmapLoad_loads h hop hres hgood hready hwords⟩
  case patch =>
    intro q e old l s h hop m first count hres hmap _ hwords
    refine ⟨fun hmin hmax hlen => ⟨_, rankmapPatch_patches h hop hres hmap ⟨hmin, hmax, hlen⟩ hwords, ?_⟩,
      fun hbad => rankmapPatch_refuses h hop hres hmap ?_⟩
    · rw [maps_of_unposted (settleHead_unposted ..), maps_of_unposted (endEntry_unposted ..), patched_maps, popHead_maps]
      rfl
    · rintro ⟨hmin, hmax, hlen⟩
      omega

end Sys2Proof.Proofs

/-! DRAIN, its release and ROUTE_UPDATE (05:R142, R143; 08:R225 to R227): which communicators are marked, what becomes of a DRAIN that
nothing holds, the banks of exceptions, and O28 from them. -/

namespace Sys2Proof.Proofs

open Sys2Proof Sys2Proof.Machine Sys2Proof.Laws

section
variable (q : BitVec 6) (h : W32) (s : State)

@[simp] theorem popHead_named : named h (popHead q s) = named h s := by
  obtain ⟨l, hl⟩ := popHead_frame q s
  rw [hl]
  rfl

@[simp] theorem popHead_routeBad (e : Entry) : routeBad e (popHead q s) = routeBad e s := by
  simp only [routeBad, popHead_named]

@[simp] theorem popHead_bankServes : bankServes (popHead q s) = bankServes s := by
  simp only [bankServes, popHead_ni]

end

/-! ## The communicators that a handle names -/

/-- COMM_HANDLE of DRAIN and ROUTE_UPDATE. -/
abbrev namedHandle (e : Entry) : W32 := BitVec.ofNat 32 (bodyField e 0 4)

/-- COMM_HANDLE names every communicator, or one that contains this node. -/
def handleNamed (e : Entry) (s : State) : Prop :=
  namedHandle e = 0xFFFFFFFF ∨ named (namedHandle e) s ≠ []

theorem handleNamed_iff (e : Entry) (s : State) : (decide (namedHandle e ≠ 0xFFFFFFFF) &&
    (named (namedHandle e) s).isEmpty) = true ↔ ¬handleNamed e s := by
  simp [handleNamed]

/-- The entry of a handle that names a communicator passes the check once its command runs. -/
theorem named_passes {e : Entry} {s : State} (hnamed : handleNamed e s) (q : BitVec 6) :
    ¬(decide (namedHandle e ≠ 0xFFFFFFFF) && (named (namedHandle e) (popHead q s)).isEmpty) = true := by
  rwa [popHead_named, handleNamed_iff, not_not]

/-- The named communicators get the mark, and the others keep theirs. -/
theorem markDrained_comms (h : W32) (on : Bool) (s : State) : (markDrained h on s).comms.length = s.comms.length ∧
    ∀ (i : Nat) c, s.comms[i]? = some c →
      ((∃ d ∈ named h s, d.handle = c.handle) → (markDrained h on s).comms[i]? = some { c with drained := on }) ∧
      ((¬∃ d ∈ named h s, d.handle = c.handle) → (markDrained h on s).comms[i]? = some c) := by
  have hmem (c : Comm) : ((named h s).map fun d => d.handle).contains c.handle = true ↔ ∃ d ∈ named h s, d.handle = c.handle := by simp
  refine ⟨by simp [markDrained], fun i c hc => ?_⟩
  simp only [markDrained, List.getElem?_map, hc, Option.map_some, Option.some.injEq]
  exact ⟨fun hhit => if_pos ((hmem c).2 hhit), fun hmiss => if_neg (hmiss ∘ (hmem c).1)⟩

/-! ## DRAIN -/

/-- 08:R227: a round with no node to send a marker to is over at once. -/
theorem startRound_nobody {s : State} (hsent : s.ni.sentTo = []) (hopen : s.ni.rounds = []) (epoch : Bool) :
    (startRound epoch s).2 = { s with ni := { s.ni with nextRound := s.ni.nextRound + 1, sentTo := [], rounds := [] } } := by
  simp [startRound, hsent, hopen]

/-- Without commands the removals reach the windows alone. -/
theorem unmapKick_idle {s : State} (h : s.cmds = []) : ∃ l, unmapKick s = { s with wins := l } := by
  unfold unmapKick
  extract_lets open_ s1
  have hs1 : s1 = s := by rw [show s1 = s.cmds.foldl _ s from rfl, h, List.foldl_nil]
  rw [hs1]
  exact ⟨_, rfl⟩

theorem destroyKick_idle {s : State} (h : s.cmds = []) : destroyKick s = s := by
  rw [destroyKick, h, List.foldl_nil]

/-- 05:R142: a DRAIN alone on a node without collectives and without packets that need a marker ends, and leaves the communicators. -/
theorem drainKick_alone {s : State} {c : Cmd} {h : W32} (hcmds : s.cmds = [c]) (hkind : c.kind = .drain h none) (hctxs : s.ctxs = [])
    (hsaved : s.saved = []) (hsent : s.ni.sentTo = []) (hopen : s.ni.rounds = []) :
    (drainKick s).cmds = [] ∧ (drainKick s).comms = s.comms := by
  have hbusy : drainBusy s h = false := by simp [drainBusy, hctxs, hsaved]
  have hround := startRound_nobody hsent hopen s.ni.epoch
  have hends : drainsKick s = endHeld c stOK 0 0 (startRound s.ni.epoch s).2 := by
    simp [drainsKick, hcmds, hkind, hbusy, hround]
  generalize (startRound s.ni.epoch s).2 = v at hround hends
  have hrest := endHeld_unposted c stOK 0 0 v
  have hnone : (drainsKick s).cmds = [] := by
    rw [hends, cmds_of_unposted hrest]
    simp [hround, hcmds]
  have hsame : (drainsKick s).comms = s.comms := by rw [hends, comms_of_unposted hrest, hround]
  obtain ⟨l, hl⟩ := unmapKick_idle hnone
  have hlast : destroyKick { drainsKick s with wins := l } = { drainsKick s with wins := l } := destroyKick_idle hnone
  rw [drainKick, hl, hlast]
  exact ⟨hnone, hsame⟩

/-- What the entry of a DRAIN row does once it starts (05:R142). -/
def drainRun (q : BitVec 6) (e : Entry) (release : Bool) (s : State) : Option State :=
  if 1 < bodyField e 4 1 then some (endEntry q e stBadDesc s)
  else if namedHandle e ≠ 0xFFFFFFFF && (named (namedHandle e) s).isEmpty
  then some (endEntry q e stNoComm s)
  else if release then some (endEntry q e stOK (markDrained (namedHandle e) false s))
  else some (drainKick (addCmd q e (.drain (namedHandle e) none) (markDrained (namedHandle e) true s)))

theorem drain_exec (q : BitVec 6) (e : Entry) : Machine.exec (.drain q e) =
    fun s => live s (octozRow q e (entOpcode e = 0x0B && bodyField e 4 1 ≠ 1) [(0, 32), (4, 8)] (drainRun q e false)) := rfl

theorem drainRelease_exec (q : BitVec 6) (e : Entry) : Machine.exec (.drainRelease q e) =
    fun s => live s (octozRow q e (entOpcode e = 0x0B && bodyField e 4 1 = 1) [(0, 32), (4, 8)] (drainRun q e true)) := rfl

section
variable {q : BitVec 6} {e : Entry} {s : State} (h : s.AtHead q e) (hop : entOpcode e = 0x0B) (hres : noReserved [(0, 32), (4, 8)] e = true)
include h hop hres

theorem drain_reservedMode (hmode : 1 < bodyField e 4 1) : Machine.exec (.drain q e) s = .next (endEntry q e stBadDesc (popHead q s)) :=
  row_ends (drain_exec q e) (by simp [hop]; omega) h (by rw [hop]; rfl) hres (if_pos hmode)

theorem drain_noComm (hmode : bodyField e 4 1 = 0) (hnone : ¬handleNamed e s) :
    Machine.exec (.drain q e) s = .next (endEntry q e stNoComm (popHead q s)) := by
  refine row_ends (drain_exec q e) (by simp [hop, hmode]) h (by rw [hop]; rfl) hres ?_
  exact (if_neg (by simp [hmode])).trans (if_pos (by rwa [popHead_named, handleNamed_iff]))

/-- 05:R142: a DRAIN that nothing holds marks the named communicators, and is over in its own step. -/
theorem drain_ends (hmode : bodyField e 4 1 = 0) (hnamed : handleNamed e s) (hctxs : s.ctxs = []) (hsaved : s.saved = [])
    (hcmds : s.cmds = []) (hsent : s.ni.sentTo = []) (hopen : s.ni.rounds = []) :
    ∃ t, Machine.exec (.drain q e) s = .next t ∧ t.cmds = [] ∧
      t.comms = (markDrained (namedHandle e) true s).comms := by
  have hrun : drainRun q e false (popHead q s) = some (drainKick (addCmd q e (.drain (namedHandle e) none)
      (markDrained (namedHandle e) true (popHead q s)))) :=
    (if_neg (by simp [hmode])).trans (if_neg (named_passes hnamed q))
  obtain ⟨c, hc, hkind⟩ := addCmd_alone (s := markDrained (namedHandle e) true (popHead q s)) ((popHead_cmds q s).trans hcmds) q e
    (.drain (namedHandle e) none)
  obtain ⟨hover, hmarks⟩ := drainKick_alone hc hkind ((popHead_ctxs q s).trans hctxs) ((popHead_saved q s).trans hsaved)
    ((congrArg NI.sentTo (popHead_ni q s)).trans hsent) ((congrArg NI.rounds (popHead_ni q s)).trans hopen)
  refine ⟨_, row_runs (drain_exec q e) (by simp [hop, hmode]) h (by rw [hop]; rfl) hres hrun, ?_, ?_⟩
  · rw [cmds_of_unposted (settleHead_unposted ..), hover]
  · rw [comms_of_unposted (settleHead_unposted ..), hmarks]
    simp [addCmd, markDrained]

/-- 05:R142: the release ends in its own step. -/
theorem drainRelease_ends (hmode : bodyField e 4 1 = 1) (hnamed : handleNamed e s) :
    ∃ t, Machine.exec (.drainRelease q e) s = .next t ∧ t.comms = (markDrained (namedHandle e) false s).comms := by
  have hrun : drainRun q e true (popHead q s) =
      some (endEntry q e stOK (markDrained (namedHandle e) false (popHead q s))) :=
    (if_neg (by simp [hmode])).trans (if_neg (named_passes hnamed q))
  refine ⟨_, row_runs (drainRelease_exec q e) (by simp [hop, hmode]) h (by rw [hop]; rfl) hres hrun, ?_⟩
  rw [comms_of_unposted (settleHead_unposted ..), comms_of_unposted (endEntry_unposted ..)]
  simp [markDrained]

end

/-! ## ROUTE_UPDATE -/

/-- The entries that ROUTE_UPDATE brings (05:R143). -/
def routeWords (e : Entry) (s : State) : List W64 :=
  (List.range (bodyField e 4 2)).map fun i =>
    BitVec.ofNat 64 (fieldAt (8 * i) 8 (busRead s (bodyField e 8 8) (8 * bodyField e 4 2)))

/-- The banks afterwards: the one that the current epoch does not select holds the entries. -/
def routedBanks (e : Entry) (s : State) : Router :=
  if s.ni.epoch then { s.rt with bank0 := routeWords e s } else { s.rt with bank1 := routeWords e s }

/-- The reads that bring the entries. -/
def routeReads (e : Entry) (s : State) : List (Nat × Nat) := pieces s (bodyField e 8 8) (8 * bodyField e 4 2)

section
variable {q : BitVec 6} {e : Entry} {s : State} (h : s.AtHead q e) (hop : entOpcode e = 0x0C)
  (hres : noReserved [(0, 32), (4, 16), (6, 1), (8, 64)] e = true) (hnamed : handleNamed e s)
include h hop hres hnamed

theorem routeUpdate_refuses (hbad : routeBad e s = true) :
    Machine.exec (.routeUpdate q e) s = .next (useBus [] (endEntry q e stBadDesc (popHead q s))) :=
  read_ends rfl h (if_pos hbad) (by simp [hop]) (by rw [hop]; rfl) hres rfl
    ((if_neg (named_passes hnamed q)).trans (if_pos (by rwa [popHead_routeBad])))

variable (hgood : routeBad e s = false) (hready : busReady (routeReads e s) s = true)
include hgood hready

/-- 05:R143: the bank that an open round still uses is not written. -/
theorem routeUpdate_waits (hserves : bankServes s = true) : Machine.exec (.routeUpdate q e) s = .next s := by
  refine read_waits rfl h (if_neg (by simp [hgood])) (by simp [hop]) (by rw [hop]; rfl) hres hready ?_
  refine (if_neg (named_passes hnamed q)).trans ((if_neg (by simp [hgood])).trans (if_pos ?_))
  rwa [popHead_bankServes]

variable (hfree : bankServes s = false) (hwords : (routeWords e s).all routeWordOk = true)
include hfree hwords

/-- 05:R143: without FLIP the bank is written, and nothing else. -/
theorem routeUpdate_writes (hflip : natBit 0 (bodyField e 6 1) = false) : Machine.exec (.routeUpdate q e) s =
    .next (useBus (routeReads e s) (endEntry q e stOK { popHead q s with rt := routedBanks e s })) := by
  refine read_ends rfl h (if_neg (by simp [hgood])) (by simp [hop]) (by rw [hop]; rfl) hres hready ?_
  refine (if_neg (named_passes hnamed q)).trans ((if_neg (by simp [hgood])).trans ((if_neg (by simp [hfree])).trans ?_))
  rw [routeWords] at hwords
  simp only [popHead_busRead, popHead_ni, popHead_rt, hwords, hflip]
  rfl

/-- 05:R143, 08:R226: with FLIP the bank is written and the epoch changes; the round of a node that has sent no packets is over
at once. -/
theorem routeUpdate_flips (hflip : natBit 0 (bodyField e 6 1) = true) (hsent : s.ni.sentTo = []) (hopen : s.ni.rounds = []) :
    ∃ n, Machine.exec (.routeUpdate q e) s = .next (useBus (routeReads e s) (endEntry q e stOK { popHead q s with
      rt := routedBanks e s, ni := { s.ni with epoch := !s.ni.epoch, nextRound := n, sentTo := [], rounds := [] } })) := by
  refine ⟨s.ni.nextRound + 1, ?_⟩
  refine read_ends rfl h (if_neg (by simp [hgood])) (by simp [hop]) (by rw [hop]; rfl) hres hready ?_
  refine (if_neg (named_passes hnamed q)).trans ((if_neg (by simp [hgood])).trans ((if_neg (by simp [hfree])).trans ?_))
  rw [routeWords] at hwords
  simp only [popHead_busRead, popHead_ni, popHead_rt, hwords, hflip]
  refine congrArg (fun u => some (endEntry q e stOK u)) ((if_pos trivial).trans (startRound_nobody ?_ ?_ s.ni.epoch))
  · exact hsent
  · exact hopen

end

/-- Settles O28: DRAIN by its mode and handle, its release by the marks that it clears, ROUTE_UPDATE by what stands against the write of
the bank that the epoch does not select. -/
theorem drainAndRoutes : Obligations.DrainAndRoutes := by
  unfold Obligations.DrainAndRoutes
  refine ⟨fun q e s h hop hres => ?_, fun q e s h hop hres => ?_⟩
  · intro k hit
    refine ⟨fun hmode hall hnone => drain_noComm h hop hres hmode (not_or.2 ⟨hall, not_not.2 hnone⟩), drain_reservedMode h hop hres,
      fun hmode hnamed hctxs hsaved hcmds hsent hopen => ?_, fun hmode hnamed => ?_⟩
    · obtain ⟨t, hexec, hover, hcomms⟩ := drain_ends h hop hres hmode hnamed hctxs hsaved hcmds hsent hopen
      refine ⟨t, hexec, hover, ?_⟩
      rw [hcomms]
      exact markDrained_comms k true s
    · obtain ⟨t, hexec, hcomms⟩ := drainRelease_ends h hop hres hmode hnamed
      refine ⟨t, hexec, ?_⟩
      rw [hcomms]
      exact markDrained_comms k false s
  · intro k n ps words hnamed
    refine ⟨fun hbusy => routeUpdate_refuses h hop hres hnamed ?_, routeUpdate_waits h hop hres hnamed,
      routeUpdate_writes h hop hres hnamed, fun hgood hready hfree hwords hflip hsent hopen => ?_⟩
    · obtain ⟨c, hc, hundrained⟩ := hbusy
      simp only [routeBad, Bool.or_eq_true, List.any_eq_true]
      exact .inr ⟨c, hc, by rw [hundrained]; rfl⟩
    · obtain ⟨n, hexec⟩ := routeUpdate_flips h hop hres hnamed hgood hready hfree hwords hflip hsent hopen
      refine ⟨_, hexec, ?_, ?_⟩
      · rw [useBus_ni, ni_of_unposted (endEntry_unposted ..)]
      · rw [useBus_rt, rt_of_unposted (endEntry_unposted ..)]
        rfl

end Sys2Proof.Proofs

/-! Memory and traffic: the writes of memory neither read nor change the NI, the router and the started commands, and which
PCI Express reads a range of memory needs does not depend on them. -/

namespace Sys2Proof.Proofs

open Sys2Proof Sys2Proof.Machine Sys2Proof.Laws

/-- The state with another NI, router and list of started commands. -/
def withTraffic (n : NI) (r : Router) (cs : List Cmd) (s : State) : State := { s with ni := n, rt := r, cmds := cs }

/-- The function neither reads nor changes the NI, the router and the started commands. -/
def ApartFromTraffic (f : State → State) : Prop := ∀ n r cs s, f (withTraffic n r cs s) = withTraffic n r cs (f s)

namespace ApartFromTraffic

variable {f g : State → State}

theorem comp (hg : ApartFromTraffic g) (hf : ApartFromTraffic f) : ApartFromTraffic fun s => g (f s) :=
  fun n r cs s => (congrArg g (hf n r cs s)).trans (hg n r cs (f s))

theorem foldl {α : Type} {f : State → α → State} (hf : ∀ x, ApartFromTraffic (f · x)) (l : List α) :
    ApartFromTraffic (l.foldl f ·) := by
  induction l with
  | nil => exact fun _ _ _ _ => rfl
  | cons x l ih => exact comp (f := (f · x)) ih (hf x)

/-- It keeps the NI, as the state with its own traffic is the state itself. -/
theorem ni (hf : ApartFromTraffic f) (s : State) : (f s).ni = s.ni := (congrArg State.ni (hf s.ni s.rt s.cmds s) :)

end ApartFromTraffic

/-! ## Writes -/

theorem stgWrite_apart (o : Nat) (bs : Bytes) : ApartFromTraffic (stgWrite o bs) := by
  induction bs generalizing o with
  | nil => exact fun _ _ _ _ => rfl
  | cons x l ih => exact fun n r cs s => ih (o + 1) n r cs (stgWrite o [x] s)

theorem tmWriteByte_apart (b : Nat) (x : Byte) : ApartFromTraffic (tmWriteByte b x) := fun n r cs s => by
  unfold tmWriteByte
  rw [apply_ite (withTraffic n r cs)]
  rfl

theorem tmWriteGo_apart (o : Nat) (bs : Bytes) : ApartFromTraffic (tmWriteGo o bs) := by
  induction bs generalizing o with
  | nil => exact fun _ _ _ _ => rfl
  | cons x l ih =>
    intro n r cs s
    unfold tmWriteGo
    rw [show interleave (withTraffic n r cs s) o = interleave s o from rfl, tmWriteByte_apart, ih]

theorem tmWrite_apart (o : Nat) (bs : Bytes) : ApartFromTraffic (tmWrite o bs) := fun n r cs s => by
  unfold tmWrite
  rw [tmWriteGo_apart]
  rfl

theorem busSend_apart (relaxed poisoned : Bool) (a : Nat) (bs : Bytes) : ApartFromTraffic (busSend relaxed poisoned a bs) :=
  fun n r cs s => by
  unfold busSend
  rw [apply_ite (withTraffic n r cs)]
  rfl

theorem accelRangesGo_withTraffic (n : NI) (r : Router) (cs : List Cmd) (s : State) (k o : Nat) (bs : Bytes) :
    accelRangesGo (withTraffic n r cs s) k o bs = accelRangesGo s k o bs := by
  induction k generalizing o bs with
  | zero => rfl
  | succ k ih =>
    unfold accelRangesGo
    simp only [ih]
    rfl

theorem accelWrite_apart (poisoned : Bool) (o : Nat) (bs : Bytes) : ApartFromTraffic (accelWrite poisoned o bs) := fun n r cs s => by
  unfold accelWrite
  rw [accelRanges, accelRangesGo_withTraffic]
  exact ApartFromTraffic.foldl (f := fun t (x : Nat × Bytes) => busSend t.host.relaxed poisoned x.1 x.2 t)
    (fun x m v ds t => busSend_apart t.host.relaxed poisoned x.1 x.2 m v ds t) _ n r cs s

theorem localWrite_apart (a : W64) (bs : Bytes) : ApartFromTraffic (localWrite a bs) := fun n r cs s => by
  unfold localWrite
  extract_lets o
  split
  · exact stgWrite_apart o bs n r cs s
  · exact tmWrite_apart o bs n r cs s
  · exact accelWrite_apart false o bs n r cs s
  · rfl

theorem localWritePoison_apart (a : W64) (bs : Bytes) : ApartFromTraffic (localWritePoison a bs) := fun n r cs s => by
  unfold localWritePoison
  rw [localWrite_apart]
  simp only [accelRanges, accelRangesGo_withTraffic, accelWrite_apart true _ bs n r cs s]
  split <;> rfl

theorem armedElems_apart (x : Armed) (o : Nat) (bs : Bytes) (k i : Nat) : ApartFromTraffic (armedElems x o bs k i) := by
  induction k generalizing i with
  | zero => exact fun _ _ _ _ => rfl
  | succ k ih =>
    intro n r cs s
    unfold armedElems
    extract_lets z top v s1 v' s1'
    have hs1 : s1 = withTraffic n r cs s1' := by
      unfold s1 s1'
      rw [apply_ite (withTraffic n r cs), tmWrite_apart, tmWrite_apart]
      rfl
    rw [hs1, ih]

theorem tmStore_apart (o : Nat) (bs : Bytes) : ApartFromTraffic (tmStore o bs) := fun n r cs s => by
  unfold tmStore
  rw [show (withTraffic n r cs s).tm = s.tm from rfl]
  split
  · exact tmWrite_apart o bs n r cs s
  · exact armedElems_apart _ o bs _ _ n r cs s

theorem storeBytes_apart (a : W64) (bs : Bytes) (poison : Bool) : ApartFromTraffic (storeBytes a bs poison) := fun n r cs s => by
  unfold storeBytes
  rw [tmStore_apart, localWritePoison_apart, localWrite_apart]
  split
  · cases poison <;> rfl
  · cases poison <;> rfl

/-! ## The PCI Express reads of a range -/

section
variable (n : NI) (r : Router) (cs : List Cmd) (s : State)

theorem accelPiecesGo_withTraffic (k o m : Nat) : accelPiecesGo (withTraffic n r cs s) k o m = accelPiecesGo s k o m := by
  induction k generalizing o m with
  | zero => rfl
  | succ k ih =>
    unfold accelPiecesGo
    simp only [ih]
    rfl

theorem localPieces_withTraffic (a : W64) (m : Nat) : localPieces (withTraffic n r cs s) a m = localPieces s a m := by
  unfold localPieces
  rw [accelPiecesGo_withTraffic]
  rfl

end

end Sys2Proof.Proofs

/-! Packets of streams (06:R160; 08:R210, R215 to R218): what a packet that goes at once adds, what counting an accepted packet
changes, and the row of a packet that the NI takes when nothing waits. -/

namespace Sys2Proof.Proofs

open Sys2Proof Sys2Proof.Machine Sys2Proof.Laws

/-! ## The records of streams -/

section
variable (s : State)

@[simp] theorem rxOf_src (c : Coord) : (rxOf s c).src = c := by
  unfold rxOf
  cases h : s.ni.rx.find? fun r => r.src = c with
  | none => rfl
  | some r => simpa using List.find?_some h

@[simp] theorem txOf_dst (c : Coord) : (txOf s c).dst = c := by
  unfold txOf
  cases h : s.ni.tx.find? fun t => t.dst = c with
  | none => rfl
  | some t => simpa using List.find?_some h

theorem rxOf_setRx {r : RxStream} {c : Coord} (h : r.src = c) : rxOf (setRx r s) c = r := by simp [rxOf, setRx, h]

theorem txOf_setTx {t : TxStream} {c : Coord} (h : t.dst = c) : txOf (setTx t s) c = t := by simp [txOf, setTx, h]

end

/-- A packet that the NI takes leaves its record with the same source. -/
theorem rxCase_take_src {now : Nat} {r r' : RxStream} {p : Packet} (h : rxCase now r p = .take r') : r'.src = r.src := by
  unfold rxCase rxInside at h
  split at h
  · cases h; rfl
  · split at h
    · cases h; rfl
    · dsimp only at h
      split at h
      · cases h
      · split at h
        · split at h
          · cases h
          · cases h; rfl
        · cases h

/-- What is apart from traffic does the same once the record of a source is written. -/
theorem ApartFromTraffic.setRx {f : State → State} (hf : ApartFromTraffic f) (r : RxStream) (s : State) :
    f (Machine.setRx r s) = withTraffic (Machine.setRx r s).ni s.rt s.cmds (f s) := hf (Machine.setRx r s).ni s.rt s.cmds s

theorem localPieces_setRx (r : RxStream) (s : State) (a : W64) (n : Nat) : localPieces (setRx r s) a n = localPieces s a n :=
  localPieces_withTraffic (setRx r s).ni s.rt s.cmds s a n

/-! ## A packet that goes at once -/

/-- An unflagged packet as its stream numbers it (08:R215, R216, R226, R227). -/
def numbered (p : Packet) (s : State) : Packet :=
  { p with seq := (txOf s p.dest).next, sync := (txOf s p.dest).fresh, epoch := if p.kind = 0xE then p.epoch else s.ni.epoch, prior := 0 }

/-- A stream in which one unflagged packet waits, and which has room for it, sends it. -/
theorem txPump_one {p : Packet} {s : State} (hwait : (txOf s p.dest).waiting = [p]) (hroom : (txOf s p.dest).unacked.length < 64)
    (hflag : p.flag = false) : ∃ tx reqs, txPump p.dest s = { s with
      ni := { s.ni with tx := tx, reqs := reqs }, rt := { s.rt with inject := s.rt.inject ++ [(none, numbered p s)] } } := by
  have hcan : txCan s.ni.degradedAt.isSome (txOf s p.dest) p = true := by simp [txCan, Config.streamMax, hroom, hflag]
  unfold txPump numbered
  simp only [hwait, txDrain, hcan, if_true, hflag, Bool.false_eq_true, if_false]
  exact ⟨_, _, rfl⟩

/-- A packet waits in its stream before the stream sends what it can. -/
theorem sendStream_waits (p : Packet) (s : State) : ∃ sent, sendStream p s =
    txPump p.dest (setTx { txOf s p.dest with waiting := (txOf s p.dest).waiting ++ [p] } { s with ni := { s.ni with sentTo := sent } }) := by
  unfold sendStream
  dsimp only
  split
  · exact ⟨s.ni.sentTo, rfl⟩
  · exact ⟨p.dest :: s.ni.sentTo, rfl⟩

/-- 08:R215: a packet of an open stream is injected at once, numbered; beside it only the NI's records of what was sent change. -/
theorem sendStream_open {p : Packet} {s : State} (h : s.StreamOpen p.dest) (hflag : p.flag = false) :
    ∃ tx reqs sent, sendStream p s = { s with ni := { s.ni with tx := tx, reqs := reqs, sentTo := sent }
                                              rt := { s.rt with inject := s.rt.inject ++ [(none, numbered p s)] } } := by
  obtain ⟨hnone, hroom⟩ := h
  obtain ⟨sent, hwaits⟩ := sendStream_waits p s
  rw [hnone, List.nil_append] at hwaits
  generalize hu : setTx _ _ = u at hwaits
  have hrec : txOf u p.dest = { txOf s p.dest with waiting := [p] } := by
    rw [← hu]
    exact txOf_setTx _ (txOf_dst s p.dest)
  have hsame : numbered p u = numbered p s := by
    unfold numbered
    rw [hrec, ← hu]
    rfl
  obtain ⟨tx, reqs, hpump⟩ := txPump_one (s := u) (by rw [hrec]) (by rw [hrec]; exact hroom) hflag
  refine ⟨tx, reqs, sent, ?_⟩
  rw [hwaits, hpump, hsame, ← hu]
  rfl

/-! ## The acknowledgement -/

/-- An acknowledgement changes the records of sources and the injection queue alone. -/
theorem sendAck_frame (c : Coord) (s : State) : ∃ rx l, sendAck c s =
    { s with ni := { s.ni with rx := rx }, rt := { s.rt with inject := s.rt.inject ++ l } } := by
  have hnothing : ∃ rx l, s = { s with ni := { s.ni with rx := rx }, rt := { s.rt with inject := s.rt.inject ++ l } } :=
    ⟨s.ni.rx, [], by rw [List.append_nil]⟩
  unfold sendAck
  extract_lets r
  split
  · exact hnothing
  · split
    · exact hnothing
    · exact ⟨_, _, rfl⟩

theorem ackNote_frame (p : Packet) (s : State) : ∃ rx l, ackNote p s =
    { s with ni := { s.ni with rx := rx }, rt := { s.rt with inject := s.rt.inject ++ l } } := by
  unfold ackNote
  extract_lets r bit s1
  split
  · obtain ⟨rx, l, h⟩ := sendAck_frame p.src s1
    exact ⟨rx, l, h⟩
  · exact ⟨_, [], by rw [List.append_nil]; rfl⟩

/-- 08:R217: below the count that makes one due, no acknowledgement leaves. -/
theorem ackNote_counts {p : Packet} {s : State} (hflag : p.flag = false) (hmark : p.mark = false)
    (hfew : (rxOf s p.src).accepted < 15) : ∃ rx, ackNote p s = { s with ni := { s.ni with rx := rx } } := by
  have hnone : ¬(decide (16 ≤ (rxOf s p.src).accepted + 1) || p.flag || p.mark) = true := by
    simp [hflag, hmark]
    omega
  unfold ackNote
  extract_lets r bit s1
  rw [if_neg hnone]
  exact ⟨_, rfl⟩

/-! ## The NI's part -/

/-- 08:R216, R218: a packet that the NI takes, for which a request has room, and a flag its turn, acts and is counted. -/
theorem niArrive_takes {p : Packet} {r : RxStream} {s : State} (hin : inStream p = true) (hcrc : crcOk p = true)
    (hroom : isRequest p = true → ejectHeld s + flitBytes p ≤ Config.ejectMax) (hcase : rxCase (now s) (rxOf s p.src) p = .take r)
    (hflag : p.flag = true → flagReady r p = true ∧ servedAll s p.src = true) (act dup : State → State) :
    niArrive p act dup s = ackNote p (act (setRx r s)) := by
  have hfits : (isRequest p && decide (Config.ejectMax < ejectHeld s + flitBytes p)) = false := by
    cases hr : isRequest p with
    | false => rfl
    | true => simpa using hroom hr
  have hturn : (p.flag && !(flagReady r p && servedAll s p.src)) = false := by
    cases hf : p.flag with
    | false => rfl
    | true => simpa using hflag hf
  unfold niArrive
  rw [if_neg (by simp [hin]), if_neg (by simp [hcrc]), if_neg (by rw [hfits]; decide), hcase]
  exact if_neg (by rw [hturn]; decide)

/-- Once nothing waits, what goes on after a packet reaches the windows alone. -/
theorem progress_idle {s : State} (hserving : s.ni.serving = []) (hcmds : s.cmds = []) : ∃ l, progress s = { s with wins := l } := by
  have hsame : ({ s with ni := { s.ni with serving := [] } } : State) = s := by rw [← hserving]
  have hpump : pumpCmds s = s := by rw [pumpCmds, hcmds, List.foldl_nil]
  obtain ⟨l, hidle⟩ := unmapKick_idle hcmds
  refine ⟨l, ?_⟩
  rw [← hidle]
  unfold progress
  rw [hserving, List.foldl_nil, hsame]
  exact congrArg unmapKick hpump

/-- The record that the NI has written for an accepted packet, below the count that makes an acknowledgement due. -/
theorem accepted_record {p : Packet} {r : RxStream} {s : State} (h : s.Accepts p r) : (rxOf (setRx r s) p.src).accepted < 15 := by
  obtain ⟨-, -, -, -, -, -, hfew, hcase, -⟩ := h
  rwa [rxOf_setRx s (by rw [rxCase_take_src hcase, rxOf_src])]

/-- A packet that the NI takes, and that leaves nothing waiting, changes beside what it does the windows and the records of sources. -/
theorem accepted_progress {p : Packet} {r : RxStream} {s u : State} (h : s.Accepts p r) {act dup : State → State}
    (hact : act (setRx r s) = u) (hserving : u.ni.serving = []) (hcmds : u.cmds = [])
    (hcount : (rxOf u p.src).accepted = (rxOf (setRx r s) p.src).accepted) :
    ∃ l rx, progress (niArrive p act dup s) = { u with wins := l, ni := { u.ni with rx := rx } } := by
  have hfew := hcount.trans_lt (accepted_record h)
  obtain ⟨-, -, hin, hcrc, hflag, hmark, -, hcase, hroom⟩ := h
  obtain ⟨rx, hcounted⟩ := ackNote_counts hflag hmark hfew
  obtain ⟨l, hidle⟩ := progress_idle (s := { u with ni := { u.ni with rx := rx } }) hserving hcmds
  exact ⟨l, rx, by rw [niArrive_takes hin hcrc hroom hcase (by simp [hflag]), hact, hcounted, hidle]⟩

/-- The count of a source lies in the NI's records of sources alone. -/
theorem rxOf_accepted {s t : State} (h : t.ni.rx = s.ni.rx) (c : Coord) : (rxOf t c).accepted = (rxOf s c).accepted := by
  unfold rxOf
  rw [h]
  cases s.ni.rx.find? fun r => r.src = c <;> rfl

theorem streamOpen_congr {s t : State} (h : t.ni.tx = s.ni.tx) (c : Coord) : t.StreamOpen c ↔ s.StreamOpen c := by
  unfold State.StreamOpen txOf
  rw [h]

end Sys2Proof.Proofs

/-! One-sided requests at their target (06:R160; 08:R202; 10:R284, R285; 16:R464, R465): what a store, a read, an atomic and a
refused request leave, and O44 from them. -/

namespace Sys2Proof.Proofs

open Sys2Proof Sys2Proof.Machine Sys2Proof.Laws

/-- The rows of the five requests by the packet's kind (08 Table 8-2). -/
abbrev requestRows (p : Packet) : List (Nat × Instr) :=
  [(5, .putPacket p), (6, .getReq p), (7, .atomicReq p), (8, .laneStore p), (9, .laneLoad p)]

section
variable {p : Packet} {row : Instr} {s : State} (hrow : (p.kind.toNat, row) ∈ requestRows p)
include hrow

theorem isRequest_of_row : isRequest p = true := by
  simp only [List.mem_cons, Prod.mk.injEq, List.not_mem_nil, or_false] at hrow
  rcases hrow with ⟨h, -⟩ | ⟨h, -⟩ | ⟨h, -⟩ | ⟨h, -⟩ | ⟨h, -⟩ <;> simp [isRequest, h]

/-- Every request's row runs through the NI. -/
theorem request_runs (hruns : s.Runs) (hrouter : routerRuns s = true) :
    Machine.exec row s = .next (progress (niArrive p (requestAct p) (requestDup p) s)) := by
  have hrun (k : Nat) (hk : p.kind.toNat = k) : requestRow k p s = .next (progress (niArrive p (requestAct p) (requestDup p) s)) := by
    unfold requestRow
    rw [live_runs hruns, onlyIf_true (by simp [hrouter, hk])]
  simp only [List.mem_cons, Prod.mk.injEq, List.not_mem_nil, or_false] at hrow
  rcases hrow with ⟨h, rfl⟩ | ⟨h, rfl⟩ | ⟨h, rfl⟩ | ⟨h, rfl⟩ | ⟨h, rfl⟩ <;> exact hrun _ h

/-- The row of an accepted request leaves what the request does, but for the windows and the records of sources. -/
theorem request_accepted {r : RxStream} {u : State} (h : s.Accepts p r) (hact : requestAct p (setRx r s) = u)
    (hserving : u.ni.serving = []) (hcmds : u.cmds = [])
    (hcount : (rxOf u p.src).accepted = (rxOf (setRx r s) p.src).accepted) :
    ∃ l rx, Machine.exec row s = .next { u with wins := l, ni := { u.ni with rx := rx } } := by
  obtain ⟨l, rx, hleft⟩ := accepted_progress (dup := requestDup p) h hact hserving hcmds hcount
  obtain ⟨hruns, hrouter, -⟩ := h
  exact ⟨l, rx, by rw [request_runs hrow hruns hrouter, hleft]⟩

end

/-! ## What a request does -/

section
variable {p : Packet} {s : State} (hformed : reqFormed p = true)
include hformed

theorem requestAct_misses {reason : Byte} (hmiss : missReason s p = some reason) : requestAct p s = missRequest p reason s := by
  simp [requestAct, hformed, hmiss]

variable (hmiss : missReason s p = none)
include hmiss

theorem requestAct_stores (hkind : p.kind = 5 ∨ p.kind = 8) :
    requestAct p s = storeBytes (payAddr p) (p.payload.drop 8) (pktPoison p) s := by
  rcases hkind with hk | hk <;> simp [requestAct, hformed, hmiss, hk, kPut, kLaneStore]

variable (hready : busReady (localPieces s (payAddr p) (reqLen p)) s = true)
include hready

theorem requestAct_reads (hkind : p.kind = 6 ∨ p.kind = 9) :
    requestAct p s = useBus (localPieces s (payAddr p) (reqLen p)) (answerRead p s) := by
  rcases hkind with hk | hk <;>
    simp [requestAct, hformed, hmiss, hk, kPut, kLaneStore, serveReq, hready, serveNow, kAtomicReq]

theorem requestAct_atomic (hkind : p.kind = 7) :
    requestAct p s = useBus (localPieces s (payAddr p) (reqLen p)) (answerAtomic p s) := by
  simp [requestAct, hformed, hmiss, hkind, kPut, kLaneStore, serveReq, hready, serveNow, kAtomicReq]

end

/-- The state after an answer to a packet: one packet of a kind to the packet's source, under the packet's tag, has joined the
injection queue, and of the NI only the records of what was sent have changed. -/
def Answered (p : Packet) (kind : BitVec 4) (body : Bytes) (s t : State) : Prop :=
  ∃ q tx reqs sent, t = { s with ni := { s.ni with tx := tx, reqs := reqs, sentTo := sent }
                                 rt := { s.rt with inject := s.rt.inject ++ [(none, q)] } } ∧
    q.kind = kind ∧ q.dest = p.src ∧ q.tag = p.tag ∧ q.payload = body

theorem answer_sent {p : Packet} {s : State} (h : s.StreamOpen p.src) (kind : Nat) (me : Coord) (body : Bytes) (fl : Byte) :
    Answered p (BitVec.ofNat 4 kind) body s (sendStream (mkPacket kind p.job me p.src p.tag body fl) s) := by
  obtain ⟨tx, reqs, sent, hsent⟩ := sendStream_open (p := mkPacket kind p.job me p.src p.tag body fl) h rfl
  exact ⟨_, tx, reqs, sent, hsent, rfl, rfl, rfl, rfl⟩

/-- 06:R160: a refused request is answered with its reason, beside an event and a note with the stream of the source. -/
theorem missRequest_answers {p : Packet} {s : State} (h : s.StreamOpen p.src) (reason : Byte) : ∃ v,
    Answered p 0xC [reason] v (missRequest p reason s) ∧ v.stg = s.stg ∧ v.tm = s.tm ∧ v.rt = s.rt ∧ v.cmds = s.cmds ∧
    v.ni.serving = s.ni.serving ∧ (rxOf v p.src).accepted = (rxOf s p.src).accepted := by
  unfold missRequest
  extract_lets seen _ s1 t num r
  obtain ⟨m, hs1⟩ : ∃ m, unposted s1 = unposted { s with ni := { s.ni with missEvents := m } } := by
    unfold s1
    split
    · exact ⟨s.ni.missEvents, rfl⟩
    · exact ⟨_, raiseEvent_unposted ..⟩
  have hni := ni_of_unposted hs1
  generalize hv : setRx { r with missed := r.missed ++ [(p.seq, num)] } s1 = v
  have hopen : v.StreamOpen p.src := (streamOpen_congr (by rw [← hv]; exact (congrArg NI.tx hni :)) p.src).2 h
  have hcount : (rxOf v p.src).accepted = (rxOf s p.src).accepted := by
    rw [← hv, rxOf_setRx]
    · exact rxOf_accepted (congrArg NI.rx hni :) p.src
    · exact rxOf_src s1 p.src
  refine ⟨v, answer_sent hopen kMissAck _ _ _, ?_, ?_, ?_, ?_, ?_, hcount⟩ <;> rw [← hv]
  · exact (congrArg State.stg hs1 :)
  · exact (congrArg State.tm hs1 :)
  · exact (congrArg State.rt hs1 :)
  · exact (congrArg State.cmds hs1 :)
  · exact (congrArg NI.serving hni :)


theorem leBytes_mod (n x : Nat) : leBytes n (x % 256 ^ n) = leBytes n x := by
  induction n generalizing x with
  | zero => rfl
  | succ n ih =>
    have hlow : BitVec.ofNat 8 (x % 256 ^ (n + 1)) = BitVec.ofNat 8 x :=
      BitVec.eq_of_toNat_eq (by
        simp only [BitVec.toNat_ofNat]
        exact Nat.mod_mod_of_dvd x (Dvd.intro_left (256 ^ n) (Nat.pow_succ ..).symm))
    have hhigh : x % 256 ^ (n + 1) / 256 = x / 256 % 256 ^ n := by
      rw [Nat.pow_succ', Nat.mod_mul_right_div_self]
    rw [leBytes, leBytes, hlow, hhigh, ih]

/-- The value that an atomic writes, from the operands of its packet (10 Table 10-7). -/
def atomicResult (p : Packet) (s : State) : Nat :=
  atomicNew (payField p 8 1) (reqLen p) (leNat (localRead s (payAddr p) (reqLen p)))
    (payField p 16 8 % 2 ^ (8 * reqLen p)) (payField p 24 8 % 2 ^ (8 * reqLen p))

/-- 10:R285, 16:R465: an atomic writes its operand, its journal keeps the old value, and the answer carries it. -/
theorem answerAtomic_answers {p : Packet} {s : State} (hkind : p.kind = 7) (hformed : reqFormed p = true) (h : s.StreamOpen p.src) :
    ∃ v, Answered p 0xB (leBytes 8 (leNat (localRead s (payAddr p) (reqLen p)))) v (answerAtomic p s) ∧ ∃ l,
      (p.tag, BitVec.ofNat 64 (leNat (localRead s (payAddr p) (reqLen p)))) ∈ l ∧
      v = useJournal p.src l (localWrite (payAddr p) (leBytes (reqLen p) (atomicResult p s)) s) := by
  have hlen : payField p 9 1 = reqLen p := by simp [reqLen, hkind]
  have hsize : reqLen p = 4 ∨ reqLen p = 8 := by
    simp [reqFormed, hkind] at hformed
    omega
  have hdvd : 2 ^ (8 * reqLen p) ∣ 2 ^ 64 := Nat.pow_dvd_pow 2 (by omega)
  have hatomic : doAtomic (payAddr p) (payField p 8 1) (reqLen p) (BitVec.ofNat 64 (payField p 16 8)) (BitVec.ofNat 64 (payField p 24 8)) s =
      (BitVec.ofNat 64 (leNat (localRead s (payAddr p) (reqLen p))),
        localWrite (payAddr p) (leBytes (reqLen p) (atomicResult p s)) s) := by
    simp only [doAtomic, BitVec.toNat_ofNat, Nat.mod_mod_of_dvd _ hdvd]
    rfl
  have hbody : bvBytes 8 (BitVec.ofNat 64 (leNat (localRead s (payAddr p) (reqLen p)))) =
      leBytes 8 (leNat (localRead s (payAddr p) (reqLen p))) := leBytes_mod 8 _
  unfold answerAtomic
  rw [hlen, hatomic]
  extract_lets r mine s1
  have hopen : s1.StreamOpen p.src := (streamOpen_congr (congrArg NI.tx (ApartFromTraffic.ni (localWrite_apart _ _) s)) p.src).2 h
  refine ⟨s1, hbody ▸ answer_sent hopen kAtomicResp _ _ _, mine, ?_, rfl⟩
  simp [mine, r]

/-- The journal of the source that was used last (16:R465). -/
theorem journalOf_used {c : Coord} {l : List (W32 × W64)} {s t : State} (h : t.ni.journal = (useJournal c l s).ni.journal) :
    journalOf t c = l := by
  simp [journalOf, h, useJournal]

/-- The operands of an atomic lie in memory, not with the stream. -/
theorem atomicResult_setRx (p : Packet) (r : RxStream) (s : State) : atomicResult p (setRx r s) = atomicResult p s := rfl

section
variable {p : Packet} {r : RxStream} {row : Instr} {s : State} (h : s.Accepts p r) (hwaits : s.NothingWaits)
  (hformed : reqFormed p = true) (hrow : (p.kind.toNat, row) ∈ requestRows p)
include h hwaits hformed hrow

theorem request_refused {reason : Byte} (hmiss : missReason s p = some reason) (hopen : s.StreamOpen p.src) :
    ∃ t, Machine.exec row s = .next t ∧ (∃ q, t.rt.inject = s.rt.inject ++ [(none, q)] ∧
      q.kind = 0xC ∧ q.dest = p.src ∧ q.tag = p.tag ∧ q.payload = [reason]) ∧ t.stg = s.stg ∧ t.tm = s.tm := by
  obtain ⟨hserving, hcmds⟩ := hwaits
  obtain ⟨v, ⟨q, tx, reqs, sent, hu, hq⟩, hstg, htm, hrt, hvc, hvs, hcount⟩ := missRequest_answers (s := setRx r s) hopen reason
  obtain ⟨l, rx, hexec⟩ := request_accepted hrow h ((requestAct_misses (s := setRx r s) hformed hmiss).trans hu) (hvs.trans hserving)
    (hvc.trans hcmds) ((rxOf_accepted rfl p.src).trans hcount)
  exact ⟨_, hexec, ⟨q, congrArg (fun rt => rt.inject ++ [(none, q)]) hrt, hq⟩, hstg, htm⟩

theorem store_served (hmiss : missReason s p = none) (hkind : p.kind = 5 ∨ p.kind = 8) :
    ∃ t, Machine.exec row s = .next t ∧ t.stg = (storeBytes (payAddr p) (p.payload.drop 8) (pktPoison p) s).stg ∧
      t.tm = (storeBytes (payAddr p) (p.payload.drop 8) (pktPoison p) s).tm ∧ t.rt = s.rt := by
  obtain ⟨hserving, hcmds⟩ := hwaits
  have hact := requestAct_stores (s := setRx r s) hformed hmiss hkind
  rw [(storeBytes_apart _ _ _).setRx r s] at hact
  obtain ⟨l, rx, hexec⟩ := request_accepted hrow h hact hserving hcmds (rxOf_accepted (by rfl) p.src)
  exact ⟨_, hexec, rfl, rfl, rfl⟩

variable (hready : busReady (localPieces s (payAddr p) (reqLen p)) s = true) (hopen : s.StreamOpen p.src)
include hready hopen

theorem read_served (hmiss : missReason s p = none) (hkind : p.kind = 6 ∨ p.kind = 9) :
    ∃ t, Machine.exec row s = .next t ∧ (∃ q, t.rt.inject = s.rt.inject ++ [(none, q)] ∧ q.kind = 0xA ∧ q.dest = p.src ∧
      q.tag = p.tag ∧ q.payload = localRead s (payAddr p) (reqLen p)) ∧ t.stg = s.stg ∧ t.tm = s.tm := by
  obtain ⟨hserving, hcmds⟩ := hwaits
  have hact := requestAct_reads (s := setRx r s) hformed hmiss
    (by rw [localPieces_setRx]; exact hready) hkind
  obtain ⟨q, tx, reqs, sent, hu, hq⟩ : Answered p 0xA (localRead s (payAddr p) (reqLen p)) (setRx r s) (answerRead p (setRx r s)) :=
    answer_sent (s := setRx r s) hopen kReadResp _ _ _
  rw [hu] at hact
  obtain ⟨l, rx, hexec⟩ := request_accepted hrow h hact hserving hcmds (rxOf_accepted (by rfl) p.src)
  exact ⟨_, hexec, ⟨q, rfl, hq⟩, rfl, rfl⟩

theorem atomic_served (hmiss : missReason s p = none) (hkind : p.kind = 7) :
    ∃ t, Machine.exec row s = .next t ∧ (∃ q, t.rt.inject = s.rt.inject ++ [(none, q)] ∧ q.kind = 0xB ∧ q.dest = p.src ∧
      q.tag = p.tag ∧ q.payload = leBytes 8 (leNat (localRead s (payAddr p) (reqLen p)))) ∧
      t.stg = (localWrite (payAddr p) (leBytes (reqLen p) (atomicResult p s)) s).stg ∧
      t.tm = (localWrite (payAddr p) (leBytes (reqLen p) (atomicResult p s)) s).tm ∧
      (p.tag, BitVec.ofNat 64 (leNat (localRead s (payAddr p) (reqLen p)))) ∈ journalOf t p.src := by
  obtain ⟨hserving, hcmds⟩ := hwaits
  have hact := requestAct_atomic (s := setRx r s) hformed hmiss
    (by rw [localPieces_setRx]; exact hready) hkind
  obtain ⟨v, ⟨q, tx, reqs, sent, hu, hq⟩, l, hmem, hv⟩ := answerAtomic_answers (s := setRx r s) hkind hformed hopen
  rw [atomicResult_setRx, (localWrite_apart _ _).setRx r s] at hv
  rw [hu] at hact
  have hinject : v.rt.inject = s.rt.inject := (congrArg (fun t : State => t.rt.inject) hv :)
  have hrx : v.ni.rx = (setRx r s).ni.rx := (congrArg (fun t : State => t.ni.rx) hv :)
  have hjournal : v.ni.journal = (useJournal p.src l (setRx r s)).ni.journal := (congrArg (fun t : State => t.ni.journal) hv :)
  obtain ⟨w, rx, hexec⟩ := request_accepted hrow h hact (by rw [hv]; exact hserving) (by rw [hv]; exact hcmds)
    (rxOf_accepted (by exact hrx) p.src)
  refine ⟨_, hexec, ⟨q, congrArg (· ++ [(none, q)]) hinject, hq⟩, (congrArg State.stg hv :), (congrArg State.tm hv :), ?_⟩
  rw [journalOf_used (l := l)]
  · exact hmem
  · exact hjournal

end

/-! ## Duplicates, and requests without room -/

/-- 08:R216: a duplicate of a store is counted, and writes nothing. -/
theorem niArrive_duplicate {p : Packet} {s : State} (hin : inStream p = true) (hcrc : crcOk p = true)
    (hroom : ejectHeld s + flitBytes p ≤ Config.ejectMax) (hdup : rxCase (now s) (rxOf s p.src) p = .duplicate)
    {act dup : State → State} (hnothing : dup s = s) : niArrive p act dup s = ackNote p s := by
  have hfits : ¬Config.ejectMax < ejectHeld s + flitBytes p := Nat.not_lt.2 hroom
  simp [niArrive, hin, hcrc, hfits, hdup, hnothing]

/-- 08:R210: a request that the ejection space cannot hold is answered with BUSY. -/
theorem niArrive_busy {p : Packet} {s : State} (hin : inStream p = true) (hcrc : crcOk p = true) (hreq : isRequest p = true)
    (hfull : Config.ejectMax < ejectHeld s + flitBytes p) (act dup : State → State) :
    niArrive p act dup s = sendRaw none (e2ePacket s p.src 2 0 p.tag.toNat) s := by
  simp [niArrive, hin, hcrc, hreq, hfull]

/-- The subtype of an E2E packet lies in the low byte of its tag (08 Table 8-8). -/
theorem e2ePacket_subtype (s : State) (c : Coord) {sub : Nat} (hsub : sub < 256) (value : Nat) :
    natBits 0 8 (e2ePacket s c sub 0 value).tag.toNat = sub := by
  simp [natBits, e2ePacket, mkPacket]
  omega

/-- Settles O44: what each request does, then the row that carries it; a duplicate store is counted alone, and a request without room is
answered with BUSY. -/
theorem requestsServed : Obligations.RequestsServed := by
  unfold Obligations.RequestsServed
  refine ⟨?accepted, ?duplicate, ?busy⟩
  case accepted =>
    intro p r row s h hwaits hformed hrow a n ps answered
    refine ⟨fun reason hmiss hopen => ?_, store_served h hwaits hformed hrow, fun hmiss hkind hready hopen =>
      read_served h hwaits hformed hrow hready hopen hmiss hkind, fun hmiss hkind hready hopen =>
      atomic_served h hwaits hformed hrow hready hopen hmiss hkind⟩
    obtain ⟨t, hexec, hanswer, hstg, htm⟩ := request_refused h hwaits hformed hrow hmiss hopen
    exact ⟨t, hexec, hanswer, hstg, congrArg Tannery.mem htm⟩
  case duplicate =>
    intro p row s hruns hrouter hwaits hin hcrc hrow hroom hdup
    have hnothing : requestDup p s = s := by
      simp only [List.mem_cons, Prod.mk.injEq, List.not_mem_nil, or_false] at hrow
      rcases hrow with ⟨hk, -⟩ | ⟨hk, -⟩ <;> simp [requestDup, hk]
    obtain ⟨hserving, hcmds⟩ := hwaits
    obtain ⟨rx, l, hcount⟩ := ackNote_frame p s
    obtain ⟨w, hidle⟩ := progress_idle (s := ackNote p s) (by rw [hcount]; exact hserving) (by rw [hcount]; exact hcmds)
    have hrow' : (p.kind.toNat, row) ∈ requestRows p := by
      simp only [List.mem_cons, List.not_mem_nil, or_false] at hrow ⊢
      tauto
    refine ⟨{ ackNote p s with wins := w }, ?_, ?_⟩
    · rw [request_runs hrow' hruns hrouter, niArrive_duplicate hin hcrc hroom hdup hnothing, hidle]
    · rw [hcount]
      exact ⟨rfl, rfl, rfl⟩
  case busy =>
    intro p row s hruns hrouter hwaits hin hcrc hrow hfull
    obtain ⟨hserving, hcmds⟩ := hwaits
    obtain ⟨w, hidle⟩ := progress_idle (s := sendRaw none (e2ePacket s p.src 2 0 p.tag.toNat) s) hserving hcmds
    refine ⟨{ sendRaw none (e2ePacket s p.src 2 0 p.tag.toNat) s with wins := w }, _, ?_,
      rfl, rfl, rfl, rfl, rfl, e2ePacket_subtype s p.src (by decide) p.tag.toNat⟩
    rw [request_runs hrow hruns hrouter, niArrive_busy hin hcrc (isRequest_of_row hrow) hfull, hidle]

end Sys2Proof.Proofs

/-! The answers to one-sided requests at their source (06:R161; 08:R202, R227; 10:R283, R285; 13:R353, R360; 16:R466): what an answer
does to the thread or the command that asked, what a drain marker does, and O45 from them. -/

namespace Sys2Proof.Proofs

open Sys2Proof Sys2Proof.Machine Sys2Proof.Laws

/-- The row of an accepted response leaves what the response does, but for the windows and the records of sources. -/
theorem response_accepted {k : Nat} {act : Packet → State → State} {p : Packet} {r : RxStream} {s u : State} (h : s.Accepts p r)
    (hkind : p.kind.toNat = k) (hact : act p (setRx r s) = u) (hserving : u.ni.serving = []) (hcmds : u.cmds = [])
    (hrx : u.ni.rx = (setRx r s).ni.rx) :
    ∃ l rx, responseRow k act p s = .next { u with wins := l, ni := { u.ni with rx := rx } } := by
  obtain ⟨l, rx, hleft⟩ := accepted_progress (act := act p) (dup := id) h hact hserving hcmds (rxOf_accepted hrx p.src)
  obtain ⟨hruns, hrouter, -⟩ := h
  refine ⟨l, rx, ?_⟩
  unfold responseRow
  rw [live_runs hruns, onlyIf_true (by simp [hrouter, hkind]), hleft]

/-! ## The thread of a load -/

theorem findThread_congr {s u : State} (h : u.threads = s.threads) (t : Tid) : findThread t u = findThread t s := by
  unfold findThread
  rw [h]

theorem findThread_modThread {t : Tid} {f : Thread → Thread} (hf : ∀ y, (f y).id = y.id) (s : State) :
    findThread t (modThread t f s) = (findThread t s).map f := by
  have hsame : (fun y : Thread => decide (y.id = t)) ∘ (fun y => if decide (y.id = t) then f y else y) =
      fun y => decide (y.id = t) := by
    funext y
    by_cases hy : y.id = t <;> simp [hy, hf]
  unfold findThread modThread
  rw [updWhere, List.find?_map, hsame]
  cases hfind : s.threads.find? fun y => decide (y.id = t) with
  | none => rfl
  | some y =>
    have hy : y.id = t := by simpa using List.find?_some hfind
    simp [hy]

theorem sreg_setS_same {y : Thread} (h : y.s.length = 32) (d : BitVec 5) (x : W64) : sreg (y.setS d x) d = x := by
  have hd : d.toNat < y.s.length := by omega
  rw [sreg, Thread.setS, List.getD_eq_getElem?_getD, setAt_get, if_pos rfl, List.getElem?_eq_getElem hd]
  rfl

theorem sreg_setS_other {d k : BitVec 5} (h : k ≠ d) (y : Thread) (x : W64) : sreg (y.setS d x) k = sreg y k := by
  have hk : k.toNat ≠ d.toNat := fun heq => h (BitVec.eq_of_toNat_eq heq)
  simp [sreg, Thread.setS, List.getD_eq_getElem?_getD, setAt_get, hk]

/-- The thread behind a load that has brought `bytes` for its register `d`. -/
def loaded (d : BitVec 5) (n : Nat) (bytes : Bytes) (y : Thread) : Thread := stepOn (y.setS d (BitVec.ofNat 64 (leNat (slice 0 n bytes))))

/-- 13:R353: the bytes of a remote load go to the thread's register, and the thread goes on. -/
theorem readRespAct_load {p : Packet} {q : Req} {s : State} {tid : Tid} {d : BitVec 5} {n : Nat} (hq : reqFor p [6, 9] s = some q)
    (howner : q.owner = .load tid d n) : readRespAct p s = modThread tid (loaded d n p.payload) (dropReq q.num s) := by
  unfold readRespAct
  rw [show reqFor p [kGetReq, kLaneLoad] s = some q from hq]
  simp only [howner, degradeOwner, ownerCmd, loadSettled]
  rfl

/-- 16:R464: an answer to no open request is discarded. -/
theorem readRespAct_unasked {p : Packet} {s : State} (hq : reqFor p [6, 9] s = none) : readRespAct p s = s := by
  unfold readRespAct
  rw [show reqFor p [kGetReq, kLaneLoad] s = none from hq]

/-! ## The command of a GET -/

theorem endCmd_unposted (c : Cmd) (status flags : Byte) (result : W64) (s : State) :
    unposted (endCmd c status flags result s) = unposted { s with cmds := s.cmds.filter fun x => x.id ≠ c.id } :=
  postCompletion_unposted ..

/-- The end of the one command that had started. -/
theorem endCmd_alone {c : Cmd} {s : State} (h : s.cmds = [c]) (status flags : Byte) (result : W64) :
    (endCmd c status flags result s).cmds = [] := by
  rw [cmds_of_unposted (endCmd_unposted ..)]
  simp [h]

/-- 10:R283: a GET whose last request has been answered ends; its completion leaves memory and the NI. -/
theorem settleXfer_get {c : Cmd} {x : Xfer} {s : State} (hreqs : s.ni.reqs = []) (hcmds : s.cmds = [c]) (hkind : c.kind = .get x)
    (hsent : x.len ≤ x.next) (hsignal : x.signal = none) : (settleXfer c.id s).cmds = [] ∧ (settleXfer c.id s).stg = s.stg ∧
      (settleXfer c.id s).tm = s.tm ∧ (settleXfer c.id s).ni = s.ni := by
  have hfind : findCmd c.id s = some c := by simp [findCmd, hcmds]
  have hover : ¬(decide (x.next < x.len) || (x.signal.isSome && !x.sigSent)) = true := by
    simp [hsignal]
    omega
  obtain ⟨status, flags, result, hends⟩ :
      ∃ status flags result, settleXfer c.id s = unmapKick (endCmd c status flags result s) := by
    unfold settleXfer
    rw [hreqs, hfind]
    simp only [List.any_nil, Bool.false_eq_true, if_false, hkind, if_neg hover]
    split
    · exact ⟨_, _, _, rfl⟩
    · split
      · exact ⟨_, _, _, rfl⟩
      · split <;> exact ⟨_, _, _, rfl⟩
  have hrest := endCmd_unposted c status flags result s
  have hnone := endCmd_alone hcmds status flags result
  obtain ⟨l, hidle⟩ := unmapKick_idle hnone
  rw [hends, hidle]
  exact ⟨hnone, (congrArg State.stg hrest :), (congrArg State.tm hrest :), (congrArg State.ni hrest :)⟩

/-- The command of a GET, with what its answer notes of the way it came (16:R459). -/
def noted (c : Cmd) (x : Xfer) (q : Req) (rerouted : Bool) : Cmd :=
  { c with kind := .get { x with degraded := x.degraded || rerouted || q.reissued } }

/-- The last answer of a GET before the command settles: the bytes are written, and no request is open. -/
def broughtLast (p : Packet) (q : Req) (c : Cmd) (x : Xfer) (s : State) : State :=
  withTraffic { s.ni with reqs := [] } s.rt [noted c x q p.rerouted] (localWrite q.localAddr p.payload s)

/-- 10:R283: the last answer of a GET writes its bytes, and its command settles. -/
theorem readRespAct_get {p : Packet} {q : Req} {c : Cmd} {x : Xfer} {s : State} (hq : reqFor p [6, 9] s = some q)
    (hreqs : s.ni.reqs = [q]) (hcmds : s.cmds = [c]) (howner : q.owner = .cmd c.id) (hkind : c.kind = .get x)
    (hclean : pktPoison p = false) : readRespAct p s = settleXfer c.id (broughtLast p q c x s) := by
  have hdrop : dropReq q.num s = { s with ni := { s.ni with reqs := [] } } := by simp [dropReq, hreqs]
  have hnote : degradeOwner q p.rerouted { s with ni := { s.ni with reqs := [] } } =
      withTraffic { s.ni with reqs := [] } s.rt [noted c x q p.rerouted] s := by
    simp [degradeOwner, howner, ownerCmd, modXfer, modCmd, hcmds, updWhere, hkind, noted, withTraffic]
  unfold readRespAct
  rw [show reqFor p [kGetReq, kLaneLoad] s = some q from hq]
  simp only [howner, hclean, Bool.false_eq_true, if_false]
  rw [hdrop, hnote, localWrite_apart]
  rfl

/-! ## The command of an atomic -/

section
variable {p : Packet} {q : Req} {c : Cmd} {h : W32} {rank : BitVec 18} {dest : Coord} {s : State}
  (hcmds : s.cmds = [c]) (howner : q.owner = .cmd c.id)
include hcmds howner

/-- 10:R285: an atomic ends with the old value. -/
theorem atomicRespAct_ends (hq : reqFor p [7] s = some q) (hlen : p.payload.length = 8) : ∃ status flags,
    atomicRespAct p s = endCmd c status flags (BitVec.ofNat 64 (payField p 0 8)) (dropReq q.num s) := by
  have hfind : findCmd c.id (dropReq q.num s) = some c := by simp [findCmd, dropReq, hcmds]
  unfold atomicRespAct
  rw [show reqFor p [kAtomicReq] s = some q from hq]
  simp only [howner, hfind, hlen]
  exact ⟨_, _, rfl⟩

/-- 06:R161: a MISS_ACK ends an atomic with CHECK_FAIL and its reason. -/
theorem missAckAct_ends (hkind : c.kind = .atomic h rank dest) (hq : reqFor p [5, 6, 7, 8, 9] s = some q) :
    missAckAct p s = endCmd c stCheckFail 1 ((BitVec.ofNat 8 (payField p 0 1) : Byte).setWidth 64) (dropReq q.num s) := by
  have hsame : degradeOwner q p.rerouted (dropReq q.num s) = dropReq q.num s := by
    simp only [degradeOwner, howner, ownerCmd, modXfer, modCmd, dropReq, hcmds, updWhere, List.map_cons, List.map_nil, decide_true,
      if_true, hkind]
    rw [← hkind]
  have hfind : findCmd c.id (dropReq q.num s) = some c := by simp [findCmd, dropReq, hcmds]
  unfold missAckAct
  rw [show reqFor p [kPut, kGetReq, kAtomicReq, kLaneStore, kLaneLoad] s = some q from hq]
  simp only [hsame, howner, hfind, hkind]

end

/-! ## The completion in host memory -/

/-- A part of what has been written is read back. -/
theorem memRead_memWrite_part {d : Byte} {m : Memory} (h : Memory.wf d m = true) (a : Nat) {o n : Nat} {bs : Bytes}
    (hn : o + n ≤ bs.length) : memRead d (memWrite d m a bs) (a + o) n = (bs.drop o).take n := by
  rw [memRead_eq_map]
  refine List.ext_getElem (by simp; omega) fun i hi _ => ?_
  have hin : o + i < bs.length := by
    simp at hi
    omega
  simp [Nat.add_assoc, memGet_memWrite bs h hin]

/-- A completion entry holds the command's tag and status in bytes 0 to 4, and its result from byte 8 on (04 Table 4-6). -/
theorem complBytes_fields (q : Nat) (g : QPage) (time : W64) (c : Completion) :
    (complBytes q g time c).take 4 = bvBytes 4 c.tag ∧ (complBytes q g time c).take 5 = bvBytes 4 c.tag ++ [c.status] ∧
    ((complBytes q g time c).drop 8).take 8 = bvBytes 8 c.result ∧
    ((complBytes q g time c).drop 8).take 1 = [BitVec.ofNat 8 c.result.toNat] := ⟨rfl, rfl, rfl, rfl⟩

/-- The completion of a started command, as host memory holds it afterwards (04:R109). -/
theorem endCmd_busRead {c : Cmd} {s : State} (hmaster : s.host.busMaster = true) (hpages : s.qs.length = 64)
    (hwf : Memory.wf 0 s.bus = true) (status flags : Byte) (result : W64) :
    let g := getPage c.q.toNat s
    let at_ := g.cqBase.toNat + 32 * g.cqTail.toNat
    let t := endCmd c status flags result s
    busRead t at_ 4 = bvBytes 4 c.tag ∧
    busRead t at_ 5 = bvBytes 4 c.tag ++ [if status = stOK && c.degraded then stDegraded else status] ∧
    busRead t (at_ + 8) 8 = bvBytes 8 result ∧ busRead t (at_ + 8) 1 = [BitVec.ofNat 8 result.toNat] := by
  intro g at_ t
  obtain ⟨bs, hbus, hlen, htag, hstatus, hresult, hlow⟩ : ∃ bs, t.bus = memWrite 0 s.bus at_ bs ∧ bs.length = 32 ∧
      bs.take 4 = bvBytes 4 c.tag ∧
      bs.take 5 = bvBytes 4 c.tag ++ [if status = stOK && c.degraded then stDegraded else status] ∧
      (bs.drop 8).take 8 = bvBytes 8 result ∧ (bs.drop 8).take 1 = [BitVec.ofNat 8 result.toNat] :=
    ⟨_, postCompletion_bus (s := { s with cmds := s.cmds.filter fun x => x.id ≠ c.id }) hmaster _ (by rw [hpages]; exact c.q.isLt),
      complBytes_length .., complBytes_fields ..⟩
  have hread {o n : Nat} (hn : o + n ≤ 32) : busRead t (at_ + o) n = (bs.drop o).take n := by
    rw [busRead, hbus]
    exact memRead_memWrite_part hwf at_ (hlen ▸ hn)
  exact ⟨(hread (o := 0) (by omega)).trans htag, (hread (o := 0) (by omega)).trans hstatus, (hread (by omega)).trans hresult,
    (hread (by omega)).trans hlow⟩

/-! ## The rows of the answers -/

section
variable {p : Packet} {r : RxStream} {s : State} (h : s.Accepts p r) (hserving : s.ni.serving = [])
include h hserving

theorem readResp_load (hkind : p.kind = 0xA) (hcmds : s.cmds = []) {q : Req} {tid : Tid} {d : BitVec 5} {n : Nat} {y : Thread}
    (hq : reqFor p [6, 9] s = some q) (howner : q.owner = .load tid d n) (hy : findThread tid s = some y) (hlen : y.s.length = 32) :
    ∃ t z, Machine.exec (.readResp p) s = .next t ∧ findThread tid t = some z ∧ z.pc = y.pc + 1 ∧ z.st = .running ∧
      sreg z d = BitVec.ofNat 64 (leNat (slice 0 n p.payload)) ∧ ∀ k : BitVec 5, k ≠ d → sreg z k = sreg y k := by
  obtain ⟨l, rx, hexec⟩ := response_accepted h (congrArg BitVec.toNat hkind) (readRespAct_load (s := setRx r s) hq howner) hserving hcmds
    rfl
  have hthread : findThread tid (modThread tid (loaded d n p.payload) (dropReq q.num (setRx r s))) = some (loaded d n p.payload y) := by
    rw [findThread_modThread (f := loaded d n p.payload) fun _ => rfl,
      show findThread tid (dropReq q.num (setRx r s)) = some y from hy, Option.map_some]
  refine ⟨_, loaded d n p.payload y, hexec, ?_, rfl, rfl, sreg_setS_same hlen d _, fun k hk => sreg_setS_other hk y _⟩
  exact (findThread_congr (by rfl) tid).trans hthread

theorem readResp_get (hkind : p.kind = 0xA) {q : Req} {c : Cmd} {x : Xfer} (hq : reqFor p [6, 9] s = some q)
    (hreqs : s.ni.reqs = [q]) (hcmds : s.cmds = [c]) (howner : q.owner = .cmd c.id) (hget : c.kind = .get x) (hsent : x.len ≤ x.next)
    (hsignal : x.signal = none) (hclean : pktPoison p = false) : ∃ t, Machine.exec (.readResp p) s = .next t ∧ t.cmds = [] ∧
      t.stg = (localWrite q.localAddr p.payload s).stg ∧ t.tm = (localWrite q.localAddr p.payload s).tm ∧ t.ni.reqs = [] := by
  have hact := readRespAct_get (s := setRx r s) hq hreqs hcmds howner hget hclean
  obtain ⟨hnone, hstg, htm, hni⟩ :=
    settleXfer_get (c := noted c x q p.rerouted) (s := broughtLast p q c x (setRx r s)) rfl rfl rfl hsent hsignal
  have hwrite := (localWrite_apart q.localAddr p.payload).setRx r s
  obtain ⟨l, rx, hexec⟩ := response_accepted h (congrArg BitVec.toNat hkind) hact ((congrArg NI.serving hni).trans hserving) hnone
    (congrArg NI.rx hni :)
  exact ⟨_, hexec, hnone, hstg.trans (congrArg State.stg hwrite :), htm.trans (congrArg State.tm hwrite :), (congrArg NI.reqs hni :)⟩

theorem readResp_unasked (hkind : p.kind = 0xA) (hcmds : s.cmds = []) (hq : reqFor p [6, 9] s = none) :
    ∃ t, Machine.exec (.readResp p) s = .next t ∧ t.stg = s.stg ∧ t.tm = s.tm ∧ t.threads = s.threads := by
  obtain ⟨l, rx, hexec⟩ := response_accepted h (congrArg BitVec.toNat hkind) (readRespAct_unasked (s := setRx r s) hq) hserving hcmds rfl
  exact ⟨_, hexec, rfl, rfl, rfl⟩

/-- An answer that ends the one command that had started leaves no command, and the completion in host memory. -/
theorem response_ends {k : Nat} {act : Packet → State → State} (hkind : p.kind.toNat = k) {c : Cmd} {n : W32} {status flags : Byte}
    {result : W64} (hcmds : s.cmds = [c]) (hact : act p (setRx r s) = endCmd c status flags result (dropReq n (setRx r s))) :
    ∃ t, responseRow k act p s = .next t ∧ t.cmds = [] ∧
      t.bus = (endCmd c status flags result (dropReq n (setRx r s))).bus := by
  have hrest := endCmd_unposted c status flags result (dropReq n (setRx r s))
  have hnone := endCmd_alone (s := dropReq n (setRx r s)) hcmds status flags result
  obtain ⟨l, rx, hexec⟩ := response_accepted h hkind hact (by rw [ni_of_unposted hrest]; exact hserving) hnone
    (by rw [ni_of_unposted hrest]; rfl)
  exact ⟨_, hexec, hnone, rfl⟩

variable {q : Req} {c : Cmd} (hmaster : s.host.busMaster = true) (hpages : s.qs.length = 64) (hwf : Memory.wf 0 s.bus = true)
  (hcmds : s.cmds = [c]) (howner : q.owner = .cmd c.id)
include hmaster hpages hwf hcmds howner

theorem atomicResp_ends (hkind : p.kind = 0xB) (hq : reqFor p [7] s = some q) (hlen : p.payload.length = 8) :
    let g := getPage c.q.toNat s
    let at_ := g.cqBase.toNat + 32 * g.cqTail.toNat
    ∃ t, Machine.exec (.atomicResp p) s = .next t ∧ t.cmds = [] ∧ busRead t at_ 4 = bvBytes 4 c.tag ∧
      busRead t (at_ + 8) 8 = leBytes 8 (payField p 0 8) := by
  obtain ⟨status, flags, hact⟩ := atomicRespAct_ends (s := setRx r s) hcmds howner hq hlen
  obtain ⟨t, hexec, hnone, hbus⟩ := response_ends h hserving (congrArg BitVec.toNat hkind) hcmds hact
  obtain ⟨htag, -, hresult, -⟩ := endCmd_busRead (c := c) (s := dropReq q.num (setRx r s)) hmaster hpages hwf status flags
    (BitVec.ofNat 64 (payField p 0 8))
  refine ⟨t, hexec, hnone, (congrArg (memRead 0 · _ 4) hbus).trans htag, (congrArg (memRead 0 · _ 8) hbus).trans (hresult.trans ?_)⟩
  exact leBytes_mod 8 (payField p 0 8)

theorem missAck_ends {handle : W32} {rank : BitVec 18} {dest : Coord} (hatomic : c.kind = .atomic handle rank dest)
    (hkind : p.kind = 0xC) (hq : reqFor p [5, 6, 7, 8, 9] s = some q) :
    let g := getPage c.q.toNat s
    let at_ := g.cqBase.toNat + 32 * g.cqTail.toNat
    ∃ t, Machine.exec (.missAck p) s = .next t ∧ t.cmds = [] ∧ busRead t at_ 5 = bvBytes 4 c.tag ++ [stCheckFail] ∧
      busRead t (at_ + 8) 1 = [BitVec.ofNat 8 (payField p 0 1)] := by
  have hact := missAckAct_ends (s := setRx r s) hcmds howner hatomic hq
  obtain ⟨t, hexec, hnone, hbus⟩ := response_ends h hserving (congrArg BitVec.toNat hkind) hcmds hact
  obtain ⟨-, hstatus, -, hlow⟩ := endCmd_busRead (c := c) (s := dropReq q.num (setRx r s)) hmaster hpages hwf stCheckFail 1
    ((BitVec.ofNat 8 (payField p 0 1) : Byte).setWidth 64)
  refine ⟨t, hexec, hnone, (congrArg (memRead 0 · _ 5) hbus).trans hstatus, (congrArg (memRead 0 · _ 1) hbus).trans (hlow.trans ?_)⟩
  exact congrArg (fun b => [b]) (BitVec.eq_of_toNat_eq (by simp))

end

/-! ## Drain markers -/

/-- A marker that the NI takes acts, and is counted. -/
theorem drainMarker_takes {p : Packet} {r : RxStream} {s : State} (hruns : s.Runs) (hrouter : routerRuns s = true)
    (hin : inStream p = true) (hcrc : crcOk p = true) (hkind : p.kind = 0xE) (hcase : rxCase (now s) (rxOf s p.src) p = .take r)
    (hflag : p.flag = true → flagReady r p = true ∧ servedAll s p.src = true) :
    Machine.exec (.drainMarker p) s = .next (ackNote p (markerAct p (setRx r s))) := by
  have hreq : isRequest p = false := by simp [isRequest, hkind]
  refine (live_runs hruns).trans ?_
  rw [onlyIf_true (by simp [hrouter, hkind]), niArrive_takes hin hcrc (by simp [hreq]) hcase hflag]

/-- 08:R227: a marker on its way out returns marked, in its own epoch. -/
theorem markerAct_returns {p : Packet} {s : State} (hout : p.tag.getLsbD 0 = false) (h : s.StreamOpen p.src) :
    ∃ q, (none, q) ∈ (markerAct p s).rt.inject ∧ q.kind = 0xE ∧ q.dest = p.src ∧ q.tag = p.tag ||| 1 ∧ q.epoch = p.epoch := by
  obtain ⟨tx, reqs, sent, hsent⟩ :=
    sendStream_open (p := { mkPacket 0xE p.job (myCoord s) p.src (p.tag ||| 1) [] 0 with epoch := p.epoch }) h rfl
  unfold markerAct markerReturn
  rw [hout, if_neg (by decide), hsent]
  exact ⟨_, List.mem_append_right _ (List.mem_singleton_self _), rfl, rfl, rfl, rfl⟩

/-- 08:R227: a returned marker takes its source from its round, which stays while another is awaited. -/
theorem markerAct_answers {p : Packet} {s : State} {w : Round} (hback : p.tag.getLsbD 0 = true) (hrounds : s.ni.rounds = [w])
    (hnum : w.num = p.tag >>> 2) (hlen : w.dests.length = 2) (hmem : p.src ∈ w.dests) (hnodup : w.dests.Nodup) :
    (markerAct p s).ni.rounds = [{ w with dests := w.dests.filter fun d => d ≠ p.src }] := by
  have hleft : (w.dests.filter fun d => d ≠ p.src) ≠ [] := by
    obtain ⟨a, b, hab⟩ := List.length_eq_two.1 hlen
    rw [hab] at hmem hnodup ⊢
    simp at hmem hnodup
    rcases hmem with rfl | rfl
    · simp [Ne.symm hnodup]
    · simp [hnodup]
  have hrest : updWhere (fun x : Round => x.num = markerRound p) (fun x => { x with dests := x.dests.filter fun d => d ≠ p.src })
      s.ni.rounds = [{ w with dests := w.dests.filter fun d => d ≠ p.src }] := by
    simp [updWhere, hrounds, markerRound, hnum]
  have hopen : ([{ w with dests := w.dests.filter fun d => d ≠ p.src }].any fun x : Round =>
      decide (x.num = markerRound p) && x.dests.isEmpty) = false := by
    rw [List.any_cons, List.any_nil, List.isEmpty_eq_false_iff.2 hleft, Bool.and_false, Bool.or_false]
  unfold markerAct
  rw [if_pos (show markerReturn p = true from hback)]
  dsimp only
  rw [hrest, hopen]
  rfl

/-- Settles O45: the thread or the command behind the request of an answer, with the completion in host memory; a marker by the way it
goes. -/
theorem responsesTaken : Obligations.ResponsesTaken := by
  unfold Obligations.ResponsesTaken
  refine ⟨?reads, ?atomics, ?markers⟩
  case reads =>
    intro p r s h hserving hkind _ _
    exact ⟨fun tid d n y q hcmds hq howner hy _ hlen => readResp_load h hserving hkind hcmds hq howner hy hlen,
      fun q c x hq hreqs hcmds howner hget hsent hsignal _ _ hclean =>
        readResp_get h hserving hkind hq hreqs hcmds howner hget hsent hsignal hclean,
      fun hcmds hq => readResp_unasked h hserving hkind hcmds hq⟩
  case atomics =>
    intro p r c q handle rank dest s h hserving hmaster hpages hwf hcmds hatomic howner
    exact ⟨fun hkind hq hlen => atomicResp_ends h hserving hmaster hpages hwf hcmds howner hkind hq hlen,
      fun hkind hq => missAck_ends h hserving hmaster hpages hwf hcmds howner hatomic hkind hq⟩
  case markers =>
    intro p r s hruns hrouter hin hcrc hkind hcase hflag
    have hexec := drainMarker_takes hruns hrouter hin hcrc hkind hcase hflag
    obtain ⟨rx, l, hcount⟩ := ackNote_frame p (markerAct p (setRx r s))
    refine ⟨fun hout hopen => ?_, fun w _ hback hrounds hnum hlen hmem hnodup => ⟨_, hexec, ?_⟩⟩
    · obtain ⟨q, hmem, hq⟩ := markerAct_returns (s := setRx r s) hout hopen
      exact ⟨_, q, hexec, by rw [hcount]; exact List.mem_append_left _ hmem, hq⟩
    · rw [hcount]
      exact markerAct_answers (s := setRx r s) hback hrounds hnum hlen hmem hnodup

end Sys2Proof.Proofs

/-! What the link layer and what it calls upon leave alone (07:R180 to R199): an event reaches no port; packets that move, and a link's
events, leave the state of every line as it was; the check of identity and the entry into DOWN change that of one. -/

namespace Sys2Proof.Proofs

open Sys2Proof Sys2Proof.Machine Sys2Proof.Laws

/-! ## Events reach neither the ports nor the configuration -/

/-- The state but for what an event reaches: the keeper's wake, the host port, host memory, the queue pages and the event ring, the
error summary and what leaves the node. -/
def unraised (s : State) : State :=
  { s with kp := Keeper.reset, host := HostPort.reset, bus := [], qs := [], evq := QPage.reset, evs := [], err := State.reset.err, out := [] }

theorem modPage_unraised (p : Nat) (f : QPage → QPage) (s : State) : unraised (modPage p f s) = unraised s := by
  unfold modPage
  split <;> rfl

theorem sendMsix_unraised (v : BitVec 7) (s : State) : unraised (sendMsix v s) = unraised s := by
  unfold sendMsix
  split
  · rfl
  · extract_lets e
    split <;> rfl

theorem signalEntry_unraised (p : Nat) (noIrq : Bool) (s : State) : unraised (signalEntry p noIrq s) = unraised s := by
  unfold signalEntry
  extract_lets g
  split
  · rfl
  · split
    · rw [sendMsix_unraised, modPage_unraised]
    · exact modPage_unraised ..

theorem busWrite_unraised (a : Nat) (bs : Bytes) (s : State) : unraised (busWrite a bs s) = unraised s := by
  unfold busWrite busSend
  split <;> rfl

theorem setQerr_unraised (p bit : Nat) (s : State) : unraised (setQerr p bit s) = unraised s := modPage_unraised ..

theorem queueEvent_unraised (source code : Nat) (detail : BitVec 256) (s : State) :
    unraised (queueEvent source code detail s) = unraised s := by
  unfold queueEvent
  extract_lets src r e r1 full r2 s1
  split <;> rfl

theorem writeEvent_unraised (e : Event) (missed : Bool) (coalesced : W32) (s : State) :
    unraised (writeEvent e missed coalesced s) = unraised s := by
  unfold writeEvent
  split
  · rw [signalEntry_unraised, modPage_unraised, busWrite_unraised]
  · rw [queueEvent_unraised, setQerr_unraised, modPage_unraised]

theorem flushOne_unraised (r : EvSource) (s : State) : unraised (flushOne r s) = unraised s := by
  unfold flushOne
  split
  · exact writeEvent_unraised ..
  · split
    · rfl
    · exact writeEvent_unraised ..

theorem flushGo_unraised (n : Nat) (s : State) : unraised (flushGo n s) = unraised s := by
  induction n generalizing s with
  | zero => rfl
  | succ n ih =>
    unfold flushGo
    split
    · split
      · rfl
      · rw [ih, flushOne_unraised]
    · rfl

theorem wakeSource_unraised (cause : BitVec 4) (s : State) : unraised (wakeSource cause s) = unraised s := by
  rw [wakeSource_frame]
  rfl

/-- 04:R116 to R118; 02:R36. -/
theorem raiseEvent_unraised (source code : Nat) (detail : BitVec 256) (s : State) :
    unraised (raiseEvent source code detail s) = unraised s := by
  have hqueued : unraised (wakeSource 8 (queueEvent source code detail s)) = unraised s := by
    rw [wakeSource_unraised, queueEvent_unraised]
  unfold raiseEvent flushEvents
  split
  · exact (flushGo_unraised ..).trans hqueued
  · exact hqueued

/-! ## What reaches neither the ports nor the configuration -/

/-- The ports and the configuration of the node. -/
def fabric (s : State) : List Port × NodeCfg := (s.ports, s.cfg)

theorem getPort_of_fabric {s t : State} (h : fabric t = fabric s) (j : Nat) : getPort j t = getPort j s :=
  (congrArg (fun x => x.1.getD j Port.reset) h :)

theorem wakeSource_fabric (cause : BitVec 4) (s : State) : fabric (wakeSource cause s) = fabric s :=
  (congrArg fabric (wakeSource_unraised cause s) :)

/-- The consequences of a link event are those of any event, and degraded routing (07:R199; 16:R472); of its port it changes the recorded
cause. -/
theorem linkEvent_fabric (i code : Nat) (cause : Byte) (s : State) :
    fabric (linkEvent i code cause s) = fabric (modPort i (fun p => { p with cause := cause }) s) := by
  unfold linkEvent
  extract_lets s1 s2 s3
  have h2 : fabric s2 = fabric s1 := (congrArg fabric (raiseEvent_unraised ..) :)
  have h3 : fabric s3 = fabric s1 := by
    unfold s3
    split <;> exact h2
  split <;> exact h3

theorem sendStream_fabric (p : Packet) (s : State) : fabric (sendStream p s) = fabric s := by
  have hpump (c : Coord) (u : State) : fabric (txPump c u) = fabric u := foldl_frame (π := fabric) fun _ _ => rfl
  obtain ⟨sent, hwaits⟩ := sendStream_waits p s
  rw [hwaits, hpump]
  rfl

theorem logAppend_fabric (kind cls index : Nat) (detail : Bytes) (s : State) : fabric (logAppend kind cls index detail s) = fabric s := by
  have hflush (draft : Bytes) : fabric (logFlush draft s) = fabric s := by
    unfold logFlush
    extract_lets n lost body s1
    have h1 : fabric s1 = fabric s := by
      unfold s1
      split <;> rfl
    exact h1
  unfold logAppend
  extract_lets d
  split
  · split <;> rfl
  · exact hflush d

theorem startTest_fabric (u : TestUnit) (byError threshold : Bool) (row : W32) (waiter : Option Nat) (s : State) :
    fabric (startTest u byError threshold row waiter s) = fabric s := wakeSource_fabric ..

theorem logError_fabric (u : TestUnit) (code : Nat) (detail : Bytes) (s : State) : fabric (logError u code detail s) = fabric s :=
  logAppend_fabric ..

/-- 16:R470: the notice goes out in streams. -/
theorem rejoinFlood_fabric (c : Coord) (s : State) : fabric (rejoinFlood c s) = fabric s := by
  unfold rejoinFlood floodMgmt
  split
  · exact (foldl_frame (π := fabric) fun t _ => sendStream_fabric _ t).trans (logAppend_fabric ..)
  · rfl

/-- 16:R467. -/
theorem sendProbe_fabric (d : Nat) (s : State) : fabric (sendProbe d s) = fabric s := by
  unfold sendProbe
  extract_lets c n s1
  split
  · exact sendStream_fabric ..
  · rfl

theorem degradePacket_fabric (p : Packet) (s : State) : fabric (degradePacket p s) = fabric s := by
  unfold degradePacket
  split <;> rfl

/-- Ports that a function does not tell apart. -/
theorem getPort_of_map {α : Type} {g : Port → α} {s t : State} (h : t.ports.map g = s.ports.map g) (j : Nat) :
    g (getPort j t) = g (getPort j s) := by
  rw [getPort, getPort, ← List.getD_map (f := g), h, List.getD_map]

/-! ## The lines of the ports -/

/-- What the far end of a port has said of itself (07:R181). -/
def farEnd (p : Port) : W32 × W32 × Byte × Bool × Bool := (p.farCoord, p.farDims, p.farPort, p.farRail, p.farSeen)

/-- The line of a port: its state, its width and training, and its far end; what waits, has been sent or is counted at it left out. -/
def lineOf (p : Port) : Port :=
  { Port.reset with st := p.st, width := p.width, training := p.training, savedEq := p.savedEq
                    farCoord := p.farCoord, farDims := p.farDims, farPort := p.farPort, farRail := p.farRail, farSeen := p.farSeen }

theorem st_of_line {p q : Port} (h : lineOf p = lineOf q) : p.st = q.st := (congrArg Port.st h :)

theorem width_of_line {p q : Port} (h : lineOf p = lineOf q) : p.width = q.width := (congrArg Port.width h :)

/-- The lines of all ports, and the configuration. -/
def lines (s : State) : List Port × NodeCfg := (s.ports.map lineOf, s.cfg)

section
variable {s t : State}

theorem lines_of_fabric (h : fabric t = fabric s) : lines t = lines s := (congrArg (fun x => (x.1.map lineOf, x.2)) h :)

theorem cfg_of_lines (h : lines t = lines s) : t.cfg = s.cfg := (congrArg Prod.snd h :)

theorem ports_length_of_lines (h : lines t = lines s) : t.ports.length = s.ports.length := by
  simpa [lines] using congrArg (fun x => x.1.length) h

theorem line_of_lines (h : lines t = lines s) (j : Nat) : lineOf (getPort j t) = lineOf (getPort j s) :=
  getPort_of_map (congrArg Prod.fst h :) j

/-- The check of identity looks at the configuration and at the far end alone (07:R181). -/
theorem identityState_congr {i : Nat} (hcfg : t.cfg = s.cfg) (hfar : farEnd (getPort i t) = farEnd (getPort i s)) :
    identityState t i = identityState s i := by
  simp only [farEnd, Prod.mk.injEq] at hfar
  obtain ⟨hcoord, hdims, hport, hrail, hseen⟩ := hfar
  unfold identityState neighbour torus myCoord
  dsimp only
  rw [hcfg, hcoord, hdims, hport, hrail, hseen]

theorem identityState_of_lines (h : lines t = lines s) (i : Nat) : identityState t i = identityState s i :=
  identityState_congr (cfg_of_lines h) (congrArg farEnd (line_of_lines h i) :)

/-- An update of a list's place that a function does not see. -/
theorem map_modAt_of_same {α β : Type} {g : α → β} {f : α → α} (hf : ∀ x, g (f x) = g x) (i : Nat) (l : List α) :
    (modAt f i l).map g = l.map g := by
  induction l generalizing i with
  | nil => simp [modAt]
  | cons x r ih => cases i <;> simp [modAt, hf, ih]

/-- Two updates of a list's place that a function does not tell apart. -/
theorem map_modAt_congr {α β : Type} {g : α → β} {f f' : α → α} (hf : ∀ x, g (f x) = g (f' x)) (i : Nat) (l : List α) :
    (modAt f i l).map g = (modAt f' i l).map g := by
  induction l generalizing i with
  | nil => simp [modAt]
  | cons x r ih => cases i <;> simp [modAt, hf, ih]

/-- An update of a port that leaves its line. -/
theorem modPort_lines (i : Nat) (s : State) {f : Port → Port} (hf : ∀ p, lineOf (f p) = lineOf p := by exact fun _ => rfl) :
    lines (modPort i f s) = lines s := congrArg (·, s.cfg) (map_modAt_of_same hf i s.ports)

theorem modPort_lines_congr (i : Nat) (s : State) {f f' : Port → Port} (hf : ∀ p, lineOf (f p) = lineOf (f' p) := by exact fun _ => rfl) :
    lines (modPort i f s) = lines (modPort i f' s) := congrArg (·, s.cfg) (map_modAt_congr hf i s.ports)

/-- The line of an updated port. -/
theorem getPort_modPort_line {i : Nat} {s : State} (hi : i < s.ports.length) {t : State} {f : Port → Port}
    (h : lines t = lines (modPort i f s)) : lineOf (getPort i t) = lineOf (f (getPort i s)) := by
  rw [line_of_lines h, getPort_modPort_self i f s hi]

theorem linkEvent_lines (i code : Nat) (cause : Byte) (s : State) : lines (linkEvent i code cause s) = lines s :=
  (lines_of_fabric (linkEvent_fabric i code cause s)).trans (modPort_lines i s)

/-! ## Packets that move -/

theorem freeFrom_lines (from_ : Option (Nat × Nat)) (s : State) : lines (freeFrom from_ s) = lines s := by
  unfold freeFrom
  split
  · rfl
  · exact modPort_lines _ s

theorem rehome_lines (i : Nat) (o : OutPkt) (s : State) : lines (rehome i o s) = lines s := by
  have enqueued (j need : Nat) (p : Packet) : lines (enqueueOut j need o.from_ p s) = lines s := modPort_lines j s
  unfold rehome
  extract_lets d p sister
  split
  · exact (lines_of_fabric (degradePacket_fabric ..)).trans (enqueued ..)
  split
  · exact freeFrom_lines ..
  split
  · exact (modPort_lines ..).trans (freeFrom_lines ..)
  split
  · exact enqueued ..
  · exact freeFrom_lines o.from_ s

/-- 07:R196: a port that gives up its packets keeps its line. -/
theorem abandonPort_lines (i : Nat) (s : State) : lines (abandonPort i s) = lines s := by
  unfold abandonPort
  extract_lets d p gone q cut s1 s2
  have h1 : lines s1 = lines s := modPort_lines i s
  have h2 : lines s2 = lines s1 := by
    unfold s2
    split
    · rfl
    · exact (modPort_lines d _).trans (modPort_lines (d + 6) s1)
  exact (foldl_frame (π := lines) fun t o => rehome_lines i o t).trans (h2.trans h1)

end

/-! ## The check of identity -/

/-- 07:R181: a port settles in the state that the check gives; no other line changes. -/
theorem settleIdentity_lines (i : Nat) (s : State) :
    lines (settleIdentity i s) = lines (modPort i (fun p => { p with st := identityState s i }) s) := by
  unfold settleIdentity
  extract_lets old new s1 s2 s3 t2
  have h1 : lines s1 = lines (modPort i (fun p => { p with st := new }) s) := modPort_lines_congr i s
  refine Eq.trans ?_ h1
  split
  · have h2 : lines s2 = lines s1 := (modPort_lines (i % 6) _).trans (modPort_lines (i % 6 + 6) s1)
    have h3 : lines s3 = lines s2 := by
      unfold s3
      split
      · rfl
      · exact linkEvent_lines ..
    exact (lines_of_fabric (rejoinFlood_fabric ..)).trans (h3.trans h2)
  · have h2 : lines t2 = lines s1 := by
      unfold t2
      split
      · exact abandonPort_lines ..
      · rfl
    split
    · exact (linkEvent_lines ..).trans h2
    split
    · exact (linkEvent_lines ..).trans h2
    · exact h2

section
variable {i : Nat} {s : State} (hi : i < s.ports.length)
include hi

theorem settleIdentity_line : lineOf (getPort i (settleIdentity i s)) = { lineOf (getPort i s) with st := identityState s i } :=
  getPort_modPort_line hi (settleIdentity_lines i s)

/-- The check gives the same once the port has settled. -/
theorem identityState_settleIdentity : identityState (settleIdentity i s) i = identityState s i := by
  rw [identityState_of_lines (settleIdentity_lines i s)]
  exact identityState_congr rfl (by rw [getPort_modPort_self _ _ _ hi]; rfl)

end

end Sys2Proof.Proofs

/-! What leaves a port: flits, groups and the codewords of a bridge link change beside the output only what waits in the port's coder and
what its CREDIT flits announce (07:R183, R188; 08:R205); and the frames of sleep signalling (07:R193, R194, R547; 02:R36), with O40. -/

namespace Sys2Proof.Proofs

open Sys2Proof Sys2Proof.Machine Sys2Proof.Laws

/-! ## Flits and groups that leave -/

/-- A port but for what waits in its coder, and the base and the marks that its CREDIT flits announce. -/
def unsentPort (p : Port) : Port := { p with txFec := (0, 0), txBase := none, txMarks := [] }

/-- From `s` to `t` ports have sent: beside the output only coders and announcements have changed. -/
structure Sends (s t : State) : Prop where
  out : ∃ more, t.out = more ++ s.out
  rest : ({ t with ports := t.ports.map unsentPort, out := [] } : State) = { s with ports := s.ports.map unsentPort, out := [] }

theorem Sends.refl (s : State) : Sends s s := ⟨⟨[], rfl⟩, rfl⟩

theorem Sends.trans {s t u : State} (h₁ : Sends s t) (h₂ : Sends t u) : Sends s u := by
  obtain ⟨a, ha⟩ := h₁.out
  obtain ⟨b, hb⟩ := h₂.out
  exact ⟨⟨b ++ a, by rw [hb, ha, List.append_assoc]⟩, h₂.rest.trans h₁.rest⟩

theorem emit_sends (o : Output) (s : State) : Sends s (emit o s) := ⟨⟨[o], rfl⟩, rfl⟩

theorem modPort_sends (i : Nat) (s : State) {f : Port → Port} (hf : ∀ p, unsentPort (f p) = unsentPort p := by exact fun _ => rfl) :
    Sends s (modPort i f s) :=
  ⟨⟨[], rfl⟩, congrArg (fun l => ({ s with ports := l, out := [] } : State)) (map_modAt_of_same hf i s.ports)⟩

section
variable {s t : State} (h : Sends s t)
include h

theorem Sends.port (j : Nat) : unsentPort (getPort j t) = unsentPort (getPort j s) :=
  getPort_of_map (congrArg State.ports h.rest :) j

theorem Sends.lines : lines t = lines s := by
  have hline (u : State) : Proofs.lines u = ((u.ports.map unsentPort).map lineOf, u.cfg) := by
    rw [List.map_map]
    rfl
  rw [hline, hline]
  exact (congrArg (fun u : State => (u.ports.map lineOf, u.cfg)) h.rest :)

end

/-- 07:R188: codewords leave as their messages fill. -/
theorem codewordsGo_sends (i n : Nat) (s : State) : Sends s (codewordsGo i n s) := by
  induction n generalizing s with
  | zero => exact .refl s
  | succ n ih =>
    unfold codewordsGo
    extract_lets w
    split
    · exact .refl s
    · refine Sends.trans (Sends.trans ?_ (emit_sends ..)) (ih _)
      exact modPort_sends i s fun _ => by simp only [unsentPort]

theorem onBridge_native {i : Nat} (hi : i < 6) (n x : Nat) (s : State) : onBridge i n x s = s := if_pos hi

theorem onBridge_sends (i n x : Nat) (s : State) : Sends s (onBridge i n x s) := by
  unfold onBridge
  split
  · exact .refl s
  · exact (modPort_sends i s).trans (codewordsGo_sends ..)

/-- A control flit leaves with its codewords behind it. -/
theorem sendCtrl_out (i : Nat) (type : Byte) (body : BitVec 416) (s : State) : ∃ more, (i < 6 → more = []) ∧
    (sendCtrl i type body s).out = more ++ .ctrl (BitVec.ofNat 4 i) (ctrlFlit type (ackOf (getPort i s)) 0 body) :: s.out := by
  unfold sendCtrl
  obtain ⟨more, hmore⟩ := (onBridge_sends i 512 (type.toNat + (ackOf (getPort i s)).toNat * 2 ^ 16 + body.toNat * 2 ^ 64 +
    (ctrlFlit type (ackOf (getPort i s)) 0 body).crc.toNat * 2 ^ 480)
      (emit (.ctrl (BitVec.ofNat 4 i) (ctrlFlit type (ackOf (getPort i s)) 0 body)) s)).out
  refine ⟨more, fun hi => ?_, hmore⟩
  rw [onBridge_native hi] at hmore
  simpa using hmore.symm

theorem sendCtrl_sends (i : Nat) (type : Byte) (body : BitVec 416) (s : State) : Sends s (sendCtrl i type body s) :=
  (emit_sends ..).trans (onBridge_sends ..)

theorem sendIdentity_sends (i : Nat) (s : State) : Sends s (sendIdentity i s) := sendCtrl_sends ..

/-! ## The end of sleep signalling -/

/-- A herald that is given back to its queue leaves the line (07:R194). -/
theorem lineOf_releaseFrame (p : Port) : lineOf (releaseFrame p) = lineOf p := by
  unfold releaseFrame
  split <;> rfl

/-- 07:R547: from LPI the port comes to the state that the check of identity gives. -/
theorem leaveSleep_lpi {i : Nat} {s : State} (hi : i < s.ports.length) (hst : (getPort i s).st = .lpi) :
    (getPort i (leaveSleep i s)).st = identityState s i := by
  have hsent : lines (sendIdentity i (modPort i releaseFrame s)) = lines s :=
    (sendIdentity_sends ..).lines.trans (modPort_lines i s lineOf_releaseFrame)
  unfold leaveSleep
  extract_lets p s1
  rw [if_pos hst]
  have hline := settleIdentity_line (i := i) (s := sendIdentity i s1) (by rw [ports_length_of_lines hsent]; exact hi)
  exact (congrArg Port.st hline :).trans (identityState_of_lines hsent i)

/-- From SLEEP the port trains again (07:R193). -/
theorem leaveSleep_sleep {i : Nat} {s : State} (hi : i < s.ports.length) (hst : (getPort i s).st = .sleep) :
    (getPort i (leaveSleep i s)).st = .training := by
  unfold leaveSleep
  extract_lets p s1
  rw [if_neg (by rw [hst]; decide), if_pos hst, getPort_modPort_self _ _ _ (by simpa [s1] using hi)]
  rfl

/-- A port that leaves sleep signalling leaves every other line. -/
theorem leaveSleep_other {i j : Nat} (hij : j ≠ i) (s : State) : lineOf (getPort j (leaveSleep i s)) = lineOf (getPort j s) := by
  have hrelease : lineOf (getPort j (modPort i releaseFrame s)) = lineOf (getPort j s) :=
    line_of_lines (modPort_lines i s lineOf_releaseFrame) j
  unfold leaveSleep
  extract_lets p s1
  split
  · rw [line_of_lines (settleIdentity_lines ..), getPort_modPort_other _ _ _ _ hij, line_of_lines (sendIdentity_sends ..).lines]
    exact hrelease
  split
  · rw [getPort_modPort_other _ _ _ _ hij]
    exact hrelease
  split
  · rw [getPort_modPort_other _ _ _ _ hij]
    exact hrelease
  · rfl

/-- The bridge member that leaves with a native port does not change what that port has come to. -/
theorem leaveBoth_st (i : Nat) (s : State) : (getPort i (leaveBoth i s)).st = (getPort i (leaveSleep i s)).st := by
  unfold leaveBoth
  split
  · exact st_of_line (leaveSleep_other (by omega) _)
  · rfl

/-- 07:R547: an engine that is awake answers a RESUME, and its port leaves sleep signalling. -/
theorem resumeFrom_awake {i : Nat} {s : State} (hst : (getPort i s).st = .lpi ∨ (getPort i s).st = .sleep) (hr : routerRuns s = true) :
    resumeFrom i s = leaveBoth i (sendFrame i .resume s) := by
  unfold resumeFrom
  extract_lets p
  refine if_neg ?_
  obtain hst | hst := hst <;> simp [p, hst, hr]

theorem asleep_of_routerRuns {s : State} (h : routerRuns s = true) : asleep s = false := by
  have hp : s.kp.power = .active ∨ s.kp.power = .doze := by simpa [routerRuns] using h
  obtain hp | hp := hp <;> simp [asleep, hp]

theorem routerRuns_of_asleep {s : State} (h : asleep s = true) : routerRuns s = false :=
  Bool.eq_false_iff.2 fun hr => by simp [asleep_of_routerRuns hr] at h

/-! ## The frames -/

theorem ofNat_port (port : BitVec 4) : BitVec.ofNat 4 port.toNat = port := by simp

/-- The condition of the rows that act in sleep signalling. -/
theorem quiet_condition {p : Port} (h : p.st = .lpi ∨ p.st = .sleep) : (p.st = .lpi || p.st = .sleep) = true := by simpa using h

/-- A port but for the counts of its input slots. -/
def slotless (p : Port) : Port := { p with rxFreed := [], rxHeld := [] }

/-- A freed slot changes nothing else of any port. -/
theorem freeFrom_slotless (from_ : Option (Nat × Nat)) (s : State) (j : Nat) :
    slotless (getPort j (freeFrom from_ s)) = slotless (getPort j s) := by
  cases from_ with
  | none => rfl
  | some x =>
    unfold freeFrom freeSlot
    exact getPort_of_map (map_modAt_of_same (by exact fun _ => rfl) ..) j

theorem freeFrom_out (from_ : Option (Nat × Nat)) (s : State) : (freeFrom from_ s).out = s.out := by
  cases from_ <;> rfl

section
variable {port : BitVec 4} {s : State} (h : s.Runs)
include h

/-- A CREDIT that no refused frame waits for gives the credit back, and a herald that waits may go (07:R194). -/
theorem creditFrame_returns (hst : (getPort port.toNat s).st = .lpi ∨ (getPort port.toNat s).st = .sleep)
    (hheld : (getPort port.toNat s).heldFrame = none ∨ (getPort port.toNat s).busy = false) :
    Machine.exec (.creditFrame port) s = .next (kickFrames port.toNat (modPort port.toNat (fun p => { p with
      heraldCredit := true, heldFrame := none, frameTries := 0, busy := false }) s)) := by
  refine (live_runs h).trans ?_
  rw [onlyIf_true (quiet_condition hst), creditBack]
  split
  · simp_all
  · rfl

/-- With nothing to send on VC0 it does no more. -/
theorem creditFrame_idle (hport : s.HasPort port.toNat) (hst : (getPort port.toNat s).st = .lpi ∨ (getPort port.toNat s).st = .sleep)
    (hnone : (getPort port.toNat s).outq.getD 0 [] = [])
    (hheld : (getPort port.toNat s).heldFrame = none ∨ (getPort port.toNat s).busy = false) :
    Machine.exec (.creditFrame port) s = .next (modPort port.toNat (fun p => { p with
      heraldCredit := true, heldFrame := none, frameTries := 0, busy := false }) s) := by
  rw [creditFrame_returns h hst hheld, kickFrames, getPort_modPort_self _ _ _ (by omega)]
  simp only [hnone]

/-- The herald at the head of VC0 goes as a frame. -/
theorem creditFrame_sends (hport : s.HasPort port.toNat) {o : OutPkt} {rest : List OutPkt}
    (hst : (getPort port.toNat s).st = .lpi ∨ (getPort port.toNat s).st = .sleep)
    (hhead : (getPort port.toNat s).outq.getD 0 [] = o :: rest)
    (hheld : (getPort port.toNat s).heldFrame = none ∨ (getPort port.toNat s).busy = false) :
    ∃ t, Machine.exec (.creditFrame port) s = .next t ∧ t.out = .frame port (.herald o.pkt) :: s.out ∧
      slotless (getPort port.toNat t) = slotless { getPort port.toNat s with
        outq := setAt 0 rest (getPort port.toNat s).outq, heraldCredit := false, heldFrame := some o.pkt, frameTries := 0, busy := false } := by
  refine ⟨_, creditFrame_returns h hst hheld, ?_⟩
  have hback := getPort_modPort_self port.toNat (fun p : Port => { p with
    heraldCredit := true, heldFrame := none, frameTries := 0, busy := false }) s (by omega)
  rw [kickFrames, hback]
  simp only [hhead, quiet_condition hst, Bool.and_self, if_true]
  refine ⟨?_, ?_⟩
  · simp [sendFrame, emit, freeFrom_out]
  · refine (freeFrom_slotless _ _ _).trans ?_
    rw [getPort_modPort_self _ _ _ (by rw [modPort_ports, modAt_length]; omega), hback]

/-- A CREDIT after a BUSY sends the frame that was refused again (07:R194; log 85). -/
theorem creditFrame_repeats {q : Packet} (hst : (getPort port.toNat s).st = .lpi ∨ (getPort port.toNat s).st = .sleep)
    (hheld : (getPort port.toNat s).heldFrame = some q) (hbusy : (getPort port.toNat s).busy = true) :
    Machine.exec (.creditFrame port) s = .next (sendFrame port.toNat (.herald q)
      (modPort port.toNat (fun p => { p with heraldCredit := false, frameTries := 0, busy := false }) s)) := by
  refine (live_runs h).trans ?_
  rw [onlyIf_true (quiet_condition hst), creditBack]
  simp only [hheld, hbusy]

theorem heraldFrameTimeout_held {q : Packet} (hheld : (getPort port.toNat s).heldFrame = some q) :
    Machine.exec (.heraldFrameTimeout port) s = .next (
      if ((getPort port.toNat s).st = .lpi || (getPort port.toNat s).st = .sleep) && !(getPort port.toNat s).busy &&
        decide ((getPort port.toNat s).frameTries < 4)
      then sendFrame port.toNat (.herald q) (modPort port.toNat (fun p => { p with frameTries := p.frameTries + 1 }) s) else s) := by
  change execHeraldFrameTimeout port s = _
  unfold execHeraldFrameTimeout
  rw [live_runs h]
  simp only [hheld]

/-- 07:R194: an unanswered herald goes again, four times at most. -/
theorem heraldFrameTimeout_repeats {q : Packet} (hst : (getPort port.toNat s).st = .lpi ∨ (getPort port.toNat s).st = .sleep)
    (hheld : (getPort port.toNat s).heldFrame = some q) (hbusy : (getPort port.toNat s).busy = false)
    (htries : (getPort port.toNat s).frameTries < 4) : Machine.exec (.heraldFrameTimeout port) s =
      .next (sendFrame port.toNat (.herald q) (modPort port.toNat (fun p => { p with frameTries := p.frameTries + 1 }) s)) := by
  rw [heraldFrameTimeout_held h hheld, if_pos]
  simpa [hbusy, htries] using hst

theorem heraldFrameTimeout_rests {q : Packet} (hheld : (getPort port.toNat s).heldFrame = some q)
    (hrest : (getPort port.toNat s).busy = true ∨ 4 ≤ (getPort port.toNat s).frameTries) :
    Machine.exec (.heraldFrameTimeout port) s = .next s := by
  rw [heraldFrameTimeout_held h hheld, if_neg]
  obtain hrest | hrest := hrest
  · simp [hrest]
  · simp [Nat.not_lt.2 hrest]

/-- 07:R193: DEEP moves the link to SLEEP. -/
theorem deepFrame_sleeps (hport : s.HasPort port.toNat) (hst : (getPort port.toNat s).st = .lpi) :
    ∃ t, Machine.exec (.deepFrame port) s = .next t ∧ (getPort port.toNat t).st = .sleep ∧ (getPort port.toNat t).heraldCredit = true ∧
    (port.toNat < 6 → (getPort (port.toNat + 6) s).st = .lpi → (getPort (port.toNat + 6) t).st = .dark) := by
  have hself := getPort_modPort_self port.toNat (fun p : Port => { p with st := .sleep, heraldCredit := true }) s (by omega)
  refine ⟨_, (live_runs h).trans (congrArg Host.Outcome.next (onlyIf_true (by simpa using hst))), ?_⟩
  extract_lets s1
  split
  · next hnative =>
    refine ⟨?_, ?_, fun _ hmember => ?_⟩
    · rw [getPort_modPort_other _ _ _ _ (by omega), hself]
    · rw [getPort_modPort_other _ _ _ _ (by omega), hself]
    · have hother : getPort (port.toNat + 6) s1 = getPort (port.toNat + 6) s := getPort_modPort_other _ _ _ _ (by omega)
      rw [getPort_modPort_self _ _ _ (by rw [modPort_ports, modAt_length]; omega), hother, if_pos hmember]
  · next hbridge => exact ⟨by rw [hself], by rw [hself], fun hnative => absurd hnative hbridge⟩

/-- 07:R547. -/
theorem resumeFrame_leaves (hst : (getPort port.toNat s).st = .lpi ∨ (getPort port.toNat s).st = .sleep) (hr : routerRuns s = true) :
    Machine.exec (.resumeFrame port) s = .next (leaveBoth port.toNat (sendFrame port.toNat .resume s)) :=
  (live_runs h).trans (congrArg Host.Outcome.next (resumeFrom_awake hst hr))

theorem resumeFrame_asleep (hsleep : asleep s = true) : Machine.exec (.resumeFrame port) s = .next s := by
  refine (live_runs h).trans (congrArg Host.Outcome.next (if_pos ?_))
  simp [routerRuns_of_asleep hsleep]

/-- 07:R192: an engine that is awake answers WAKE as it answers RESUME. -/
theorem wakeFrame_awake (hst : (getPort port.toNat s).st = .lpi ∨ (getPort port.toNat s).st = .sleep) (hr : routerRuns s = true) :
    Machine.exec (.wakeFrame port) s = .next (leaveBoth port.toNat (sendFrame port.toNat .resume s)) := by
  refine (live_runs h).trans ?_
  rw [onlyIf_true (quiet_condition hst), asleep_of_routerRuns hr, if_neg Bool.false_ne_true, resumeFrom_awake hst hr]

/-- 02:R36: to an engine that sleeps WAKE is a wake request, cause 0x3. -/
theorem wakeFrame_asleep (hst : (getPort port.toNat s).st = .lpi ∨ (getPort port.toNat s).st = .sleep) (hsleep : asleep s = true)
    (ht : s.kp.trans = .none) : Machine.exec (.wakeFrame port) s =
      .next { s with kp := { s.kp with idleSince := now s, trans := .wake 3 (now s), lastWake := 3 } } := by
  refine (live_runs h).trans ?_
  rw [onlyIf_true (quiet_condition hst), if_pos hsleep, wakeSource_asleep hsleep (by simp [ht])]

end

/-- Settles O40, frame by frame. -/
theorem sleepFrames : Obligations.SleepFrames := by
  unfold Obligations.SleepFrames
  intro port s h hport i p quiet
  have hi : i < s.ports.length := by omega
  refine ⟨fun hq hnone hheld => creditFrame_idle h hport hq hnone hheld, fun o rest hq hhead _ hheld => ?_, fun q hq hheld hbusy => ?_,
    live_runs h, fun q hheld => ⟨fun hq hbusy htries => ?_, fun hrest => heraldFrameTimeout_rests h hheld hrest⟩,
    fun hq hsleep ht => wakeFrame_asleep h hq hsleep ht, fun hlpi hr => ?_, fun hsleep hr => ?_,
    fun hsleep => resumeFrame_asleep h hsleep, fun hlpi => deepFrame_sleeps h hport hlpi, fun hlpi => ?_⟩
  · obtain ⟨t, hexec, hout, hslots⟩ := creditFrame_sends h hport hq hhead hheld
    exact ⟨t, hexec, hout, (congrArg Port.outq hslots :), (congrArg Port.heraldCredit hslots :), (congrArg Port.heldFrame hslots :),
      (congrArg Port.frameTries hslots :), (congrArg Port.busy hslots :), (congrArg Port.st hslots :)⟩
  · exact ⟨_, creditFrame_repeats h hq hheld hbusy, by simp [sendFrame, emit], getPort_modPort_self i _ s hi⟩
  · exact ⟨_, heraldFrameTimeout_repeats h hq hheld hbusy htries, by simp [sendFrame, emit], getPort_modPort_self i _ s hi⟩
  · have hst : (getPort i (leaveBoth i (sendFrame i .resume s))).st = identityState s i :=
      (leaveBoth_st i _).trans (leaveSleep_lpi (s := sendFrame i .resume s) hi hlpi)
    exact ⟨_, _, wakeFrame_awake h (.inl hlpi) hr, resumeFrame_leaves h (.inl hlpi) hr, hst, hst⟩
  · exact ⟨_, resumeFrame_leaves h (.inr hsleep) hr,
      (leaveBoth_st i _).trans (leaveSleep_sleep (s := sendFrame i .resume s) hi hsleep)⟩
  · refine (live_runs h).trans (congrArg Host.Outcome.next (onlyIf_false ?_))
    simpa using hlpi

end Sys2Proof.Proofs

/-! Training and the end of a link (07:R180 to R182, R191, R195; 02:R49; 16:R454): what an entry into DOWN and the end of a training leave,
and O42 from them. -/

namespace Sys2Proof.Proofs

open Sys2Proof Sys2Proof.Machine Sys2Proof.Laws

/-! ## The entry into DOWN -/

/-- A port as it enters DOWN (07:R195). -/
def downPort (p : Port) : Port :=
  { p with st := .down, width := 0, training := none, ident := .down, cnt := { p.cnt with downs := satInc p.cnt.downs } }

/-- The log record, the link test and the probe reach no port (07:R195; 16 Table 16-1). -/
theorem linkDown_fabric (i : Nat) (cause : Byte) (s : State) : fabric (linkDown i cause s) =
    fabric (modPort i (fun p => { p with cause := cause }) (abandonPort i (modPort i downPort s))) := by
  unfold linkDown
  extract_lets s1 s2 s3 u s4
  have h3 : fabric s3 = fabric (modPort i (fun p => { p with cause := cause }) s2) := linkEvent_fabric ..
  have h4 : fabric s4 = fabric s3 := by
    unfold s4
    split
    · rfl
    · refine (startTest_fabric ..).trans ?_
      split
      · rfl
      · exact logError_fabric ..
  exact (sendProbe_fabric ..).trans (h4.trans h3)

theorem linkDown_lines (i : Nat) (cause : Byte) (s : State) : lines (linkDown i cause s) = lines (modPort i downPort s) :=
  (lines_of_fabric (linkDown_fabric i cause s)).trans ((modPort_lines i _).trans (abandonPort_lines i _))

/-- The port is in DOWN, dark, with the cause recorded (07:R195). -/
theorem linkDown_port {i : Nat} {s : State} (hi : i < s.ports.length) (cause : Byte) :
    (getPort i (linkDown i cause s)).st = .down ∧ (getPort i (linkDown i cause s)).width = 0 ∧
      (getPort i (linkDown i cause s)).cause = cause := by
  have hline := getPort_modPort_line hi (linkDown_lines i cause s)
  have hlen : i < (abandonPort i (modPort i downPort s)).ports.length := by
    rw [ports_length_of_lines (abandonPort_lines ..), modPort_ports, modAt_length]
    exact hi
  refine ⟨st_of_line hline, width_of_line hline, ?_⟩
  rw [getPort_of_fabric (linkDown_fabric i cause s), getPort_modPort_self _ _ _ hlen]

/-- Every other line stays. -/
theorem linkDown_other {i j : Nat} (hij : j ≠ i) (cause : Byte) (s : State) :
    lineOf (getPort j (linkDown i cause s)) = lineOf (getPort j s) := by
  rw [line_of_lines (linkDown_lines i cause s), getPort_modPort_other _ _ _ _ hij]

/-- Two ports enter DOWN one after the other. -/
theorem linkDown_both {i j : Nat} (hij : i ≠ j) {s : State} (hi : i < s.ports.length) (hj : j < s.ports.length) (a b : Byte) :
    ((getPort i (linkDown j b (linkDown i a s))).st = .down ∧ (getPort i (linkDown j b (linkDown i a s))).width = 0) ∧
    (getPort j (linkDown j b (linkDown i a s))).st = .down ∧ (getPort j (linkDown j b (linkDown i a s))).width = 0 := by
  have hlen : (linkDown i a s).ports.length = s.ports.length := by
    rw [ports_length_of_lines (linkDown_lines i a s), modPort_ports, modAt_length]
  obtain ⟨hsti, hwi, -⟩ := linkDown_port hi a
  obtain ⟨hstj, hwj, -⟩ := linkDown_port (s := linkDown i a s) (by rw [hlen]; exact hj) b
  have hline := linkDown_other hij b (linkDown i a s)
  exact ⟨⟨(st_of_line hline).trans hsti, (width_of_line hline).trans hwi⟩, hstj, hwj⟩

/-! ## Training -/

/-- A port whose training has ended, and that has sent no IDENTITY yet (07:R180 to R182; 08:R208). -/
def trainedPort (t : Training) (used lanes : Byte) (p : Port) : Port :=
  restartCredit ((if t.fromUp then id else restartGroups) { p with
    st := .held, width := widthOf used, training := none, savedEq := p.savedEq ||| lanes
    lanesLost := if widthOf used = 8 then 0 else ~~~ used })

theorem lineOf_trainedPort (t : Training) (used lanes : Byte) (p : Port) : lineOf (trainedPort t used lanes p) =
    { lineOf p with st := .held, width := widthOf used, training := none, savedEq := p.savedEq ||| lanes } := by
  unfold trainedPort
  split <;> rfl

/-- A port that may ask for LPI keeps its line (07:R192). -/
theorem askLpi_lines (i : Nat) (s : State) : lines (askLpi i s) = lines s := by
  unfold askLpi
  split
  · exact (sendCtrl_sends ..).lines.trans (modPort_lines i s)
  · rfl

/-- A training that goes on, and is counted (07:R180). -/
def retrained (u : Training) (p : Port) : Port := { p with training := some u, cnt := { p.cnt with retrains := satInc p.cnt.retrains } }

/-- A step of a training that times out (07:R180; 02:R49). -/
def stepFails (i : Nat) (t : Training) (s : State) : State :=
  if t.saved then linkEvent i 0x0203 8 (modPort i (retrained { t with saved := false, attempt := 1 }) s)
  else if t.attempt < 3 then modPort i (retrained { t with attempt := t.attempt + 1 }) s
  else linkDown i 1 s

section
variable {port : BitVec 4} {s : State} (h : s.Runs)
include h

/-- 07:R180: a port that may train begins at a signal and at each retry; another does not. -/
theorem training_begins (hmay : mayTrain s port.toNat = true) :
    Machine.exec (.signalDetect port) s = .next (modPort port.toNat beginFull s) ∧
      Machine.exec (.trainingRetry port) s = .next (modPort port.toNat beginFull s) :=
  ⟨(live_runs h).trans (congrArg Host.Outcome.next (onlyIf_true hmay)), (live_runs h).trans (congrArg Host.Outcome.next (onlyIf_true hmay))⟩

theorem training_refused (hnot : mayTrain s port.toNat = false) :
    Machine.exec (.signalDetect port) s = .next s ∧ Machine.exec (.trainingRetry port) s = .next s :=
  ⟨(live_runs h).trans (congrArg Host.Outcome.next (onlyIf_false hnot)), (live_runs h).trans (congrArg Host.Outcome.next (onlyIf_false hnot))⟩

/-- 07:R180 to R182: the port takes its width, sends IDENTITY, and settles as the check says; what follows leaves the lines. -/
theorem trainingDone_settles {t : Training} {lanes : Byte} (ht : (getPort port.toNat s).training = some t)
    (hw : 0 < widthOf (lanesUsed (getPort port.toNat s) t lanes)) : ∃ u, Machine.exec (.trainingDone port lanes) s = .next u ∧
      lines u = lines (settleIdentity port.toNat (sendIdentity port.toNat
        (modPort port.toNat (trainedPort t (lanesUsed (getPort port.toNat s) t lanes) lanes) s))) := by
  have hexec : Machine.exec (.trainingDone port lanes) s = execTrainingDone port lanes s := rfl
  unfold execTrainingDone at hexec
  rw [live_runs h] at hexec
  simp only [ht, if_neg hw.ne'] at hexec
  refine ⟨_, hexec, ?_⟩
  simp only [apply_ite lines, linkEvent_lines, askLpi_lines, ite_self]
  rfl

/-- What the end of a training leaves of its port. -/
theorem trainingDone_port (hport : s.HasPort port.toNat) {t : Training} {lanes : Byte}
    (ht : (getPort port.toNat s).training = some t) (hw : 0 < widthOf (lanesUsed (getPort port.toNat s) t lanes)) :
    ∃ u, Machine.exec (.trainingDone port lanes) s = .next u ∧ (getPort port.toNat u).st = identityState u port.toNat ∧
      lineOf (getPort port.toNat u) = { lineOf (getPort port.toNat s) with
        st := (getPort port.toNat u).st, width := widthOf (lanesUsed (getPort port.toNat s) t lanes), training := none
        savedEq := (getPort port.toNat s).savedEq ||| lanes } := by
  obtain ⟨u, hexec, hu⟩ := trainingDone_settles h ht hw
  generalize hv : sendIdentity port.toNat _ = v at hu
  have hlines : lines v = lines (modPort port.toNat (trainedPort t (lanesUsed (getPort port.toNat s) t lanes) lanes) s) := by
    rw [← hv]
    exact (sendIdentity_sends ..).lines
  have hlen : port.toNat < v.ports.length := by
    rw [ports_length_of_lines hlines, modPort_ports, modAt_length]
    omega
  have hline := (getPort_modPort_line (by omega) hlines).trans (lineOf_trainedPort ..)
  have hlast := (line_of_lines hu port.toNat).trans (settleIdentity_line hlen)
  have hst : (getPort port.toNat u).st = identityState v port.toNat := (congrArg Port.st hlast :)
  refine ⟨u, hexec, ?_, ?_⟩
  · rw [hst, identityState_of_lines hu, identityState_settleIdentity hlen]
  · rw [hst, hlast, hline]

theorem trainingDone_untrained {lanes : Byte} (ht : (getPort port.toNat s).training = none) :
    Machine.exec (.trainingDone port lanes) s = .next s := by
  change execTrainingDone port lanes s = _
  unfold execTrainingDone
  rw [live_runs h]
  simp only [ht]

theorem trainingDone_unlocked {t : Training} {lanes : Byte} (ht : (getPort port.toNat s).training = some t)
    (hw : widthOf (lanesUsed (getPort port.toNat s) t lanes) = 0) : Machine.exec (.trainingDone port lanes) s = .next s := by
  change execTrainingDone port lanes s = _
  unfold execTrainingDone
  rw [live_runs h]
  simp only [ht, hw, if_true]

theorem trainingStepTimeout_untrained (ht : (getPort port.toNat s).training = none) :
    Machine.exec (.trainingStepTimeout port) s = .next s := by
  change execTrainingStepTimeout port s = _
  unfold execTrainingStepTimeout
  rw [live_runs h]
  simp only [ht]

theorem trainingStepTimeout_fails {t : Training} (ht : (getPort port.toNat s).training = some t) :
    Machine.exec (.trainingStepTimeout port) s = .next (stepFails port.toNat t s) := by
  change execTrainingStepTimeout port s = _
  unfold execTrainingStepTimeout
  rw [live_runs h]
  simp only [ht]
  rfl

/-! ## Loss of lock, and ends of links -/

/-- 07:R182, R195: what LOCK_LOSS does on a port that carries flits. -/
theorem lockLoss_carrying {lanes : Byte} (hc : carries (getPort port.toNat s) = true) (hw : (getPort port.toNat s).width = 8)
    (hlanes : lanes ≠ 0) : Machine.exec (.lockLoss port lanes) s = .next (
      if lanes &&& 0x0F ≠ 0 && lanes &&& 0xF0 ≠ 0 then linkDown port.toNat 4 s
      else
        (((getPort port.toNat s).retry.filter fun x =>
          ((getPort port.toNat s).txStream ++ (getPort port.toNat s).txIns).any fun f => f.num = x.1).map (fun x => x.2) ++
          (getPort port.toNat s).outq.flatten).foldl (fun t x => degradePacket x.pkt t)
          (modPort port.toNat (fun p => { beginTraining (p.st = .up) true p with lanesLost := lanes }) s)) := by
  change execLockLoss port lanes s = _
  unfold execLockLoss
  rw [live_runs h, onlyIf_true (by simpa [hc] using hlanes)]
  simp [hw]

/-- One half retrains (07:R182). -/
theorem lockLoss_half (hport : s.HasPort port.toNat) {lanes : Byte} (hc : carries (getPort port.toNat s) = true)
    (hw : (getPort port.toNat s).width = 8) (hlanes : lanes ≠ 0) (hhalf : (lanes &&& 0x0F ≠ 0 && lanes &&& 0xF0 ≠ 0) = false) :
    ∃ t, Machine.exec (.lockLoss port lanes) s = .next t ∧ (getPort port.toNat t).st = .training := by
  refine ⟨_, lockLoss_carrying h hc hw hlanes, ?_⟩
  rw [if_neg (by rw [hhalf]; decide)]
  refine (congrArg Port.st (getPort_of_fabric (foldl_frame (π := fabric) fun t (x : OutPkt) => degradePacket_fabric x.pkt t) _)).trans ?_
  rw [getPort_modPort_self _ _ _ (by omega)]
  rfl

/-- Both halves end the link (07:R195). -/
theorem lockLoss_whole {lanes : Byte} (hc : carries (getPort port.toNat s) = true) (hw : (getPort port.toNat s).width = 8)
    (hlanes : lanes ≠ 0) (hwhole : (lanes &&& 0x0F ≠ 0 && lanes &&& 0xF0 ≠ 0) = true) :
    Machine.exec (.lockLoss port lanes) s = .next (linkDown port.toNat 4 s) := by
  rw [lockLoss_carrying h hc hw hlanes, if_pos hwhole]

/-- 07:R195. -/
theorem farGone_ends (hst : (getPort port.toNat s).st = .up ∨ (getPort port.toNat s).st = .lpi ∨ (getPort port.toNat s).st = .sleep) :
    Machine.exec (.farGone port) s = .next (linkDown port.toNat 6 s) := by
  refine (live_runs h).trans (congrArg Host.Outcome.next (onlyIf_true ?_))
  obtain hst | hst | hst := hst <;> simp [carries, hst]

/-- 07:R191: both ports of a bridge unit that are UP enter DOWN. -/
theorem gb2Fault_ends (hrails : s.boot.runRails = 2) {unit : BitVec 2}
    (hfirst : (getPort (6 + 2 * unit.toNat) s).st = .up) (hsecond : (getPort (7 + 2 * unit.toNat) s).st = .up) :
    Machine.exec (.gb2Fault unit) s = .next (linkDown (7 + 2 * unit.toNat) 0x0B (linkDown (6 + 2 * unit.toNat) 0x0B s)) := by
  have hline := linkDown_other (i := 6 + 2 * unit.toNat) (j := 7 + 2 * unit.toNat) (by omega) 0x0B s
  have hstill : (getPort (7 + 2 * unit.toNat) (linkDown (6 + 2 * unit.toNat) 0x0B s)).st = .up :=
    (st_of_line hline).trans hsecond
  refine (live_runs h).trans ?_
  rw [onlyIf_true (by simpa using hrails)]
  simp only [List.foldl_cons, List.foldl_nil, hfirst, hstill, reduceCtorEq, decide_false, Bool.or_self, Bool.false_eq_true, if_false]

end

/-- A retired port, one that is not DOWN, and one of an engine that sleeps may not train (07:R180; 16:R454). -/
theorem mayTrain_refuses {i : Nat} {s : State} (hno : (getPort i s).retired = true ∨ (getPort i s).st ≠ .down ∨ routerRuns s = false) :
    mayTrain s i = false := by
  unfold mayTrain
  obtain hno | hno | hno := hno <;> simp [hno]

/-- Settles O42, row by row: the end of a training by the check of identity, the ends of links by the entry into DOWN. -/
theorem linkTraining : Obligations.LinkTraining := by
  unfold Obligations.LinkTraining
  intro port s h hport i p down
  have hi : i < s.ports.length := by omega
  have hdown {t : State} {cause : Byte} (ht : t = linkDown i cause s) : down t i ∧ (getPort i t).cause = cause := by
    obtain ⟨hst, hw, hcause⟩ := linkDown_port hi cause
    subst ht
    exact ⟨⟨hst, hw⟩, hcause⟩
  refine ⟨fun hmay => ?begins, fun hno => training_refused h (mayTrain_refuses hno), fun t lanes ht hw => ?done,
    fun lanes ht => trainingDone_untrained h ht, fun t lanes ht hw => trainingDone_unlocked h ht hw, by decide, by decide, by decide,
    by decide, trainingStepTimeout_untrained h, fun t ht => ?step, fun hst hw => ?lock, ?nothing, fun hst => ?far, fun hst => ?dead,
    fun hrails unit hunit hfirst hsecond => ?fault, fun hrails unit => ?single⟩
  case begins =>
    obtain ⟨hsignal, hretry⟩ := training_begins h hmay
    exact ⟨hsignal, hretry, rfl, rfl⟩
  case done =>
    obtain ⟨u, hexec, hst, hline⟩ := trainingDone_port h hport ht hw
    exact ⟨u, hexec, (congrArg Port.width hline :), (congrArg Port.training hline :), hst, (congrArg Port.savedEq hline :)⟩
  case step =>
    have hexec := trainingStepTimeout_fails h ht
    refine ⟨fun hsaved => ?_, fun hsaved hfew => ?_, fun hsaved hmany => ?_⟩
    · rw [stepFails, if_pos hsaved] at hexec
      exact ⟨_, hexec, (congrArg Port.training (getPort_modPort_line hi (linkEvent_lines ..)) :)⟩
    · rw [stepFails, if_neg (by simp [hsaved]), if_pos hfew] at hexec
      refine ⟨_, hexec, ?_, ?_⟩ <;> rw [getPort_modPort_self _ _ _ hi] <;> rfl
    · rw [stepFails, if_neg (by simp [hsaved]), if_neg (by omega)] at hexec
      exact ⟨_, hexec, hdown rfl⟩
  case lock =>
    have hc : carries (getPort i s) = true := by simp [carries, show (getPort i s).st = .up from hst]
    obtain ⟨t, hexec, htrains⟩ := lockLoss_half h hport (lanes := 0x01) hc hw (by decide) (by decide)
    exact ⟨t, _, hexec, htrains, lockLoss_whole h (lanes := 0x11) hc hw (by decide) (by decide), hdown rfl⟩
  case nothing => exact (live_runs h).trans (congrArg Host.Outcome.next (onlyIf_false (by simp)))
  case far => exact ⟨_, farGone_ends h hst, hdown rfl⟩
  case dead =>
    refine (live_runs h).trans (congrArg Host.Outcome.next (onlyIf_false ?_))
    simp [carries, show (getPort port.toNat s).st = .down from hst]
  case fault =>
    have hu : unit.toNat < 3 := by
      have := unit.isLt
      have : unit.toNat ≠ 3 := fun hc => hunit (BitVec.eq_of_toNat_eq hc)
      omega
    exact ⟨_, gb2Fault_ends h hrails hfirst hsecond, linkDown_both (by omega) (by omega) (by omega) _ _⟩
  case single => exact (live_runs h).trans (congrArg Host.Outcome.next (onlyIf_false (by simpa using hrails)))

end Sys2Proof.Proofs

/-! Control flits and flit groups of a link (07:R183 to R186, R188, R189, R192; 08:R204 to R208): what a flit does by its check and the
state of its port, what an acknowledgement retires, what a replay sends, how a group is taken, and O41 from them. The places of the fields
in an IDENTITY flit are log 23, the order of the symbols of a codeword log 82. -/

namespace Sys2Proof.Proofs

open Sys2Proof Sys2Proof.Machine Sys2Proof.Laws

/-! ## Ports updated twice -/

theorem modAt_modAt {α : Type} (f g : α → α) (i : Nat) (l : List α) : modAt f i (modAt g i l) = modAt (f ∘ g) i l := by
  induction l generalizing i with
  | nil => simp [modAt]
  | cons x r ih => cases i <;> simp [modAt, ih]

theorem modPort_modPort (f g : Port → Port) (i : Nat) (s : State) : modPort i f (modPort i g s) = modPort i (f ∘ g) s :=
  congrArg (fun l => ({ s with ports := l } : State)) (modAt_modAt f g i s.ports)

/-! ## Acknowledgements -/

/-- A port but for what is kept of its groups until they are acknowledged. -/
def unackedPort (p : Port) : Port := { p with txGroups := [], txAcked := 0, ackTimeouts := 0, replaySame := 0, retry := [] }

/-- 07:R184: an acknowledgement changes what is kept, and nothing else of its port. -/
theorem ackGroups_unacked (a : W16) (p : Port) : unackedPort (ackGroups a p) = unackedPort p := by
  unfold ackGroups
  extract_lets keep
  split <;> rfl

/-- 07:R184: the groups up to the one named leave. -/
theorem ackGroups_txGroups (a : W16) (p : Port) : (ackGroups a p).txGroups = p.txGroups.filter fun g => !groupLe g.seq a := by
  unfold ackGroups
  extract_lets keep
  split
  · next hall => exact (List.filter_eq_self.2 (List.length_filter_eq_length_iff.1 hall)).symm
  · rfl

theorem ackGroups_queues (a : W16) (p : Port) :
    (ackGroups a p).outq = p.outq ∧ (ackGroups a p).txStream = p.txStream ∧ (ackGroups a p).txIns = p.txIns :=
  ⟨(congrArg Port.outq (ackGroups_unacked a p) :), (congrArg Port.txStream (ackGroups_unacked a p) :),
    (congrArg Port.txIns (ackGroups_unacked a p) :)⟩

/-! ## Flits by their check -/

/-- A port that has counted a flit or a group whose check fails, in window `w` (07:R186, R198). -/
def failedPort (w : Nat) (p : Port) : Port :=
  let q := if p.winStart = w then p else { p with winStart := w, winErr := 0, winRaised := false }
  { q with winErr := q.winErr + 1, cnt := { q.cnt with crcErr := satInc q.cnt.crcErr } }

/-- Beside the counter only the window's record changes. -/
theorem failedPort_counts (w : Nat) (p : Port) : ∃ a b, failedPort w p = { p with
    winStart := w, winErr := a, winRaised := b, cnt := { p.cnt with crcErr := satInc p.cnt.crcErr } } ∧ a ≤ p.winErr + 1 := by
  unfold failedPort
  split
  · next hw => exact ⟨p.winErr + 1, p.winRaised, by rw [← hw], le_rfl⟩
  · exact ⟨1, false, rfl, by omega⟩

/-- 07:R186, R198: below the threshold of its window a failed check is counted, and that is all. -/
theorem crcFailed_counts {i : Nat} {s : State} (hi : i < s.ports.length) (hfew : (getPort i s).winErr < 31) :
    crcFailed i s = modPort i (failedPort (now s / 25000)) s := by
  obtain ⟨a, b, hport, ha⟩ := failedPort_counts (now s / 25000) (getPort i s)
  have hself : getPort i (modPort i (failedPort (now s / 25000)) s) = failedPort (now s / 25000) (getPort i s) :=
    getPort_modPort_self i _ s hi
  unfold crcFailed
  extract_lets w s1 p s2 u s3
  have herr : p.winErr < 32 := by
    have hp : p = failedPort (now s / 25000) (getPort i s) := hself
    rw [hp, hport]
    exact lt_of_le_of_lt ha (by omega)
  exact if_neg (by simp [Nat.not_le.2 herr])

section
variable {i : Nat} {s : State}

/-- 07:R192: a port in DOWN or LPI carries no control flits. -/
theorem onFlit_silent (hst : (getPort i s).st = .down ∨ (getPort i s).st = .lpi) (f : CtrlFlit) (act : State → State) :
    onFlit i f act s = s := by
  unfold onFlit
  obtain hst | hst := hst <;> simp [hst]

/-- 07:R186: a flit whose check fails is counted and dropped. -/
theorem onFlit_failed (hst : (getPort i s).st = .up) {f : CtrlFlit} (hf : f ≠ ctrlFlit f.type f.ackSeq f.retrySeq f.body)
    (act : State → State) : onFlit i f act s = crcFailed i s := by
  unfold onFlit
  rw [if_neg (by simp [hst]), if_pos hf]

/-- 07:R184: the acknowledgement in a flit counts in every type. -/
theorem onFlit_acts (hst : (getPort i s).st = .up) (type : Byte) (ack retry : W16) (body : BitVec 416) (act : State → State) :
    onFlit i (ctrlFlit type ack retry body) act s = act (modPort i (ackGroups ack) s) := by
  unfold onFlit
  rw [if_neg (by simp [hst])]
  exact if_neg fun hne => hne rfl

end

/-! ## The rows of control flits -/

/-- The far end's values, as an IDENTITY flit gives them (07 Table 7-5; log 23). -/
def identified (b : Nat) (p : Port) : Port := { p with
  farCoord := BitVec.ofNat 32 b, farDims := BitVec.ofNat 32 (b >>> 32), farPort := BitVec.ofNat 8 (b >>> 64)
  farRail := natBit 72 b, farSeen := true }

section
variable (port : BitVec 4) (f : CtrlFlit) {s : State} (h : s.Runs)
include h

theorem retryReq_runs : Machine.exec (.retryReq port f) s = .next (onFlit port.toNat f (replay port.toNat f.retrySeq) s) := live_runs h

theorem ack_runs : Machine.exec (.ack port f) s = .next (onFlit port.toNat f (fun s => s) s) := live_runs h

theorem credit_runs : Machine.exec (.credit port f) s = .next (onFlit port.toNat f (modPort port.toNat fun p => { p with
    txFreed := (List.range 4).map fun v => BitVec.ofNat 16 (f.body.toNat >>> (16 * v))
    rxCover := some (BitVec.ofNat 16 (f.body.toNat >>> 64), BitVec.ofNat 8 (f.body.toNat >>> 80)) }) s) := live_runs h

theorem identity_runs : Machine.exec (.identity port f) s = .next (onFlit port.toNat f (fun s =>
    let s1 := modPort port.toNat (identified f.body.toNat) s
    if (getPort port.toNat s1).st = .training then s1 else settleIdentity port.toNat s1) s) := live_runs h

theorem lpiReq_runs : Machine.exec (.lpiReq port f) s = .next (onFlit port.toNat f (fun s =>
    if carries (getPort port.toNat s) then answerLpi port.toNat (modPort port.toNat (fun p => { p with lpiAsked := true }) s)
    else s) s) := live_runs h

theorem lpiAck_runs : Machine.exec (.lpiAck port f) s = .next (onFlit port.toNat f (fun s =>
    if !carries (getPort port.toNat s) then s
    else if (getPort port.toNat s).lpiWanted then enterLpi port.toNat (sendCtrl port.toNat 6 0 s)
    else if (getPort port.toNat s).lpiSent then enterLpi port.toNat s else s) s) := live_runs h

/-- Every row of a control flit stands behind the flit's check. -/
theorem flitRow_checks : ∀ row ∈ ([.retryReq port f, .ack port f, .credit port f, .identity port f, .lpiReq port f, .lpiAck port f] : List Instr),
    ∃ act, Machine.exec row s = .next (onFlit port.toNat f act s) := by
  simp only [List.forall_mem_cons, List.not_mem_nil, false_imp_iff, implies_true, and_true]
  exact ⟨⟨_, retryReq_runs port f h⟩, ⟨_, ack_runs port f h⟩, ⟨_, credit_runs port f h⟩, ⟨_, identity_runs port f h⟩,
    ⟨_, lpiReq_runs port f h⟩, ⟨_, lpiAck_runs port f h⟩⟩

end

/-! ## Replays -/

theorem sendCredit_sends (i : Nat) (base : W16) (s : State) : Sends s (sendCredit i base s) :=
  (modPort_sends i s).trans (sendCtrl_sends ..)

theorem coverGroup_sends (i : Nat) (g : W16) (s : State) : Sends s (coverGroup i g s) := by
  unfold coverGroup
  split
  · exact .refl s
  · exact sendCredit_sends ..

/-- What leaves carries the data and the number given, and the check of both (07 Table 7-4). -/
def CarriesGroup (data : BitVec 2048) (seq : W16) (x : FlitGroup) : Prop :=
  x.data = data ∧ x.groupSeq = seq ∧ x.crc = groupCrc x.data x.groupSeq x.ackSeq

/-- A group leaves, on a bridge port with codewords behind it. -/
theorem emitGroup_out (i : Nat) (data : BitVec 2048) (seq : W16) (s : State) : ∃ more x,
    (emitGroup i data seq s).out = more ++ .group (BitVec.ofNat 4 i) x :: s.out ∧ CarriesGroup data seq x := by
  unfold emitGroup
  extract_lets ack g
  obtain ⟨more, hmore⟩ := (onBridge_sends i 2112 (data.toNat + seq.toNat * 2 ^ 2048 + ack.toNat * 2 ^ 2064 + g.crc.toNat * 2 ^ 2080)
    (emit (.group (BitVec.ofNat 4 i) g) s)).out
  exact ⟨more, g, hmore, rfl, rfl, rfl⟩

theorem emitGroup_sends (i : Nat) (data : BitVec 2048) (seq : W16) (s : State) : Sends s (emitGroup i data seq s) :=
  (emit_sends ..).trans (onBridge_sends ..)

/-- The kept groups of a list leave in order, each under a CREDIT flit that covers it (07:R184; 08:R205). -/
def resendAll (i : Nat) (l : List TxGroup) (s : State) : State :=
  l.foldl (fun t g => emitGroup i g.data g.seq (coverGroup i g.seq t)) s

theorem resendAll_sends (i : Nat) (l : List TxGroup) (s : State) : Sends s (resendAll i l s) := by
  induction l generalizing s with
  | nil => exact .refl s
  | cons g r ih => exact ((coverGroup_sends i g.seq s).trans (emitGroup_sends ..)).trans (ih _)

/-- Every group of the list is among what leaves. -/
theorem resendAll_out (i : Nat) (l : List TxGroup) (s : State) : ∃ more, (resendAll i l s).out = more ++ s.out ∧
    ∀ g ∈ l, ∃ x, .group (BitVec.ofNat 4 i) x ∈ more ∧ CarriesGroup g.data g.seq x := by
  induction l generalizing s with
  | nil => exact ⟨[], rfl, by simp⟩
  | cons g r ih =>
    obtain ⟨first, hfirst⟩ := (coverGroup_sends i g.seq s).out
    obtain ⟨more, y, hgroup, hy⟩ := emitGroup_out i g.data g.seq (coverGroup i g.seq s)
    obtain ⟨later, hlater, hall⟩ := ih (emitGroup i g.data g.seq (coverGroup i g.seq s))
    refine ⟨later ++ more ++ .group (BitVec.ofNat 4 i) y :: first, hlater.trans ?_,
      List.forall_mem_cons.2 ⟨⟨y, by simp, hy⟩, fun x hx => ?_⟩⟩
    · rw [hgroup, hfirst]
      simp
    · obtain ⟨z, hz, hcarries⟩ := hall x hx
      exact ⟨z, by simp [hz], hcarries⟩

/-- The replays in a row from one group, this one counted (07:R185). -/
def replayCount (first : W16) (p : Port) : Nat := if p.replayFrom = first ∧ p.replaySame ≠ 0 then p.replaySame + 1 else 1

/-- A port at the start of a replay of `n` groups, the `same`th from this one. -/
def replayPort (first : W16) (same n : Nat) (p : Port) : Port :=
  { p with replayFrom := first, replaySame := same
           cnt := { p.cnt with replays := satInc p.cnt.replays, replayed := satAdd p.cnt.replayed n } }

/-- The groups that are kept, from one on, go again (07:R184, R185). -/
def resend (i : Nat) (first : W16) (s : State) : State :=
  let again := (getPort i s).txGroups.filter fun g => groupLe first g.seq
  resendAll i again (modPort i (fun p => { p with txBase := none })
    (modPort i (replayPort first (replayCount first (getPort i s)) again.length) s))

/-- 07:R185, R195: the 16th replay in a row from one group ends the link. -/
theorem replay_eq (i : Nat) (first : W16) (s : State) : replay i first s =
    if 16 ≤ replayCount first (getPort i s) then linkDown i 2 (resend i first s) else resend i first s := by
  have hcount : (if (getPort i s).replayFrom = first && (getPort i s).replaySame ≠ 0 then (getPort i s).replaySame + 1 else 1) =
      replayCount first (getPort i s) := by
    unfold replayCount
    simp only [Bool.and_eq_true, decide_eq_true_eq]
  unfold replay
  dsimp only
  rw [hcount]
  rfl

section
variable {i : Nat} {s : State} (hi : i < s.ports.length) (first : W16)

theorem resend_length : (resend i first s).ports.length = s.ports.length := by
  unfold resend
  extract_lets again
  rw [ports_length_of_lines (resendAll_sends ..).lines, modPort_ports, modAt_length, modPort_ports, modAt_length]

theorem resend_out : ∃ more, (resend i first s).out = more ++ s.out ∧
    ∀ g ∈ (getPort i s).txGroups, groupLe first g.seq = true → ∃ x, .group (BitVec.ofNat 4 i) x ∈ more ∧ CarriesGroup g.data g.seq x := by
  obtain ⟨more, hout, hall⟩ := resendAll_out i ((getPort i s).txGroups.filter fun g => groupLe first g.seq)
    (modPort i (fun p => { p with txBase := none }) (modPort i (replayPort first (replayCount first (getPort i s))
      ((getPort i s).txGroups.filter fun g => groupLe first g.seq).length) s))
  exact ⟨more, hout, fun g hg hle => hall g (List.mem_filter.2 ⟨hg, hle⟩)⟩

include hi

/-- Of its port a replay changes the record of replays, and what sending changes. -/
theorem resend_port : ∃ n, unsentPort (getPort i (resend i first s)) =
    unsentPort (replayPort first (replayCount first (getPort i s)) n (getPort i s)) := by
  refine ⟨((getPort i s).txGroups.filter fun g => groupLe first g.seq).length, (Sends.port (resendAll_sends ..) i).trans ?_⟩
  rw [getPort_modPort_self _ _ _ (by rw [modPort_ports, modAt_length]; exact hi), getPort_modPort_self _ _ _ hi]
  rfl

/-- A replay ends the link, or leaves its state. -/
theorem replay_st : (getPort i (replay i first s)).st = .down ∨
    replay i first s = resend i first s ∧ (getPort i (replay i first s)).st = (getPort i s).st := by
  rw [replay_eq]
  split
  · exact .inl (linkDown_port (by rw [resend_length]; exact hi) 2).1
  · obtain ⟨n, hport⟩ := resend_port hi first
    exact .inr ⟨rfl, (congrArg Port.st hport :)⟩

end

/-! ## Flits that ask for LPI -/

/-- 07:R192: a port that is asked for LPI answers once nothing is queued for the link. -/
theorem answerLpi_answers {i : Nat} {s : State} (hasked : (getPort i s).lpiAsked = true)
    (hout : ((getPort i s).outq.all fun l => l.isEmpty) = true) (hstream : (getPort i s).txStream = []) (hins : (getPort i s).txIns = []) :
    answerLpi i s = sendCtrl i 6 0 (modPort i (fun p => { p with lpiAsked := false, lpiSent := true }) s) := by
  unfold answerLpi
  exact if_pos (by simp [hasked, hout, hstream, hins])

theorem answerLpi_waits {i : Nat} {s : State}
    (hbusy : ((getPort i s).outq.all fun l => l.isEmpty) = false ∨ (getPort i s).txStream ≠ [] ∨ (getPort i s).txIns ≠ []) :
    answerLpi i s = s := by
  unfold answerLpi
  refine if_neg ?_
  obtain hbusy | hbusy | hbusy := hbusy <;> simp [hbusy]

/-! ## Control flits at a port that is UP -/

/-- The port of a flit that acknowledges. -/
theorem acked_port {i : Nat} {s : State} (hi : i < s.ports.length) (ack : W16) :
    getPort i (modPort i (ackGroups ack) s) = ackGroups ack (getPort i s) := getPort_modPort_self _ _ _ hi

/-- An acknowledgement leaves the state of the port. -/
theorem acked_st {i : Nat} {s : State} (hi : i < s.ports.length) (hst : (getPort i s).st = .up) (ack : W16) :
    (getPort i (modPort i (ackGroups ack) s)).st = .up := by
  rw [acked_port hi]
  exact (congrArg Port.st (ackGroups_unacked ack (getPort i s)) :).trans hst

section
variable {port : BitVec 4} {s : State} (h : s.Runs) (hi : port.toNat < s.ports.length) (hst : (getPort port.toNat s).st = .up)
  (type : Byte) (ack retry : W16) (body : BitVec 416)
include h hst

/-- 07:R184: an acknowledgement alone. -/
theorem ack_acts : Machine.exec (.ack port (ctrlFlit type ack retry body)) s = .next (modPort port.toNat (ackGroups ack) s) := by
  rw [ack_runs _ _ h, onFlit_acts hst]

/-- 07:R184: a RETRY_REQ replays from the group that it names on. -/
theorem retryReq_acts : Machine.exec (.retryReq port (ctrlFlit type ack retry body)) s =
    .next (replay port.toNat retry (modPort port.toNat (ackGroups ack) s)) := by
  rw [retryReq_runs _ _ h, onFlit_acts hst]
  rfl

/-- 08:R205, R208. -/
theorem credit_acts : Machine.exec (.credit port (ctrlFlit type ack retry body)) s =
    .next (modPort port.toNat (fun p => { ackGroups ack p with
      txFreed := [body.setWidth 16, body.extractLsb' 16 16, body.extractLsb' 32 16, body.extractLsb' 48 16]
      rxCover := some (body.extractLsb' 64 16, body.extractLsb' 80 8) }) s) := by
  have hfirst : BitVec.ofNat 16 body.toNat = body.setWidth 16 := BitVec.ofNat_toNat 16 body
  rw [credit_runs _ _ h, onFlit_acts hst, modPort_modPort, ← hfirst]
  rfl

include hi

/-- 07:R181: IDENTITY gives the far end's values, and the port settles as the check says. -/
theorem identity_acts : ∃ t, Machine.exec (.identity port (ctrlFlit type ack retry body)) s = .next t ∧
    (getPort port.toNat t).st = identityState t port.toNat ∧
    farEnd (getPort port.toNat t) = farEnd (identified body.toNat (getPort port.toNat s)) := by
  have hlen : port.toNat < (modPort port.toNat (identified body.toNat) (modPort port.toNat (ackGroups ack) s)).ports.length := by
    simpa using hi
  have hport : getPort port.toNat (modPort port.toNat (identified body.toNat) (modPort port.toNat (ackGroups ack) s)) =
      identified body.toNat (ackGroups ack (getPort port.toNat s)) := by
    rw [getPort_modPort_self _ _ _ (by simpa using hi), acked_port hi]
  have hup : (getPort port.toNat (modPort port.toNat (identified body.toNat) (modPort port.toNat (ackGroups ack) s))).st ≠ .training := by
    rw [hport, show (identified body.toNat (ackGroups ack (getPort port.toNat s))).st = .up from
      (congrArg Port.st (ackGroups_unacked ack (getPort port.toNat s)) :).trans hst]
    decide
  refine ⟨_, (identity_runs _ _ h).trans (congrArg Host.Outcome.next ((onFlit_acts hst ..).trans (if_neg hup))), ?_, ?_⟩
  · exact (congrArg Port.st (settleIdentity_line hlen) :).trans (identityState_settleIdentity hlen).symm
  · exact (congrArg farEnd (settleIdentity_line hlen) :).trans (congrArg farEnd hport :)

/-- 07:R192: LPI_REQ is noted, and answered once nothing is queued. -/
theorem lpiReq_acts : Machine.exec (.lpiReq port (ctrlFlit type ack retry body)) s =
    .next (answerLpi port.toNat (modPort port.toNat (fun p => { ackGroups ack p with lpiAsked := true }) s)) := by
  rw [lpiReq_runs _ _ h, onFlit_acts hst, if_pos (by simp [carries, acked_st hi hst]), modPort_modPort]
  rfl

/-- 07:R192: LPI_ACK ends in LPI at the end that asked and at the end that has answered. -/
theorem lpiAck_acts (hlpi : (getPort port.toNat s).lpiWanted = true ∨ (getPort port.toNat s).lpiSent = true) :
    ∃ u, Machine.exec (.lpiAck port (ctrlFlit type ack retry body)) s = .next (enterLpi port.toNat u) ∧ u.ports.length = s.ports.length := by
  have hwanted : (ackGroups ack (getPort port.toNat s)).lpiWanted = (getPort port.toNat s).lpiWanted :=
    (congrArg Port.lpiWanted (ackGroups_unacked ack (getPort port.toNat s)) :)
  have hsent : (ackGroups ack (getPort port.toNat s)).lpiSent = (getPort port.toNat s).lpiSent :=
    (congrArg Port.lpiSent (ackGroups_unacked ack (getPort port.toNat s)) :)
  rw [lpiAck_runs _ _ h, onFlit_acts hst, if_neg (by simp [carries, acked_st hi hst]), acked_port hi, hwanted, hsent]
  by_cases hw : (getPort port.toNat s).lpiWanted = true
  · exact ⟨_, by rw [if_pos hw], by rw [ports_length_of_lines (sendCtrl_sends ..).lines, modPort_ports, modAt_length]⟩
  · exact ⟨_, by rw [if_neg hw, if_pos (hlpi.resolve_left hw)], by rw [modPort_ports, modAt_length]⟩

theorem lpiAck_ignored (hwanted : (getPort port.toNat s).lpiWanted = false) (hsent : (getPort port.toNat s).lpiSent = false) :
    Machine.exec (.lpiAck port (ctrlFlit type ack retry body)) s = .next (modPort port.toNat (ackGroups ack) s) := by
  have hunasked : (ackGroups ack (getPort port.toNat s)).lpiWanted = false :=
    (congrArg Port.lpiWanted (ackGroups_unacked ack (getPort port.toNat s)) :).trans hwanted
  have hunsent : (ackGroups ack (getPort port.toNat s)).lpiSent = false :=
    (congrArg Port.lpiSent (ackGroups_unacked ack (getPort port.toNat s)) :).trans hsent
  rw [lpiAck_runs _ _ h, onFlit_acts hst, if_neg (by simp [carries, acked_st hi hst]), acked_port hi, hunasked, hunsent]
  rfl

end

/-! ## Acknowledgements that stay out -/

theorem replayCount_le (first : W16) (p : Port) : replayCount first p ≤ p.replaySame + 1 := by
  unfold replayCount
  split <;> omega

/-- A port at the `n`th wait in a row without an acknowledgement (07:R185). -/
def lateAck (n : Nat) (p : Port) : Port := { p with ackTimeouts := n }

/-- 07:R185, R195: the fourth timeout in a row ends a link that the replay has left UP. -/
def afterTimeout (i n : Nat) (u : State) : State := if 4 ≤ n && (getPort i u).st = .up then linkDown i 3 u else u

section
variable {port : BitVec 4} {s : State} (h : s.Runs)
include h

theorem ackTimeout_idle (hnone : (getPort port.toNat s).txGroups = []) : Machine.exec (.ackTimeout port) s = .next s := by
  change execAckTimeout port s = _
  unfold execAckTimeout
  rw [live_runs h]
  simp only [hnone]

variable (hst : (getPort port.toNat s).st = .up) {g : TxGroup} {rest : List TxGroup}
  (hkept : (getPort port.toNat s).txGroups = g :: rest)
include hst hkept

/-- 07:R185: the replay begins at the oldest group that is kept. -/
theorem ackTimeout_replays : Machine.exec (.ackTimeout port) s = .next (afterTimeout port.toNat ((getPort port.toNat s).ackTimeouts + 1)
    (replay port.toNat g.seq (modPort port.toNat (lateAck ((getPort port.toNat s).ackTimeouts + 1)) s))) := by
  change execAckTimeout port s = _
  unfold execAckTimeout
  rw [live_runs h]
  simp only [hkept, hst]
  rfl

/-- A link that may go on has its groups sent again. -/
theorem ackTimeout_resends (hi : port.toNat < s.ports.length) (hfew : (getPort port.toNat s).ackTimeouts < 3)
    (hsame : (getPort port.toNat s).replaySame < 15) : Machine.exec (.ackTimeout port) s =
      .next (resend port.toNat g.seq (modPort port.toNat (lateAck ((getPort port.toNat s).ackTimeouts + 1)) s)) := by
  have hlate := getPort_modPort_self port.toNat (lateAck ((getPort port.toNat s).ackTimeouts + 1)) s hi
  have hcount : replayCount g.seq (getPort port.toNat (modPort port.toNat (lateAck ((getPort port.toNat s).ackTimeouts + 1)) s)) < 16 := by
    refine (replayCount_le _ _).trans_lt ?_
    rw [hlate]
    exact Nat.add_lt_add_right hsame 1
  rw [ackTimeout_replays h hst hkept, replay_eq, if_neg (by omega), afterTimeout, if_neg (by simp; omega)]

/-- 07:R185: every group that is kept, from the oldest on, is among what leaves. -/
theorem ackTimeout_sends_again (hi : port.toNat < s.ports.length) (hfew : (getPort port.toNat s).ackTimeouts < 3)
    (hsame : (getPort port.toNat s).replaySame < 15) :
    ∃ t more, Machine.exec (.ackTimeout port) s = .next t ∧ t.out = more ++ s.out ∧
      (∀ x ∈ (getPort port.toNat s).txGroups, groupLe g.seq x.seq = true →
        ∃ y : FlitGroup, .group port y ∈ more ∧ y.data = x.data ∧ y.groupSeq = x.seq) ∧
      (getPort port.toNat t).ackTimeouts = (getPort port.toNat s).ackTimeouts + 1 := by
  have hlate := getPort_modPort_self port.toNat (lateAck ((getPort port.toNat s).ackTimeouts + 1)) s hi
  have hexec := ackTimeout_resends h hst hkept hi hfew hsame
  generalize hu : modPort port.toNat (lateAck _) s = u at hlate hexec
  obtain ⟨more, hout, hall⟩ := resend_out g.seq (i := port.toNat) (s := u)
  obtain ⟨n, hsent⟩ := resend_port (i := port.toNat) (s := u) (by simpa [← hu] using hi) g.seq
  rw [hlate] at hall hsent
  refine ⟨_, more, hexec, by rw [hout, ← hu]; rfl, fun x hx hle => ?_, (congrArg Port.ackTimeouts hsent :)⟩
  obtain ⟨y, hy, hdata, hseq, -⟩ := hall x hx hle
  exact ⟨y, by rwa [ofNat_port] at hy, hdata, hseq⟩

/-- The fourth timeout in a row finds the link ended by its replay, or ends it. -/
theorem ackTimeout_ends (hi : port.toNat < s.ports.length) (hmany : 3 ≤ (getPort port.toNat s).ackTimeouts) :
    ∃ t, Machine.exec (.ackTimeout port) s = .next t ∧ (getPort port.toNat t).st = .down := by
  refine ⟨_, ackTimeout_replays h hst hkept, ?_⟩
  have hlate := getPort_modPort_self port.toNat (lateAck ((getPort port.toNat s).ackTimeouts + 1)) s hi
  have hlen : port.toNat < (modPort port.toNat (lateAck ((getPort port.toNat s).ackTimeouts + 1)) s).ports.length := by simpa using hi
  obtain hdown | ⟨hresend, hsame⟩ := replay_st hlen g.seq
  · rw [afterTimeout, if_neg (by simp [hdown])]
    exact hdown
  · have hup : (getPort port.toNat (replay port.toNat g.seq
        (modPort port.toNat (lateAck ((getPort port.toNat s).ackTimeouts + 1)) s))).st = .up := by
      rw [hsame, hlate]
      exact hst
    rw [afterTimeout, if_pos (by simp [hup]; omega)]
    exact (linkDown_port (by rw [hresend, resend_length]; exact hlen) 3).1

end

/-! ## Groups that come in -/

theorem modAt_getD_self {α : Type} (f : α → α) {i : Nat} {l : List α} (hi : i < l.length) (d : α) :
    (modAt f i l).getD i d = f (l.getD i d) := by
  simp [List.getD_eq_getElem?_getD, modAt_get, List.getElem?_eq_getElem hi]

/-- A port that has taken a group in order (07:R183; 08:R204, R208). -/
def tookGroup (ack : W16) (part : List (BitVec 512)) (ended : List Packet) (after : List (BitVec 512)) (p : Port) : Port :=
  ackGroups ack { p with rxNext := p.rxNext + 1, rxWaitReplay := false, rxFlits := after, rxHeld := takeSlots part ended after p.rxHeld }

section
variable {i : Nat} {g : FlitGroup} {s : State}

/-- 07:R183; 08:R204: a good group in order, no insertion group, whose flits end one packet. -/
theorem takeGroup_ends_packet {q : Packet} (hcrc : g.crc = groupCrc g.data g.groupSeq g.ackSeq)
    (hseq : g.groupSeq = (getPort i s).rxNext) (hmark : insertionMark (getPort i s) g.groupSeq = some false)
    (hcut : cutFlits (getPort i s).rxFlits (groupFlits g.data) = ([q], [])) : takeGroup i g s =
      modPort i (fun p => { p with inq := modAt (fun l => l ++ [q]) q.vc.toNat p.inq })
        (modPort i (tookGroup g.ackSeq (getPort i s).rxFlits [q] []) s) := by
  have hgood : (decide (g.crc = groupCrc g.data g.groupSeq g.ackSeq) && decide (g.groupSeq = (getPort i s).rxNext)) = true := by
    simp [← hcrc, ← hseq]
  unfold takeGroup
  dsimp only
  rw [hgood, if_pos rfl, hmark]
  simp only [Bool.false_eq_true, if_false, hcut]
  rfl

/-- 07:R183, R184: the first group whose check fails is counted and draws a RETRY_REQ. -/
theorem takeGroup_failed (hi : i < s.ports.length) (hst : (getPort i s).st = .up) (hcrc : g.crc ≠ groupCrc g.data g.groupSeq g.ackSeq)
    (hfirst : (getPort i s).rxWaitReplay = false) (hfew : (getPort i s).winErr < 31) : takeGroup i g s =
      emit (.ctrl (BitVec.ofNat 4 i) (ctrlFlit 2 (ackOf (getPort i s)) (getPort i s).rxNext 0))
        (modPort i (fun p => { p with rxWaitReplay := true, rxCover := none }) (modPort i (failedPort (now s / 25000)) s)) := by
  have hbad : (decide (g.crc = groupCrc g.data g.groupSeq g.ackSeq) && decide (g.groupSeq = (getPort i s).rxNext)) = false := by
    simp [hcrc]
  obtain ⟨a, b, hport, -⟩ := failedPort_counts (now s / 25000) (getPort i s)
  have hup : (getPort i (modPort i (failedPort (now s / 25000)) s)).st = .up := by
    rw [getPort_modPort_self _ _ _ hi, hport]
    exact hst
  unfold takeGroup
  dsimp only
  rw [hbad, if_neg Bool.false_ne_true]
  simp only [if_neg hcrc, crcFailed_counts hi hfew, hfirst, hup, Bool.false_or, ne_eq, not_true_eq_false, decide_false,
    Bool.false_eq_true, if_false]

end

section
variable {port : BitVec 4} {s : State} (h : s.Runs)
include h

/-- 07:R192: a port that is not UP takes no groups. -/
theorem group_ignored (hst : (getPort port.toNat s).st ≠ .up) (x : GroupInput) : Machine.exec (.group port x) s = .next s :=
  (live_runs h).trans (congrArg Host.Outcome.next (onlyIf_false (by simpa using hst)))

theorem group_takes (hst : (getPort port.toNat s).st = .up) (x : GroupInput) : Machine.exec (.group port x) s =
    .next (takeGroup port.toNat (groupInput port.toNat x s).1 (groupInput port.toNat x s).2) :=
  (live_runs h).trans (congrArg Host.Outcome.next (onlyIf_true (by simpa using hst)))

theorem group_frame (hst : (getPort port.toNat s).st = .up) (g : FlitGroup) :
    Machine.exec (.group port (.frame g)) s = .next (takeGroup port.toNat g s) := group_takes h hst _

/-- 07:R183; 08:R204: a good group in order advances the receiver, and the packet that it ends waits at the input. -/
theorem group_ends_packet (hi : port.toNat < s.ports.length) (hst : (getPort port.toNat s).st = .up) {g : FlitGroup} {q : Packet}
    (hcrc : g.crc = groupCrc g.data g.groupSeq g.ackSeq) (hseq : g.groupSeq = (getPort port.toNat s).rxNext)
    (hmark : insertionMark (getPort port.toNat s) g.groupSeq = some false)
    (hcut : cutFlits (getPort port.toNat s).rxFlits (groupFlits g.data) = ([q], [])) (hlen : (getPort port.toNat s).inq.length = 4) :
    ∃ t, Machine.exec (.group port (.frame g)) s = .next t ∧ (getPort port.toNat t).rxNext = (getPort port.toNat s).rxNext + 1 ∧
      (getPort port.toNat t).rxFlits = [] ∧
      (getPort port.toNat t).inq.getD q.vc.toNat [] = (getPort port.toNat s).inq.getD q.vc.toNat [] ++ [q] := by
  rw [group_frame h hst, takeGroup_ends_packet hcrc hseq hmark hcut]
  refine ⟨_, rfl, ?_⟩
  rw [getPort_modPort_self _ _ _ (by simpa using hi), getPort_modPort_self _ _ _ hi]
  generalize getPort port.toNat s = p at hlen
  have htook : unackedPort (tookGroup g.ackSeq p.rxFlits [q] [] p) = unackedPort { p with
      rxNext := p.rxNext + 1, rxWaitReplay := false, rxFlits := [], rxHeld := takeSlots p.rxFlits [q] [] p.rxHeld } :=
    ackGroups_unacked ..
  have hinq : (tookGroup g.ackSeq p.rxFlits [q] [] p).inq = p.inq := (congrArg Port.inq htook :)
  refine ⟨(congrArg Port.rxNext htook :), (congrArg Port.rxFlits htook :), ?_⟩
  dsimp only
  rw [hinq]
  exact modAt_getD_self _ (by omega) []

/-- 07:R183, R184: a group whose check fails leaves the receiver where it is, and draws a RETRY_REQ for the group awaited. -/
theorem group_failed (hi : port.toNat < s.ports.length) (hst : (getPort port.toNat s).st = .up) {g : FlitGroup}
    (hcrc : g.crc ≠ groupCrc g.data g.groupSeq g.ackSeq) (hfirst : (getPort port.toNat s).rxWaitReplay = false)
    (hfew : (getPort port.toNat s).winErr < 31) :
    ∃ t, Machine.exec (.group port (.frame g)) s = .next t ∧ (getPort port.toNat t).rxNext = (getPort port.toNat s).rxNext ∧
      (getPort port.toNat t).rxWaitReplay = true ∧ (getPort port.toNat t).inq = (getPort port.toNat s).inq ∧
      ∃ f, t.out = .ctrl port f :: s.out ∧ f.type = 2 ∧ f.retrySeq = (getPort port.toNat s).rxNext := by
  obtain ⟨a, b, hcounted, -⟩ := failedPort_counts (now s / 25000) (getPort port.toNat s)
  have hexec := group_frame h hst g
  rw [takeGroup_failed hi hst hcrc hfirst hfew, ofNat_port] at hexec
  have hport : getPort port.toNat (modPort port.toNat (fun p => { p with rxWaitReplay := true, rxCover := none })
      (modPort port.toNat (failedPort (now s / 25000)) s)) =
        { failedPort (now s / 25000) (getPort port.toNat s) with rxWaitReplay := true, rxCover := none } := by
    rw [getPort_modPort_self _ _ _ (by simpa using hi), getPort_modPort_self _ _ _ hi]
  rw [hcounted] at hport
  exact ⟨_, hexec, (congrArg Port.rxNext hport :), (congrArg Port.rxWaitReplay hport :), (congrArg Port.inq hport :), _, rfl, rfl, rfl⟩

/-- 07:R188, R189: codewords act as the group that they decode to, once the near GB2 has counted them. -/
theorem group_coded (hi : port.toNat < s.ports.length) (hst : (getPort port.toNat s).st = .up) (lanes : List (List (BitVec 10)))
    (start : Nat) : Machine.exec (.group port (.coded lanes start)) s =
      Machine.exec (.group port (.frame (groupInput port.toNat (.coded lanes start) s).1)) (groupInput port.toNat (.coded lanes start) s).2 := by
  have hcounted : (groupInput port.toNat (.coded lanes start) s).2.Runs ∧
      (getPort port.toNat (groupInput port.toNat (.coded lanes start) s).2).st = .up := by
    unfold groupInput
    dsimp only
    split
    · exact ⟨h, hst⟩
    · exact ⟨h, by rw [getPort_modPort_self _ _ _ hi]; exact hst⟩
  rw [group_takes h hst, group_frame hcounted.1 hcounted.2]

end

/-! ## The clauses of control flits -/

section
variable {port : BitVec 4} {s : State} (h : s.Runs) (hi : port.toNat < s.ports.length)
include h hi

/-- A row of a control flit at a port that carries none, and with a flit whose check fails. -/
theorem flitRow_dropped (f : CtrlFlit) {row : Instr}
    (hrow : row ∈ ([.retryReq port f, .ack port f, .credit port f, .identity port f, .lpiReq port f, .lpiAck port f] : List Instr)) :
    ((getPort port.toNat s).st = .down ∨ (getPort port.toNat s).st = .lpi → Machine.exec row s = .next s) ∧
    ((getPort port.toNat s).st = .up → f ≠ ctrlFlit f.type f.ackSeq f.retrySeq f.body → (getPort port.toNat s).winErr < 31 →
      ∃ t, Machine.exec row s = .next t ∧
        (getPort port.toNat t).cnt.crcErr = satInc (getPort port.toNat s).cnt.crcErr ∧
        (getPort port.toNat t).txGroups = (getPort port.toNat s).txGroups ∧ (getPort port.toNat t).st = .up) := by
  obtain ⟨act, hexec⟩ := flitRow_checks port f h row hrow
  refine ⟨fun hst => by rw [hexec, onFlit_silent hst], fun hst hf hfew => ?_⟩
  obtain ⟨a, b, hport, -⟩ := failedPort_counts (now s / 25000) (getPort port.toNat s)
  rw [onFlit_failed hst hf, crcFailed_counts hi hfew] at hexec
  refine ⟨_, hexec, ?_, ?_, ?_⟩ <;> rw [getPort_modPort_self _ _ _ hi, hport]
  exact hst

variable (hst : (getPort port.toNat s).st = .up) (type : Byte) (ack retry : W16) (body : BitVec 416)
include hst

/-- 07:R184: up to the 15th replay in a row from one group, what is kept goes again. -/
theorem retryReq_resends (hsame : replayCount retry (ackGroups ack (getPort port.toNat s)) < 16) :
    ∃ t more, Machine.exec (.retryReq port (ctrlFlit type ack retry body)) s = .next t ∧ t.out = more ++ s.out ∧
      (∀ g ∈ (ackGroups ack (getPort port.toNat s)).txGroups, groupLe retry g.seq = true →
        ∃ x, .group port x ∈ more ∧ CarriesGroup g.data g.seq x) ∧
      (getPort port.toNat t).txGroups = (ackGroups ack (getPort port.toNat s)).txGroups ∧ (getPort port.toNat t).st = .up ∧
      (getPort port.toNat t).cnt.replays = satInc (getPort port.toNat s).cnt.replays ∧
      (getPort port.toNat t).replaySame = replayCount retry (ackGroups ack (getPort port.toNat s)) := by
  have hacked := acked_port hi ack
  have hlen : port.toNat < (modPort port.toNat (ackGroups ack) s).ports.length := by simpa using hi
  have hcnt : (ackGroups ack (getPort port.toNat s)).cnt = (getPort port.toNat s).cnt :=
    (congrArg Port.cnt (ackGroups_unacked ack (getPort port.toNat s)) :)
  have hexec := retryReq_acts h hst type ack retry body
  rw [replay_eq, if_neg (by rw [hacked]; omega)] at hexec
  obtain ⟨more, hout, hall⟩ := resend_out retry (i := port.toNat) (s := modPort port.toNat (ackGroups ack) s)
  obtain ⟨n, hport⟩ := resend_port hlen retry
  rw [hacked] at hall hport
  refine ⟨_, more, hexec, hout, fun g hg hle => ?_, (congrArg Port.txGroups hport :), ?_, ?_, (congrArg Port.replaySame hport :)⟩
  · obtain ⟨x, hx, hcarries⟩ := hall g hg hle
    exact ⟨x, by rwa [ofNat_port] at hx, hcarries⟩
  · exact (congrArg Port.st hport :).trans (hacked ▸ acked_st hi hst ack)
  · exact (congrArg (fun p => p.cnt.replays) hport :).trans (congrArg (fun c : PortCnt => satInc c.replays) hcnt :)

/-- 07:R195: the 16th ends the link. -/
theorem retryReq_ends (hsame : 16 ≤ replayCount retry (ackGroups ack (getPort port.toNat s))) :
    ∃ t, Machine.exec (.retryReq port (ctrlFlit type ack retry body)) s = .next t ∧ (getPort port.toNat t).st = .down ∧
      (getPort port.toNat t).cause = 2 := by
  have hexec := retryReq_acts h hst type ack retry body
  rw [replay_eq, if_pos (by rw [acked_port hi]; exact hsame)] at hexec
  obtain ⟨hdown, -, hcause⟩ := linkDown_port (s := resend port.toNat retry (modPort port.toNat (ackGroups ack) s))
    (by rw [resend_length]; simpa using hi) 2
  exact ⟨_, hexec, hdown, hcause⟩

/-- 07:R192: LPI_REQ with nothing queued. -/
theorem lpiReq_answered (hout : ((getPort port.toNat s).outq.all fun l => l.isEmpty) = true) (hstream : (getPort port.toNat s).txStream = [])
    (hins : (getPort port.toNat s).txIns = []) :
    ∃ t, Machine.exec (.lpiReq port (ctrlFlit type ack retry body)) s = .next t ∧ (getPort port.toNat t).lpiSent = true ∧
      (getPort port.toNat t).lpiAsked = false ∧
      ∃ g more, t.out = more ++ .ctrl port g :: s.out ∧ g.type = 6 ∧ (port.toNat < 6 → more = []) := by
  have hasked := getPort_modPort_self port.toNat (fun p => { ackGroups ack p with lpiAsked := true }) s hi
  obtain ⟨houtq, hstreams, hinss⟩ := ackGroups_queues ack (getPort port.toNat s)
  have hexec := lpiReq_acts h hi hst type ack retry body
  rw [answerLpi_answers (by rw [hasked]) (by rw [hasked, houtq]; exact hout) (by rw [hasked, hstreams]; exact hstream)
    (by rw [hasked, hinss]; exact hins), modPort_modPort] at hexec
  generalize hu : modPort port.toNat _ s = u at hexec
  obtain ⟨more, hnative, hsent⟩ := sendCtrl_out port.toNat 6 0 u
  have hport := (sendCtrl_sends port.toNat 6 0 u).port port.toNat
  rw [← hu, getPort_modPort_self _ _ _ hi, hu] at hport
  refine ⟨_, hexec, (congrArg Port.lpiSent hport :), (congrArg Port.lpiAsked hport :),
    ctrlFlit 6 (ackOf (getPort port.toNat u)) 0 0, more, ?_, rfl, hnative⟩
  rw [hsent, ofNat_port, ← hu]
  rfl

/-- 07:R192: with something queued the request waits. -/
theorem lpiReq_waits (hbusy : ((getPort port.toNat s).outq.all fun l => l.isEmpty) = false ∨ (getPort port.toNat s).txStream ≠ [] ∨
      (getPort port.toNat s).txIns ≠ []) :
    ∃ t, Machine.exec (.lpiReq port (ctrlFlit type ack retry body)) s = .next t ∧ (getPort port.toNat t).lpiAsked = true ∧ t.out = s.out := by
  have hasked := getPort_modPort_self port.toNat (fun p => { ackGroups ack p with lpiAsked := true }) s hi
  obtain ⟨houtq, hstream, hins⟩ := ackGroups_queues ack (getPort port.toNat s)
  have hexec := lpiReq_acts h hi hst type ack retry body
  rw [answerLpi_waits (by rw [hasked, houtq, hstream, hins]; exact hbusy)] at hexec
  exact ⟨_, hexec, by rw [hasked], rfl⟩

end

/-- The fields of an IDENTITY flit's body (07 Table 7-5; log 23). -/
theorem farEnd_identified (body : BitVec 416) (p : Port) : farEnd (identified body.toNat p) =
    (body.setWidth 32, body.extractLsb' 32 32, body.extractLsb' 64 8, body.getLsbD 72, true) := by
  have hcoord : BitVec.ofNat 32 body.toNat = body.setWidth 32 := BitVec.ofNat_toNat 32 body
  rw [← hcoord]
  rfl

/-- Settles O41: flits by their check and by what their rows do, timeouts by the replay, groups by how they are taken. -/
theorem linkFlits : Obligations.LinkFlits := by
  unfold Obligations.LinkFlits
  refine ⟨fun port f s h hport row hrow => flitRow_dropped h (by omega) f hrow, ?flits, ?timeouts, ?groups⟩
  case flits =>
    intro port type ack retry body s h hport hst i f p q same
    have hi : i < s.ports.length := by omega
    refine ⟨ack_acts h hst .., ackGroups_txGroups ack p, fun hsame => retryReq_resends h hi hst type ack retry body hsame,
      fun hsame => retryReq_ends h hi hst type ack retry body hsame, credit_acts h hst .., ?_,
      fun hout hstream hins => lpiReq_answered h hi hst type ack retry body hout hstream hins,
      fun hbusy => lpiReq_waits h hi hst type ack retry body hbusy, fun hlpi => ?_,
      fun hwanted hsent => lpiAck_ignored h hi hst type ack retry body hwanted hsent⟩
    · obtain ⟨t, hexec, hsettled, hfar⟩ := identity_acts h hi hst type ack retry body
      have hfields := hfar.trans (farEnd_identified body _)
      simp only [farEnd, Prod.mk.injEq] at hfields
      obtain ⟨hcoord, hdims, hfarPort, hrail, -⟩ := hfields
      exact ⟨t, hexec, hcoord, hdims, hfarPort, hrail, hsettled⟩
    · obtain ⟨u, hexec, hlen⟩ := lpiAck_acts h hi hst type ack retry body hlpi
      refine ⟨_, hexec, ?_, ?_⟩ <;> rw [enterLpi, getPort_modPort_self _ _ _ (by omega)]
  case timeouts =>
    intro port s h hport hst p
    have hi : port.toNat < s.ports.length := by omega
    exact ⟨ackTimeout_idle h, fun g rest hkept => ⟨ackTimeout_sends_again h hst hkept hi, ackTimeout_ends h hst hkept hi⟩⟩
  case groups =>
    intro port g s h hport i p
    have hi : i < s.ports.length := by omega
    exact ⟨fun hst => group_ignored h hst,
      fun lanes start hst => ⟨group_coded h hi hst lanes start, rfl, fun hnative => if_pos hnative, fun hbridge => if_neg (by omega)⟩,
      fun q hst hcrc hseq hmark hcut hlen => group_ends_packet h hi hst hcrc hseq hmark hcut hlen,
      fun hst hcrc hfirst hfew => group_failed h hi hst hcrc hfirst hfew⟩

end Sys2Proof.Proofs

/-! The moves of packets (07:R183, R184, R192; 08:R207 to R214, R220, R223, R224): arbitration windows, the packet that a link starts, the
groups that a port sends, and a router's turn at an input and at the NI's packets; O43 from them. Which head moves first, the drop of a
reserved kind and the port that has answered LPI_REQ are the model's choice (log 42), and so is the pace of groups and of injection
(log 79). -/

namespace Sys2Proof.Proofs

open Sys2Proof Sys2Proof.Machine Sys2Proof.Laws

/-- No PREWARM waits for its heralds. -/
abbrev NoPrewarm (s : State) : Prop := ∀ c ∈ s.cmds, ∀ h n, c.kind ≠ .prewarm h n

/-- 02:R46: without a PREWARM under way no command completes when packets have moved. -/
theorem prewarmKick_none {s : State} (hnone : NoPrewarm s) : prewarmKick s = s :=
  foldl_fixed_of_mem fun c hc => by
    split
    · exact absurd ‹_› (hnone c hc _ _)
    · rfl

/-! ## Arbitration windows -/

section
variable {port : BitVec 4} {s : State} (h : s.Runs)
include h

theorem arbitrationWindow_rests (hrest : now s % 100 ≠ 0 ∨ (getPort port.toNat s).window = now s / 100 + 1) :
    Machine.exec (.arbitrationWindow port) s = .next s :=
  (live_runs h).trans (congrArg Host.Outcome.next (onlyIf_false (by
    obtain hrest | hrest := hrest <;> simp [hrest])))

/-- 08:R211, R213: a window that begins gives VC0 its cap, and each other VC its weight and the deficit that it carries. -/
theorem arbitrationWindow_opens (hi : port.toNat < s.ports.length) (hdue : now s % 100 = 0)
    (hnew : (getPort port.toNat s).window ≠ now s / 100 + 1) : ∃ t, Machine.exec (.arbitrationWindow port) s = .next t ∧
      (getPort port.toNat t).window = now s / 100 + 1 ∧
      (getPort port.toNat t).credit = [((windowBytes (getPort port.toNat s) / 10 : Nat) : Int),
        ((windowBytes (getPort port.toNat s) * s.cfg.w1.toNat / 64 : Nat) : Int) + min 0 ((getPort port.toNat s).credit.getD 1 0),
        ((windowBytes (getPort port.toNat s) * s.cfg.w2.toNat / 64 : Nat) : Int) + min 0 ((getPort port.toNat s).credit.getD 2 0),
        ((windowBytes (getPort port.toNat s) * s.cfg.w3.toNat / 64 : Nat) : Int) + min 0 ((getPort port.toNat s).credit.getD 3 0)] := by
  refine ⟨_, (live_runs h).trans (congrArg Host.Outcome.next (onlyIf_true (by simp [hdue, hnew]))), ?_, ?_⟩ <;>
    rw [getPort_modPort_self _ _ _ hi]
  rfl

end

/-! ## The packet that a link starts -/

section
variable {p : Port}

theorem headReady_none {v : Nat} (hnone : p.outq.getD v [] = []) : headReady p v = none := by
  rw [headReady, hnone]

theorem headReady_some {v : Nat} {o : OutPkt} {rest : List OutPkt} (hhead : p.outq.getD v [] = o :: rest)
    (hneed : o.need ≤ slotsFree p v) : headReady p v = some o := by
  rw [headReady, hhead]
  exact if_pos hneed

/-- Round robin finds VC1 where neither VC2 nor VC3 will do. -/
theorem roundRobin_first {ok : Nat → Bool} (h2 : ok 2 = false) (h3 : ok 3 = false) :
    roundRobin p ok = if ok 1 then some 1 else none := by
  have hturn : p.lastVc.toNat % 3 = 0 ∨ p.lastVc.toNat % 3 = 1 ∨ p.lastVc.toNat % 3 = 2 := by omega
  unfold roundRobin
  obtain hturn | hturn | hturn := hturn <;>
    simp [List.range_succ, Nat.add_mod, hturn, h2, h3, List.find?] <;> cases ok 1 <;> rfl

/-- Nothing waits: the link starts no packet. -/
theorem chooseVc_empty (hout : p.outq = [[], [], [], []]) : chooseVc p = none := by
  have hready (v : Nat) (hv : p.outq.getD v [] = []) : (headReady p v).isSome = false := by rw [headReady_none hv]; rfl
  have h0 := hready 0 (by rw [hout]; rfl)
  have h1 := hready 1 (by rw [hout]; rfl)
  have h2 := hready 2 (by rw [hout]; rfl)
  have h3 := hready 3 (by rw [hout]; rfl)
  simp [chooseVc, roundRobin_first, h0, h1, h2, h3]

/-- 08:R213, R214: the one packet that waits starts, with credit or without. -/
theorem chooseVc_single {o : OutPkt} (hout : p.outq = [[], [o], [], []]) (hneed : o.need ≤ slotsFree p 1) :
    ∃ debit, chooseVc p = some (1, debit) := by
  have h0 : headReady p 0 = none := headReady_none (by rw [hout]; rfl)
  have h1 : headReady p 1 = some o := headReady_some (rest := []) (by rw [hout]; rfl) hneed
  have h2 : headReady p 2 = none := headReady_none (by rw [hout]; rfl)
  have h3 : headReady p 3 = none := headReady_none (by rw [hout]; rfl)
  unfold chooseVc
  simp only [h0, h1, h2, h3, roundRobin_first, Option.isSome_none, Option.isSome_some, Bool.false_and, Bool.true_and,
    Bool.false_eq_true, if_false, if_true]
  by_cases hrich : decide (0 < p.credit.getD 1 0) = true
  · exact ⟨true, by rw [if_pos hrich]⟩
  · exact ⟨false, by rw [if_neg hrich]⟩

end

section
variable {port : BitVec 4} {s : State} (h : s.Runs)
include h

theorem packetStart_rests (hrest : (getPort port.toNat s).st ≠ .up ∨ (getPort port.toNat s).lpiSent = true) :
    Machine.exec (.packetStart port) s = .next s :=
  (live_runs h).trans (congrArg Host.Outcome.next (onlyIf_false (by
    obtain hrest | hrest := hrest <;> simp [hrest])))

variable (hst : (getPort port.toNat s).st = .up) (hlpi : (getPort port.toNat s).lpiSent = false)
include hst hlpi

theorem packetStart_empty (hout : (getPort port.toNat s).outq = [[], [], [], []]) : Machine.exec (.packetStart port) s = .next s := by
  refine (live_runs h).trans (congrArg Host.Outcome.next ((onlyIf_true (by simp [hst, hlpi])).trans ?_))
  dsimp only
  rw [chooseVc_empty hout]

/-- 08:R207 to R214: the one packet that waits on a free link starts. -/
theorem packetStart_starts {o : OutPkt} (hwidth : (getPort port.toNat s).width = 8 ∨ (getPort port.toNat s).width = 4)
    (hout : (getPort port.toNat s).outq = [[], [o], [], []]) (hneed : o.need ≤ slotsFree (getPort port.toNat s) 1)
    (hretry : (getPort port.toNat s).retry = []) (hsmall : flitBytes o.pkt ≤ 65536) (hfree : (getPort port.toNat s).txStream = [])
    (hnone : NoPrewarm s) :
    ∃ debit, Machine.exec (.packetStart port) s = .next (startPacket port.toNat 1 debit o s) := by
  obtain ⟨debit, hchoose⟩ := chooseVc_single hout hneed
  have hready : headReady (getPort port.toNat s) 1 = some o := headReady_some (rest := []) (by rw [hout]; rfl) hneed
  have hcap : 65536 ≤ retryCap port.toNat := by
    unfold retryCap
    split <;> omega
  have hfits : retryFits port.toNat (getPort port.toNat s) o = true := by
    simp only [retryFits, hretry, List.foldl_nil, Nat.zero_add, decide_eq_true_eq]
    omega
  have hlink : linkFree (getPort port.toNat s) 1 = true := by
    obtain hwidth | hwidth := hwidth <;> simp [linkFree, hfree, tickFlits, hwidth]
  refine ⟨debit, (live_runs h).trans (congrArg Host.Outcome.next ((onlyIf_true (by simp [hst, hlpi])).trans ?_))⟩
  dsimp only
  rw [hchoose]
  dsimp only
  rw [hready]
  dsimp only
  rw [hfits, hlink]
  exact prewarmKick_none hnone

end

theorem startPacket_out (i v : Nat) (debit : Bool) (o : OutPkt) (s : State) :
    (startPacket i v debit o s).out = .packet (BitVec.ofNat 4 i) o.pkt :: s.out := rfl

/-- 07:R184; 08:R204, R212: the packet of VC1 that starts leaves its queue, is kept for retry, and its flits follow those that wait. -/
theorem startPacket_port {i : Nat} {s : State} (hi : i < s.ports.length) (debit : Bool) (o : OutPkt) :
    (getPort i (startPacket i 1 debit o s)).outq = modAt (fun l => l.drop 1) 1 (getPort i s).outq ∧
    (getPort i (startPacket i 1 debit o s)).retry = (getPort i s).retry ++ [((getPort i s).txPkt, o)] ∧
    (getPort i (startPacket i 1 debit o s)).txStream = (getPort i s).txStream ++
      [{ num := (getPort i s).txPkt, vc := o.pkt.vc, head := true, flits := flitsOf o.pkt }] ∧
    (getPort i (startPacket i 1 debit o s)).lastVc = 1 := by
  have hport : getPort i (startPacket i 1 debit o s) = _ := getPort_modPort_self i _ s hi
  exact ⟨congrArg Port.outq hport, congrArg Port.retry hport, congrArg Port.txStream hport, congrArg Port.lastVc hport⟩

/-! ## The group that a port sends -/

/-- What a port keeps for replay, and the number of its next group (07:R183, R184). -/
def groupsOf (p : Port) : List TxGroup × W16 := (p.txGroups, p.txNext)

/-- 08:R208: packets whose tails have left give back input slots alone. -/
theorem tailsLeft_out (i : Nat) (nums : List Nat) (s : State) : (tailsLeft i nums s).out = s.out :=
  foldl_frame (π := State.out) fun t x => freeFrom_out x.2.from_ t

theorem tailsLeft_groups (i : Nat) (nums : List Nat) (s : State) (j : Nat) :
    groupsOf (getPort j (tailsLeft i nums s)) = groupsOf (getPort j s) := by
  have hfreed (t : State) (x : Nat × OutPkt) : groupsOf (getPort j (freeFrom x.2.from_ t)) = groupsOf (getPort j t) :=
    (congrArg groupsOf (freeFrom_slotless x.2.from_ t j) :)
  exact (foldl_frame (π := fun t => groupsOf (getPort j t)) hfreed).trans
    (getPort_of_map (map_modAt_of_same (by exact fun _ => rfl) ..) j)

/-- 07:R183, R184: a group carries the next number and its check, and is kept. -/
theorem sendGroup_sends {port : BitVec 4} {s : State} (hi : port.toNat < s.ports.length) : ∃ x more g,
    (sendGroup port.toNat s).out = more ++ .group port x :: s.out ∧
    CarriesGroup g.data (getPort port.toNat s).txNext x ∧ g.seq = (getPort port.toNat s).txNext ∧
    groupsOf (getPort port.toNat (sendGroup port.toNat s)) =
      ((getPort port.toNat s).txGroups ++ [g], (getPort port.toNat s).txNext + 1) := by
  unfold sendGroup
  extract_lets p u data g _ s1
  obtain ⟨more, x, hout, hcarries⟩ := emitGroup_out port.toNat data p.txNext s1
  refine ⟨x, more, g, ?_, hcarries, rfl, ?_⟩
  · rw [tailsLeft_out, hout, ofNat_port]
    rfl
  · have hsent : groupsOf (getPort port.toNat (emitGroup port.toNat data p.txNext s1)) = groupsOf (getPort port.toNat s1) :=
      (congrArg groupsOf ((emitGroup_sends ..).port port.toNat) :)
    rw [tailsLeft_groups, hsent, getPort_modPort_self _ _ _ hi]
    rfl

/-! ## The move of a packet head -/

section
variable {s : State} {d need j : Nat} {p : Packet}

/-- 07:R178; 08:R209: a member with the free slots takes the packet. -/
theorem moveOut_forwards (hpick : pickMember s p.vc d = some j) (hroom : canTake (getPort j s) p.vc.toNat need = true)
    (hlpi : (getPort j s).lpiSent = false) (copy : Bool) : moveOut s d need copy p = .forward j need p copy := by
  simp [moveOut, hpick, hroom, hlpi]

/-- 08:R209: without the free slots the packet stays. -/
theorem moveOut_stays (hpick : pickMember s p.vc d = some j) (hfull : canTake (getPort j s) p.vc.toNat need = false) (copy : Bool) :
    moveOut s d need copy p = .stay := by
  simp [moveOut, hpick, hfull]

/-- A packet for one node, whose direction nobody chose, moves by its route. -/
theorem moveOf_route (hsingle : p.mcast = false) (arr : Option Nat) : moveOf s arr none p = moveRoute s p (routePacket s arr p) := by
  simp [moveOf, hsingle]

end

/-! ## A router's turn at an input -/

section
variable {port : BitVec 4} {vc : BitVec 2} {s : State} (h : s.Runs) (hr : routerRuns s = true)
include h hr

/-- The row at an input, while no PREWARM waits. -/
theorem packetForward_input {t : State} (hmove : forwardInput port.toNat vc.toNat s = t) (hnone : NoPrewarm t) :
    Machine.exec (.packetForward (.input port vc)) s = .next t := by
  refine (live_runs h).trans (congrArg Host.Outcome.next ((onlyIf_true hr).trans ?_))
  dsimp only
  rw [hmove, prewarmKick_none hnone]

theorem packetForward_empty (hempty : (getPort port.toNat s).inq.getD vc.toNat [] = []) (hnone : NoPrewarm s) :
    Machine.exec (.packetForward (.input port vc)) s = .next s :=
  packetForward_input h hr (by rw [forwardInput, hempty]) hnone

variable {p : Packet} {rest : List Packet} (hhead : (getPort port.toNat s).inq.getD vc.toNat [] = p :: rest)
  (hfew : (getPort port.toNat s).rxHeld.getD vc.toNat 0 < 3) (hsingle : p.mcast = false)
include hhead hfew hsingle

/-- 08:R219, R223: the head of an input with fewer than three slots in use is not marked, and moves by its route. -/
theorem packetForward_head {t : State} (hmove : makeMove port (some (port.toNat, vc.toNat)) (takeInput port.toNat vc.toNat) p
      (moveRoute s p (routePacket s (some (port.toNat % 6)) p)) s = t) (hnone : NoPrewarm t) :
    Machine.exec (.packetForward (.input port vc)) s = .next t := by
  have hunmarked : (p.mark || (decide (vc.toNat ≠ 0) && decide (3 ≤ (getPort port.toNat s).rxHeld.getD vc.toNat 0))) = p.mark := by
    rw [decide_eq_false (Nat.not_le.2 hfew), Bool.and_false, Bool.or_false]
  refine packetForward_input h hr ?_ hnone
  unfold forwardInput
  rw [hhead]
  dsimp only
  rw [hunmarked, ofNat_port, moveOf_route hsingle, hmove]

/-- 08:R208, R223: a packet at its destination frees its slot, and its kind's unit acts. -/
theorem packetForward_delivers {t : State} (hdest : p.dest = myCoord s)
    (hunit : eject port p (freeSlot port.toNat vc.toNat (takeInput port.toNat vc.toNat s)) = .next t) (hnone : NoPrewarm t) :
    Machine.exec (.packetForward (.input port vc)) s = .next t := by
  have hroute : routePacket s (some (port.toNat % 6)) p = .eject := if_pos hdest
  refine packetForward_head h hr hhead hfew hsingle ?_ hnone
  rw [hroute]
  exact congrArg (ranOr _) hunit

variable {d need j : Nat} {r : Bool} (hroute : routePacket s (some (port.toNat % 6)) p = .out d need r)
  (hpick : pickMember s p.vc d = some j) (hnone : NoPrewarm s)
include hroute hpick hnone

/-- 08:R209, R223: the head moves to the port of its route, and keeps its slot. -/
theorem packetForward_moves (hroom : canTake (getPort j s) p.vc.toNat need = true) (hlpi : (getPort j s).lpiSent = false) :
    Machine.exec (.packetForward (.input port vc)) s = .next (enqueueOut j need (some (port.toNat, vc.toNat))
      { p with rerouted := r } (takeInput port.toNat vc.toNat s)) := by
  refine packetForward_head h hr hhead hfew hsingle ?_ hnone
  rw [hroute]
  exact congrArg (makeMove port _ _ p · s) (moveOut_forwards (p := { p with rerouted := r }) hpick hroom hlpi false)

theorem packetForward_stays (hfull : canTake (getPort j s) p.vc.toNat need = false) :
    Machine.exec (.packetForward (.input port vc)) s = .next s := by
  refine packetForward_head h hr hhead hfew hsingle ?_ hnone
  rw [hroute]
  exact congrArg (makeMove port _ _ p · s) (moveOut_stays (p := { p with rerouted := r }) hpick hfull false)

end

theorem eject_put {p : Packet} (hkind : p.kind = 5) (port : BitVec 4) (s : State) : eject port p s = Machine.exec (.putPacket p) s := by
  simp only [eject, hkind]
  rfl

/-- A reserved kind names no unit (log 42). -/
theorem eject_reserved {p : Packet} (hkind : p.kind = 15) (port : BitVec 4) (s : State) : eject port p s = .next s := by
  simp only [eject, hkind]
  rfl

/-! ## The NI's turn -/

/-- Charging a class changes the NI alone. -/
theorem chargeRate_cmds (d : Nat) (p : Packet) (s : State) : (chargeRate d p s).cmds = s.cmds := by
  unfold chargeRate
  split <;> rfl

theorem packetForward_off {s : State} (h : s.Runs) (hr : routerRuns s = false) (src : ForwardSource) :
    Machine.exec (.packetForward src) s = .next s :=
  (live_runs h).trans (congrArg Host.Outcome.next (onlyIf_false hr))

section
variable {s : State} (h : s.Runs) (hr : routerRuns s = true)
include h hr

/-- The row at the injection queue, while no PREWARM waits. -/
theorem packetForward_inject {t : State} (hmove : forwardInjected s = t) (hnone : NoPrewarm t) :
    Machine.exec (.packetForward .inject) s = .next t := by
  refine (live_runs h).trans (congrArg Host.Outcome.next ((onlyIf_true hr).trans ?_))
  dsimp only
  rw [hmove, prewarmKick_none hnone]

theorem packetForward_inject_empty (hempty : s.rt.inject = []) (hnone : NoPrewarm s) :
    Machine.exec (.packetForward .inject) s = .next s :=
  packetForward_inject h hr (by simp [forwardInjected, injectMoves, hempty]) hnone

end

section
variable {s : State} {p : Packet} {d need j : Nat} {r : Bool} (hqueue : s.rt.inject = [(none, p)]) (hsingle : p.mcast = false)
  (hroute : routePacket s none p = .out d need r) (hpick : pickMember s p.vc d = some j)
  (hroom : canTake (getPort j s) p.vc.toNat need = true) (hlpi : (getPort j s).lpiSent = false)
include hqueue hsingle hroute hpick hroom hlpi

/-- The one packet that waits for injection would go to the port of its route, and its class paces it (08:R220). -/
theorem injectMoves_single : injectMoves s = [(0, p, paced s (.forward j need { p with rerouted := r } false))] := by
  have hmove : moveOf s none none p = .forward j need { p with rerouted := r } false := by
    rw [moveOf_route hsingle, hroute]
    exact moveOut_forwards (p := { p with rerouted := r }) hpick hroom hlpi false
  rw [← hmove, injectMoves, hqueue]
  rfl

variable (h : s.Runs) (hr : routerRuns s = true) (hnone : NoPrewarm s)
include h hr hnone

/-- 08:R220: a packet whose class is ready for it goes to its port, and is charged. -/
theorem packetForward_injects (hready : rateAdmits s (j % 6) { p with rerouted := r } = true) :
    Machine.exec (.packetForward .inject) s = .next (chargeRate (j % 6) { p with rerouted := r }
      (enqueueOut j need none { p with rerouted := r } { s with rt := { s.rt with inject := [] } })) := by
  have htaken : takeInjected 0 s = { s with rt := { s.rt with inject := [] } } := by
    rw [takeInjected, hqueue]
    rfl
  have hpaced : paced s (.forward j need { p with rerouted := r } false) = .forward j need { p with rerouted := r } false := if_pos hready
  refine packetForward_inject h hr ?_ (by rw [NoPrewarm, chargeRate_cmds]; exact hnone)
  unfold forwardInjected
  rw [injectMoves_single hqueue hsingle hroute hpick hroom hlpi, hpaced, ← htaken]
  rfl

/-- 08:R220: a packet whose class is not ready for it waits. -/
theorem packetForward_paced (hwait : rateAdmits s (j % 6) { p with rerouted := r } = false) :
    Machine.exec (.packetForward .inject) s = .next s := by
  have hpaced : paced s (.forward j need { p with rerouted := r } false) = .stay := if_neg (by rw [hwait]; decide)
  refine packetForward_inject h hr ?_ hnone
  unfold forwardInjected
  rw [injectMoves_single hqueue hsingle hroute hpick hroom hlpi, hpaced]
  rfl

end

/-- Settles O43: a link's windows, starts and groups, then a router's turn at an input and at the NI's packets. -/
theorem routerMoves : Obligations.RouterMoves := by
  unfold Obligations.RouterMoves
  refine ⟨?link, ?input, fun s h hr hempty hnone => packetForward_inject_empty h hr hempty hnone, ?injected,
    fun src s h hr => packetForward_off h hr src⟩
  case link =>
    intro port s h hport i p
    have hi : i < s.ports.length := by omega
    refine ⟨arbitrationWindow_rests h, arbitrationWindow_opens h hi, packetStart_rests h, packetStart_empty h,
      fun o hst hlpi hwidth hout hneed hretry hsmall hfree hnone => ?_, ?_⟩
    · obtain ⟨debit, hexec⟩ := packetStart_starts h hst hlpi hwidth hout hneed hretry hsmall hfree hnone
      obtain ⟨houtq, hkept, hstream, hlast⟩ := startPacket_port hi debit o
      rw [hout] at houtq
      rw [hretry] at hkept
      rw [hfree] at hstream
      exact ⟨_, hexec, by rw [startPacket_out, ofNat_port], houtq, hkept, hstream, hlast⟩
    · obtain ⟨x, more, g, hout, ⟨hdata, hseq, hcrc⟩, hkept, hgroups⟩ := sendGroup_sends hi
      simp only [groupsOf, Prod.mk.injEq] at hgroups
      exact ⟨x, more, g, hout, hseq, hcrc, hgroups.2, hgroups.1, hkept, hdata.symm⟩
  case input =>
    intro port vc s h hport hr hnone i row
    refine ⟨fun hempty => packetForward_empty h hr hempty hnone,
      fun p d need j r rest hhead hfew hsingle hroute hpick =>
        ⟨packetForward_moves h hr hhead hfew hsingle hroute hpick hnone, packetForward_stays h hr hhead hfew hsingle hroute hpick hnone⟩,
      fun p rest hhead hfew hsingle hdest => ⟨fun hkind t hput => ?_, fun hkind => ?_⟩⟩
    · exact packetForward_delivers h hr hhead hfew hsingle hdest ((eject_put hkind ..).trans hput)
    · exact packetForward_delivers h hr hhead hfew hsingle hdest (eject_reserved hkind ..) hnone
  case injected =>
    intro p d need j r s h hr hqueue hsingle hroute hpick hroom hlpi hnone
    exact ⟨packetForward_injects hqueue hsingle hroute hpick hroom hlpi h hr hnone,
      packetForward_paced hqueue hsingle hroute hpick hroom hlpi h hr hnone⟩

end Sys2Proof.Proofs

/-! Streams kept (08:R210, R216 to R220, R226; 10:R286; 16:R459, R463 to R466, R472): acknowledgements that come and go, requests that
are sent again, held flagged packets whose turn has come, and the rates of the classes; O46 from them. That a repeated packet carries the
current epoch is 08:R226, for a request after BUSY log 62; that an acknowledgement waits for a held flagged packet is the model's
choice (log 83). -/

namespace Sys2Proof.Proofs

open Sys2Proof Sys2Proof.Machine Sys2Proof.Laws

/-! ## What has nothing to send or to end -/

theorem txPump_idle {c : Coord} {s : State} (hwait : (txOf s c).waiting = []) : txPump c s = setTx (txOf s c) s := by
  have hsame : ({ txOf s c with waiting := [] } : TxStream) = txOf s c := by rw [← hwait]
  unfold txPump
  dsimp only
  rw [hwait, txDrain, hsame, List.foldl_nil]

theorem pumpCmds_idle {s : State} (hcmds : s.cmds = []) : pumpCmds s = s := by
  rw [pumpCmds, hcmds, List.foldl_nil]

/-- 08:R215: collectives without chunks that wait send nothing. -/
theorem pumpColls_idle {s : State} (hout : ∀ x ∈ s.ctxs, x.outq = []) : pumpColls s = s :=
  foldl_fixed_of_mem fun y _ => by
    split
    · rfl
    · rename_i x hx
      have hnone : x.outq = [] := hout x (List.mem_of_find?_eq_some hx)
      split
      · rfl
      · simp [hnone]

/-- 05:R138: while no window closes and no command runs, no window goes. -/
theorem unmapKick_open {s : State} (hcmds : s.cmds = []) (hopen : ∀ w ∈ s.wins, w.closing = false) : unmapKick s = s := by
  unfold unmapKick
  extract_lets open_ s1
  have hs1 : s1 = s := by rw [show s1 = s.cmds.foldl _ s from rfl, hcmds, List.foldl_nil]
  have hkept : (s.wins.filter fun w => !w.closing || open_ s w.offset w.len || windowInUse s w.offset w.len) = s.wins :=
    List.filter_eq_self.2 fun w hw => by simp [hopen w hw]
  rw [hs1, hkept]

theorem progress_still {s : State} (hwaits : s.NothingWaits) (hopen : ∀ w ∈ s.wins, w.closing = false) : progress s = s := by
  obtain ⟨hserving, hcmds⟩ := hwaits
  have hsame : ({ s with ni := { s.ni with serving := [] } } : State) = s := by rw [← hserving]
  unfold progress
  rw [hserving, List.foldl_nil, hsame]
  exact (congrArg unmapKick (pumpCmds_idle hcmds)).trans (unmapKick_open hcmds hopen)

/-! ## E2E packets -/

/-- An E2E packet of a subtype to a node, about a SEQ (08 Table 8-8). -/
def E2eAbout (sub : Byte) (c : Coord) (n : BitVec 15) (q : Packet) : Prop :=
  q.kind = 3 ∧ q.dest = c ∧ q.tag.setWidth 8 = sub ∧ natBits 16 16 q.tag.toNat = n.toNat

theorem e2ePacket_about (s u : State) (c : Coord) (sub : Byte) (echo : BitVec 3) (n : BitVec 15) :
    E2eAbout sub c n { e2ePacket s c sub.toNat echo n.toNat with epoch := u.ni.epoch, seq := 0, sync := false, prior := 0 } := by
  have hsub := sub.isLt
  have hecho := echo.isLt
  have hn := n.isLt
  refine ⟨rfl, rfl, BitVec.eq_of_toNat_eq ?_, ?_⟩ <;>
    simp only [e2ePacket, mkPacket, natBits, BitVec.toNat_setWidth, BitVec.toNat_ofNat, Nat.shiftRight_eq_div_pow] <;> omega

/-! ## Acknowledgements that come -/

/-- The stream without the packets that an acknowledgement covers (08:R217). -/
def retired (p : Packet) (s : State) : TxStream :=
  { txOf s p.src with unacked := (txOf s p.src).unacked.filter fun q => !seqBelow q.seq (BitVec.ofNat 15 (natBits 16 16 p.tag.toNat)) }

theorem ackedReq_unasked {s : State} (hreqs : s.ni.reqs = []) (q : Packet) : ackedReq q s = s := by
  rw [ackedReq, hreqs, List.find?_nil]

/-- 08:R217: with no request open and nothing to send, an acknowledgement without an echo retires what it covers, and does nothing else. -/
theorem ackAct_retires {p : Packet} {s : State} (hecho : p.echo = false) (hcmds : s.cmds = []) (hreqs : s.ni.reqs = [])
    (hout : ∀ x ∈ s.ctxs, x.outq = []) (hwait : (txOf s p.src).waiting = []) (hmissed : (rxOf s p.src).missed = []) :
    ackAct p s = setTx (retired p s) (setTx (retired p s) s) := by
  unfold ackAct
  extract_lets n echo t gone s1 s2 s3 r left s4 s5
  have hs1 : txOf s1 p.src = retired p s := txOf_setTx s (txOf_dst s p.src)
  have hs2 : s2 = s1 := if_neg (by simp [hecho])
  have hs3 : s3 = s1 := hs2 ▸ foldl_fixed_of_mem fun q _ => ackedReq_unasked (by exact hs2 ▸ hreqs) q
  have hr : r.missed = [] := by rw [show r = rxOf s3 p.src from rfl, hs3]; exact hmissed
  have hs4 : s4 = s3 := if_pos (by simp [hr])
  have hs5 : s5 = s4 := if_neg (by simp [left, hr])
  rw [hs5, hs4, hs3, txPump_idle (by rw [hs1]; exact hwait), hs1, pumpCmds_idle (s := setTx (retired p s) s1) hcmds]
  exact pumpColls_idle hout

section
variable {p : Packet} {s : State} (h : s.Runs) (hr : routerRuns s = true) (hkind : p.kind = 3)
include h hr hkind

theorem e2eAck_runs (hsub : p.tag.setWidth 8 = (1 : Byte)) : Machine.exec (.e2eAck p) s = .next (ackAct p s) :=
  (live_runs h).trans (congrArg Host.Outcome.next (onlyIf_true (by simp [hr, hkind, hsub])))

theorem e2eBusy_runs (hsub : p.tag.setWidth 8 = (2 : Byte)) : Machine.exec (.e2eBusy p) s = .next (busyAct p s) :=
  (live_runs h).trans (congrArg Host.Outcome.next (onlyIf_true (by simp [hr, hkind, hsub])))

theorem e2eRereq_runs (hsub : p.tag.setWidth 8 = (3 : Byte)) : Machine.exec (.e2eRereq p) s = .next (rereqAct p s) :=
  (live_runs h).trans (congrArg Host.Outcome.next (onlyIf_true (by simp [hr, hkind, hsub])))

end

/-! ## Acknowledgements that go -/

section
variable {c : Coord} {n : BitVec 15} {s : State} (hnext : (rxOf s c).next = some n)
include hnext

/-- The model's choice (log 83): no acknowledgement passes a flagged packet that the NI holds. -/
theorem sendAck_waits (hheld : ∃ q ∈ (rxOf s c).held, seqBelow q.seq n = true) : sendAck c s = s := by
  have hblocked : ackBlocked (rxOf s c) = true := by
    simp only [ackBlocked, hnext, Bool.or_eq_true, List.any_eq_true]
    exact .inr hheld
  simp only [sendAck, hnext, hblocked, if_true]

/-- 08:R217: an acknowledgement that nothing blocks carries NEXT_SEQ, and the count starts anew. -/
theorem sendAck_sends (hmissed : (rxOf s c).missed = []) (hheld : (rxOf s c).held = []) :
    sendAck c s = sendRaw none (e2ePacket s c 1 (rxOf s c).echo n.toNat) (setRx { rxOf s c with accepted := 0, echo := 0 } s) := by
  have hblocked : ackBlocked (rxOf s c) = false := by simp [ackBlocked, hnext, hmissed, hheld]
  simp only [sendAck, hnext, hblocked, Bool.false_eq_true, if_false]

end

/-- An acknowledgement leaves what the NI holds. -/
theorem sendAck_held (c : Coord) (s : State) : (rxOf (sendAck c s) c).held = (rxOf s c).held := by
  unfold sendAck
  extract_lets r
  split
  · rfl
  split
  · rfl
  · exact (congrArg RxStream.held (rxOf_setRx (r := { r with accepted := 0, echo := 0 }) s (rxOf_src s c)) :)

theorem e2eAckSend_rests {c : Coord} {s : State} (h : s.Runs) (hrest : (rxOf s c).accepted = 0 ∨ sendAck c s = s) :
    Machine.exec (.e2eAckSend c) s = .next s := by
  obtain hcount | hnothing := hrest
  · exact (live_runs h).trans (congrArg Host.Outcome.next (onlyIf_false (by simp [hcount])))
  · refine (live_runs h).trans (congrArg Host.Outcome.next ?_)
    rw [onlyIf, hnothing, ite_self]

/-- 08:R217: an acknowledgement that nothing holds back leaves. -/
theorem e2eAckSend_sends {c : Coord} {n : BitVec 15} {s : State} (h : s.Runs) (hr : routerRuns s = true) (hsome : 0 < (rxOf s c).accepted)
    (hnext : (rxOf s c).next = some n) (hmissed : (rxOf s c).missed = []) (hheld : (rxOf s c).held = []) :
    Machine.exec (.e2eAckSend c) s =
      .next (sendRaw none (e2ePacket s c 1 (rxOf s c).echo n.toNat) (setRx { rxOf s c with accepted := 0, echo := 0 } s)) :=
  (live_runs h).trans (congrArg Host.Outcome.next
    ((onlyIf_true (by simp [hr, hsome])).trans (sendAck_sends hnext hmissed hheld)))

/-! ## BUSY -/

section
variable {p : Packet} {r : Req} {s : State}

theorem busyAct_unasked (hreqs : s.ni.reqs = []) : busyAct p s = s := by
  rw [busyAct, hreqs, List.find?_nil]

/-- 08:R210: the request that is answered with BUSY is noted with the time. -/
theorem busyAct_notes (hreqs : s.ni.reqs = [r]) (hdest : r.pkt.dest = p.src) (hnum : r.num.setWidth 16 = (p.tag >>> 16).setWidth 16)
    (hbusy : s.ni.busy = []) : busyAct p s = { s with ni := { s.ni with busy := [(r.num, now s)] } } := by
  have hfind : (s.ni.reqs.find? fun r => r.pkt.dest = p.src && r.num.setWidth 16 = (p.tag >>> 16).setWidth 16) = some r := by
    simp [hreqs, hdest, hnum]
  unfold busyAct
  rw [hfind]
  simp [hbusy]

theorem busyDue_single {at_ : Nat} (hbusy : s.ni.busy = [(r.num, at_)]) :
    (s.ni.busy.any fun b => b.1 = r.num && decide (b.2 + 2 * Config.tick1us ≤ now s)) = true ↔ at_ + 50 ≤ now s := by
  simp only [hbusy, List.any_cons, List.any_nil, Bool.or_false, decide_true, Bool.true_and, decide_eq_true_eq]
  rfl

variable (h : s.Runs)
include h

theorem busyResend_unnoted {n : W32} (hnone : ∀ b ∈ s.ni.busy, b.1 ≠ n) : Machine.exec (.busyResend n) s = .next s := by
  have hany : (s.ni.busy.any fun b => b.1 = n && decide (b.2 + 2 * Config.tick1us ≤ now s)) = false := by
    simp only [List.any_eq_false, Bool.and_eq_true, decide_eq_true_eq, not_and]
    exact fun b hb heq => absurd heq (hnone b hb)
  exact (live_runs h).trans (congrArg Host.Outcome.next (onlyIf_false (by rw [hany, Bool.and_false])))

variable {at_ : Nat} (hbusy : s.ni.busy = [(r.num, at_)])
include hbusy

theorem busyResend_early (hearly : now s < at_ + 50) : Machine.exec (.busyResend r.num) s = .next s :=
  (live_runs h).trans (congrArg Host.Outcome.next (onlyIf_false (by
    rw [Bool.eq_false_iff.2 (mt (busyDue_single hbusy).1 (Nat.not_le.2 hearly)), Bool.and_false])))

/-- 08:R210: 2 µs after the BUSY the request goes again, in the current epoch (log 62). -/
theorem busyResend_due (hr : routerRuns s = true) (hreqs : s.ni.reqs = [r]) (hdue : at_ + 50 ≤ now s) :
    Machine.exec (.busyResend r.num) s = .next (sendAgain r.pkt { s with ni := { s.ni with busy := [] } }) := by
  refine (live_runs h).trans (congrArg Host.Outcome.next ((onlyIf_true (by rw [(busyDue_single hbusy).2 hdue, hr]; rfl)).trans ?_))
  simp [hbusy, hreqs]

end

/-! ## Requests that go again -/

/-- The requests, with the one reissue of a number counted at a time (16:R464). -/
def countReissue (n : W32) (t : Nat) (l : List Req) : List Req :=
  updWhere (fun r => r.num = n) (fun r => { r with reissued := true, sentAt := t }) l

theorem countReissue_reissued {n : W32} {t : Nat} {l : List Req} {r : Req} (hr : r ∈ countReissue n t l) (hnum : r.num = n) :
    r.reissued = true := by
  obtain ⟨x, -, hx⟩ := List.mem_map.1 hr
  split at hx
  · rw [← hx]
  · rename_i hother
    exact absurd (decide_eq_true (hx ▸ hnum)) hother

/-- What an answer notes on its command changes the started commands alone (16:R459). -/
theorem degradeOwner_frame (r : Req) (rerouted : Bool) (s : State) : ∃ cs, degradeOwner r rerouted s = { s with cmds := cs } := by
  unfold degradeOwner
  split
  · exact ⟨_, rfl⟩
  · exact ⟨s.cmds, rfl⟩

theorem markReissued_frame (n : W32) (s : State) : ∃ cs, markReissued n s =
    { s with cmds := cs, ni := { s.ni with reqs := countReissue n (now s) s.ni.reqs } } := by
  unfold markReissued
  extract_lets _ s1
  split
  · exact ⟨s.cmds, rfl⟩
  · exact degradeOwner_frame _ false s1

/-! ## Re-requests -/

/-- The unacknowledged packet that a re-request names (16:R463). -/
def namedPacket (p : Packet) (s : State) : Option Packet :=
  (txOf s p.src).unacked.find? fun q => decide (q.seq = BitVec.ofNat 15 (natBits 16 16 p.tag.toNat))

section
variable {p : Packet} {s : State}

/-- 10:R286: a re-request that names nothing, or a request whose command has ended, starts degraded routing alone. -/
theorem rereqAct_ignores (hnamed : namedPacket p s = none ∨
    ∃ q, namedPacket p s = some q ∧ isRequest q = true ∧ ∀ r ∈ s.ni.reqs, r.num ≠ q.tag) : rereqAct p s = degradeRouting s := by
  unfold namedPacket at hnamed
  unfold rereqAct
  dsimp only
  obtain hnone | ⟨q, hq, hreq, hended⟩ := hnamed
  · rw [hnone]
  · have hany : (s.ni.reqs.any fun r => r.num = q.tag) = false := by simpa using hended
    rw [hq]
    dsimp only
    rw [hreq, hany]
    rfl

/-- 08:R226; 16:R463: the packet that a re-request names goes again in the current epoch; a request counts its reissue. -/
theorem rereqAct_repeats {q : Packet} (hq : namedPacket p s = some q) (hasked : isRequest q = true → ∃ r ∈ s.ni.reqs, r.num = q.tag) :
    (rereqAct p s).rt.inject = s.rt.inject ++ [(none, { q with epoch := s.ni.epoch })] ∧
    (rereqAct p s).ni.degradedAt = some (now s) ∧
    (isRequest q = true → ∀ r ∈ (rereqAct p s).ni.reqs, r.num = q.tag → r.reissued = true) := by
  unfold namedPacket at hq
  unfold rereqAct
  dsimp only
  rw [hq]
  dsimp only
  cases hreq : isRequest q with
  | false => exact ⟨rfl, rfl, nofun⟩
  | true =>
    have hany : (s.ni.reqs.any fun r => r.num = q.tag) = true := by simpa using hasked hreq
    obtain ⟨cs, hmark⟩ := markReissued_frame q.tag (sendAgain q (degradeRouting s))
    rw [hany, if_neg (by decide), if_pos rfl, hmark]
    exact ⟨rfl, rfl, fun _ r hr => countReissue_reissued hr⟩

end

/-! ## Timeouts -/

section
variable {c : Coord} {n : BitVec 15} {s : State} (h : s.Runs) (hnext : (rxOf s c).next = some n)
include h hnext

theorem rereqTimeout_runs : Machine.exec (.rereqTimeout c) s = .next (
    if routerRuns s && ((rxOf s c).bitmap != 0 || !(rxOf s c).held.isEmpty) &&
        decide ((rxOf s c).stuckAt + s.cfg.chunkTimeout.toNat ≤ now s)
    then degradeRouting (sendRaw none (e2ePacket s c 3 0 n.toNat) (setRx { rxOf s c with stuckAt := now s } s)) else s) := by
  change execRereqTimeout c s = _
  unfold execRereqTimeout
  rw [live_runs h]
  dsimp only
  rw [hnext]

theorem rereqTimeout_rests (hrest : ((rxOf s c).bitmap = 0 ∧ (rxOf s c).held = []) ∨
    ¬(rxOf s c).stuckAt + s.cfg.chunkTimeout.toNat ≤ now s) : Machine.exec (.rereqTimeout c) s = .next s := by
  rw [rereqTimeout_runs h hnext]
  refine congrArg _ (if_neg ?_)
  obtain ⟨hbitmap, hheld⟩ | hearly := hrest
  · simp [hbitmap, hheld]
  · simp [hearly]

/-- 16:R463, R472: a stream that stands still while something behind waits asks for the packet at NEXT_SEQ. -/
theorem rereqTimeout_asks (hr : routerRuns s = true) (hlate : (rxOf s c).stuckAt + s.cfg.chunkTimeout.toNat ≤ now s)
    (hbehind : (rxOf s c).bitmap ≠ 0 ∨ (rxOf s c).held ≠ []) : Machine.exec (.rereqTimeout c) s = .next (degradeRouting
      (sendRaw none (e2ePacket s c 3 0 n.toNat) (setRx { rxOf s c with stuckAt := now s } s))) := by
  rw [rereqTimeout_runs h hnext]
  exact congrArg _ (if_pos (by simpa [hr, hlate] using hbehind))

end

/-- The request still waits in its stream for its first transmission. -/
def waitsUnsent (r : Req) (s : State) : Prop := ∃ p ∈ (txOf s r.pkt.dest).waiting, isRequest p = true ∧ p.tag = r.num

theorem waitsUnsent_iff (r : Req) (s : State) :
    ((txOf s r.pkt.dest).waiting.any fun p => isRequest p && p.tag = r.num) = true ↔ waitsUnsent r s := by
  simp [waitsUnsent]

section
variable {r : Req} {s : State} (h : s.Runs) (hr : routerRuns s = true) (hreqs : s.ni.reqs = [r])
include h hreqs

theorem reissueTimeout_runs : Machine.exec (.reissueTimeout r.num) s = .next (
    if !routerRuns s || ((txOf s r.pkt.dest).waiting.any fun p => isRequest p && p.tag = r.num) ||
        decide (now s < r.sentAt + s.cfg.chunkTimeout.toNat) then s
    else if r.reissued then (if r.pkt.kind.toNat = kAtomicReq then unknownAtomic r s else s)
    else markReissued r.num (degradeRouting (sendAgain r.pkt s))) := by
  have hfind : (s.ni.reqs.find? fun x => x.num = r.num) = some r := by simp [hreqs]
  change execReissueTimeout r.num s = _
  unfold execReissueTimeout
  rw [live_runs h]
  dsimp only
  rw [hfind]

theorem reissueTimeout_rests (hrest : ¬r.sentAt + s.cfg.chunkTimeout.toNat ≤ now s ∨ waitsUnsent r s) :
    Machine.exec (.reissueTimeout r.num) s = .next s := by
  rw [reissueTimeout_runs h hreqs]
  refine congrArg _ (if_pos ?_)
  rw [Bool.or_eq_true, Bool.or_eq_true, waitsUnsent_iff, decide_eq_true_eq]
  obtain hearly | hwaits := hrest
  · exact .inr (Nat.lt_of_not_le hearly)
  · exact .inl (.inr hwaits)

include hr

theorem reissueTimeout_due (hlate : r.sentAt + s.cfg.chunkTimeout.toNat ≤ now s) (hsent : ¬waitsUnsent r s) :
    Machine.exec (.reissueTimeout r.num) s = .next (if r.reissued then (if r.pkt.kind.toNat = kAtomicReq then unknownAtomic r s else s)
      else markReissued r.num (degradeRouting (sendAgain r.pkt s))) := by
  rw [reissueTimeout_runs h hreqs]
  refine congrArg _ (if_neg ?_)
  rw [Bool.or_eq_true, Bool.or_eq_true, waitsUnsent_iff, decide_eq_true_eq, hr]
  rintro ((hoff | hwaits) | hearly)
  · exact absurd hoff (by decide)
  · exact hsent hwaits
  · omega

/-- 16:R464: the first timeout sends the request again under its SEQ, in the current epoch (08:R226). -/
theorem reissueTimeout_repeats (hlate : r.sentAt + s.cfg.chunkTimeout.toNat ≤ now s) (hsent : ¬waitsUnsent r s)
    (hfirst : r.reissued = false) : ∃ t, Machine.exec (.reissueTimeout r.num) s = .next t ∧
      t.ni.reqs = [{ r with reissued := true, sentAt := now s }] ∧
      t.rt.inject = s.rt.inject ++ [(none, { r.pkt with epoch := s.ni.epoch })] := by
  obtain ⟨cs, hmark⟩ := markReissued_frame r.num (degradeRouting (sendAgain r.pkt s))
  have hexec := reissueTimeout_due h hr hreqs hlate hsent
  rw [hfirst, if_neg Bool.false_ne_true, hmark] at hexec
  refine ⟨_, hexec, ?_, rfl⟩
  change countReissue r.num (now s) s.ni.reqs = _
  simp [hreqs, countReissue, updWhere]

/-- 16:R464: only one reissue; an operation that is no atomic then goes on waiting. -/
theorem reissueTimeout_once (hagain : r.reissued = true) (hkind : r.pkt.kind ≠ 7) :
    Machine.exec (.reissueTimeout r.num) s = .next s := by
  by_cases hdue : r.sentAt + s.cfg.chunkTimeout.toNat ≤ now s ∧ ¬waitsUnsent r s
  · obtain ⟨hlate, hsent⟩ := hdue
    have hother : ¬r.pkt.kind.toNat = kAtomicReq := fun hk => hkind (BitVec.eq_of_toNat_eq hk)
    rw [reissueTimeout_due h hr hreqs hlate hsent, if_pos hagain, if_neg hother]
  · exact reissueTimeout_rests h hreqs (by tauto)

/-- 16:R466: an atomic without an answer ends after its reissue. -/
theorem reissueTimeout_ends (hlate : r.sentAt + s.cfg.chunkTimeout.toNat ≤ now s) (hsent : ¬waitsUnsent r s) (hagain : r.reissued = true)
    (hkind : r.pkt.kind = 7) {c : Cmd} (howner : r.owner = .cmd c.id) (hcmds : s.cmds = [c]) :
    ∃ t, Machine.exec (.reissueTimeout r.num) s = .next t ∧ t.cmds = [] ∧ t.ni.reqs = [] := by
  have hdrop : (dropReq r.num s).ni.reqs = [] := by simp [dropReq, hreqs]
  have hfind : findCmd c.id (dropReq r.num s) = some c := by simp [findCmd, dropReq, hcmds]
  have hends : unknownAtomic r s = endCmd c stUnknown 0 0 (dropReq r.num s) := by simp only [unknownAtomic, howner, hfind]
  have hexec := reissueTimeout_due h hr hreqs hlate hsent
  rw [if_pos hagain, if_pos (by rw [hkind]; rfl), hends] at hexec
  exact ⟨_, hexec, endCmd_alone (s := dropReq r.num s) hcmds .., by rw [ni_of_unposted (endCmd_unposted ..)]; exact hdrop⟩

end

/-! ## Held flagged packets -/

/-- Nothing is held and no acknowledgement is due. -/
theorem flagRelease_rests {c : Coord} {s : State} (h : s.Runs) (hr : routerRuns s = true) (hwaits : s.NothingWaits)
    (hheld : (rxOf s c).held = []) (hcount : (rxOf s c).accepted = 0) (hopen : ∀ w ∈ s.wins, w.closing = false) :
    Machine.exec (.flagRelease c) s = .next s := by
  have hreleased : releaseGo c (rxOf s c).held.length s = s := by rw [hheld]; rfl
  refine (live_runs h).trans (congrArg Host.Outcome.next ((onlyIf_true hr).trans ?_))
  dsimp only
  rw [hreleased, hcount, if_neg (Nat.lt_irrefl 0), progress_still hwaits hopen]

theorem rxOf_record {c : Coord} {s : State} {r : RxStream} {l : List RxStream} (h : s.ni.rx = r :: l) (hsrc : r.src = c) :
    rxOf s c = r := by
  simp [rxOf, h, hsrc]

/-- The state once the flagged store that a source's record held has acted: its bytes are written, and the record holds nothing
(08:R218). -/
def released (c : Coord) (p : Packet) (s : State) : State :=
  withTraffic (setRx { rxOf s c with held := [] } s).ni s.rt s.cmds (storeBytes (payAddr p) (p.payload.drop 8) (pktPoison p) s)

theorem rxOf_released (c : Coord) (p : Packet) (s : State) : rxOf (released c p s) c = { rxOf s c with held := [] } :=
  rxOf_record (l := s.ni.rx.filter fun x => x.src ≠ (rxOf s c).src) rfl (rxOf_src s c)

/-- The state once the acknowledgement that was due has gone, too (log 83). -/
def releasedAndAcked (c : Coord) (p : Packet) (s : State) : State :=
  if 0 < (rxOf s c).accepted then sendAck c (released c p s) else released c p s

theorem releasedAndAcked_frame (c : Coord) (p : Packet) (s : State) : ∃ rx l, releasedAndAcked c p s = { released c p s with
    ni := { (released c p s).ni with rx := rx }, rt := { (released c p s).rt with inject := (released c p s).rt.inject ++ l } } := by
  unfold releasedAndAcked
  split
  · exact sendAck_frame c (released c p s)
  · exact ⟨(released c p s).ni.rx, [], by rw [List.append_nil]⟩

theorem releasedAndAcked_held (c : Coord) (p : Packet) (s : State) : (rxOf (releasedAndAcked c p s) c).held = [] := by
  unfold releasedAndAcked
  split
  · rw [sendAck_held, rxOf_released]
  · rw [rxOf_released]

theorem releasedAndAcked_acks {c : Coord} {n : BitVec 15} {s : State} (hsome : 0 < (rxOf s c).accepted) (hnext : (rxOf s c).next = some n)
    (hmissed : (rxOf s c).missed = []) (p : Packet) : ∃ q ∈ (releasedAndAcked c p s).rt.inject, E2eAbout 1 c n q.2 := by
  have hsends := sendAck_sends (c := c) (n := n) (s := released c p s) (by rw [rxOf_released]; exact hnext)
    (by rw [rxOf_released]; exact hmissed) (by rw [rxOf_released])
  rw [releasedAndAcked, if_pos hsome, hsends]
  exact ⟨_, List.mem_append_right _ (List.mem_singleton.2 rfl), e2ePacket_about (released c p s) s c 1 _ n⟩

section
variable {c : Coord} {p : Packet} {s : State} (hheld : (rxOf s c).held = [p]) (hready : flagReady (rxOf s c) p = true)
  (hkind : p.kind = 5) (hformed : reqFormed p = true) (hmiss : missReason s p = none) (hwaits : s.NothingWaits)
include hheld hready hkind hformed hmiss hwaits

/-- 08:R218: a held store whose turn has come acts. -/
theorem releaseGo_store : releaseGo c (rxOf s c).held.length s = released c p s := by
  obtain ⟨hserving, -⟩ := hwaits
  have hturn : ((rxOf s c).held.find? fun p => flagReady (rxOf s c) p && servedAll s c) = some p := by
    simp [hheld, hready, servedAll, hserving]
  have hgone : ((rxOf s c).held.filter fun q => q.seq ≠ p.seq) = [] := by simp [hheld]
  have hact : requestAct p (setRx { rxOf s c with held := [] } s) = released c p s :=
    (requestAct_stores (s := setRx { rxOf s c with held := [] } s) hformed hmiss (.inl hkind)).trans
      ((storeBytes_apart _ _ _).setRx _ s)
  have hreq : isRequest p = true := by simp [isRequest, hkind]
  rw [show (rxOf s c).held.length = 1 by rw [hheld]; rfl]
  unfold releaseGo
  dsimp only
  rw [hturn]
  dsimp only
  rw [hgone, if_pos hreq, hact]
  rfl

variable (h : s.Runs) (hr : routerRuns s = true)
include h hr

/-- 08:R218: the store acts, the acknowledgement that is due goes, and then beside the windows nothing changes. -/
theorem flagRelease_store : ∃ l, Machine.exec (.flagRelease c) s = .next { releasedAndAcked c p s with wins := l } := by
  have hstep := releaseGo_store hheld hready hkind hformed hmiss hwaits
  have hcount : (rxOf (released c p s) c).accepted = (rxOf s c).accepted := by rw [rxOf_released]
  obtain ⟨rx, k, hframe⟩ := releasedAndAcked_frame c p s
  obtain ⟨hserving, hcmds⟩ : (releasedAndAcked c p s).NothingWaits := by rw [hframe]; exact hwaits
  obtain ⟨l, hidle⟩ := progress_idle hserving hcmds
  refine ⟨l, (live_runs h).trans (congrArg Host.Outcome.next ((onlyIf_true hr).trans ?_))⟩
  dsimp only
  rw [hstep, hcount]
  exact hidle

end

/-! ## Rates -/

/-- An update of a class's rate reaches it (08 Table 8-9). -/
theorem rateOf_modRate {k : RateClass} {s : State} (hdir : k.dir.toNat < 6) (hlen : s.ni.rates.length = 12) (f : Rate → Rate) :
    rateOf k (modRate k f s) = f (rateOf k s) := by
  refine modAt_getD_self f ?_ _
  unfold rateIndex
  split <;> omega

section
variable {k : RateClass} {s : State} (h : s.Runs)
include h

theorem rateRise_early (hearly : now s < (rateOf k s).lastEcho + 25 ∨ now s < (rateOf k s).lastRise + 25) :
    Machine.exec (.rateRise k) s = .next s := by
  have hwait : ¬max (rateOf k s).lastEcho (rateOf k s).lastRise + Config.tick1us ≤ now s := by
    simp only [Config.tick1us]
    omega
  exact (live_runs h).trans (congrArg Host.Outcome.next (onlyIf_false (by rw [decide_eq_false hwait, Bool.and_false])))

theorem rateReset_early (hearly : now s < (rateOf k s).lastEcho + 1250) : Machine.exec (.rateReset k) s = .next s := by
  have hwait : ¬(rateOf k s).lastEcho + 50 * Config.tick1us ≤ now s := by
    simp only [Config.tick1us]
    omega
  exact (live_runs h).trans (congrArg Host.Outcome.next (onlyIf_false (by rw [decide_eq_false hwait, Bool.and_false])))

variable (hdir : k.dir.toNat < 6)
include hdir

theorem rateRise_due (hecho : (rateOf k s).lastEcho + 25 ≤ now s) (hrise : (rateOf k s).lastRise + 25 ≤ now s) :
    Machine.exec (.rateRise k) s = .next (modRate k (fun r => { rateUp k.vc2 r with lastRise := now s }) s) := by
  have hdue : max (rateOf k s).lastEcho (rateOf k s).lastRise + Config.tick1us ≤ now s := by
    simp only [Config.tick1us]
    omega
  exact (live_runs h).trans (congrArg Host.Outcome.next (onlyIf_true (by rw [decide_eq_true hdir, decide_eq_true hdue]; rfl)))

theorem rateReset_due (hecho : (rateOf k s).lastEcho + 1250 ≤ now s) : Machine.exec (.rateReset k) s =
    .next (modRate k (fun r => { r with num := (rateDefault k.vc2).1, sh := (rateDefault k.vc2).2 }) s) := by
  have hdue : (rateOf k s).lastEcho + 50 * Config.tick1us ≤ now s := by
    simp only [Config.tick1us]
    omega
  exact (live_runs h).trans (congrArg Host.Outcome.next (onlyIf_true (by rw [decide_eq_true hdir, decide_eq_true hdue]; rfl)))

end

/-- Settles O46: acknowledgements, BUSY answers and re-requests that come, those that go, timeouts, held packets and rates. -/
theorem streamsKept : Obligations.StreamsKept := by
  unfold Obligations.StreamsKept
  refine ⟨?control, ?ackSend, ?busy, ?resend, fun n s h hnone => busyResend_unnoted h hnone, ?rereq, ?reissue, ?release, ?rates⟩
  case control =>
    intro p s h hr hkind n named
    refine ⟨fun hsub hecho hcmds hreqs hout hwait hmissed => ?_,
      fun hsub hnamed => (e2eRereq_runs h hr hkind hsub).trans (congrArg _ (rereqAct_ignores hnamed)),
      fun q hsub hq hasked => ⟨_, e2eRereq_runs h hr hkind hsub, rereqAct_repeats hq hasked⟩,
      fun hsub hreqs => (e2eBusy_runs h hr hkind hsub).trans (congrArg _ (busyAct_unasked hreqs))⟩
    refine ⟨_, (e2eAck_runs h hr hkind hsub).trans (congrArg _ (ackAct_retires hecho hcmds hreqs hout hwait hmissed)), ?_, rfl⟩
    rw [txOf_setTx (t := retired p s) _ (txOf_dst s p.src)]
    rfl
  case ackSend =>
    intro c s h hr
    refine ⟨fun hcount => e2eAckSend_rests h (.inl hcount), fun n hnext hheld => e2eAckSend_rests h (.inr (sendAck_waits hnext hheld)),
      fun n hsome _ hnext hmissed hheld => ?_⟩
    obtain ⟨hkind, hdest, hsub, hvalue⟩ := e2ePacket_about s s c 1 (rxOf s c).echo n
    refine ⟨_, _, e2eAckSend_sends h hr hsome hnext hmissed hheld, rfl, hkind, hdest, hsub, hvalue, ?_⟩
    exact (congrArg RxStream.accepted (rxOf_setRx (r := { rxOf s c with accepted := 0, echo := 0 }) s (rxOf_src s c)) :)
  case busy =>
    intro p r s h hr hkind hsub hreqs hdest hnum hbusy
    exact ⟨_, (e2eBusy_runs h hr hkind hsub).trans (congrArg _ (busyAct_notes hreqs hdest hnum hbusy)), rfl, rfl⟩
  case resend =>
    intro r at_ s h hr hreqs hbusy
    exact ⟨busyResend_early h hbusy, fun hdue => ⟨_, busyResend_due h hbusy hr hreqs hdue, rfl, rfl, rfl⟩⟩
  case rereq =>
    intro c n s h hr hnext late
    refine ⟨fun hbitmap hheld => rereqTimeout_rests h hnext (.inl ⟨hbitmap, hheld⟩), fun hearly => rereqTimeout_rests h hnext (.inr hearly),
      fun hlate hbehind => ?_⟩
    obtain ⟨hkind, hdest, hsub, hvalue⟩ := e2ePacket_about s s c 3 0 n
    exact ⟨_, _, rereqTimeout_asks h hnext hr hlate hbehind, rfl, hkind, hdest, hsub, hvalue, rfl⟩
  case reissue =>
    intro r s h hr hreqs late waits
    refine ⟨reissueTimeout_rests h hreqs, fun hlate hsent hfirst => ?_, reissueTimeout_once h hr hreqs,
      fun c hlate hsent hagain hkind howner hcmds => reissueTimeout_ends h hr hreqs hlate hsent hagain hkind howner hcmds⟩
    obtain ⟨t, hexec, hcounted, hsent⟩ := reissueTimeout_repeats h hr hreqs hlate hsent hfirst
    exact ⟨t, _, hexec, hcounted, rfl, rfl, hsent⟩
  case release =>
    intro c s h hr hwaits
    refine ⟨flagRelease_rests h hr hwaits, fun p hheld _ hready hkind hformed hmiss => ?_⟩
    obtain ⟨l, hexec⟩ := flagRelease_store hheld hready hkind hformed hmiss hwaits h hr
    obtain ⟨rx, k, hframe⟩ := releasedAndAcked_frame c p s
    exact ⟨_, hexec, releasedAndAcked_held c p s, (congrArg State.stg hframe :), (congrArg State.tm hframe :),
      fun n hsome hnext hmissed => releasedAndAcked_acks hsome hnext hmissed p⟩
  case rates =>
    intro k s h hdir hlen r
    refine ⟨rateRise_early h, rateReset_early h, fun hecho hrise => ⟨_, rateRise_due h hdir hecho hrise, rateOf_modRate hdir hlen _⟩,
      fun hecho => ⟨_, rateReset_due h hdir hecho, ?_, ?_⟩⟩ <;> rw [rateOf_modRate hdir hlen]
    all_goals rfl

end Sys2Proof.Proofs

/-! COMM_CREATE and COMM_DESTROY (09:R241 to R244; 05:R141): what a description is refused for, how a COMM_DESTROY that nothing holds
ends, which communicators it leaves, and O27 from them. -/

namespace Sys2Proof.Proofs

open Sys2Proof Sys2Proof.Machine Sys2Proof.Laws

section
variable (q : BitVec 6) (s : State)

@[simp] theorem popHead_commBad (e : Entry) : commBad (popHead q s) e = commBad s e := by
  obtain ⟨l, hl⟩ := popHead_frame q s
  rw [hl]
  rfl

@[simp] theorem popHead_commHere (h : W32) : commHere h (popHead q s) = commHere h s := by
  obtain ⟨l, hl⟩ := popHead_frame q s
  rw [hl]
  rfl

end

/-! ## COMM_CREATE -/

section
variable {q : BitVec 6} {e : Entry} {s : State} (h : s.AtHead q e) (hop : entOpcode e = 0x09) (hres : noReserved commFields e = true)
include h hop hres

theorem commCreate_refuses (hbad : commBad s e = true) :
    Machine.exec (.commCreate q e) s = .next (endEntry q e stBadDesc (popHead q s)) :=
  row_ends rfl (by simp [hop]) h (by rw [hop]; rfl) hres (if_pos (by rwa [popHead_commBad]))

variable (hgood : commBad s e = false)
include hgood

/-- 09:R242: 4,096 communicators are all that a node holds. -/
theorem commCreate_full (hfull : 4096 ≤ s.comms.length) :
    Machine.exec (.commCreate q e) s = .next (endEntry q e stLimit (popHead q s)) :=
  row_ends rfl (by simp [hop]) h (by rw [hop]; rfl) hres
    ((if_neg (by simp [hgood])).trans (if_pos (by rwa [popHead_comms])))

theorem commCreate_registers (hroom : s.comms.length < 4096) : Machine.exec (.commCreate q e) s =
    .next (endResult q e ((commOf e).handle.setWidth 64) { popHead q s with comms := s.comms ++ [commOf e] }) := by
  refine row_results rfl (by simp [hop]) h (by rw [hop]; rfl) hres ((if_neg (by simp [hgood])).trans ((if_neg ?_).trans ?_))
  · rw [popHead_comms]
    exact Nat.not_le.2 hroom
  · rw [popHead_comms]

end

/-! ## COMM_DESTROY -/

/-- Without collectives no notice leaves. -/
theorem abortHandle_idle {s : State} (hctxs : s.ctxs = []) (hsaved : s.saved = []) (h : W32) : abortHandle h s = s := by
  simp [abortHandle, hctxs, hsaved]

/-- 05:R141: a COMM_DESTROY alone on a node without collectives ends, and frees its handle. -/
theorem destroyKick_alone {s : State} {c : Cmd} {h : W32} (hcmds : s.cmds = [c]) (hkind : c.kind = .commDestroy h)
    (hctxs : s.ctxs = []) (hsaved : s.saved = []) :
    (destroyKick s).cmds = [] ∧ (destroyKick s).comms = s.comms.filter fun x => x.handle ≠ h := by
  have hbusy : drainBusy s h = false := by simp [drainBusy, hctxs, hsaved]
  have hends : destroyKick s = endHeld c stOK 0 0 { s with comms := s.comms.filter fun x => x.handle ≠ h } := by
    simp [destroyKick, hcmds, hkind, hbusy]
  have hrest := endHeld_unposted c stOK 0 0 { s with comms := s.comms.filter fun x => x.handle ≠ h }
  rw [hends]
  refine ⟨?_, comms_of_unposted hrest⟩
  rw [cmds_of_unposted hrest]
  simp [hcmds]

/-- A handle that is freed names nothing, and every other handle what it named. -/
theorem findComm_freed {s t : State} {h : W32} (hcomms : t.comms = s.comms.filter fun x => x.handle ≠ h) :
    findComm h t = none ∧ ∀ k, k ≠ h → findComm k t = findComm k s := by
  simp only [findComm, hcomms, List.find?_filter]
  refine ⟨List.find?_eq_none.2 fun c _ => by simp, fun k hk => congrArg (List.find? · s.comms) (funext fun c => ?_)⟩
  by_cases hc : c.handle = k
  · simp [hc, hk]
  · simp [hc]

/-- The state in which the handle is freed: no collective had to be aborted, and the command has started. -/
def destroying (q : BitVec 6) (e : Entry) (h : W32) (s : State) : State := addCmd q e (.commDestroy h) (popHead q s)

section
variable {q : BitVec 6} {e : Entry} {s : State} (h : s.AtHead q e) (hop : entOpcode e = 0x0A) (hres : noReserved [(0, 32)] e = true)
include h hop hres

theorem commDestroy_noComm (hnone : commHere (namedHandle e) s = none) :
    Machine.exec (.commDestroy q e) s = .next (endEntry q e stNoComm (popHead q s)) := by
  refine row_ends rfl (by simp [hop]) h (by rw [hop]; rfl) hres ?_
  dsimp only
  rw [popHead_commHere, hnone]

variable {c : Comm} (hcomm : commHere (namedHandle e) s = some c) (hctxs : s.ctxs = []) (hsaved : s.saved = []) (hcmds : s.cmds = [])
include hcomm hctxs hsaved hcmds

theorem commDestroy_runs :
    Machine.exec (.commDestroy q e) s = .next (settleHead q (destroyKick (destroying q e (namedHandle e) s))) := by
  refine row_runs rfl (by simp [hop]) h (by rw [hop]; rfl) hres ?_
  dsimp only
  rw [popHead_commHere, hcomm, popHead_cmds, hcmds]
  dsimp only [List.filter_nil, List.foldl_nil]
  rw [abortHandle_idle ((popHead_ctxs q s).trans hctxs) ((popHead_saved q s).trans hsaved)]
  rfl

/-- 05:R141: a COMM_DESTROY that nothing holds removes its communicator, and is over in its own step. -/
theorem commDestroy_ends : ∃ t, Machine.exec (.commDestroy q e) s = .next t ∧ t.cmds = [] ∧
    t.comms = s.comms.filter fun x => x.handle ≠ namedHandle e := by
  obtain ⟨x, hx, hkind⟩ := addCmd_alone ((popHead_cmds q s).trans hcmds) q e (.commDestroy (namedHandle e))
  obtain ⟨hover, hleft⟩ := destroyKick_alone (s := destroying q e (namedHandle e) s) hx hkind ((popHead_ctxs q s).trans hctxs)
    ((popHead_saved q s).trans hsaved)
  refine ⟨_, commDestroy_runs h hop hres hcomm hctxs hsaved hcmds, ?_, ?_⟩
  · rw [cmds_of_unposted (settleHead_unposted ..), hover]
  · rw [comms_of_unposted (settleHead_unposted ..), hleft]
    exact congrArg _ (popHead_comms q s)

end

/-- Settles O27: COMM_CREATE by its checks in order, COMM_DESTROY by the handle that it frees. -/
theorem communicatorCommands : Obligations.CommunicatorCommands := by
  unfold Obligations.CommunicatorCommands
  refine ⟨fun q e s h hop hres => ⟨commCreate_refuses h hop hres, commCreate_full h hop hres, fun hgood hroom =>
    ⟨commCreate_registers h hop hres hgood hroom, rfl, rfl, rfl⟩⟩, fun q e s h hop hres => ?_⟩
  refine ⟨commDestroy_noComm h hop hres, fun c hcomm hctxs hsaved hcmds => ?_⟩
  obtain ⟨t, hexec, hover, hcomms⟩ := commDestroy_ends h hop hres hcomm hctxs hsaved hcmds
  obtain ⟨hfreed, hothers⟩ := findComm_freed hcomms
  exact ⟨t, hexec, hfreed, hover, hothers⟩

end Sys2Proof.Proofs

/-! Memory and the queue pages: the writes of memory neither read nor change the pages or the Tree, and what a command checks and reads
does not depend on them (04:R104; 06:R155). -/

namespace Sys2Proof.Proofs

open Sys2Proof Sys2Proof.Machine Sys2Proof.Laws

/-- The state with other queue pages and another Tree. -/
def withPages (l : List QPage) (tr : Tree) (s : State) : State := { s with qs := l, tree := tr }

/-- The function neither reads nor changes the queue pages and the Tree. -/
def ApartFromPages (f : State → State) : Prop := ∀ l tr s, f (withPages l tr s) = withPages l tr (f s)

/-! ## Writes -/

theorem stgWrite_apartPages (o : Nat) (bs : Bytes) : ApartFromPages (stgWrite o bs) := by
  induction bs generalizing o with
  | nil => exact fun _ _ _ => rfl
  | cons x r ih => exact fun l tr s => ih (o + 1) l tr (stgWrite o [x] s)

theorem tmWriteByte_apartPages (b : Nat) (x : Byte) : ApartFromPages (tmWriteByte b x) := fun l tr s => by
  unfold tmWriteByte
  rw [apply_ite (withPages l tr)]
  rfl

theorem tmWriteGo_apartPages (o : Nat) (bs : Bytes) : ApartFromPages (tmWriteGo o bs) := by
  induction bs generalizing o with
  | nil => exact fun _ _ _ => rfl
  | cons x r ih =>
    intro l tr s
    unfold tmWriteGo
    rw [show interleave (withPages l tr s) o = interleave s o from rfl, tmWriteByte_apartPages, ih]

theorem tmWrite_apartPages (o : Nat) (bs : Bytes) : ApartFromPages (tmWrite o bs) := fun l tr s => by
  unfold tmWrite
  rw [tmWriteGo_apartPages]
  rfl

theorem busSend_apartPages (relaxed poisoned : Bool) (a : Nat) (bs : Bytes) : ApartFromPages (busSend relaxed poisoned a bs) :=
  fun l tr s => by
  unfold busSend
  rw [apply_ite (withPages l tr)]
  rfl

theorem accelRangesGo_withPages (l : List QPage) (tr : Tree) (s : State) (k o : Nat) (bs : Bytes) :
    accelRangesGo (withPages l tr s) k o bs = accelRangesGo s k o bs := by
  induction k generalizing o bs with
  | zero => rfl
  | succ k ih =>
    unfold accelRangesGo
    simp only [ih]
    rfl

theorem accelWrite_apartPages (poisoned : Bool) (o : Nat) (bs : Bytes) : ApartFromPages (accelWrite poisoned o bs) := fun l tr s => by
  unfold accelWrite
  rw [accelRanges, accelRangesGo_withPages]
  show _ = withPages l tr (List.foldl _ s (accelRangesGo s bs.length o bs))
  induction accelRangesGo s bs.length o bs generalizing s with
  | nil => rfl
  | cons r rs ih =>
    rw [List.foldl_cons, List.foldl_cons, ← ih]
    exact congrArg (List.foldl _ · rs) (busSend_apartPages s.host.relaxed poisoned r.1 r.2 l tr s)

theorem localWrite_apartPages (a : W64) (bs : Bytes) : ApartFromPages (localWrite a bs) := fun l tr s => by
  unfold localWrite
  extract_lets o
  split
  · exact stgWrite_apartPages o bs l tr s
  · exact tmWrite_apartPages o bs l tr s
  · exact accelWrite_apartPages false o bs l tr s
  · rfl

/-- A write of memory leaves every queue's page. -/
theorem localWrite_qs (a : W64) (bs : Bytes) (s : State) : (localWrite a bs s).qs = s.qs :=
  (congrArg State.qs (localWrite_apartPages a bs s.qs s.tree s) :)

theorem localWrite_page (a : W64) (bs : Bytes) (s : State) (q : BitVec 6) :
    getPage q.toNat (localWrite a bs s) = getPage q.toNat s := by
  have hq : q.toNat ≠ 64 := by omega
  simp [getPage, hq, localWrite_qs]

/-- A write of memory leaves the Tree. -/
theorem localWrite_tree (a : W64) (bs : Bytes) (s : State) : (localWrite a bs s).tree = s.tree :=
  (congrArg State.tree (localWrite_apartPages a bs s.qs s.tree s) :)

/-- A write of memory leaves bus mastering. -/
theorem localWrite_busMaster (a : W64) (bs : Bytes) (s : State) : (localWrite a bs s).host.busMaster = s.host.busMaster :=
  busMaster_of_lasting (localWrite_lasting a bs s)

/-! ## Checks and reads, once the entry has left the head -/

section
variable {s t : State} (hwins : t.wins = s.wins)
include hwins

theorem accelPiecesGo_congr (hreq : t.host.readReq = s.host.readReq) (k o n : Nat) :
    accelPiecesGo t k o n = accelPiecesGo s k o n := by
  induction k generalizing o n with
  | zero => rfl
  | succ k ih =>
    unfold accelPiecesGo
    simp only [ih, windowFor, windowOf, hwins, pieces, hreq]

/-- The PCI Express reads of a range follow from the windows and the maximum read request size. -/
theorem localPieces_congr (hreq : t.host.readReq = s.host.readReq) (a : W64) (n : Nat) : localPieces t a n = localPieces s a n := by
  unfold localPieces
  rw [accelPiecesGo_congr hwins hreq, hwins]

theorem localWindowsGo_congr (k o n : Nat) : localWindowsGo t k o n = localWindowsGo s k o n := by
  induction k generalizing o n with
  | zero => rfl
  | succ k ih =>
    unfold localWindowsGo
    simp only [ih, windowOf, hwins]

/-- The check of a range follows from the windows and the running modules. -/
theorem localCheck_congr (hboot : t.boot = s.boot) (a : W64) (n : Nat) : localCheck t a n = localCheck s a n := by
  have hcapacity : tmCapacity t = tmCapacity s := by simp only [tmCapacity, runningPorts, hboot]
  have hwindows (o : Nat) : localWindows t o n = localWindows s o n := by rw [localWindows, localWindows, localWindowsGo_congr hwins, hwins]
  unfold localCheck
  extract_lets o
  rw [hcapacity, hwindows]

end

section
variable (q : BitVec 6) (s : State)

theorem popHead_withPages : ∃ l, popHead q s = withPages l s.tree s := popHead_frame q s

@[simp] theorem popHead_isLocal (m : Nat) (a : W64) : isLocal (popHead q s) m a = isLocal s m a := by
  obtain ⟨l, hl⟩ := popHead_withPages q s
  rw [hl]
  rfl

@[simp] theorem popHead_coordOf (m : Nat) (a : W64) : coordOf (popHead q s) m a = coordOf s m a := by
  obtain ⟨l, hl⟩ := popHead_withPages q s
  rw [hl]
  rfl

@[simp] theorem popHead_localRead (a : W64) (n : Nat) : localRead (popHead q s) a n = localRead s a n := by
  obtain ⟨l, hl⟩ := popHead_withPages q s
  rw [hl]
  rfl

@[simp] theorem popHead_localPoison (a : W64) (n : Nat) : localPoison (popHead q s) a n = localPoison s a n := by
  obtain ⟨l, hl⟩ := popHead_withPages q s
  rw [hl]
  rfl

@[simp] theorem popHead_addrsBad (m : Nat) (l : List Operand) : addrsBad (popHead q s) m l = addrsBad s m l := by
  obtain ⟨qs, hqs⟩ := popHead_withPages q s
  have hform : addrForm (withPages qs s.tree s) m = addrForm s m := rfl
  have hrange : addrRange (withPages qs s.tree s) m = addrRange s m := funext fun a => by
    unfold addrRange
    rw [localCheck_congr (s := s) (by rfl) (by rfl)]
    rfl
  rw [hqs, addrsBad, addrsBad, hform, hrange]

@[simp] theorem popHead_commSize (c : Comm) : commSize (popHead q s) c = commSize s c := by
  obtain ⟨l, hl⟩ := popHead_withPages q s
  rw [hl]
  rfl

@[simp] theorem popHead_commHeld (c : Comm) : commHeld (popHead q s) c = commHeld s c := by
  obtain ⟨l, hl⟩ := popHead_withPages q s
  rw [hl]
  rfl

end

/-! ## A command that reads memory -/

section
variable {q : BitVec 6} {e : Entry} {fields : List (Nat × Nat)} {s t : State} {run : State → Option State} {ok : Bool} {c : Instr}
  {src : State → List (Nat × Nat)} {ps : List (Nat × Nat)}
  (hrow : Machine.exec c = fun s => live s (octozRead q e ok fields src run)) (h : s.AtHead q e) (hps : src s = ps)
  (hok : ok = true) (hk : opcodeKnown (entOpcode e) = true) (hres : noReserved fields e = true) (hready : busReady ps s = true)
include hrow h hps hok hk hres hready

/-- A command with its bytes there that leaves the fetched entries alone has started, and has used its bytes. -/
theorem read_starts (hrun : run (popHead q s) = some t)
    (hlast : (getPage q.toNat t).fetched = (getPage q.toNat (popHead q s)).fetched) : Machine.exec c s = .next (useBus ps t) := by
  rw [read_ready hrow h hps hready]
  exact congrArg _ (octozRow_starts hok h hk hres (by rw [hrun]; rfl) hlast)

/-- A command with its bytes there runs, and then what no command row starts leaves the head. -/
theorem read_runs (hrun : run (popHead q s) = some t) : Machine.exec c s = .next (settleHead q (useBus ps t)) := by
  obtain ⟨-, -, -, hhead, -, -⟩ := id h
  rw [read_ready hrow h hps hready]
  subst hok
  simp [octozRow, settleHead_known hhead hk, headIs_of_atHead h, fenceHolds_of_atHead h, hres, hrun]

end

end Sys2Proof.Proofs

/-! Requests of this node (10:R283, R285; 08:R202, R215; 16:R464): what a request packet that goes at once leaves, with an entry of
its own among the outstanding requests. -/

namespace Sys2Proof.Proofs

open Sys2Proof Sys2Proof.Machine Sys2Proof.Laws

/-- The requests that are open, by what they were made for. -/
def owners (s : State) : List ReqOwner := s.ni.reqs.map fun r => r.owner

/-- A request whose packet is sent keeps what it was made for. -/
theorem noteSent_owners (p : Packet) (s : State) : owners (noteSent p s) = owners s := by
  unfold owners noteSent updWhere
  rw [List.map_map]
  refine List.map_congr_left fun r _ => ?_
  simp only [Function.comp_apply, apply_ite Req.owner, ite_self]

/-- 08:R215: what a stream sends opens and closes no request. -/
theorem sendStream_owners (p : Packet) (s : State) : owners (sendStream p s) = owners s := by
  obtain ⟨sent, hwaits⟩ := sendStream_waits p s
  rw [hwaits, txPump]
  exact foldl_frame (π := owners) fun u q => noteSent_owners q u

theorem popHead_streamOpen (q : BitVec 6) (c : Coord) (s : State) : (popHead q s).StreamOpen c ↔ s.StreamOpen c :=
  streamOpen_congr (by rw [popHead_ni]) c

theorem txRoom_of_open {c : Coord} {s : State} (h : s.StreamOpen c) : txRoom s c = true := by
  obtain ⟨hnone, hroom⟩ := h
  simp [txRoom, hnone, Config.streamMax, hroom]

theorem reqRoom_of_open {c : Coord} {s : State} (h : s.StreamOpen c) (hreqs : s.ni.reqs.length < 16384) : reqRoom s c = true := by
  simp [reqRoom, Config.requestMax, hreqs, txRoom_of_open h]

/-- The state after a request packet has joined the injection queue under the next request number: of the NI, beside its records of
what was sent and the number, the requests have one more, made for `owner`. -/
def Requested (owner : ReqOwner) (p : Packet) (s t : State) : Prop :=
  ∃ q tx reqs sent, t = { s with ni := { s.ni with tx := tx, reqs := reqs, sentTo := sent, nextReq := s.ni.nextReq + 1 }
                                 rt := { s.rt with inject := s.rt.inject ++ [(none, q)] } } ∧
    owners t = owners s ++ [owner] ∧ q.kind = p.kind ∧ q.dest = p.dest ∧ q.tag = s.ni.nextReq ∧ q.flag = false ∧ q.payload = p.payload

/-- 10:R283: a request in an open stream leaves at once. -/
theorem issueReq_open {p : Packet} {s : State} (h : s.StreamOpen p.dest) (hflag : p.flag = false) (owner : ReqOwner)
    (rank : BitVec 18) (dst : W64) : Requested owner p s (issueReq owner p rank dst s) := by
  unfold issueReq
  extract_lets n q r
  obtain ⟨tx, reqs, sent, hsent⟩ := sendStream_open (p := q)
    (s := { s with ni := { s.ni with reqs := s.ni.reqs ++ [r], nextReq := n + 1 } }) ((streamOpen_congr rfl _).2 h) hflag
  refine ⟨_, tx, reqs, sent, hsent, ?_, rfl, rfl, rfl, hflag, rfl⟩
  rw [sendStream_owners]
  simp [owners, r]

end Sys2Proof.Proofs

/-! ATOMIC (10:R285, R294, Table 10-7): the new value of an operand, what the command refuses, an operand on this node and one on another,
and O34 from them. -/

namespace Sys2Proof.Proofs

open Sys2Proof Sys2Proof.Machine Sys2Proof.Laws

/-! ## The new value -/

/-- Operands of one width that are the same signed number are the same. -/
theorem eq_of_sext_eq {w x y : Nat} (hx : x < 2 ^ w) (hy : y < 2 ^ w) (h : sext w x = sext w y) : x = y := by
  unfold sext at h
  rw [Nat.mod_eq_of_lt hx, Nat.mod_eq_of_lt hy] at h
  dsimp only at h
  split at h <;> split at h <;> omega

section
variable {n old operand : Nat} (compare : Nat)

theorem atomicNew_max : atomicNew 7 n old operand compare = if sext (8 * n) old < sext (8 * n) operand then operand else old := rfl
theorem atomicNew_min : atomicNew 8 n old operand compare = if sext (8 * n) operand < sext (8 * n) old then operand else old := rfl

/-- 10 Table 10-7: of the two operands the maximum takes one and the minimum the other. -/
theorem atomicNew_max_add_min (hold : old < 2 ^ (8 * n)) (hop : operand < 2 ^ (8 * n)) :
    atomicNew 7 n old operand compare + atomicNew 8 n old operand compare = old + operand := by
  rw [atomicNew_max, atomicNew_min]
  rcases lt_trichotomy (sext (8 * n) old) (sext (8 * n) operand) with h | h | h
  · rw [if_pos h, if_neg (not_lt.2 h.le), Nat.add_comm]
  · rw [if_neg h.not_lt, if_neg h.symm.not_lt, eq_of_sext_eq hold hop h]
  · rw [if_neg (not_lt.2 h.le), if_pos h]

/-- 10 Table 10-7: the order is that of signed numbers. -/
theorem atomicNew_min_le_max :
    sext (8 * n) (atomicNew 8 n old operand compare) ≤ sext (8 * n) (atomicNew 7 n old operand compare) := by
  rw [atomicNew_max, atomicNew_min]
  split <;> split <;> omega

end

/-! ## The command -/

/-- The PCI Express reads of an ATOMIC: those of an operand on this node. -/
def atomicReads (e : Entry) (s : State) : List (Nat × Nat) :=
  match commHere (BitVec.ofNat 32 (bodyField e 0 4)) s with
  | none => []
  | some c => if atomicCheck s c e = none && isLocal s c.map.toNat (bodyAddr e 8) = some true
      then localPieces s (bodyAddr e 8) (bodyField e 5 1) else []

/-- What an ATOMIC does once it starts. -/
def atomicRun (q : BitVec 6) (e : Entry) (s : State) : Option State :=
  match commHere (BitVec.ofNat 32 (bodyField e 0 4)) s with
  | none => some (endEntry q e stNoComm s)
  | some c => match atomicCheck s c e with
    | some st => some (endEntry q e st s)
    | none => startAtomic q e c s

/-- An ATOMIC that has started on an operand of another node. -/
def asked (q : BitVec 6) (e : Entry) (c : Comm) (s : State) : State :=
  let a := bodyAddr e 8
  let d := coordOf s c.map.toNat a
  issueReq (.cmd s.tree.nextCmd) (reqPacket s kAtomicReq c.map d (atomicPayload a (bodyField e 4 1) (bodyField e 5 1)
    (BitVec.ofNat 64 (bodyField e 16 8)) (BitVec.ofNat 64 (bodyField e 24 8))) false false) (faRank a) 0
    (addCmd q e (.atomic c.handle (faRank a) d) s)

theorem asked_requested {q : BitVec 6} {e : Entry} {c : Comm} {s : State} (h : s.StreamOpen (coordOf s c.map.toNat (bodyAddr e 8))) :
    Requested (.cmd s.tree.nextCmd) (reqPacket s kAtomicReq c.map (coordOf s c.map.toNat (bodyAddr e 8))
      (atomicPayload (bodyAddr e 8) (bodyField e 4 1) (bodyField e 5 1) (BitVec.ofNat 64 (bodyField e 16 8))
        (BitVec.ofNat 64 (bodyField e 24 8))) false false)
      (addCmd q e (.atomic c.handle (faRank (bodyAddr e 8)) (coordOf s c.map.toNat (bodyAddr e 8))) s) (asked q e c s) :=
  issueReq_open h rfl ..

theorem atomic_exec (q : BitVec 6) (e : Entry) : Machine.exec (.atomic q e) =
    fun s => live s (octozRead q e (entOpcode e = 0x23) atomicFields (atomicReads e) (atomicRun q e)) := rfl

@[simp] theorem popHead_atomicCheck (q : BitVec 6) (s : State) (c : Comm) (e : Entry) :
    atomicCheck (popHead q s) c e = atomicCheck s c e := by simp only [atomicCheck, popHead_addrsBad]

section
variable {q : BitVec 6} {e : Entry} {s : State} (h : s.AtHead q e) (hop : entOpcode e = 0x23) (hres : noReserved atomicFields e = true)
include h hop hres

theorem atomic_noComm (hnone : commHere (BitVec.ofNat 32 (bodyField e 0 4)) s = none) :
    Machine.exec (.atomic q e) s = .next (useBus [] (endEntry q e stNoComm (popHead q s))) := by
  refine read_ends (atomic_exec q e) h ?_ (by simp [hop]) (by rw [hop]; rfl) hres rfl ?_
  · simp only [atomicReads, hnone]
  · simp only [atomicRun, popHead_commHere, hnone]

variable {c : Comm} (hcomm : commHere (BitVec.ofNat 32 (bodyField e 0 4)) s = some c)
include hcomm

theorem atomic_refuses {status : Byte} (hbad : atomicCheck s c e = some status) :
    Machine.exec (.atomic q e) s = .next (useBus [] (endEntry q e status (popHead q s))) := by
  refine read_ends (atomic_exec q e) h ?_ (by simp [hop]) (by rw [hop]; rfl) hres rfl ?_
  · simp [atomicReads, hcomm, hbad]
  · simp only [atomicRun, popHead_commHere, popHead_atomicCheck, hcomm, hbad]

variable (hgood : atomicCheck s c e = none)
include hgood

/-- 10:R285: an operand on this node takes its new value in the step, and the result is the old one. -/
theorem atomic_here (hlocal : isLocal s c.map.toNat (bodyAddr e 8) = some true)
    (hready : busReady (localPieces s (bodyAddr e 8) (bodyField e 5 1)) s = true) :
    let r := doAtomic (bodyAddr e 8) (bodyField e 4 1) (bodyField e 5 1) (BitVec.ofNat 64 (bodyField e 16 8))
      (BitVec.ofNat 64 (bodyField e 24 8)) (popHead q s)
    Machine.exec (.atomic q e) s =
      .next (useBus (localPieces s (bodyAddr e 8) (bodyField e 5 1)) (endResult q e r.1 r.2)) := by
  obtain ⟨-, hmaster, -⟩ := id h
  refine read_starts (atomic_exec q e) h ?_ (by simp [hop]) (by rw [hop]; rfl) hres hready ?_ ?_
  · simp [atomicReads, hcomm, hgood, hlocal]
  · simp [atomicRun, hcomm, hgood, startAtomic, lostTarget, hlocal]
  · refine (postCompletion_fetched ?_ _ _ _).trans (congrArg QPage.fetched (localWrite_page ..))
    exact (localWrite_busMaster ..).trans (by rw [popHead_host, hmaster])

/-- 10:R285: an operand on another node is asked for, and the command waits. -/
theorem atomic_sends (hfar : isLocal s c.map.toNat (bodyAddr e 8) = some false)
    (hthere : coordOf s c.map.toNat (bodyAddr e 8) ∉ s.ni.lost) (hreqs : s.ni.reqs.length < 16384)
    (hopen : s.StreamOpen (coordOf s c.map.toNat (bodyAddr e 8))) :
    ∃ t p, Machine.exec (.atomic q e) s = .next t ∧ t.rt.inject = s.rt.inject ++ [(none, p)] ∧ p.kind = 7 ∧
      p.dest = coordOf s c.map.toNat (bodyAddr e 8) ∧ p.tag = s.ni.nextReq ∧
      p.payload = atomicPayload (bodyAddr e 8) (bodyField e 4 1) (bodyField e 5 1) (BitVec.ofNat 64 (bodyField e 16 8))
        (BitVec.ofNat 64 (bodyField e 24 8)) ∧
      ∃ cmd, t.cmds = s.cmds ++ [cmd] ∧ cmd.q = q ∧ cmd.tag = entTag e := by
  obtain ⟨l, hpopped⟩ := popHead_withPages q s
  have hroom : reqRoom (popHead q s) (coordOf s c.map.toNat (bodyAddr e 8)) = true :=
    reqRoom_of_open ((popHead_streamOpen ..).2 hopen) (by rwa [popHead_ni])
  have hrun : atomicRun q e (popHead q s) = some (asked q e c (popHead q s)) := by
    simp [atomicRun, hcomm, hgood, startAtomic, lostTarget, hfar, hthere, hroom, asked]
  obtain ⟨p, tx, reqs, sent, hasked, -, hkind, hdest, htag, -, hpayload⟩ := asked_requested (q := q) (e := e) (c := c)
    (s := popHead q s) (by rwa [popHead_coordOf, popHead_streamOpen])
  refine ⟨_, p, read_starts (atomic_exec q e) h (ps := []) ?_ (by simp [hop]) (by rw [hop]; rfl) hres rfl hrun ?_, ?_, hkind, ?_, ?_,
    hpayload, ?_⟩
  · simp [atomicReads, hcomm, hgood, hfar]
  · rw [hasked]
    rfl
  · rw [hasked, hpopped]
    rfl
  · rw [hdest, hpopped]
    rfl
  · rw [htag, hpopped]
    rfl
  · rw [hasked, hpopped]
    exact ⟨_, rfl, rfl, rfl⟩

end

/-- Settles O34: ATOMIC by its checks and by the place of its operand; Table 10-7 by the order of signed numbers. -/
theorem atomicCommand : Obligations.AtomicCommand := by
  unfold Obligations.AtomicCommand
  refine ⟨fun q e s h hop hres => ⟨atomic_noComm h hop hres, fun c hcomm => ⟨fun hbad => ?_, ?_,
    fun hgood hfar hthere hreqs hwaiting hunacked => atomic_sends h hop hres hcomm hgood hfar hthere hreqs ⟨hwaiting, hunacked⟩⟩⟩,
    fun n old operand compare _ hold hoperand => ?_⟩
  · refine atomic_refuses h hop hres hcomm (if_pos ?_)
    simpa [or_assoc] using hbad
  · rintro ps hgood hlocal rfl hready
    have hexec := atomic_here h hop hres hcomm hgood hlocal hready
    simp only [doAtomic, popHead_localRead] at hexec
    exact hexec
  · exact ⟨rfl, rfl, rfl, rfl, rfl, rfl, atomicNew_max_add_min compare hold hoperand, atomicNew_min_le_max compare⟩

end Sys2Proof.Proofs

/-! Collectives and Rein commands as they start (10:R262, R264; 09:R244; 14:R376, R379, R395; 05:R142): what holds an entry at the head,
what a box of one node leaves of the start of a collective, and O35 from them. -/

namespace Sys2Proof.Proofs

open Sys2Proof Sys2Proof.Machine Sys2Proof.Laws

/-! ## A box of one node -/

/-- A position on an axis lies at offset 0 from itself. -/
theorem offset_self (x n : Nat) : (x + n - x % n) % n = 0 := by
  have hsum : x + n - x % n = n * (x / n + 1) := by
    have := Nat.div_add_mod x n
    rw [Nat.mul_add]
    omega
  rw [hsum, Nat.mul_mod_right]

section
variable {s : State} {c : Comm} (hone : c.lo = c.hi)
include hone

theorem ext_one (a : Nat) : ext s c a = 1 := by
  unfold ext
  rw [hone]
  exact congrArg (· + 1) (offset_self _ _)

theorem commSize_one : commSize s c = 1 := by simp [commSize, ext_one hone]

variable (hin : inBox s c.lo c.hi (myCoord s) = true)
include hin

/-- 09:R240: this node is the only position of the box. -/
theorem boxOffs_one : boxOffs s c (myCoord s) = [0, 0, 0] := by
  have hzero (a : Nat) (ha : inBoxAxis s c.lo c.hi (myCoord s) a = true) :
      (axisOf a (myCoord s) + torus s a - axisOf a c.lo % torus s a) % torus s a = 0 := by
    have hle := of_decide_eq_true ha
    rw [← hone, offset_self] at hle
    exact Nat.le_zero.1 hle
  simp only [inBox, Bool.and_eq_true] at hin
  obtain ⟨⟨h0, h1⟩, h2⟩ := hin
  simp only [boxOffs, List.map_cons, List.map_nil, hzero 0 h0, hzero 1 h1, hzero 2 h2]

/-- 09:R240: its one member has rank 0. -/
theorem myRank_one : myRank s c = 0 := by
  have hrank : ∀ r, rankAt s c (myCoord s) = some r → r = 0 := fun r hr => by
    have hmem := List.mem_of_find?_eq_some hr
    rw [commSize_one hone] at hmem
    exact List.mem_singleton.1 hmem
  have hoffs : offsRank s c [0, 0, 0] = 0 := by simp [offsRank]
  unfold myRank
  rw [boxOffs_one hone hin, hoffs]
  dsimp only
  split
  · rfl
  · cases hr : rankAt s c (myCoord s) with
    | none => rfl
    | some r => exact hrank r hr

theorem otherRanks_one : otherRanks s c = [] := by
  rw [otherRanks, commSize_one hone, myRank_one hone hin]
  rfl

/-- 10:R275, 11:R306: a loaded program alone on its box grants nobody and votes with nobody. -/
theorem grantServing_one {x : Ctx} (hserving : x.serving.isSome = true) : grantServing c x s = s := by
  have hgrant : grantAll c x s = s := by rw [grantAll, granted, if_pos hserving, otherRanks_one hone hin, List.foldl_nil]
  rw [grantServing, hgrant, startVote, commSize_one hone]
  simp

end

/-! ## A start that nothing disturbs -/

theorem flood_nowhere {sender : Option Coord} {lo hi : Coord} {s : State} (h : boxDirs s lo hi = []) (p : Packet) :
    flood sender lo hi p s = s := by
  rw [flood, h]
  rfl

theorem replayEarly_none {s : State} (h : s.ni.early = []) (x : Ctx) : replayEarly x s = s := by
  unfold replayEarly
  rw [h]
  show ({ s with ni := { s.ni with early := [] } } : State) = s
  rw [← h]

/-- 09:R248, R250; 16:R469: without a herald, a notice, a lost member or held data of the collective, its work begins; the keeper holds
its herald. -/
theorem launch_undisturbed {c : Comm} {x : Ctx} {s : State} (hbox : boxDirs s c.lo c.hi = []) (hnotices : c.notices = [])
    (hlost : s.ni.lost = []) (hearly : s.ni.early = []) (hnew : ∀ f ∈ s.kp.filter, f.key ≠ .collective x.handle x.seq)
    (run : Ctx → State → State) : ∃ k, launch c x run s = replayEarly x (run x { s with kp := k }) := by
  have hprior : s.kp.filter.find? (fun f => decide (f.key = .collective x.handle x.seq)) = none :=
    List.find?_eq_none.2 fun f hf => by simpa using hnew f hf
  have hranks (k : Keeper) : lostRank { s with kp := k } c = none := by
    unfold lostRank
    rw [show ({ s with kp := k } : State).ni.lost = [] from hlost]
    simp
  have hmatch (k : Keeper) : earlyMismatch { s with kp := k } c x = none := by
    unfold earlyMismatch
    rw [show ({ s with kp := k } : State).ni.early = [] from hearly]
    rfl
  unfold launch
  extract_lets key prior s1 s2
  have hs1 : s1 = s := flood_nowhere hbox _
  obtain ⟨k, hs2⟩ : ∃ k, s2 = { s with kp := k } := by
    unfold s2
    rw [show prior = none from hprior, hs1]
    exact ⟨_, rfl⟩
  refine ⟨k, ?_⟩
  rw [hnotices, show prior = none from hprior, hs2]
  simp only [List.find?_nil, hranks, Option.filter_none, hmatch]

/-! ## Binding a context -/

/-- 10:R282: a free index names no bound context. -/
theorem freeContext_free {s : State} {i : BitVec 9} (h : freeContext s = some i) : ∀ x ∈ s.ctxs, x.idx ≠ i := by
  unfold freeContext at h
  split at h
  · cases h
  · simpa using List.find?_some h

/-- A fold that appends threads of one kind at every step appends threads of that kind. -/
theorem foldl_appends {α : Type} {P : Thread → Prop} {f : State → α → State}
    (hf : ∀ t a, ∃ new, f t a = { t with threads := t.threads ++ new } ∧ ∀ y ∈ new, P y) (l : List α) (s : State) :
    ∃ new, l.foldl f s = { s with threads := s.threads ++ new } ∧ ∀ y ∈ new, P y := by
  induction l generalizing s with
  | nil => exact ⟨[], by rw [List.append_nil]; rfl, by simp⟩
  | cons a l ih =>
    obtain ⟨first, hfirst, hkind⟩ := hf s a
    obtain ⟨rest, hrest, hkinds⟩ := ih (f s a)
    refine ⟨first ++ rest, ?_, fun y hy => (List.mem_append.1 hy).elim (hkind y) (hkinds y)⟩
    rw [List.foldl_cons, hrest, hfirst, List.append_assoc]

/-- A thread of a context that a loaded program serves, as it is spawned (13:R350). -/
def Spawned (i : BitVec 9) (p : Program) (y : Thread) : Prop := y.ctx = i ∧ y.st = .running ∧ y.pc = 1 ∧ y.prog = p.id

theorem spawnAll_serving (c : Comm) (x : Ctx) (p : Program) (lanes : List Byte) (s : State) : ∃ new,
    spawnAll c x (some p) lanes s = { s with threads := s.threads ++ new } ∧ ∀ y ∈ new, Spawned x.idx p y := by
  unfold spawnAll
  extract_lets head thrs slots
  refine foldl_appends (fun t a => ⟨_, rfl, fun y hy => ?_⟩) _ s
  obtain ⟨b, -, rfl⟩ := List.mem_map.1 hy
  exact ⟨rfl, rfl, rfl, rfl⟩

/-- Clearing slots touches the slots alone. -/
theorem clearSlots_frame (i : BitVec 9) (mode : Nat) (s : State) : ∃ m, clearSlots i mode s = { s with slots := m } := by
  unfold clearSlots
  generalize (s.threads.filter fun t => decide (t.ctx = i)) = l
  induction l generalizing s with
  | nil => exact ⟨s.slots, rfl⟩
  | cons t l ih => exact ih (resetSlots t.id.lane t.slotBase t.slots mode s)

/-- The context that a collective binds, before its signature. -/
def newCtx (c : Comm) (x : Ctx) (i : BitVec 9) (prog : Option Program) (lanes : List Byte) (s : State) : Ctx :=
  { x with idx := i, seq := seqNext c.seq, lanes := lanes.length, lag := (jobRank18 s c (myRank s c), 0)
           serving := prog.map fun p => p.id, degraded := c.patched }

/-- 09:R244: the communicator of a handle has its next COLL_SEQ. -/
def counted (h : W32) (c : Comm) (s : State) : State := modComm h (fun d => { d with seq := seqNext c.seq, patched := false }) s

/-- 09:R244, 13:R350: what binding a context adds: the context, the communicator's next COLL_SEQ, and the threads of its program. -/
theorem bindCtx_serving (c : Comm) (x : Ctx) (i : BitVec 9) (p : Program) (lanes : List Byte) (s : State) : ∃ new m,
    bindCtx c x i (some p) lanes s = (newCtx c x i (some p) lanes s, { counted x.handle c s with
      ctxs := s.ctxs ++ [newCtx c x i (some p) lanes s], threads := s.threads ++ new, slots := m }) ∧ ∀ y ∈ new, Spawned i p y := by
  unfold bindCtx
  extract_lets q me y s1
  obtain ⟨new, hspawn, hkind⟩ := spawnAll_serving c y p lanes s1
  obtain ⟨m, hclear⟩ := clearSlots_frame i y.mode (spawnAll c y (some p) lanes s1)
  refine ⟨new, m, ?_, hkind⟩
  rw [hclear, hspawn]
  rfl

/-- The new context replaces itself alone. -/
theorem updWhere_append_new {x y : Ctx} {l : List Ctx} (hx : x.idx = y.idx) (hfree : ∀ z ∈ l, z.idx ≠ y.idx) :
    updWhere (fun z => z.idx = y.idx) (fun _ => y) (l ++ [x]) = l ++ [y] := by
  have hold : (l.map fun z => if decide (z.idx = y.idx) = true then y else z) = l := by
    conv_rhs => rw [← List.map_id l]
    exact List.map_congr_left fun z hz => by simp [hfree z hz]
  simp [updWhere, hx]
  simpa using hold

theorem putCtx_new {x y : Ctx} {l : List Ctx} {s : State} (hctxs : s.ctxs = l ++ [x]) (hx : x.idx = y.idx)
    (hfree : ∀ z ∈ l, z.idx ≠ y.idx) : putCtx y s = { s with ctxs := l ++ [y] } := by
  rw [putCtx, modCtx, hctxs, updWhere_append_new hx hfree]

/-! ## COLL_SUBMIT -/

/-- What a COLL_SUBMIT does once its inputs are there. -/
def collRun (q : BitVec 6) (e : Entry) (s : State) : Option State :=
  match commHere (BitVec.ofNat 32 (bodyField e 0 4)) s with
  | none => some (endEntry q e stNoComm s)
  | some c =>
    let x := prepCtx s q e c
    match collCheck s c x with
    | some st => some (endEntry q e st s)
    | none => if commHeld s c then none else startColl c x s

theorem collSubmit_exec (q : BitVec 6) (e : Entry) : Machine.exec (.collSubmit q e) =
    fun s => live s (octozRead q e (entOpcode e = 0x20) collFields (collReads q e) (collRun q e)) := rfl

section
variable {q : BitVec 6} {e : Entry} {s : State} (h : s.AtHead q e) (hop : entOpcode e = 0x20) (hres : noReserved collFields e = true)
include h hop hres

theorem collSubmit_noComm (hnone : commHere (BitVec.ofNat 32 (bodyField e 0 4)) s = none) :
    Machine.exec (.collSubmit q e) s = .next (useBus [] (endEntry q e stNoComm (popHead q s))) := by
  refine read_ends (collSubmit_exec q e) h ?_ (by simp [hop]) (by rw [hop]; rfl) hres rfl ?_
  · simp only [collReads, hnone]
  · simp only [collRun, popHead_commHere, hnone]

theorem collSubmit_asks (hready : busReady (collReads q e s) s = false) :
    Machine.exec (.collSubmit q e) s = .next (askBus (collReads q e s) s) :=
  read_asks (collSubmit_exec q e) h rfl (by simp [hop]) hres hready

variable {c : Comm} (hcomm : commHere (BitVec.ofNat 32 (bodyField e 0 4)) s = some c) (hready : busReady (collReads q e s) s = true)
include hcomm hready

theorem collSubmit_refuses {status : Byte} (hbad : collCheck (popHead q s) c (prepCtx (popHead q s) q e c) = some status) :
    Machine.exec (.collSubmit q e) s = .next (useBus (collReads q e s) (endEntry q e status (popHead q s))) :=
  read_ends (collSubmit_exec q e) h rfl (by simp [hop]) (by rw [hop]; rfl) hres hready
    (by simp only [collRun, popHead_commHere, hcomm, hbad])

variable (hgood : collCheck (popHead q s) c (prepCtx (popHead q s) q e c) = none)
include hgood

/-- 05:R142, 10:R264: a held communicator, and a node without a free context or free lanes, leave the entry at the head. -/
theorem collSubmit_waits (hwait : commHeld s c = true ∨ startColl c (prepCtx (popHead q s) q e c) (popHead q s) = none) :
    Machine.exec (.collSubmit q e) s = .next s := by
  refine read_waits (collSubmit_exec q e) h rfl (by simp [hop]) (by rw [hop]; rfl) hres hready ?_
  simp only [collRun, popHead_commHere, hcomm, hgood, popHead_commHeld]
  rcases hwait with hheld | hfull
  · rw [if_pos hheld]
  · rw [hfull, ite_self]

theorem collSubmit_starts (hfree : commHeld s c = false) {v : State}
    (hstart : startColl c (prepCtx (popHead q s) q e c) (popHead q s) = some v) :
    Machine.exec (.collSubmit q e) s = .next (settleHead q (useBus (collReads q e s) v)) := by
  refine read_runs (collSubmit_exec q e) h rfl (by simp [hop]) (by rw [hop]; rfl) hres hready ?_
  simp only [collRun, popHead_commHere, hcomm, hgood, popHead_commHeld, hfree, hstart]
  rfl

end

/-! ## A collective that a loaded program serves -/

theorem startColl_serving {c : Comm} {x : Ctx} {s : State} {p : Program} {i : BitVec 9} {lanes : List Byte} (hlane : x.alg ≠ 4)
    (hprog : servingProg s x = some p) (hfree : freeContext s = some i)
    (hlanes : chooseLanes s (lanesFor x (commSize s c)) (headThreads (p.words.headD 0)) (headSlots (p.words.headD 0)) = some lanes) :
    startColl c x s = some (launch c { (bindCtx c x i (some p) lanes s).1 with sig := collSig c (bindCtx c x i (some p) lanes s).1 }
      (grantServing c) (putCtx { (bindCtx c x i (some p) lanes s).1 with sig := collSig c (bindCtx c x i (some p) lanes s).1 }
        (bindCtx c x i (some p) lanes s).2)) := by
  simp only [startColl, if_neg hlane, hprog, Option.map_some, Option.getD_some, Option.isSome_some, if_true, hfree, hlanes]

/-- The context of the collective, with its signature. -/
def servedCtx (c : Comm) (x : Ctx) (i : BitVec 9) (p : Program) (lanes : List Byte) (s : State) : Ctx :=
  { newCtx c x i (some p) lanes s with sig := collSig c (newCtx c x i (some p) lanes s) }

/-- 09:R244, 13:R350: on a box of one node, where nothing of the collective is known yet, a start adds the context, the communicator's
next COLL_SEQ, and the running threads of the program; beside them only the keeper and the slots change. -/
theorem startColl_one {c : Comm} {x : Ctx} {s : State} {p : Program} {i : BitVec 9} {lanes : List Byte} (hlane : x.alg ≠ 4)
    (hprog : servingProg s x = some p) (hfree : freeContext s = some i)
    (hlanes : chooseLanes s (lanesFor x (commSize s c)) (headThreads (p.words.headD 0)) (headSlots (p.words.headD 0)) = some lanes)
    (hone : c.lo = c.hi) (hin : inBox s c.lo c.hi (myCoord s) = true) (hbox : boxDirs s c.lo c.hi = []) (hnotices : c.notices = [])
    (hlost : s.ni.lost = []) (hearly : s.ni.early = []) (hnew : ∀ f ∈ s.kp.filter, f.key ≠ .collective x.handle (seqNext c.seq)) :
    ∃ k m new, startColl c x s = some { counted x.handle c s with
      kp := k, ctxs := s.ctxs ++ [servedCtx c x i p lanes s], threads := s.threads ++ new, slots := m } ∧ ∀ y ∈ new, Spawned i p y := by
  obtain ⟨new, m, hbind, hkind⟩ := bindCtx_serving c x i p lanes s
  rw [startColl_serving hlane hprog hfree hlanes, hbind]
  generalize hv : putCtx _ _ = v
  have hput : v = { counted x.handle c s with
      ctxs := s.ctxs ++ [servedCtx c x i p lanes s], threads := s.threads ++ new, slots := m } := by
    exact hv.symm.trans (putCtx_new (y := servedCtx c x i p lanes s) rfl rfl (freeContext_free hfree))
  obtain ⟨k, hlaunch⟩ := launch_undisturbed (c := c) (x := servedCtx c x i p lanes s) (s := v) (by rw [hput]; exact hbox) hnotices
    (by rw [hput]; exact hlost) (by rw [hput]; exact hearly) (by rw [hput]; exact hnew) (grantServing c)
  refine ⟨k, m, new, ?_, hkind⟩
  refine congrArg some (hlaunch.trans ?_)
  rw [grantServing_one hone (by rw [hput]; exact hin) rfl, replayEarly_none (by rw [hput]; exact hearly), hput]

/-- 06:R163: a communicator that holds this node is registered, and its box contains the node. -/
theorem commHere_some {h : W32} {s : State} {c : Comm} (hc : commHere h s = some c) :
    findComm h s = some c ∧ inBox s c.lo c.hi (myCoord s) = true := by
  unfold commHere at hc
  cases hfind : findComm h s with
  | none => simp [hfind] at hc
  | some d =>
    simp only [hfind, Option.ite_none_right_eq_some, Option.some.injEq] at hc
    obtain ⟨hin, rfl⟩ := hc
    exact ⟨rfl, hin⟩

theorem findComm_counted {h : W32} {s : State} {c : Comm} (hc : findComm h s = some c) (hpatched : c.patched = false) :
    findComm h (counted h c s) = some { c with seq := seqNext c.seq } := by
  rw [counted, findComm_modComm (f := fun d => { d with seq := seqNext c.seq, patched := false }) fun _ => rfl, hc, ← hpatched]
  rfl

section
variable {q : BitVec 6} {e : Entry} {s : State} {c : Comm} {p : Program} {lanes : List Byte} {i : BitVec 9} (h : s.AtHead q e)
  (hop : entOpcode e = 0x20) (hres : noReserved collFields e = true)
  (hcomm : commHere (BitVec.ofNat 32 (bodyField e 0 4)) s = some c) (hready : busReady (collReads q e s) s = true)
  (hgood : collCheck (popHead q s) c (prepCtx (popHead q s) q e c) = none) (hheld : commHeld s c = false)
include h hop hres hcomm hready hgood hheld

/-- 09:R244, 10:R264, 13:R350: a collective alone on its box, of which nothing is known yet, binds a context in its communicator's next
COLL_SEQ, and its threads run. -/
theorem collSubmit_serves (hlane : (prepCtx (popHead q s) q e c).alg ≠ 4)
    (hprog : servingProg (popHead q s) (prepCtx (popHead q s) q e c) = some p) (hfree : freeContext (popHead q s) = some i)
    (hlanes : chooseLanes (popHead q s) (lanesFor (prepCtx (popHead q s) q e c) (commSize s c)) (headThreads (p.words.headD 0))
      (headSlots (p.words.headD 0)) = some lanes)
    (hone : c.lo = c.hi) (hbox : boxDirs s c.lo c.hi = []) (hnotices : c.notices = []) (hpatched : c.patched = false)
    (hlost : s.ni.lost = []) (hearly : s.ni.early = [])
    (hnew : ∀ f ∈ s.kp.filter, f.key ≠ .collective (BitVec.ofNat 32 (bodyField e 0 4)) (seqNext c.seq)) :
    ∃ t y new, Machine.exec (.collSubmit q e) s = .next t ∧ t.ctxs = s.ctxs ++ [y] ∧ y.idx = i ∧
      y.handle = BitVec.ofNat 32 (bodyField e 0 4) ∧ y.seq = seqNext c.seq ∧ y.q = q ∧ y.tag = entTag e ∧
      findComm (BitVec.ofNat 32 (bodyField e 0 4)) t = some { c with seq := seqNext c.seq } ∧
      t.threads = s.threads ++ new ∧ ∀ y ∈ new, Spawned i p y := by
  obtain ⟨hfind, hin⟩ := commHere_some hcomm
  obtain ⟨l, hpopped⟩ := popHead_withPages q s
  obtain ⟨k, m, new, hstart, hkind⟩ := startColl_one (s := popHead q s) (lanes := lanes) hlane hprog hfree (by rwa [popHead_commSize]) hone
    (by rw [hpopped]; exact hin) (by rw [hpopped]; exact hbox) hnotices (by rw [popHead_ni, hlost]) (by rw [popHead_ni, hearly])
    (by rw [popHead_kp]; exact hnew)
  have hexec := collSubmit_starts h hop hres hcomm hready hgood hheld hstart
  generalize hv : useBus _ _ = v at hexec
  have hrest : unposted (settleHead q v) = unposted v := settleHead_unposted q v
  refine ⟨_, servedCtx c (prepCtx (popHead q s) q e c) i p lanes (popHead q s), new, hexec, ?_, rfl, rfl, rfl, rfl, rfl, ?_, ?_, hkind⟩
  · rw [ctxs_of_unposted hrest, ← hv, hpopped]
    rfl
  · refine (congrArg (List.find? _) ((comms_of_unposted hrest).trans ?_)).trans (findComm_counted hfind hpatched)
    rw [← hv, hpopped]
    rfl
  · refine (congrArg State.threads hrest :).trans ?_
    rw [← hv, hpopped]
    rfl

end

/-! ## ROUTE_DISPATCH and COMBINE_ALLREDUCE -/

/-- The rows of the two Rein commands, told apart by whether they dispatch. -/
def reinInstr (q : BitVec 6) (e : Entry) (route : Bool) : Instr := if route then .routeDispatch q e else .combineAllreduce q e

/-- What a Rein command does once its inputs are there. -/
def reinRun (q : BitVec 6) (e : Entry) (route : Bool) (s : State) : Option State :=
  match commHere (BitVec.ofNat 32 (bodyField e 0 4)) s with
  | none => some (endEntry q e stNoComm s)
  | some c =>
    let x := reinCtx s q e route
    match reinCheck s c route e x with
    | some st => some (endEntry q e st s)
    | none =>
      if commHeld s c || routeSlotBusy s x then none
      else if !route && combineBad s x then some (endEntry q e stBadDesc s)
      else startRein c x s

theorem rein_exec (q : BitVec 6) (e : Entry) (route : Bool) : Machine.exec (reinInstr q e route) =
    fun s => live s (octozRead q e (entOpcode e = (if route then 0x40 else 0x41)) (if route then routeFields else combineFields)
      (reinReads q e route) (reinRun q e route)) := by cases route <;> rfl

theorem rein_known {e : Entry} {route : Bool} (hop : entOpcode e = (if route then 0x40 else 0x41)) :
    opcodeKnown (entOpcode e) = true := by
  rw [hop]
  cases route <;> rfl

/-- 14:R379: nothing stands against the start, which may still find no context, no lanes or no gate region. -/
theorem reinRun_starts {q : BitVec 6} {e : Entry} {route : Bool} {s : State} {c : Comm}
    (hcomm : commHere (BitVec.ofNat 32 (bodyField e 0 4)) s = some c)
    (hgood : reinCheck (popHead q s) c route e (reinCtx (popHead q s) q e route) = none) (hheld : commHeld s c = false)
    (hslot : routeSlotBusy (popHead q s) (reinCtx (popHead q s) q e route) = false)
    (hrecord : route = true ∨ combineBad (popHead q s) (reinCtx (popHead q s) q e route) = false) :
    reinRun q e route (popHead q s) = startRein c (reinCtx (popHead q s) q e route) (popHead q s) := by
  have hgo : (!route && combineBad (popHead q s) (reinCtx (popHead q s) q e route)) = false := by
    rcases hrecord with hroute | hsame
    · rw [hroute]
      rfl
    · rw [hsame, Bool.and_false]
  simp [reinRun, hcomm, hgood, hheld, hslot, hgo]

section
variable {q : BitVec 6} {e : Entry} {route : Bool} {s : State} (h : s.AtHead q e) (hop : entOpcode e = (if route then 0x40 else 0x41))
  (hres : noReserved (if route then routeFields else combineFields) e = true)
include h hop hres

theorem rein_noComm (hnone : commHere (BitVec.ofNat 32 (bodyField e 0 4)) s = none) :
    Machine.exec (reinInstr q e route) s = .next (useBus [] (endEntry q e stNoComm (popHead q s))) := by
  refine read_ends (rein_exec q e route) h ?_ (decide_eq_true hop) (rein_known hop) hres rfl ?_
  · simp only [reinReads, hnone]
  · simp only [reinRun, popHead_commHere, hnone]

theorem rein_asks (hready : busReady (reinReads q e route s) s = false) :
    Machine.exec (reinInstr q e route) s = .next (askBus (reinReads q e route s) s) :=
  read_asks (rein_exec q e route) h rfl (decide_eq_true hop) hres hready

variable {c : Comm} (hcomm : commHere (BitVec.ofNat 32 (bodyField e 0 4)) s = some c) (hready : busReady (reinReads q e route s) s = true)
include hcomm hready

theorem rein_refuses {status : Byte} (hbad : reinCheck (popHead q s) c route e (reinCtx (popHead q s) q e route) = some status) :
    Machine.exec (reinInstr q e route) s = .next (useBus (reinReads q e route s) (endEntry q e status (popHead q s))) :=
  read_ends (rein_exec q e route) h rfl (decide_eq_true hop) (rein_known hop) hres hready
    (by simp only [reinRun, popHead_commHere, hcomm, hbad])

variable (hgood : reinCheck (popHead q s) c route e (reinCtx (popHead q s) q e route) = none)
include hgood

/-- 05:R142, 14:R379: a held communicator, and a route slot in use, leave the entry at the head. -/
theorem rein_waits (hwait : commHeld s c = true ∨ routeSlotBusy (popHead q s) (reinCtx (popHead q s) q e route) = true) :
    Machine.exec (reinInstr q e route) s = .next s := by
  refine read_waits (rein_exec q e route) h rfl (decide_eq_true hop) (rein_known hop) hres hready ?_
  simp only [reinRun, popHead_commHere, hcomm, hgood, popHead_commHeld]
  exact if_pos (Bool.or_eq_true_iff.2 hwait)

variable (hheld : commHeld s c = false) (hslot : routeSlotBusy (popHead q s) (reinCtx (popHead q s) q e route) = false)
include hheld hslot

/-- 14:R395: a combination whose record is missing, or another, ends with BAD_DESC. -/
theorem rein_badRecord (hroute : route = false) (hbad : combineBad (popHead q s) (reinCtx (popHead q s) q e route) = true) :
    Machine.exec (reinInstr q e route) s = .next (useBus (reinReads q e route s) (endEntry q e stBadDesc (popHead q s))) := by
  refine read_ends (rein_exec q e route) h rfl (decide_eq_true hop) (rein_known hop) hres hready ?_
  subst hroute
  simp only [reinRun, popHead_commHere, hcomm, hgood, popHead_commHeld, hheld, hslot, hbad]
  rfl

end

/-- Settles O35: each command by what its row finds in order: the communicator, the inputs, the checks, what holds the entry, the start;
the start on a box of one node by what the launch finds there. -/
theorem collectivesStart : Obligations.CollectivesStart := by
  unfold Obligations.CollectivesStart
  refine ⟨fun q e s h hop hres => ?coll, fun q e route s h hop hres => ?rein⟩
  case coll =>
    refine ⟨collSubmit_noComm h hop hres, collSubmit_asks h hop hres, fun c hcomm hready => ⟨fun status hbad => ?_, ?_, ?_, ?_⟩⟩
    · exact collSubmit_refuses h hop hres hcomm hready hbad
    · exact collSubmit_waits h hop hres hcomm hready
    · exact fun hgood hfree v hstart => collSubmit_starts h hop hres hcomm hready hgood hfree hstart
    · intro p lanes i hgood hheld hlane hprog hfree hlanes hone hbox hnotices hpatched hlost hearly hnew
      exact collSubmit_serves h hop hres hcomm hready hgood hheld hlane hprog hfree hlanes hone hbox hnotices hpatched hlost hearly hnew
  case rein =>
    refine ⟨rein_noComm h hop hres, rein_asks h hop hres, fun c hcomm hready => ⟨fun status hbad => ?_, ?_, ?_, ?_⟩⟩
    · exact rein_refuses h hop hres hcomm hready hbad
    · exact rein_waits h hop hres hcomm hready
    · exact rein_badRecord h hop hres hcomm hready
    · intro hgood hheld hslot hrecord
      have hrun := reinRun_starts hcomm hgood hheld hslot hrecord
      exact ⟨fun hfull => read_waits (rein_exec q e route) h rfl (decide_eq_true hop) (rein_known hop) hres hready (hrun.trans hfull),
        fun v hstart => read_runs (rein_exec q e route) h rfl (decide_eq_true hop) (rein_known hop) hres hready (hrun.trans hstart)⟩

end Sys2Proof.Proofs

/-! PUT and GET (10:R283, R284, Table 10-6; 06:R155, R163): a copy on this node within one packet, the one request of a transfer to
another node, and O33 from them. -/

namespace Sys2Proof.Proofs

open Sys2Proof Sys2Proof.Machine Sys2Proof.Laws

@[simp] theorem useBus_nil (s : State) : useBus [] s = s := by simp [useBus]

@[simp] theorem askBus_nil (s : State) : askBus [] s = s := by simp [askBus]

/-! ## A copy on this node -/

/-- 15:R427: with no range armed, data of a PUT overwrite. -/
theorem storeBytes_unarmed {s : State} (h : s.tm.armed = []) (a : W64) (bs : Bytes) : storeBytes a bs false s = localWrite a bs s := by
  have hstore (o : Nat) : tmStore o bs s = tmWrite o bs s := by simp [tmStore, h]
  unfold storeBytes localWrite
  by_cases hspace : faSpace a = 1
  · rw [if_pos hspace, hspace]
    exact hstore _
  · exact if_neg hspace

/-- 10 Edges: a copy that one packet would carry writes the bytes read, without poison. -/
theorem copyGo_one {put : Bool} {src dst : W64} {n : Nat} {s : State} (hpos : n ≠ 0) (hfits : n ≤ 4096 - faOffset dst % 4096)
    (hclean : localPoison s src n = false) (harmed : s.tm.armed = []) :
    copyGo put (n / 4096 + 2) src dst n s = (false, localWrite dst (localRead s src n) s) := by
  unfold copyGo
  rw [if_neg hpos]
  extract_lets k bad bytes s1 r
  have hk : k = n := Nat.min_eq_left hfits
  have hbad : bad = false := by rw [show bad = localPoison s src k from rfl, hk, hclean]
  have hs1 : s1 = localWrite dst (localRead s src n) s := by
    unfold s1
    rw [hbad, show bytes = localRead s src k from rfl, hk]
    cases put
    · rfl
    · exact storeBytes_unarmed harmed _ _
  have hr : r = (false, s1) := by
    unfold r copyGo
    rw [if_pos (by omega)]
  rw [hbad, hr, hs1]
  rfl

/-! ## The command of a transfer -/

/-- The kind of a transfer's command. -/
def xferKind (get : Bool) (x : Xfer) : CmdKind := if get then .get x else .put x

section
variable {c : Cmd} {get : Bool} {x : Xfer} (hkind : c.kind = xferKind get x) (hsent : x.next = x.len) (hsignal : x.signal = none)
include hkind hsent hsignal

/-- A transfer whose packets have all gone, without a signal, sends nothing more. -/
theorem xferOne_sent (s : State) : xferOne c s = none ∧ xferReads c s = [] := by
  have hover : ¬x.next < x.len := by omega
  cases get <;> simp [xferOne, xferReads, hkind, xferKind, hover, hsignal]

theorem xferGo_sent {s : State} (hfind : findCmd c.id s = some c) (f : Nat) : xferGo c.id f s = s := by
  cases f with
  | zero => rfl
  | succ f => simp [xferGo, hfind, (xferOne_sent hkind hsent hsignal s).1]

theorem pumpCmd_sent {s : State} (hfind : findCmd c.id s = some c) : pumpCmd c.id s = settleXfer c.id s := by
  simp [pumpCmd, xferGo_sent hkind hsent hsignal hfind, hfind, (xferOne_sent hkind hsent hsignal s).2]

/-- 10:R283, R284: the one command under way ends once its packets have gone and no request of it is open. -/
theorem settleXfer_ends {s : State} (hcmds : s.cmds = [c]) (hreqs : s.ni.reqs = []) :
    ∃ status flags result, settleXfer c.id s = unmapKick (endCmd c status flags result s) := by
  have hfind : findCmd c.id s = some c := by simp [findCmd, hcmds]
  have hover : ¬(decide (x.next < x.len) || (x.signal.isSome && !x.sigSent)) = true := by simp [hsignal, hsent]
  unfold settleXfer
  rw [hreqs, hfind]
  cases get
  all_goals
    simp only [List.any_nil, Bool.false_eq_true, if_false, hkind, xferKind, if_true, if_neg hover]
    split
    · exact ⟨_, _, _, rfl⟩
    · split
      · exact ⟨_, _, _, rfl⟩
      · split <;> exact ⟨_, _, _, rfl⟩

/-- 10:R283, R284: the one transfer under way, all of whose packets have gone and been answered, is over; beside its end the pump reaches
the windows alone. -/
theorem pumpCmd_ends {s : State} (hcmds : s.cmds = [c]) (hreqs : s.ni.reqs = []) :
    ∃ l status flags result, pumpCmd c.id s = { endCmd c status flags result s with wins := l } := by
  obtain ⟨status, flags, result, hends⟩ := settleXfer_ends hkind hsent hsignal hcmds hreqs
  obtain ⟨l, hidle⟩ := unmapKick_idle (endCmd_alone hcmds status flags result)
  exact ⟨l, status, flags, result, by
    rw [pumpCmd_sent hkind hsent hsignal (by simp [findCmd, hcmds]), hends, hidle]⟩

end

/-! ## The rows -/

/-- The rows of the two transfers, told apart by whether they read. -/
def xferInstr (q : BitVec 6) (e : Entry) (get : Bool) : Instr := if get then .get q e else .put q e

/-- The far end of a transfer (10 Table 10-6). -/
def farAddr (e : Entry) (get : Bool) : W64 := if get then bodyAddr e 16 else bodyAddr e 24

/-- What a transfer does once the bytes of a local copy are there. -/
def xferRun (q : BitVec 6) (e : Entry) (get : Bool) (s : State) : Option State :=
  match commHere (BitVec.ofNat 32 (bodyField e 0 4)) s with
  | none => some (endEntry q e stNoComm s)
  | some c => match xferCheck s c e get with
    | some st => some (endEntry q e st s)
    | none => some (startXfer q e c get s)

theorem xfer_exec (q : BitVec 6) (e : Entry) (get : Bool) : Machine.exec (xferInstr q e get) =
    fun s => live s (octozRead q e (entOpcode e = if get then 0x22 else 0x21) xferFields (xferStartReads e get) (xferRun q e get)) := by
  cases get <;> rfl

theorem xfer_known {e : Entry} {get : Bool} (hop : entOpcode e = if get then 0x22 else 0x21) : opcodeKnown (entOpcode e) = true := by
  rw [hop]
  cases get <;> rfl

@[simp] theorem popHead_xferCheck (q : BitVec 6) (s : State) (c : Comm) (e : Entry) (get : Bool) :
    xferCheck (popHead q s) c e get = xferCheck s c e get := by simp only [xferCheck, popHead_addrsBad]

/-- 10 Table 10-6: LENGTH is 1 byte to 1 GiB. -/
theorem xferCheck_length {s : State} {c : Comm} {e : Entry} {get : Bool} (h : bodyField e 8 8 = 0 ∨ 2 ^ 30 < bodyField e 8 8) :
    xferCheck s c e get = some stBadDesc := by
  refine if_pos ?_
  simp only [Bool.or_eq_true, decide_eq_true_eq]
  exact .inl (.inl h)

/-- Without flags a transfer has no signal. -/
theorem xferOf_signal {e : Entry} (hflags : bodyField e 4 1 = 0) (c : Comm) (get : Bool) (far : W64) :
    (xferOf c e get far).signal = none := by simp [xferOf, hflags, natBit]

/-- The transfer of an entry once all its bytes have been copied on this node. -/
def copied (c : Comm) (e : Entry) (get : Bool) : Xfer := { xferOf c e get (farAddr e get) with next := bodyField e 8 8 }

theorem startXfer_here {q : BitVec 6} {e : Entry} {c : Comm} {get : Bool} {s : State} (hflags : bodyField e 4 1 = 0)
    (hlocal : isLocal s c.map.toNat (farAddr e get) = some true) (hpos : bodyField e 8 8 ≠ 0)
    (hfits : bodyField e 8 8 ≤ 4096 - faOffset (bodyAddr e 24) % 4096)
    (hclean : localPoison s (bodyAddr e 16) (bodyField e 8 8) = false) (harmed : s.tm.armed = []) :
    startXfer q e c get s = pumpCmd s.tree.nextCmd (addCmd q e (xferKind get (copied c e get))
      (localWrite (bodyAddr e 24) (localRead s (bodyAddr e 16) (bodyField e 8 8)) s)) := by
  have hcopy := copyGo_one (put := !get) hpos hfits hclean harmed
  have hstays : lostTarget s c.map.toNat (farAddr e get) = false := by simp [lostTarget, hlocal]
  unfold startXfer
  extract_lets m far x lost id r y
  rw [if_neg (Bool.eq_false_iff.1 (show lostTarget s m far = false from hstays)), show x.signal = none from xferOf_signal hflags c get _]
  dsimp only [Option.bind_none]
  have hy : y = copied c e get := by
    unfold y
    rw [show r = _ from hcopy]
    rfl
  rw [if_pos (show isLocal s m far = some true from hlocal), hy, show r = _ from hcopy]
  rfl

/-- The command that `addCmd` starts. -/
def newCmd (q : BitVec 6) (e : Entry) (k : CmdKind) (s : State) : Cmd :=
  { id := s.tree.nextCmd, q := q, tag := entTag e, noIrq := entNoIrq e, deadline := deadlineOf q e s, degraded := false, kind := k }

theorem addCmd_new {s : State} (h : s.cmds = []) (q : BitVec 6) (e : Entry) (k : CmdKind) :
    (addCmd q e k s).cmds = [newCmd q e k s] := by
  rw [addCmd, h]
  rfl

/-- 04:R110: a command that ends is one fewer under way of its queue. -/
theorem endCmd_started {c : Cmd} {s : State} (hmaster : s.host.busMaster = true) (hqueue : c.q.toNat < s.qs.length)
    (status flags : Byte) (result : W64) :
    (getPage c.q.toNat (endCmd c status flags result s)).started = (getPage c.q.toNat s).started - 1 := by
  unfold endCmd
  obtain ⟨since, n, first, hpage⟩ := postCompletion_page_self (q := c.q.toNat)
    (s := { s with cmds := s.cmds.filter fun x => x.id ≠ c.id }) hmaster
    { tag := c.tag, status := if status = stOK && c.degraded then stDegraded else status, flags := flags
      result := result, lagRank := 0x3FFFF, lateness := 0, noIrq := c.noIrq } hqueue
  exact (congrArg QPage.started hpage).trans (pushTail_started _)

/-- 10:R283, 04:R110: the command of a copy on this node ends in the step; it leaves memory, and one command of its queue fewer is
under way. -/
theorem pumpCmd_copied {q : BitVec 6} {e : Entry} {c : Comm} {get : Bool} {s : State} (hflags : bodyField e 4 1 = 0)
    (hcmds : s.cmds = []) (hreqs : s.ni.reqs = []) (hmaster : s.host.busMaster = true) (hpages : s.qs.length = 64) :
    let t := pumpCmd s.tree.nextCmd (addCmd q e (xferKind get (copied c e get)) s)
    t.cmds = [] ∧ t.stg = s.stg ∧ t.tm = s.tm ∧ (getPage q.toNat t).fetched = (getPage q.toNat s).fetched ∧
      (getPage q.toNat t).started = (getPage q.toNat s).started - 1 := by
  intro t
  have hadd := addCmd_new hcmds q e (xferKind get (copied c e get))
  obtain ⟨l, status, flags, result, hends⟩ := pumpCmd_ends (x := copied c e get) rfl rfl (xferOf_signal hflags c get (farAddr e get)) hadd hreqs
  change t = _ at hends
  have hrest := endCmd_unposted (newCmd q e (xferKind get (copied c e get)) s) status flags result
    (addCmd q e (xferKind get (copied c e get)) s)
  have hdone := endCmd_alone hadd status flags result
  rw [hends]
  refine ⟨hdone, (congrArg State.stg hrest :), (congrArg State.tm hrest :), ?_, ?_⟩
  · exact postCompletion_fetched (by exact hmaster) _ _ _
  · refine endCmd_started (c := newCmd q e _ s) (s := addCmd q e _ s) hmaster ?_ status flags result
    exact (show s.qs.length = 64 from hpages).symm ▸ q.isLt

/-! ## The request of a transfer of one packet to another node -/

@[simp] theorem faAdd_zero (a : W64) : faAdd a 0 = a := by simp [faAdd]

/-- The packet of a transfer that fits in one: the address and the bytes, or the address and the length. -/
def xferPacket (get : Bool) (x : Xfer) (s : State) : Packet :=
  if get then reqPacket s kGetReq x.job (xferCoord s x) (loadPayload x.src x.len) false false
  else reqPacket s kPut x.job (xferCoord s x) (storePayload x.dst (localRead s x.src x.len)) false false

/-- One packet carries the transfer, and what it carries is there. -/
def OnePacket (get : Bool) (x : Xfer) (s : State) : Prop :=
  (get = true → x.len ≤ 8192) ∧
  (get = false → x.len ≤ 4096 - faOffset x.dst % 4096 ∧ busReady (localPieces s x.src x.len) s = true ∧
    localPoison s x.src x.len = false)

/-- A transfer whose `n` bytes have gone to a coordinate. -/
def wentTo (d : Coord) (n : Nat) (x : Xfer) : Xfer := { x with coord := some d, next := x.next + n }

/-- The request of the one transfer under way is the one open request. -/
theorem requested_alone {o : ReqOwner} {p : Packet} {s t : State} (h : Requested o p s t) (hreqs : s.ni.reqs = []) :
    ∃ r, t.ni.reqs = [r] ∧ r.owner = o := by
  obtain ⟨-, -, -, -, -, howners, -⟩ := h
  simpa [owners, hreqs, List.map_eq_singleton_iff] using howners

/-- A packet of a transfer that can go does, and the others follow. -/
theorem xferGo_step {c : Cmd} {s t : State} (hcmds : s.cmds = [c]) (hsend : xferOne c s = some t) (f : Nat) :
    xferGo c.id (f + 1) s = xferGo c.id f t := by simp [xferGo, findCmd, hcmds, hsend]

section
variable {c : Cmd} {get : Bool} {x : Xfer} {s : State} (hnext : x.next = 0) (hflag : x.flag = false)
  (hopen : s.StreamOpen (xferCoord s x)) (hreqs : s.ni.reqs = []) (hone : OnePacket get x s)
include hnext hflag hopen hreqs hone

/-- 10:R283, R284: the first packet of a transfer that fits in one carries all of it. -/
theorem xferOne_whole (hkind : c.kind = xferKind get x) (hpos : x.len ≠ 0) : ∃ ps l, xferOne c s =
    some (modXfer c.id (wentTo (xferCoord s x) x.len) (useBus ps (issueReq (.cmd c.id) (xferPacket get x s) x.rank l s))) := by
  have hmore : 0 < x.len := by omega
  have hroom : reqRoom s (xferCoord s x) = true := reqRoom_of_open hopen (by simp [hreqs])
  obtain ⟨hload, hstore⟩ := hone
  cases get with
  | false =>
    obtain ⟨hfits, hready, hclean⟩ := hstore rfl
    refine ⟨localPieces s x.src x.len, 0, ?_⟩
    simp only [xferOne, hkind, xferKind, putOne, hnext, hmore, hroom, hready, hclean, hflag, xferPacket, faAdd_zero, Nat.sub_zero,
      Nat.add_zero, Nat.min_eq_left hfits, Bool.or_false, Bool.and_false, Bool.not_true, Bool.false_eq_true, if_true, if_false]
    rfl
  | true =>
    refine ⟨[], x.dst, ?_⟩
    simp only [xferOne, hkind, xferKind, getOne, hnext, hmore, hroom, hflag, xferPacket, faAdd_zero, Nat.sub_zero,
      Nat.min_eq_left (hload rfl), Bool.and_false, Bool.not_true, Bool.false_eq_true, if_true, if_false, useBus_nil]
    rfl

variable (hcmds : s.cmds = [c]) (hkind : c.kind = xferKind get x) (hpos : x.len ≠ 0) (hsignal : x.signal = none)
include hcmds hkind hpos hsignal

/-- 10:R283, R284: the one transfer under way, of one packet, sends it and waits. -/
theorem pumpCmd_whole : ∃ ps u k, Requested (.cmd c.id) (xferPacket get x s) s u ∧
    pumpCmd c.id s = { useBus ps u with cmds := [{ c with kind := k }] } := by
  obtain ⟨ps, l, hsend⟩ := xferOne_whole hnext hflag hopen hreqs hone hkind hpos
  have hrequested : Requested (.cmd c.id) (xferPacket get x s) s (issueReq (.cmd c.id) (xferPacket get x s) x.rank l s) :=
    issueReq_open (by cases get <;> exact hopen) (by cases get <;> rfl) ..
  revert hrequested hsend
  generalize issueReq (.cmd c.id) (xferPacket get x s) x.rank l s = u
  intro hsend hrequested
  obtain ⟨q, tx, reqs, sent, hu, -⟩ := id hrequested
  let y := wentTo (xferCoord s x) x.len x
  let d : Cmd := { c with kind := xferKind get y }
  let t : State := { useBus ps u with cmds := [d] }
  have hwent : modXfer c.id (wentTo (xferCoord s x) x.len) (useBus ps u) = t := by
    have hone : (useBus ps u).cmds = [c] := by rw [hu]; exact hcmds
    unfold modXfer modCmd
    rw [hone]
    cases get <;> simp [updWhere, hkind, xferKind, t, d, y]
  have hsent : y.next = y.len := (Nat.add_comm ..).trans (by rw [hnext]; rfl)
  have hfind : findCmd c.id t = some d := by simp [findCmd, t, d]
  have hgo : xferGo c.id (127 + 1) s = t := by
    rw [xferGo_step hcmds hsend, hwent]
    exact xferGo_sent (c := d) rfl hsent hsignal hfind 127
  have hwaits : (t.ni.reqs.any fun r => ownerCmd r.owner = some c.id) = true := by
    obtain ⟨r, hr, howner⟩ := requested_alone hrequested hreqs
    simp [show t.ni.reqs = [r] from hr, howner, ownerCmd]
  refine ⟨ps, u, xferKind get y, hrequested, ?_⟩
  unfold pumpCmd
  rw [show 2 * Config.streamMax = 127 + 1 from rfl, hgo]
  simp only [hfind, (xferOne_sent (c := d) rfl hsent hsignal t).2, askBus_nil, settleXfer, hwaits, if_true]
  rfl

end

/-! ## The commands -/

theorem startXfer_far {q : BitVec 6} {e : Entry} {c : Comm} {get : Bool} {s : State} (hflags : bodyField e 4 1 = 0)
    (hfar : isLocal s c.map.toNat (farAddr e get) = some false) (hthere : coordOf s c.map.toNat (farAddr e get) ∉ s.ni.lost) :
    startXfer q e c get s =
      pumpCmd s.tree.nextCmd (addCmd q e (xferKind get (xferOf c e get (farAddr e get))) s) := by
  have hstays : lostTarget s c.map.toNat (farAddr e get) = false := by simp [lostTarget, hthere]
  unfold startXfer
  extract_lets m far x lost id r y
  rw [if_neg (Bool.eq_false_iff.1 (show lostTarget s m far = false from hstays)), show x.signal = none from xferOf_signal hflags c get _]
  dsimp only [Option.bind_none]
  rw [if_neg (by rw [show isLocal s m far = some false from hfar]; simp)]
  rfl

section
variable {q : BitVec 6} {e : Entry} {get : Bool} {s : State} (h : s.AtHead q e) (hop : entOpcode e = if get then 0x22 else 0x21)
  (hres : noReserved xferFields e = true)
include h hop hres

theorem xfer_noComm (hnone : commHere (BitVec.ofNat 32 (bodyField e 0 4)) s = none) :
    Machine.exec (xferInstr q e get) s = .next (useBus [] (endEntry q e stNoComm (popHead q s))) := by
  refine read_ends (xfer_exec q e get) h ?_ (by simpa using hop) (xfer_known hop) hres rfl ?_
  · simp only [xferStartReads, hnone]
  · simp only [xferRun, popHead_commHere, hnone]

variable {c : Comm} (hcomm : commHere (BitVec.ofNat 32 (bodyField e 0 4)) s = some c)
include hcomm

theorem xfer_refuses {status : Byte} (hbad : xferCheck s c e get = some status) :
    Machine.exec (xferInstr q e get) s = .next (useBus [] (endEntry q e status (popHead q s))) := by
  refine read_ends (xfer_exec q e get) h ?_ (by simpa using hop) (xfer_known hop) hres rfl ?_
  · simp [xferStartReads, hcomm, hbad]
  · simp only [xferRun, popHead_commHere, popHead_xferCheck, hcomm, hbad]

variable (hgood : xferCheck s c e get = none) (hflags : bodyField e 4 1 = 0) (hcmds : s.cmds = []) (hreqs : s.ni.reqs = [])
include hgood hflags hcmds hreqs

/-- 10:R283, 04:R110: a copy of one packet on this node is there, and its command over, after the step. -/
theorem xfer_here (hlocal : isLocal s c.map.toNat (farAddr e get) = some true)
    (hready : busReady (localPieces s (bodyAddr e 16) (bodyField e 8 8)) s = true)
    (hclean : localPoison s (bodyAddr e 16) (bodyField e 8 8) = false) (harmed : s.tm.armed = [])
    (hfits : bodyField e 8 8 ≤ 4096 - faOffset (bodyAddr e 24) % 4096) :
    let v := localWrite (bodyAddr e 24) (localRead s (bodyAddr e 16) (bodyField e 8 8)) s
    ∃ t, Machine.exec (xferInstr q e get) s = .next t ∧ t.cmds = [] ∧ t.stg = v.stg ∧ t.tm = v.tm ∧
      (getPage q.toNat t).started = (getPage q.toNat s).started := by
  intro v
  obtain ⟨-, hmaster, hpages, -⟩ := id h
  obtain ⟨l, hpopped⟩ := popHead_withPages q s
  have hpos : bodyField e 8 8 ≠ 0 := fun hzero => by simp [xferCheck_length (s := s) (c := c) (get := get) (.inl hzero)] at hgood
  let w := localWrite (bodyAddr e 24) (localRead s (bodyAddr e 16) (bodyField e 8 8)) (popHead q s)
  have hw : w = withPages l s.tree v := by
    unfold w
    rw [hpopped, localWrite_apartPages]
  have hrun : xferRun q e get (popHead q s) =
      some (pumpCmd w.tree.nextCmd (addCmd q e (xferKind get (copied c e get)) w)) := by
    simp only [xferRun, popHead_commHere, hcomm, popHead_xferCheck, hgood]
    rw [startXfer_here hflags (by simpa using hlocal) hpos hfits (by simpa using hclean) (by rw [hpopped]; exact harmed),
      popHead_localRead, ← localWrite_tree (bodyAddr e 24) (localRead s (bodyAddr e 16) (bodyField e 8 8)) (popHead q s)]
  have hkept (u : State) : localWrite (bodyAddr e 24) (localRead s (bodyAddr e 16) (bodyField e 8 8)) u = withTraffic u.ni u.rt u.cmds
      (localWrite (bodyAddr e 24) (localRead s (bodyAddr e 16) (bodyField e 8 8)) u) := localWrite_apart _ _ u.ni u.rt u.cmds u
  have hcopied := pumpCmd_copied (q := q) (e := e) (c := c) (get := get) (s := w) hflags
    ((congrArg State.cmds (hkept (popHead q s))).trans ((popHead_cmds q s).trans hcmds))
    ((congrArg (·.ni.reqs) (hkept (popHead q s))).trans ((congrArg NI.reqs (popHead_ni q s)).trans hreqs))
    ((localWrite_busMaster ..).trans (by rw [popHead_host, hmaster]))
    ((congrArg List.length (localWrite_qs ..)).trans ((modPage_qs_length ..).trans hpages))
  have hpage : getPage q.toNat w = getPage q.toNat (popHead q s) := localWrite_page ..
  clear_value w v
  generalize pumpCmd _ _ = t at hrun hcopied
  obtain ⟨hnone, hstg, htm, hfetched, hstarted⟩ := hcopied
  refine ⟨_, read_starts (xfer_exec q e get) h ?_ (by simpa using hop) (xfer_known hop) hres hready hrun ?_, hnone, ?_, ?_, ?_⟩
  · simp [xferStartReads, hcomm, hgood, show isLocal s c.map.toNat (if get then bodyAddr e 16 else bodyAddr e 24) = some true from hlocal]
  · exact hfetched.trans (congrArg QPage.fetched hpage)
  · exact hstg.trans (by rw [hw]; rfl)
  · exact htm.trans (by rw [hw]; rfl)
  · refine hstarted.trans ?_
    rw [hpage, popHead, getPage_modPage_self _ _ _ (.inr (by rw [hpages]; exact q.isLt))]
    exact Nat.add_sub_cancel ..

/-- 10:R283, R284: a transfer of one packet to another node leaves as its request, and waits. -/
theorem xfer_sends (hfar : isLocal s c.map.toNat (farAddr e get) = some false)
    (hthere : coordOf s c.map.toNat (farAddr e get) ∉ s.ni.lost) (hopen : s.StreamOpen (coordOf s c.map.toNat (farAddr e get)))
    (hone : OnePacket get (xferOf c e get (farAddr e get)) s) :
    ∃ t p, Machine.exec (xferInstr q e get) s = .next t ∧ t.rt.inject = s.rt.inject ++ [(none, p)] ∧
      p.kind = (if get then 6 else 5) ∧ p.dest = coordOf s c.map.toNat (farAddr e get) ∧ p.tag = s.ni.nextReq ∧ p.flag = false ∧
      p.payload = (if get then loadPayload (bodyAddr e 16) (bodyField e 8 8)
        else storePayload (bodyAddr e 24) (localRead s (bodyAddr e 16) (bodyField e 8 8))) ∧
      t.ni.reqs.length = 1 ∧ ∃ cmd, t.cmds = [cmd] ∧ cmd.q = q ∧ cmd.tag = entTag e := by
  have hpos : bodyField e 8 8 ≠ 0 := fun hzero => by simp [xferCheck_length (s := s) (c := c) (get := get) (.inl hzero)] at hgood
  obtain ⟨l, hpopped⟩ := popHead_withPages q s
  let x := xferOf c e get (farAddr e get)
  let u := popHead q s
  let w := addCmd q e (xferKind get x) u
  have hrun : xferRun q e get u = some (pumpCmd u.tree.nextCmd w) := by
    simp only [xferRun, u, popHead_commHere, hcomm, popHead_xferCheck, hgood]
    rw [startXfer_far hflags (by simpa using hfar) (by simpa using hthere)]
  have hcoord : xferCoord w x = coordOf s c.map.toNat (farAddr e get) := by
    rw [← popHead_coordOf q]
    rfl
  have hpieces : localPieces w x.src x.len = localPieces s x.src x.len :=
    localPieces_congr (by exact popHead_wins q s) (by exact congrArg _ (popHead_host q s)) ..
  have hpoison : localPoison w x.src x.len = localPoison s x.src x.len := popHead_localPoison q s ..
  have hfits : OnePacket get x w := by
    obtain ⟨hload, hstore⟩ := hone
    refine ⟨hload, fun hput => ?_⟩
    obtain ⟨hfits, hready, hclean⟩ := hstore hput
    refine ⟨hfits, ?_, hpoison.trans hclean⟩
    rw [hpieces]
    exact hready ▸ congrArg (fun v => busReady (localPieces s x.src x.len) { s with host := v }) (popHead_host q s)
  obtain ⟨ps, y, k, hrequested, hpump⟩ := pumpCmd_whole (c := newCmd q e (xferKind get x) u) (s := w) (get := get) (x := x) rfl
    (by simp [x, xferOf, hflags, natBit]) (by rw [hcoord]; exact (popHead_streamOpen ..).2 hopen)
    (by exact (congrArg NI.reqs (popHead_ni q s)).trans hreqs) hfits (addCmd_new (by rw [popHead_cmds, hcmds]) ..) rfl hpos
    (xferOf_signal hflags ..)
  obtain ⟨r, hr, -⟩ := requested_alone hrequested (by exact (congrArg NI.reqs (popHead_ni q s)).trans hreqs)
  obtain ⟨p, tx, reqs, sent, hy, -, hkind, hdest, htag, hflag, hpayload⟩ := hrequested
  replace hrun := hrun.trans (congrArg some hpump)
  refine ⟨_, p, read_starts (xfer_exec q e get) h (ps := []) ?_ (by simpa using hop) (xfer_known hop) hres rfl hrun ?_,
    ?_, ?_, ?_, ?_, hflag, ?_, ?_, ?_⟩
  · simp [xferStartReads, hcomm, hgood, show isLocal s c.map.toNat (if get then bodyAddr e 16 else bodyAddr e 24) = some false from hfar]
  · rw [hy]
    rfl
  · rw [hy]
    exact congrArg (·.inject ++ [(none, p)]) (popHead_rt q s)
  · rw [hkind]
    cases get <;> rfl
  · rw [hdest, ← hcoord]
    cases get <;> rfl
  · exact htag.trans (congrArg NI.nextReq (popHead_ni q s))
  · rw [hpayload]
    cases get
    · exact congrArg (storePayload (bodyAddr e 24)) (popHead_localRead q s ..)
    · rfl
  · exact congrArg List.length hr
  · exact ⟨_, rfl, rfl, rfl⟩

end

/-- Settles O33: a transfer by its checks and by the place of its far end. -/
theorem putAndGet : Obligations.PutAndGet := by
  unfold Obligations.PutAndGet
  refine fun q e get s h hop hres => ⟨xfer_noComm h hop hres, fun c hcomm => ⟨fun st => xfer_refuses h hop hres hcomm,
    xferCheck_length, fun hgood hflags hcmds hreqs => ⟨xfer_here h hop hres hcomm hgood hflags hcmds hreqs,
      fun hfar hthere hwaiting hunacked hready hload hstore =>
        xfer_sends h hop hres hcomm hgood hflags hcmds hreqs hfar hthere ⟨hwaiting, hunacked⟩ ⟨hload, fun hput => ?_⟩⟩⟩⟩
  exact ⟨(hstore hput).1, hready, (hstore hput).2⟩

end Sys2Proof.Proofs

/-! CSEND, CRECV and CDONE (10:R275, R276; 08:R202, R221; 13:R353, R354, R368): a row that a thread executes in its turn, what the step of
a thread leaves, each of the three rows, and O55 from them. -/

namespace Sys2Proof.Proofs

open Sys2Proof Sys2Proof.Machine Sys2Proof.Laws

/-! ## A row that a thread executes -/

section
variable {t : Tid} {opc : Nat} {w : InsFields} {y : Thread} {x : Ctx} {c : Comm} {s : State} (h : s.Issues t opc w y x c)
include h

theorem thread_of_issues : y.id = t := by
  obtain ⟨-, hthread, -⟩ := h
  simpa using List.find?_some hthread

theorem ctx_of_issues : x.idx = y.ctx := by
  obtain ⟨-, -, hctx, -⟩ := h
  simpa using List.find?_some hctx

/-- 13:R348, R350: a thread in its turn runs a legal row. -/
theorem lane_runs {i : Instr} {legal : Bool} {run : Comm → Ctx → Thread → State → State}
    (hrow : Machine.exec i = fun s => live s (lane t opc w legal run)) (hlegal : legal = true) :
    Machine.exec i s = .next (run c x y (s.issued t opc x)) := by
  obtain ⟨hserves, hthread, hctx, hcomm, hready, hfetch⟩ := h
  subst hlegal
  rw [congrFun hrow s, live_runs (runs_of_awake hserves.1)]
  have hturn : (decide (y.st = .running) && !myTurn s y (classOf opc)) = false := by
    rcases hready with ⟨-, hturn⟩ | hstalled
    · simp [hturn]
    · simp [hstalled]
  have hstate : (decide (y.st = .running) || decide (y.st = .stalled)) = true := by
    rcases hready with ⟨hrunning, -⟩ | hstalled
    · simp [hrunning]
    · simp [hstalled]
  simp [lane, hthread, hctx, hcomm, hfetch, octozRuns_of_serves hserves, hturn, hstate, State.issued]

end

/-! ## What the step before the row leaves -/

section
variable (t : Tid) (opc : Nat) (x : Ctx) (s : State) (c : Comm) (a : W64)

@[simp] theorem issued_commSize : commSize (s.issued t opc x) c = commSize s c := rfl
@[simp] theorem issued_rankOffs (r : Nat) : rankOffs (s.issued t opc x) c r = rankOffs s c r := rfl
@[simp] theorem issued_memberAt (r : Nat) : memberAt (s.issued t opc x) c r = memberAt s c r := rfl
@[simp] theorem issued_offsRank (o : List Nat) : offsRank (s.issued t opc x) c o = offsRank s c o := rfl
@[simp] theorem issued_isLocal (m : Nat) : isLocal (s.issued t opc x) m a = isLocal s m a := rfl
@[simp] theorem issued_busReady (ps : List (Nat × Nat)) : busReady ps (s.issued t opc x) = busReady ps s := rfl

@[simp] theorem issued_localCheck (n : Nat) : localCheck (s.issued t opc x) a n = localCheck s a n :=
  localCheck_congr (s := s) (t := s.issued t opc x) rfl rfl a n

@[simp] theorem issued_localPieces (n : Nat) : localPieces (s.issued t opc x) a n = localPieces s a n :=
  localPieces_congr (s := s) (t := s.issued t opc x) rfl rfl a n

@[simp] theorem issued_myOffs : myOffs (s.issued t opc x) c = myOffs s c := by
  have hrank (p : Coord) : rankAt (s.issued t opc x) c p = rankAt s c p := by
    simp only [rankAt, issued_commSize, issued_memberAt]
    rfl
  have hself : myCoord (s.issued t opc x) = myCoord s := rfl
  have hbox : boxOffs (s.issued t opc x) c (myCoord s) = boxOffs s c (myCoord s) := rfl
  simp only [myOffs, myRank, hrank, hself, hbox, issued_offsRank, issued_commSize, issued_memberAt, issued_rankOffs]

@[simp] theorem issued_csendTo (w : InsFields) (r : Nat) : csendTo (s.issued t opc x) c w r = csendTo s c w r := by
  have hsides (b : Nat) : lineSides (s.issued t opc x) c b = lineSides s c b := by
    simp only [lineSides, issued_myOffs]
    rfl
  have hline (b : Nat) : lineRank (s.issued t opc x) c b = lineRank s c b := by
    funext d
    simp only [lineRank, issued_myOffs, issued_offsRank]
  simp only [csendTo, issued_commSize, issued_rankOffs, issued_myOffs, issued_memberAt, hsides, hline]
  rfl

end

/-- A thread that takes its step is found changed. -/
theorem findThread_stepped {t : Tid} {y : Thread} {f : Thread → Thread} {s : State} (hy : findThread t s = some y)
    (hf : ∀ z, (f z).id = z.id) : findThread t (modThread t f s) = some (f y) := by
  rw [findThread_modThread hf, hy]
  rfl

/-! ## Chunks that leave -/

/-- The state after a chunk's packet has joined the injection queue: a CHUNK with the chunk's bytes behind its header, as a multicast where
it has a direction. -/
def ChunkSent (dir : Option (BitVec 3)) (dest : Coord) (k : OutChunk) (s v : State) : Prop :=
  ∃ n p, v = { s with ni := n, rt := { s.rt with inject := s.rt.inject ++ [(dir, p)] } } ∧ p.kind = 4 ∧ p.mcast = dir.isSome ∧
    p.dest = dest ∧ p.payload.drop 64 = k.data

theorem chunkPacket_data (s : State) (c : Comm) (x : Ctx) (k : OutChunk) (d : Coord) :
    (chunkPacket s c x k d).payload.drop 64 = k.data := List.drop_left' (slice_length ..)

section
variable {s : State} {c : Comm} {x : Ctx} {k : OutChunk}

/-- 08:R215: a multicast belongs to no stream. -/
theorem sendChunk_multicast {d : BitVec 3} {far : Coord} (h : k.mcast = some (d, far)) :
    ChunkSent (some d) far k s (sendChunk c x k s) := by
  unfold sendChunk
  rw [h]
  exact ⟨s.ni, _, rfl, rfl, rfl, rfl, chunkPacket_data s c x k far⟩

/-- 08:R215: a chunk to one member leaves in its open stream. -/
theorem sendChunk_unicast (h : k.mcast = none) (hopen : s.StreamOpen (memberAt s c (k.rcvs.headD 0).toNat)) :
    ChunkSent none (memberAt s c (k.rcvs.headD 0).toNat) k s (sendChunk c x k s) := by
  unfold sendChunk
  rw [h]
  obtain ⟨tx, reqs, sent, hsent⟩ := sendStream_open (p := chunkPacket s c x k (memberAt s c (k.rcvs.headD 0).toNat)) hopen rfl
  exact ⟨_, _, hsent, rfl, rfl, rfl, chunkPacket_data s c x k (memberAt s c (k.rcvs.headD 0).toNat)⟩

end

/-! ## The source of a CSEND -/

section
variable {c : Comm} {y : Thread} {w : InsFields} {n : Nat} {s : State}

/-- The bytes of a chunk are there: in the thread's slots, or in local memory. -/
def SourceHere (c : Comm) (y : Thread) (w : InsFields) (n : Nat) (s : State) : Prop :=
  w.md.getLsbD 0 = true ∧ (sreg y w.a).toNat + n ≤ y.slots * 512 ∨
  w.md.getLsbD 0 = false ∧ isLocal s c.map.toNat (sreg y w.a) = some true ∧ localCheck s (sreg y w.a) n = none ∧
    busReady (localPieces s (sreg y w.a) n) s = true

theorem withSource_here (h : SourceHere c y w n s) (f : State → State) : withSource c y w n f s = f s := by
  rcases h with ⟨hslots, hfits⟩ | ⟨hmem, hlocal, hcheck, hready⟩
  · have hin : inSlots y (sreg y w.a).toNat n = true := decide_eq_true hfits
    simp only [withSource, csendFault, csendFar, hslots, hin, if_true, Bool.not_true, Bool.false_and, Bool.false_eq_true, if_false]
    rfl
  · simp only [withSource, csendFault, csendFar, hmem, hlocal, hcheck, hready, Bool.false_eq_true, if_false, Option.isSome_none,
      Option.some.injEq, Bool.true_eq_false, decide_false, Bool.and_false, if_true]

/-- 13:R354: slot bytes outside the thread's slots fault. -/
theorem withSource_outside (hslots : w.md.getLsbD 0 = true) (hout : y.slots * 512 < (sreg y w.a).toNat + n) (f : State → State) :
    withSource c y w n f s = faultThread y 0x03 s := by
  have hover : inSlots y (sreg y w.a).toNat n = false := decide_eq_false (by omega)
  simp only [withSource, csendFault, hslots, hover, if_true, Bool.false_eq_true, if_false]

/-- 13:R353: bytes of another node are loaded first. -/
theorem withSource_loads (hmem : w.md.getLsbD 0 = false) (hfar : isLocal s c.map.toNat (sreg y w.a) = some false)
    (hnone : y.source = none) (hreqs : s.ni.reqs.length < 16384) (hopen : s.StreamOpen (coordOf s c.map.toNat (sreg y w.a)))
    (f : State → State) : ∃ u, withSource c y w n f s = modThread y.id (fun z => { z with st := .inLoad }) u ∧
      Requested (.source y.id) (reqPacket s kLaneLoad c.map (coordOf s c.map.toNat (sreg y w.a)) (loadPayload (sreg y w.a) n) false
        false) s u := by
  refine ⟨_, ?_, issueReq_open hopen rfl (.source y.id) (faRank (sreg y w.a)) 0⟩
  simp only [withSource, csendFault, csendFar, hmem, hfar, hnone, reqRoom_of_open hopen hreqs, Bool.false_eq_true, if_false, if_true,
    Bool.not_false, decide_true, Bool.and_self, Option.any_none, Bool.not_true]

end

/-! ## CSEND -/

/-- The bytes of a chunk: those of the thread's slots, or of memory with the thread's own stores in place. -/
def chunkData (y : Thread) (w : InsFields) (n : Nat) (s : State) : Bytes :=
  if w.md.getLsbD 0 then memRead 0 s.slots (y.id.lane.toNat * 196608 + y.slotBase * 512 + (sreg y w.a).toNat) n
  else localRead (ownView y s) (sreg y w.a) n

/-- A CSEND has sent a chunk of the bytes, and its thread has stepped on. -/
def ChunkLeaves (t : Tid) (y : Thread) (dir : Option (BitVec 3)) (dest : Coord) (data : Bytes) (s v : State) : Prop :=
  ∃ p z, v.rt.inject = s.rt.inject ++ [(dir, p)] ∧ p.kind = 4 ∧ p.mcast = dir.isSome ∧ p.dest = dest ∧ p.payload.drop 64 = data ∧
    findThread t v = some z ∧ z.pc = y.pc + 1 ∧ z.st = .running

/-- 08:R221: a CSEND without a direction goes to the one rank that its register names, a member. -/
theorem csendTo_unicast {s : State} {c : Comm} {w : InsFields} {r : Nat} {to_ : List Nat × Option (BitVec 3 × Coord)}
    (hto : csendTo s c w r = some to_) (hnone : to_.2 = none) : to_.1 = [r] ∧ r < commSize s c := by
  unfold csendTo at hto
  split at hto
  · cases hto
  · next hmember =>
    split at hto
    · cases hto
      exact ⟨rfl, not_le.1 hmember⟩
    · dsimp only at hto
      split at hto
      · cases hto
        cases hnone
      · cases hto

section
variable {c : Comm} {x : Ctx} {y : Thread} {w : InsFields} {to_ : List Nat × Option (BitVec 3 × Coord)} {n : Nat} {s : State}

/-- 10:R275: a chunk that a receiver has not granted waits. -/
theorem csendGo_stalls (h : ∃ k ∈ to_.1, allowance x (BitVec.ofNat 17 k) = 0) : csendGo c x y w to_ n s = stall y.id s := by
  obtain ⟨k, hk, hnone⟩ := h
  refine if_neg fun hgo => ?_
  rw [Bool.and_eq_true, List.all_eq_true] at hgo
  have hgrant := hgo.1 _ (List.mem_map_of_mem hk)
  simp [hnone] at hgrant

/-- The state from which a chunk leaves: the context counts it as sent. -/
def countSent (x : Ctx) (k : OutChunk) (s : State) : State := modCtx x.idx (fun v => { v with sent := v.sent ++ [k] }) s

section
variable {t : Tid} (hthread : findThread t s = some y) (hnone : y.source = none)
  (hgrants : ∀ k ∈ to_.1, 0 < allowance x (BitVec.ofNat 17 k))
include hthread hnone hgrants

/-- 13:R368: a granted chunk with room leaves, and the thread steps on. -/
theorem csendGo_sends {k : OutChunk} (hk : csendChunk s c x y w to_ n = k) (hroom : chunkRoom s c k = true)
    {dir : Option (BitVec 3)} {dest : Coord} (hsent : ChunkSent dir dest k (countSent x k s) (sendChunk c x k (countSent x k s))) :
    ChunkLeaves t y dir dest (chunkData y w n s) s (csendGo c x y w to_ n s) := by
  have hid : y.id = t := by simpa using List.find?_some hthread
  obtain ⟨ni, p, hstate, hkind, hmcast, hdest, hdata⟩ := hsent
  have hall : (k.rcvs.all fun r => 0 < allowance x r) = true := by
    rw [← hk]
    simpa [csendChunk] using hgrants
  have hgo : csendGo c x y w to_ n s = modThread y.id (fun z => stepOn { z with source := none })
      (useBus (if k.src.isSome then localPieces s (sreg y w.a) n else []) (sendChunk c x k (countSent x k s))) := by
    rw [← hk] at hall hroom ⊢
    exact if_pos (by rw [hall, hroom]; rfl)
  rw [hgo, hstate, hid]
  refine ⟨p, _, rfl, hkind, hmcast, hdest, ?_, findThread_stepped (y := y) hthread fun _ => rfl, rfl, rfl⟩
  rw [hdata, ← hk]
  simp only [csendChunk, csendRead, chunkData, hnone]
  rfl

/-- 08:R221: a granted chunk to the members of an axis leaves as a multicast in its direction. -/
theorem csendGo_multicasts {d : BitVec 3} {far : Coord} (hline : to_.2 = some (d, far)) :
    ChunkLeaves t y (some d) far (chunkData y w n s) s (csendGo c x y w to_ n s) := by
  refine csendGo_sends hthread hnone hgrants rfl ?_ (sendChunk_multicast hline)
  simp [chunkRoom, csendChunk, hline]

/-- 10:R275, 08:R215: a granted chunk to one member leaves in its open stream. -/
theorem csendGo_unicasts {r : Nat} (hrank : to_.1 = [r]) (hone : to_.2 = none) (hr : r < 2 ^ 17)
    (hopen : s.StreamOpen (memberAt s c r)) : ChunkLeaves t y none (memberAt s c r) (chunkData y w n s) s (csendGo c x y w to_ n s) := by
  have hfirst : ((csendChunk s c x y w to_ n).rcvs.headD 0).toNat = r := by
    simp only [csendChunk, hrank, List.map_cons, List.headD_cons, BitVec.toNat_ofNat]
    exact Nat.mod_eq_of_lt hr
  generalize hk : csendChunk s c x y w to_ n = k at hfirst
  have hto : k.mcast = none := hk ▸ hone
  have hsent := sendChunk_unicast (c := c) (x := x) (s := countSent x k s) hto (by rw [hfirst]; exact (streamOpen_congr rfl _).2 hopen)
  rw [hfirst] at hsent
  refine csendGo_sends hthread hnone hgrants hk ?_ hsent
  rw [chunkRoom, hfirst, txRoom_of_open hopen, Bool.or_true]

end

end

section
variable {t : Tid} {w : InsFields} {y : Thread} {x : Ctx} {c : Comm} {s : State} (h : s.Issues t 0x50 w y x c)
  (hlegal : (decide (w.md.toNat ≤ 3) && decide (wireSize (csendWire w) ≠ 0)) = true)
include h hlegal

theorem csend_nowhere (hto : csendTo s c w (sreg y w.b).toNat = none) :
    Machine.exec (.csend t w) s = .next (faultThread y 0x05 (s.issued t 0x50 x)) := by
  refine (lane_runs h rfl hlegal).trans (congrArg _ ?_)
  simp only [issued_csendTo, hto]

variable {to_ : List Nat × Option (BitVec 3 × Coord)} (hto : csendTo s c w (sreg y w.b).toNat = some to_)
  (hplain : natBit 21 w.imm.toNat = false)
include hto hplain

/-- 13:R368: a chunk without bytes, or of more than one packet, faults. -/
theorem csend_size (hsize : (sreg y w.c).toNat = 0 ∨ 8128 < (sreg y w.c).toNat * wireSize (csendWire w)) :
    Machine.exec (.csend t w) s = .next (faultThread y 0x01 (s.issued t 0x50 x)) := by
  refine (lane_runs h rfl hlegal).trans (congrArg _ ?_)
  simp only [issued_csendTo, hto, hplain, Bool.false_eq_true, if_false, Nat.add_zero]
  exact if_pos (by simpa using hsize)

variable (hpos : (sreg y w.c).toNat ≠ 0) (hfits : (sreg y w.c).toNat * wireSize (csendWire w) ≤ 8128)
include hpos hfits

/-- 13:R368: the bytes of the chunk are read, and the chunk is sent. -/
theorem csend_reads : let n := (sreg y w.c).toNat * wireSize (csendWire w)
    Machine.exec (.csend t w) s = .next (withSource c y w n (withSource c y w n (csendGo c x y w to_ n)) (s.issued t 0x50 x)) := by
  intro n
  refine (lane_runs h rfl hlegal).trans (congrArg _ ?_)
  have hlen (b : Bytes) : csendLen b w (sreg y w.c).toNat = n := by simp [csendLen, hplain, n]
  simp only [issued_csendTo, hto, hplain, Bool.false_eq_true, if_false, Nat.add_zero, hlen]
  rw [if_neg (by simp only [Bool.or_eq_true, decide_eq_true_eq]; omega)]
  simp only [if_neg (not_lt.2 hfits), n]

/-- 13:R353: a chunk of another node's bytes asks for them, and its thread waits. -/
theorem csend_loads (hmem : w.md.getLsbD 0 = false) (hfar : isLocal s c.map.toNat (sreg y w.a) = some false) (hnone : y.source = none)
    (hreqs : s.ni.reqs.length < 16384) (hopen : s.StreamOpen (coordOf s c.map.toNat (sreg y w.a))) :
    ∃ v q z, Machine.exec (.csend t w) s = .next v ∧ v.rt.inject = s.rt.inject ++ [(none, q)] ∧ q.kind = 9 ∧
      q.dest = coordOf s c.map.toNat (sreg y w.a) ∧
      q.payload = loadPayload (sreg y w.a) ((sreg y w.c).toNat * wireSize (csendWire w)) ∧
      findThread t v = some z ∧ z.st = .inLoad ∧ z.pc = y.pc := by
  obtain ⟨-, hthread, -⟩ := id h
  obtain rfl := thread_of_issues h
  obtain ⟨u, hload, q, tx, reqs, sent, hu, -, hkind, hdest, -, -, hpayload⟩ := withSource_loads
    (n := (sreg y w.c).toNat * wireSize (csendWire w)) (s := s.issued y.id 0x50 x) hmem hfar hnone hreqs ((streamOpen_congr rfl _).2 hopen)
    (withSource c y w _ (csendGo c x y w to_ _))
  refine ⟨_, q, { y with st := .inLoad }, (csend_reads h hlegal hto hplain hpos hfits).trans (congrArg _ hload), ?_, hkind, hdest,
    hpayload, findThread_stepped (f := fun z => { z with st := .inLoad }) ?_ fun _ => rfl, rfl, rfl⟩
  · rw [hu]
    rfl
  · rw [hu]
    exact hthread

/-- 10:R275: a chunk whose bytes are there leaves or waits. -/
theorem csend_goes (hhere : SourceHere c y w ((sreg y w.c).toNat * wireSize (csendWire w)) s) : Machine.exec (.csend t w) s =
    .next (csendGo c x y w to_ ((sreg y w.c).toNat * wireSize (csendWire w)) (s.issued t 0x50 x)) := by
  have hthere : SourceHere c y w ((sreg y w.c).toNat * wireSize (csendWire w)) (s.issued t 0x50 x) := by
    simpa only [SourceHere, issued_isLocal, issued_localCheck, issued_localPieces, issued_busReady] using hhere
  rw [csend_reads h hlegal hto hplain hpos hfits, withSource_here hthere, withSource_here hthere]

end

/-! ## What a grant leaves -/

/-- A context that a replacement leaves under its index is found replaced, the others as they were. -/
theorem findCtx_modCtx {i : BitVec 9} {f : Ctx → Ctx} (hf : ∀ x, x.idx = i → (f x).idx = i) (j : BitVec 9)
    (s : State) : findCtx j (modCtx i f s) = (findCtx j s).map fun x => if x.idx = i then f x else x := by
  have hsame : (fun x : Ctx => decide (x.idx = j)) ∘ (fun x => if decide (x.idx = i) then f x else x) = fun x => decide (x.idx = j) := by
    funext x
    by_cases hx : x.idx = i
    · simp [hx, hf x hx]
    · simp [hx]
  unfold findCtx
  rw [show (modCtx i f s).ctxs = updWhere (fun x => x.idx = i) f s.ctxs from rfl, updWhere, List.find?_map, hsame]
  simp only [decide_eq_true_eq]

/-- The threads, and what each context has confirmed. -/
def confirmed (s : State) : List Thread × (BitVec 9 → Option (List (BitVec 17 × Nat))) :=
  (s.threads, fun j => (findCtx j s).map fun x => x.conf)

theorem sendStream_threads (p : Packet) (s : State) : (sendStream p s).threads = s.threads := by
  obtain ⟨sent, hwaits⟩ := sendStream_waits p s
  rw [hwaits, txPump]
  exact foldl_frame (π := State.threads) fun _ _ => rfl

theorem sendStream_confirmed (p : Packet) (s : State) : confirmed (sendStream p s) = confirmed s := by
  simp only [confirmed, findCtx, sendStream_threads, sendStream_ctxs]

/-- A found context replaced by one of its index that has confirmed the same. -/
theorem putCtx_confirmed {x z : Ctx} {s : State} (hx : findCtx x.idx s = some x) (hidx : z.idx = x.idx) (hconf : z.conf = x.conf) :
    confirmed (putCtx z s) = confirmed s := by
  refine Prod.ext rfl (funext fun j => ?_)
  show (findCtx j (modCtx z.idx (fun _ => z) s)).map _ = (findCtx j s).map _
  rw [findCtx_modCtx (fun _ _ => rfl), Option.map_map]
  cases hj : findCtx j s with
  | none => rfl
  | some y =>
    have hy : y.idx = j := by simpa using List.find?_some hj
    by_cases hsame : j = x.idx
    · have hxy : y = x := Option.some.inj (hj.symm.trans (hsame ▸ hx))
      simp [hxy, hidx, hconf]
    · simp [hy, hidx, hsame]

theorem grantTo_confirmed (c : Comm) (i : BitVec 9) (s : State) (r : Nat) : confirmed (grantTo c i s r) = confirmed s := by
  unfold grantTo
  split
  · rfl
  · next x hx =>
    have hidx : x.idx = i := by simpa using List.find?_some hx
    dsimp only
    split
    · rfl
    · exact (sendStream_confirmed ..).trans (putCtx_confirmed (x := x) (by rw [hidx]; exact hx) rfl rfl)

theorem grantAll_confirmed (c : Comm) (x : Ctx) (s : State) : confirmed (grantAll c x s) = confirmed s :=
  foldl_frame fun t r => grantTo_confirmed c x.idx t r

theorem grantKick_confirmed (s : State) : confirmed (grantKick s) = confirmed s := by
  refine foldl_frame fun t y => ?_
  split
  · rfl
  · split
    · rfl
    · split
      · rfl
      · exact grantAll_confirmed ..

theorem countOf_addCount (r : BitVec 17) (n : Nat) (l : List (BitVec 17 × Nat)) : countOf (addCount r n l) r = countOf l r + n := by
  simp [countOf, addCount]

/-! ## CRECV -/

section
variable {t : Tid} {w : InsFields} {y : Thread} {x : Ctx} {c : Comm} {s : State} (h : s.Issues t 0x51 w y x c)
  (hlegal : (decide (w.md.toNat ≤ 1) && unused w false true (w.md = 1) true false) = true)
include h hlegal

/-- 13:R368: without a chunk the thread waits for one. -/
theorem crecv_waits (hnone : crecvChunk x y w = none) : ∃ v z, Machine.exec (.crecv t w) s = .next v ∧ findThread t v = some z ∧
    z.st = .inCrecv ∧ z.pc = y.pc ∧ z.waitArg = w.imm := by
  obtain ⟨-, hthread, -⟩ := id h
  obtain rfl := thread_of_issues h
  refine ⟨_, { y with st := .inCrecv, waitArg := w.imm }, lane_runs h rfl hlegal, ?_, rfl, rfl, rfl⟩
  simp only [hnone]
  exact findThread_stepped (f := fun z => { z with st := .inCrecv, waitArg := w.imm }) (by exact hthread) fun _ => rfl

/-- 10:R276, 13:R368: the thread holds the chunk under a new handle, and its register names both. -/
theorem crecv_takes {k : Chunk} (hk : crecvChunk x y w = some k) (hregs : y.s.length = 32) (hcount : k.count < 2 ^ 16) :
    ∃ v z i, Machine.exec (.crecv t w) s = .next v ∧ findThread t v = some z ∧ z.pc = y.pc + 1 ∧ z.handles = y.handles ++ [(i, k)] ∧
      sreg z w.d = BitVec.ofNat 64 (i.toNat + k.count * 2 ^ 16 + k.sender.toNat * 2 ^ 32) := by
  obtain ⟨-, hthread, -⟩ := id h
  obtain rfl := thread_of_issues h
  let word : W64 := BitVec.ofNat 64 ((freeHandle y).toNat + k.count * 2 ^ 16 + k.sender.toNat * 2 ^ 32)
  let f (z : Thread) : Thread := stepOn { z.setS w.d word with handles := z.handles ++ [(freeHandle y, k)] }
  refine ⟨_, f y, freeHandle y, lane_runs h rfl hlegal, ?_, rfl, rfl, sreg_setS_same hregs w.d word⟩
  simp only [hk, Nat.mod_eq_of_lt hcount]
  exact findThread_stepped (f := f) (by exact hthread) fun _ => rfl

end

/-- The chunk that a CRECV takes is one of the context that no thread has taken. -/
theorem crecvChunk_free {x : Ctx} {y : Thread} {w : InsFields} {k : Chunk} (hk : crecvChunk x y w = some k) :
    k ∈ x.chunks ∧ k.taken = false := by
  have hfound := List.find?_some hk
  simp only [Bool.and_eq_true, Bool.not_eq_true'] at hfound
  exact ⟨List.mem_of_find?_eq_some hk, hfound.1.1.1⟩

/-! ## CDONE -/

theorem confirmLag_kept (k : Chunk) (x : Ctx) : (confirmLag k x).idx = x.idx ∧ (confirmLag k x).conf = x.conf := by
  unfold confirmLag
  split <;> exact ⟨rfl, rfl⟩

/-- The context of a thread that gives up a chunk, with the chunk's laggard and overflow. -/
def doneCtx (k : Chunk) (x : Ctx) : Ctx := { confirmLag k x with overflow := x.overflow || k.ovf }

/-- The thread without the handles of a register's value. -/
def dropHandle (y : Thread) (a : BitVec 5) (z : Thread) : Thread :=
  { stepOn z with handles := z.handles.filter fun h => h.1 ≠ (sreg y a).setWidth 16 }

/-- A handle that the thread has given up names no chunk. -/
theorem heldChunk_dropped (y : Thread) (a : BitVec 5) : heldChunk (dropHandle y a y) a = none := by
  have hreg : sreg (dropHandle y a y) a = sreg y a := rfl
  unfold heldChunk
  rw [hreg]
  simp [dropHandle]

/-- 10:R276: what a confirmed chunk leaves of the threads, and of the counts of its context. -/
theorem confirmChunk_counts {c : Comm} {x : Ctx} {i : BitVec 9} {r : BitVec 17} {s : State} (hx : findCtx i s = some x) :
    (grantKick (confirmChunk c i r s)).threads = s.threads ∧
      ∃ d, findCtx i (grantKick (confirmChunk c i r s)) = some d ∧ countOf d.conf r = countOf x.conf r + 1 := by
  have hkept : confirmed (grantKick (confirmChunk c i r s)) =
      confirmed (modCtx i (fun z => { z with conf := addCount r 1 z.conf }) s) :=
    (grantKick_confirmed _).trans (grantTo_confirmed c i _ r.toNat)
  have hidx : x.idx = i := by simpa using List.find?_some hx
  have hcounts := congrFun (congrArg Prod.snd hkept) i
  simp only [confirmed, findCtx_modCtx (f := fun z => { z with conf := addCount r 1 z.conf }) (fun _ hz => hz), hx, Option.map_some,
    hidx, if_true] at hcounts
  obtain ⟨d, hd, hconf⟩ := Option.map_eq_some_iff.1 hcounts
  exact ⟨congrArg Prod.fst hkept, d, hd, by rw [hconf, countOf_addCount]⟩

section
variable {t : Tid} {w : InsFields} {y : Thread} {x : Ctx} {c : Comm} {s : State} (h : s.Issues t 0x52 w y x c)
  (hlegal : (decide (w.md = 0) && unused w true false true true true) = true)
include h hlegal

theorem cdone_faults (hnone : heldChunk y w.a = none) :
    Machine.exec (.cdone t w) s = .next (faultThread y 0x09 (s.issued t 0x52 x)) := by
  refine (lane_runs h rfl hlegal).trans (congrArg _ ?_)
  simp only [hnone]

/-- 10:R276: the handle is given up, and the chunk is confirmed. -/
theorem cdone_confirms {k : Chunk} (hk : heldChunk y w.a = some k) : ∃ v z d, Machine.exec (.cdone t w) s = .next v ∧
    findThread t v = some z ∧ z.pc = y.pc + 1 ∧ heldChunk z w.a = none ∧ findCtx y.ctx v = some d ∧
    countOf d.conf k.sender = countOf x.conf k.sender + 1 := by
  obtain ⟨-, hthread, hctx, -⟩ := id h
  obtain rfl := thread_of_issues h
  have hx := ctx_of_issues h
  let v := modThread y.id (dropHandle y w.a) (modCtx x.idx (doneCtx k) (s.issued y.id 0x52 x))
  let d := doneCtx k { x with blockedSince := now s }
  have hd : findCtx x.idx v = some d := by
    refine (findCtx_modCtx (f := doneCtx k) (fun z hz => (confirmLag_kept k z).1.trans hz) x.idx (s.issued y.id 0x52 x)).trans ?_
    rw [show findCtx x.idx (s.issued y.id 0x52 x) = (findCtx x.idx s).map _ from
      findCtx_modCtx (f := fun z => { z with blockedSince := now s }) (fun _ hz => hz) x.idx s, hx, hctx]
    simp [d, hx]
  obtain ⟨hthreads, z, hz, hcount⟩ := confirmChunk_counts (c := c) (r := k.sender) hd
  refine ⟨grantKick (confirmChunk c x.idx k.sender v), dropHandle y w.a y, z, ?_, ?_, rfl, heldChunk_dropped y w.a, hx ▸ hz, ?_⟩
  · refine (lane_runs h rfl hlegal).trans (congrArg _ ?_)
    simp only [hk]
    rfl
  · rw [findThread_congr hthreads]
    exact findThread_stepped (f := dropHandle y w.a) (by exact hthread) fun _ => rfl
  · rw [hcount, show d.conf = x.conf from (confirmLag_kept k _).2]

end

/-- Settles O55: CSEND by its receivers, its source and its grants, CRECV by the chunk that it finds, CDONE by its handle. -/
theorem laneChunks : Obligations.LaneChunks := by
  unfold Obligations.LaneChunks
  refine fun t w y x c s => ⟨fun h hmode hwire hplain => ?_, fun h hmode ha hc hb => ?_, fun h hmode hd hb hc himm => ?_⟩
  · intro u r a n slots near data sends
    have hlegal : (decide (w.md.toNat ≤ 3) && decide (wireSize (csendWire w) ≠ 0)) = true := by simp [hmode, hwire]
    refine ⟨fun hnowhere => csend_nowhere h hlegal ?_, fun to_ hto => ⟨fun hsize => csend_size h hlegal hto hplain ?_, fun hpos hfits => ?_⟩⟩
    · rcases hnowhere with hmember | hnone
      · exact if_pos hmember
      · exact hnone
    · exact hsize.imp_left fun hzero => (Nat.mul_eq_zero.1 hzero).resolve_right hwire
    obtain ⟨-, hthread, -⟩ := id h
    have hcnt : (sreg y w.c).toNat ≠ 0 := (Nat.pos_of_mul_pos_right hpos).ne'
    refine ⟨fun hslots hout => ?_, fun hmem hfar hnone hreqs hopen => ?_, fun hhere hno => ?_, fun hhere hnone hgrants => ⟨?_, ?_⟩⟩
    · exact (csend_reads h hlegal hto hplain hcnt hfits).trans (congrArg _ (withSource_outside hslots hout _))
    · exact csend_loads h hlegal hto hplain hcnt hfits hmem hfar hnone hreqs hopen
    · refine (csend_goes h hlegal hto hplain hcnt hfits hhere).trans (congrArg _ ((csendGo_stalls hno).trans ?_))
      rw [thread_of_issues h]
    · intro m hline
      obtain ⟨p, z, hleaves⟩ := csendGo_multicasts (n := n) (s := u) (c := c) (w := w) hthread hnone hgrants hline
      exact ⟨_, p, z, csend_goes h hlegal hto hplain hcnt hfits hhere, hleaves⟩
    · intro hone hopen hsize
      obtain ⟨hrank, hmember⟩ := csendTo_unicast hto hone
      obtain ⟨p, z, hleaves⟩ := csendGo_unicasts (n := n) (s := u) (c := c) (w := w) hthread hnone hgrants hrank hone
        (hmember.trans_le hsize) ((streamOpen_congr rfl _).2 hopen)
      exact ⟨_, p, z, csend_goes h hlegal hto hplain hcnt hfits hhere, hleaves⟩
  · have hlegal : (decide (w.md.toNat ≤ 1) && unused w false true (w.md = 1) true false) = true := by
      simpa [unused, hmode, ha, hc, or_iff_not_imp_left] using hb
    refine ⟨crecv_waits h hlegal, fun k hk hregs hcount => ?_⟩
    obtain ⟨hmem, hfree⟩ := crecvChunk_free hk
    exact ⟨hmem, hfree, crecv_takes h hlegal hk hregs hcount⟩
  · have hlegal : (decide (w.md = 0) && unused w true false true true true) = true := by simp [unused, hmode, hd, hb, hc, himm]
    exact ⟨cdone_faults h hlegal, fun k => cdone_confirms h hlegal⟩

end Sys2Proof.Proofs

/-! Packets of Cinch collectives and votes (11:R299 to R306): what the records of sets hold, what a fragment, a whole result and a failed
copy leave of the context, what a re-request sends, when a missing set is asked for, and O38 from them. -/

namespace Sys2Proof.Proofs

open Sys2Proof Sys2Proof.Machine Sys2Proof.Laws

/-! ## Contexts and their records -/

/-- A bound context is found replaced. -/
theorem findCtx_putCtx {i : BitVec 9} {x y : Ctx} {s : State} (hx : findCtx i s = some x) (hidx : y.idx = i) :
    findCtx i (putCtx y s) = some y := by
  subst hidx
  have hfound : x.idx = y.idx := by simpa using List.find?_some hx
  rw [putCtx, findCtx_modCtx fun _ _ => rfl, hx, Option.map_some, if_pos hfound]

/-- The collective that a packet names is found by its context's index. -/
theorem findCtx_of_serves {p : Packet} {x : Ctx} {c : Comm} {s : State} (h : s.Serves p x c) : findCtx x.idx s = some x := by
  obtain ⟨hcoll, -, halone⟩ := h
  have hbound : (findCtx x.idx s).isSome = true := List.find?_isSome.2 ⟨x, List.mem_of_find?_eq_some hcoll, by simp⟩
  obtain ⟨y, hy⟩ := Option.isSome_iff_exists.1 hbound
  have hyx : y = x := halone y (List.mem_of_find?_eq_some hy) (by simpa using List.find?_some hy)
  exact hyx ▸ hy

section
variable (x : Ctx) (vote : Bool) (r : CinchRec)

@[simp] theorem setRec_idx : (x.setRec vote r).idx = x.idx := by cases vote <;> rfl
@[simp] theorem setRec_handle : (x.setRec vote r).handle = x.handle := by cases vote <;> rfl
@[simp] theorem setRec_plan : (x.setRec vote r).plan = x.plan := by cases vote <;> rfl
@[simp] theorem setRec_outq : (x.setRec vote r).outq = x.outq := by cases vote <;> rfl
@[simp] theorem setRec_crec : (x.setRec vote r).crec vote = r := by cases vote <;> rfl

end

/-! ## The end of a collective -/

theorem abortColl_unbound {x : Ctx} {c : Comm} {s : State} (hc : findComm x.handle s = some c) (cause : Byte) (rank : BitVec 18)
    (named : W16) (value : W64) (status : Byte) (result : Option W64) :
    findCtx x.idx (abortColl x cause rank named value status result s) = none := by
  unfold abortColl
  rw [hc]
  exact failCtx_unbound ..

theorem completeOk_unbound (x : Ctx) (s : State) : findCtx x.idx (completeOk x s) = none := by
  rw [findCtx, completeOk, completeCtx_ctxs, List.find?_eq_none]
  intro y hy
  simpa using (List.mem_filter.1 hy).2

@[simp] theorem writeResult_idx (c : Comm) (x : Ctx) (s : State) : (writeResult c x s).1.idx = x.idx := by
  unfold writeResult
  split
  · rfl
  · split
    · rfl
    · split
      · rfl
      · extract_lets r s0 s1
        split <;> rfl

/-- 11:R300: a member with the result ends its part. -/
theorem cinchFinish_unbound (c : Comm) (x : Ctx) (s : State) : findCtx x.idx (cinchFinish c x s) = none := by
  unfold cinchFinish
  extract_lets r vals x1 w out base x2
  have hidx : x2.idx = x.idx := by
    unfold x2
    split <;> exact writeResult_idx c x1 s
  rw [← hidx]
  exact completeOk_unbound ..

/-- 10:R278: the plan of a collective whose chunks wait is not over. -/
theorem finishPlan_waits {x : Ctx} (hout : x.outq ≠ []) (c : Comm) (s : State) : finishPlan c x s = s := by
  have hwaits : allConfirmed x = false := by simp [allConfirmed, hout]
  simp [finishPlan, hwaits]

/-- The plan of such a collective does not go on. -/
theorem advance_waits {i : BitVec 9} {x : Ctx} {c : Comm} {s : State} (hx : findCtx i s = some x) (hc : findComm x.handle s = some c)
    (hplan : x.plan = []) (hout : x.outq ≠ []) : advance i s = s := by
  simp only [advance, hx]
  split
  · rfl
  · simp only [hplan, advanceGo, hx, hc, finishPlan_waits hout]

/-- 11:R306: a vote that is over gives its agreement; a collective whose chunks wait stays bound. -/
theorem voteFinish_agrees {x z : Ctx} {c : Comm} {s : State} (hx : findCtx x.idx s = some z) (hc : findComm x.handle s = some c)
    (hplan : x.plan = []) (hout : x.outq ≠ []) : findCtx x.idx (voteFinish x s) = some { x with agreed := true } := by
  have hput : findCtx x.idx (putCtx { x with agreed := true } s) = some { x with agreed := true } := findCtx_putCtx hx rfl
  rw [voteFinish, advance_waits hput hc hplan hout, hput]

/-! ## The result that comes down -/

/-- The context of a member that has taken the result of a set (11:R300). -/
def resultTaken (vote : Bool) (k : CinchSet) (x : Ctx) : Ctx :=
  x.setRec vote { x.crec vote with own := if vote then (x.crec vote).own else setVals x k, lag := k.lag, ovf := k.ovf, upDone := true
                                   downDone := true }

/-- 11:R300: a member that relays on no axis takes the result, and ends its own part or its vote. -/
theorem takeDownSet_ends {c : Comm} {vote : Bool} {k : CinchSet} {x : Ctx} {s : State} (hdown : (x.crec vote).downDone = false)
    (hrelay : relayAxes s c = []) : takeDownSet c vote k x s =
      let s1 := putCtx (resultTaken vote k x) s
      if vote then voteFinish (resultTaken vote k x) s1 else cinchFinish c (resultTaken vote k x) s1 := by
  have hnone (z : Ctx) : relayDown c vote z s = (z, s) := by rw [relayDown, hrelay, List.foldl_nil]
  simp only [takeDownSet, hdown, Bool.false_eq_true, if_false, hnone]
  rfl

/-- The axes of the down phase do not depend on the contexts. -/
theorem relayAxes_putCtx (x : Ctx) (c : Comm) (s : State) : relayAxes (putCtx x s) c = relayAxes s c := rfl

/-! ## Sets -/

/-- The set of a packet is one of its sender. -/
theorem setOf_src (tick : Nat) (r : CinchRec) (p : Packet) : (Machine.setOf tick r p).src = p.src := by
  unfold Machine.setOf
  extract_lets ct ax
  cases hk : r.sets.find? fun k => k.ctype = ct && k.axis = ax && k.src = p.src with
  | none => rfl
  | some k =>
    have hfound := List.find?_some hk
    simp only [Bool.and_eq_true, decide_eq_true_eq] at hfound
    exact hfound.2

theorem putSet_mem (k : CinchSet) (r : CinchRec) : k ∈ (putSet k r).sets := List.mem_cons_self

@[simp] theorem putSet_downDone (k : CinchSet) (r : CinchRec) : (putSet k r).downDone = r.downDone := rfl

/-- The first fragment of a set brings its data and the fields of its header (11:R303). -/
theorem addFrag_first {tick : Nat} {p : Packet} {k : CinchSet} (h : k.frags = []) :
    (addFrag tick p k).frags = [(BitVec.ofNat 8 (payField p 12 1), (p.payload.drop 24).take (payField p 14 1))] ∧
      (addFrag tick p k).count = BitVec.ofNat 8 (payField p 13 1) ∧ (addFrag tick p k).wire = BitVec.ofNat 8 (payField p 11 1) ∧
      (addFrag tick p k).src = k.src := by
  simp [addFrag, h]

theorem payField_byte (p : Packet) (o : Nat) : payField p o 1 % 2 ^ 8 = payField p o 1 := by
  obtain ⟨b, hb⟩ := List.length_eq_one_iff.1 (slice_length o 1 p.payload)
  rw [payField, fieldAt, hb]
  exact Nat.mod_eq_of_lt b.isLt

/-- A set of one fragment is whole with its first one, which is its stream. -/
theorem single_whole {k : CinchSet} {piece : Bytes} (hfrags : k.frags = [(0, piece)]) (hcount : k.count = 1) :
    setWhole k = true ∧ setStream k = piece := by
  simp [setWhole, setStream, hfrags, hcount]

/-! ## Failed copies -/

/-- A set with one more failed copy (11:R304). -/
def failedSet (k : CinchSet) : CinchSet := { k with bad := true, copies := k.copies + 1 }

section
variable {c : Comm} {vote : Bool} {x : Ctx} {k : CinchSet} {s : State} (hbad : k.bad = false)
include hbad

theorem badFrag_counts (h : k.copies < 3) : badFrag c vote x k s = putCtx (x.setRec vote (putSet (failedSet k) (x.crec vote))) s := by
  simp only [badFrag, hbad, Bool.false_eq_true, if_false]
  exact if_neg (by omega)

theorem badFrag_ends (h : 3 ≤ k.copies) (hc : findComm x.handle s = some c) : findCtx x.idx (badFrag c vote x k s) = none := by
  have habort : badFrag c vote x k s =
      checkFail (x.setRec vote (putSet (failedSet k) (x.crec vote))) (jobAt s c k.src) s := by
    simp only [badFrag, hbad, Bool.false_eq_true, if_false]
    exact if_pos (by omega)
  rw [habort, ← setRec_idx x vote (putSet (failedSet k) (x.crec vote))]
  exact abortColl_unbound (by rw [setRec_handle]; exact hc) ..

end

/-! ## A packet of a bound collective -/

/-- The context that a packet of its collective finds: degraded by one that was rerouted (16:R459). -/
def reached (p : Packet) (x : Ctx) : Ctx := { x with degraded := x.degraded || p.rerouted }

@[simp] theorem reached_idx (p : Packet) (x : Ctx) : (reached p x).idx = x.idx := rfl

@[simp] theorem reached_crec (p : Packet) (x : Ctx) (vote : Bool) : (reached p x).crec vote = x.crec vote := by cases vote <;> rfl

/-- The set of a packet with its fragment (11:R303). -/
def fragSet (tick : Nat) (vote : Bool) (p : Packet) (x : Ctx) : CinchSet := addFrag tick p (Machine.setOf tick (x.crec vote) p)

/-- A fragment of a set of which nothing has come. -/
theorem fragSet_first {tick : Nat} {vote : Bool} {p : Packet} {x : Ctx} (h : (Machine.setOf tick (x.crec vote) p).frags = []) :
    let n := fragSet tick vote p (reached p x)
    n.frags = [(BitVec.ofNat 8 (payField p 12 1), (p.payload.drop 24).take (payField p 14 1))] ∧
      n.count = BitVec.ofNat 8 (payField p 13 1) ∧ n.wire = BitVec.ofNat 8 (payField p 11 1) ∧ n.src = p.src := by
  rw [fragSet, reached_crec]
  obtain ⟨hfrags, hcount, hwire, hsrc⟩ := addFrag_first (tick := tick) (p := p) h
  exact ⟨hfrags, hcount, hwire, hsrc.trans (setOf_src ..)⟩

/-- The context with the fragment in its set. -/
def joined (tick : Nat) (vote : Bool) (p : Packet) (x : Ctx) (s : State) : Ctx :=
  { x.setRec vote (putSet (fragSet tick vote p x) (x.crec vote)) with blockedSince := now s }

@[simp] theorem joined_idx (tick : Nat) (vote : Bool) (p : Packet) (x : Ctx) (s : State) : (joined tick vote p x s).idx = x.idx :=
  setRec_idx ..

@[simp] theorem joined_crec (tick : Nat) (vote : Bool) (p : Packet) (x : Ctx) (s : State) :
    (joined tick vote p x s).crec vote = putSet (fragSet tick vote p x) (x.crec vote) := by cases vote <;> rfl

section
variable {tick ct : Nat} {c : Comm} {x : Ctx} {p : Packet} {s : State}

/-- 11:R304: a packet whose check fails, or that is poisoned, is a failed copy. -/
theorem takeCinch_bad (hct : payField p 10 1 % 16 = ct) (h : crcOk p = false ∨ pktPoison p = true) : takeCinch tick c x p s =
    badFrag c (5 ≤ ct) (reached p x) (Machine.setOf tick (x.crec (5 ≤ ct)) p) s := by
  subst hct
  rw [← reached_crec p x]
  exact if_pos (by simpa using h)

variable (hcrc : crcOk p = true) (hclean : pktPoison p = false)
include hcrc hclean

/-- 11:R306: a packet with another signature ends the collective. -/
theorem takeCinch_mismatch (hsig : BitVec.ofNat 16 (payField p 8 2) ≠ sig16 x.sig) (hc : findComm x.handle s = some c) :
    findCtx x.idx (takeCinch tick c x p s) = none := by
  unfold takeCinch
  rw [if_neg (by simp [hcrc, hclean]), if_pos hsig]
  exact abortColl_unbound (x := reached p x) hc ..

variable (hct : payField p 10 1 % 16 = ct) (hsig : BitVec.ofNat 16 (payField p 8 2) = sig16 x.sig)
include hct hsig

/-- 11:R303: a good fragment joins its set; a whole set goes up, or brings the result. -/
theorem takeCinch_joins (hx : findCtx x.idx s = some x) {k : CinchSet} (hk : k = fragSet tick (5 ≤ ct) p (reached p x))
    (hgood : setWhole k = true → ct < 5 → (cinchVals k.wire.toNat x.count x.din (setStream k)).isSome = true) :
    takeCinch tick c x p s =
      let y := joined tick (5 ≤ ct) p (reached p x) s
      if !setWhole k then putCtx y s
      else if ct = 2 || ct = 6 then takeDownSet c (5 ≤ ct) k y (putCtx y s)
      else upPhase x.idx (5 ≤ ct) (putCtx y s) := by
  subst hct hk
  have hput : findCtx x.idx (putCtx (joined tick (5 ≤ payField p 10 1 % 16) p (reached p x) s) s) = some _ := findCtx_putCtx hx (by simp)
  unfold takeCinch
  rw [if_neg (by simp [hcrc, hclean]), if_neg (not_not.2 hsig)]
  refine (if_neg fun hbad => ?_).trans ?_
  · simp only [Bool.and_eq_true, Bool.not_eq_true', decide_eq_false_iff_not, not_le] at hbad
    obtain ⟨⟨hwhole, hcinch⟩, hnone⟩ := hbad
    exact absurd (Option.isNone_iff_eq_none.1 hnone) (Option.isSome_iff_ne_none.1 (hgood hwhole hcinch))
  · show ite _ _ (ite _ (takeDownSet _ _ _ ((findCtx x.idx (putCtx (joined _ _ p (reached p x) s) s)).getD _) _) _) = _
    rw [hput]
    rfl

/-- 11:R303: a fragment that leaves its set incomplete joins it, and nothing more. -/
theorem takeCinch_part (hx : findCtx x.idx s = some x) (hpart : setWhole (fragSet tick (5 ≤ ct) p (reached p x)) = false) :
    takeCinch tick c x p s = putCtx (joined tick (5 ≤ ct) p (reached p x) s) s := by
  rw [takeCinch_joins hcrc hclean hct hsig hx rfl fun hwhole => Bool.noConfusion (hpart.symm.trans hwhole)]
  exact if_pos (by simp [hpart])

variable (hx : findCtx x.idx s = some x) {k : CinchSet} (hk : k = fragSet tick (5 ≤ ct) p (reached p x)) (hwhole : setWhole k = true)
  (hopen : (x.crec (5 ≤ ct)).downDone = false) (hrelay : relayAxes s c = [])
include hx hk hwhole hopen hrelay

/-- 11:R300: at a member that relays on no axis, a whole set of the down phase brings the result to the member alone. -/
theorem takeCinch_result (hdown : ct = 2 ∨ ct = 6)
    (hvals : ct < 5 → (cinchVals k.wire.toNat x.count x.din (setStream k)).isSome = true) : takeCinch tick c x p s =
      let y := joined tick (5 ≤ ct) p (reached p x) s
      let z := resultTaken (5 ≤ ct) k y
      if 5 ≤ ct then voteFinish z (putCtx z (putCtx y s)) else cinchFinish c z (putCtx z (putCtx y s)) := by
  rw [takeCinch_joins hcrc hclean hct hsig hx hk fun _ => hvals]
  extract_lets y z
  have hwait : (y.crec (5 ≤ ct)).downDone = false := by simpa [y] using hopen
  rw [if_neg (by simp [hwhole]), if_pos (by simpa using hdown), takeDownSet_ends hwait (by rw [relayAxes_putCtx, hrelay])]
  simp only [decide_eq_true_eq]
  rfl

/-- 11:R300: a whole result that can be read ends the member's part. -/
theorem takeCinch_ends (hdown : ct = 2) (hvals : (cinchVals k.wire.toNat x.count x.din (setStream k)).isSome = true) :
    findCtx x.idx (takeCinch tick c x p s) = none := by
  rw [takeCinch_result hcrc hclean hct hsig hx hk hwhole hopen hrelay (.inl hdown) fun _ => hvals]
  extract_lets y z
  have hz : z.idx = x.idx := by simp [z, y, resultTaken]
  rw [if_neg (by omega), ← hz]
  exact cinchFinish_unbound ..

/-- 11:R306: a whole vote gives its agreement. -/
theorem takeCinch_agrees (hdown : ct = 6) (hc : findComm x.handle s = some c) (hplan : x.plan = []) (hout : x.outq ≠ []) :
    ∃ y, findCtx x.idx (takeCinch tick c x p s) = some y ∧ y.agreed = true := by
  rw [takeCinch_result hcrc hclean hct hsig hx hk hwhole hopen hrelay (.inr hdown) (by omega)]
  extract_lets y z
  obtain ⟨hidx, hhandle, hz, hqueue⟩ : z.idx = x.idx ∧ z.handle = x.handle ∧ z.plan = x.plan ∧ z.outq = x.outq := by
    simp [z, y, resultTaken, joined, reached]
  have hput : findCtx x.idx (putCtx z (putCtx y s)) = some z := findCtx_putCtx (findCtx_putCtx hx (by simp [y])) hidx
  rw [if_pos (by omega)]
  refine ⟨{ z with agreed := true }, ?_, rfl⟩
  rw [← hidx] at hput ⊢
  exact voteFinish_agrees hput (by rw [hhandle]; exact hc) (hz.trans hplan) (hqueue ▸ hout)

end

/-! ## The rows -/

/-- The rows of sets and of re-requests, by their CTYPE (11 Table 11-2). -/
def cinchRows (p : Packet) : List (Nat × Instr) :=
  [(1, .cinchUp p), (2, .cinchDown p), (4, .cinchRereq p), (5, .voteUp p), (6, .voteDown p)]

theorem cinch_exec {p : Packet} {ct : Nat} {row : Instr} (hrow : (ct, row) ∈ cinchRows p) :
    Machine.exec row = fun s => live s (cinchRow p ct) := by
  simp only [cinchRows, List.mem_cons, Prod.mk.injEq, List.not_mem_nil, or_false] at hrow
  rcases hrow with ⟨rfl, rfl⟩ | ⟨rfl, rfl⟩ | ⟨rfl, rfl⟩ | ⟨rfl, rfl⟩ | ⟨rfl, rfl⟩ <;> rfl

section
variable {p : Packet} {x : Ctx} {c : Comm} {ct : Nat} {row : Instr} {s : State} (h : s.Runs) (hr : routerRuns s = true)
  (hkind : p.kind = 2) (hct : payField p 10 1 % 16 = ct)
include h hr hkind hct

theorem cinch_runs (hrow : (ct, row) ∈ cinchRows p) : Machine.exec row s = .next (cinchAct (now s) p s) := by
  rw [cinch_exec hrow]
  refine (live_runs h).trans ?_
  rw [cinchRow, onlyIf_true (by simp [hr, hkind, hct])]

/-- A row of sets has its bound collective take the packet. -/
theorem cinch_takes (hserves : s.Serves p x c) (hrow : (ct, row) ∈
    ([(1, .cinchUp p), (2, .cinchDown p), (5, .voteUp p), (6, .voteDown p)] : List (Nat × Instr))) :
    Machine.exec row s = .next (takeCinch (now s) c x p s) := by
  obtain ⟨hcoll, hcomm, -⟩ := hserves
  rw [cinch_runs h hr hkind hct (by simp only [cinchRows, List.mem_cons] at hrow ⊢; tauto)]
  simp only [cinchAct, hcoll, hcomm, hct]
  simp only [List.mem_cons, Prod.mk.injEq, List.not_mem_nil, or_false] at hrow
  rcases hrow with ⟨rfl, -⟩ | ⟨rfl, -⟩ | ⟨rfl, -⟩ | ⟨rfl, -⟩ <;> rfl

end

/-- 10:R281, 11:R308: a packet of no collective that is bound, saved or to start changes nothing. -/
theorem cinchAct_nowhere {tick : Nat} {p : Packet} {s : State} (hcoll : findColl (chunkHandle p) (chunkSeq p) s = none)
    (hsaved : s.saved = []) (hcomm : findComm (chunkHandle p) s = none) : cinchAct tick p s = s := by
  simp [cinchAct, hcoll, holdEarly, hsaved, hcomm]

/-- 11:R304: a re-request of a bound collective whose check holds is answered. -/
theorem cinchAct_answers {tick : Nat} {p : Packet} {x : Ctx} {c : Comm} {s : State}
    (hcoll : findColl (chunkHandle p) (chunkSeq p) s = some x) (hc : findComm x.handle s = some c)
    (hct : payField p 10 1 % 16 = 4) (hcrc : crcOk p = true) : cinchAct tick p s = answerRereq x p s := by
  simp [cinchAct, hcoll, hc, hct, hcrc]

/-! ## Packets that leave -/

/-- 11 Table 11-1: CTYPE lies in the low half of byte 10, behind the axis. -/
theorem ctypeByte_low (ctype : BitVec 4) (axis : BitVec 2) : (BitVec.ofNat 8 (ctype.toNat + 16 * axis.toNat)).toNat % 16 = ctype.toNat := by
  rw [BitVec.toNat_ofNat]
  omega

/-- A CINCH packet of a CTYPE to a node, with its data behind 24 bytes of header, has joined the injection queue (11 Table 11-1). -/
def CinchLeaves (ctype : BitVec 4) (dest : Coord) (data : Bytes) (s t : State) : Prop :=
  ∃ q, t.rt.inject = s.rt.inject ++ [(none, q)] ∧ q.kind = 2 ∧ q.dest = dest ∧ q.mcast = false ∧
    payField q 10 1 % 16 = ctype.toNat ∧ q.payload.drop 24 = data

theorem cinchPacket_leaves (u : State) (x : Ctx) (ctype : BitVec 4) (axis : BitVec 2) (wire : Byte) (idx cnt : Nat) (ovf : Bool)
    (lag : BitVec 18 × W32) (data : Bytes) (dest : Coord) (s : State) :
    CinchLeaves ctype dest data s (sendRaw none (cinchPacket u x ctype axis wire idx cnt ovf lag data dest) s) :=
  ⟨_, rfl, rfl, rfl, rfl, ctypeByte_low ctype axis, rfl⟩

/-- A set whose stream fits one fragment goes as one packet (11:R302). -/
theorem sendSet_one {x : Ctx} {k : CinchSent} (h : k.stream.length ≤ 40) (dest : Coord) (s : State) :
    sendSet x k none dest s = sendRaw none (cinchPacket s x k.ctype k.axis k.wire 0 1 k.ovf k.lag k.stream dest) s := by
  have hone : fragments k.stream = [k.stream] := by
    have hcount : max 1 (ceilDiv k.stream.length 40) = 1 := by
      rw [ceilDiv, if_neg (by decide)]
      omega
    simp [fragments, hcount, List.take_of_length_le h]
  rw [sendSet, hone]
  rfl

/-- 11:R304: a re-request of the one set that was sent to its sender on its axis sends it again. -/
theorem answerRereq_one {x : Ctx} {k : CinchSent} {p : Packet} {s : State} (hsent : x.cinch.sent = [k]) (hvotes : x.vote.sent = [])
    (haxis : k.axis.toNat = payField p 10 1 / 16 % 4) (hrcv : p.src ∈ k.rcvs) :
    answerRereq x p s = sendSet x k none p.src (putCtx { x with degraded := true } s) := by
  simp [answerRereq, hsent, hvotes, haxis, hrcv]

/-! ## Sets that are missing -/

/-- A set of which nothing has come, as a REREQ asks for it (11:R304). -/
def missingSet (ctype : BitVec 4) (axis : BitVec 2) (sender : Coord) (tick : Nat) : CinchSet :=
  { ctype := ctype, axis := axis, src := sender, frags := [], count := 0, wire := 0, lag := (0, 0), ovf := false, tick := 0, copies := 0
    bad := false, asked := some tick }

/-- The context that has asked for a set. -/
def asking (vote : Bool) (k : CinchSet) (x : Ctx) : Ctx :=
  { x.setRec vote (putSet k (x.crec vote)) with retried := true, degraded := true }

theorem asking_idx (vote : Bool) (k : CinchSet) (x : Ctx) : (asking vote k x).idx = x.idx := setRec_idx ..

section
variable {i : BitVec 9} {ctype : BitVec 4} {axis : BitVec 2} {sender : Coord} {x : Ctx} {c : Comm} {s : State} (h : s.Runs)
  (hx : findCtx i s = some x) (hc : findComm x.handle s = some c) {vote down : Bool}
  (hvote : vote = (decide (ctype = 5) || decide (ctype = 6))) (hdown : down = (decide (ctype = 2) || decide (ctype = 6)))
  (hnone : (x.crec vote).sets = [])
include h hx hc hvote hdown hnone

/-- 11:R304: a set of which nothing has come is asked for when it is expected and the timeout since the start has passed. -/
theorem cinchSetTimeout_missing : Machine.exec (.cinchSetTimeout i ctype axis sender) s =
    .next (if (ctype = 1 || down || vote) && setExpected s c x vote down axis.toNat sender &&
        decide (x.startTick + x.chunkTimeout.toNat ≤ now s) then
      sendRaw none (cinchPacket s x 4 axis 0 0 1 false (0x3FFFF, 0) [] sender)
        (putCtx (asking vote (missingSet ctype axis sender (now s)) x) s) else s) := by
  subst hvote hdown
  refine Eq.trans (live_runs (f := fun s => _) h) (congrArg _ ?_)
  simp only [hx, hc, hnone, List.find?_nil, Option.bind_none, Option.getD_none, Nat.max_zero, Bool.and_true]
  rfl

theorem cinchSetTimeout_asks (hkind : ctype = 1 ∨ ctype = 2 ∨ ctype = 5 ∨ ctype = 6)
    (hexp : setExpected s c x vote down axis.toNat sender = true) (hpassed : x.startTick + x.chunkTimeout.toNat ≤ now s) :
    Machine.exec (.cinchSetTimeout i ctype axis sender) s =
      .next (sendRaw none (cinchPacket s x 4 axis 0 0 1 false (0x3FFFF, 0) [] sender)
        (putCtx (asking vote (missingSet ctype axis sender (now s)) x) s)) := by
  rw [cinchSetTimeout_missing h hx hc hvote hdown hnone, hexp]
  refine congrArg _ (if_pos ?_)
  rcases hkind with rfl | rfl | rfl | rfl <;> simp [hvote, hdown, hpassed]

theorem cinchSetTimeout_waits (hwait : setExpected s c x vote down axis.toNat sender = false ∨
    now s < x.startTick + x.chunkTimeout.toNat) : Machine.exec (.cinchSetTimeout i ctype axis sender) s = .next s := by
  rw [cinchSetTimeout_missing h hx hc hvote hdown hnone]
  refine congrArg _ (if_neg ?_)
  rcases hwait with hnot | hearly
  · simp [hnot]
  · simp [hearly]

end

/-- Settles O38: a packet by its check, its signature and what its set still misses; a re-request and a timeout by the set that they
name. -/
theorem cinchPackets : Obligations.CinchPackets := by
  unfold Obligations.CinchPackets
  refine ⟨fun p x c ct row s h hr hkind hct hserves hrow => ?_,
    fun p x c k s h hr hkind hct hserves hcrc hsent hvotes haxis hrcv hlen => ?_,
    fun p ct row s h hkind hct hrow hcoll hsaved hcomm => ?_, fun i ctype axis sender x c s h hx hc => ?_⟩
  · intro vote k piece
    rw [cinch_takes h hr hkind hct hserves hrow]
    have hx : findCtx x.idx s = some x := findCtx_of_serves hserves
    obtain ⟨-, hc, -⟩ := hserves
    refine ⟨fun hcrc hclean hsig => ⟨_, rfl, takeCinch_mismatch hcrc hclean hsig hc⟩, fun hcrc hclean hsig hfrags hcount => ?_,
      fun hfail hbad => ⟨fun hfew => ?_, fun hmany => ⟨_, rfl, ?_⟩⟩, fun hcrc hclean hsig hfrags hcount hidx hdown hrelay => ?_⟩
    · obtain ⟨hpieces, htotal, -, hsrc⟩ := fragSet_first hfrags
      have hpart : setWhole (fragSet (now s) vote p (reached p x)) = false := by simp [setWhole, hpieces, htotal, hcount]
      rw [takeCinch_part hcrc hclean hct hsig hx hpart]
      refine ⟨_, joined (now s) vote p (reached p x) s, _, rfl, findCtx_putCtx hx (by simp), ?_, hsrc, hpieces,
        by rw [htotal, hcount]; rfl⟩
      rw [joined_crec]
      exact putSet_mem ..
    · rw [takeCinch_bad hct hfail, badFrag_counts hbad hfew]
      refine ⟨_, _, failedSet k, rfl, findCtx_putCtx hx (by simp), ?_, setOf_src .., rfl, rfl⟩
      rw [setRec_crec]
      exact putSet_mem ..
    · rw [takeCinch_bad hct hfail]
      exact badFrag_ends (x := reached p x) hbad hmany hc
    · obtain ⟨hpieces, htotal, hwire, -⟩ := fragSet_first hfrags
      rw [hidx] at hpieces
      rw [hcount] at htotal
      obtain ⟨hwhole, hstream⟩ := single_whole hpieces htotal
      have hform : (fragSet (now s) vote p (reached p x)).wire.toNat = payField p 11 1 := by
        rw [hwire, BitVec.toNat_ofNat, payField_byte]
      refine ⟨fun htwo hvals => ⟨_, rfl, ?_⟩, fun hsix hplan hout => ?_⟩
      · exact takeCinch_ends hcrc hclean hct hsig hx rfl hwhole hdown hrelay htwo (by rw [hform, hstream]; exact hvals)
      · obtain ⟨y, hy⟩ := takeCinch_agrees (tick := now s) hcrc hclean hct hsig hx rfl hwhole hdown hrelay hsix hc hplan hout
        exact ⟨_, y, rfl, hy⟩
  · rw [cinch_runs h hr hkind hct (by simp [cinchRows])]
    obtain ⟨hcoll, hc, -⟩ := hserves
    rw [cinchAct_answers hcoll hc hct hcrc, answerRereq_one hsent hvotes haxis hrcv, sendSet_one hlen]
    obtain ⟨q, hleaves⟩ := cinchPacket_leaves (putCtx { x with degraded := true } s) x k.ctype k.axis k.wire 0 1 k.ovf k.lag k.stream
      p.src (putCtx { x with degraded := true } s)
    exact ⟨_, q, rfl, hleaves⟩
  · rw [cinch_exec hrow]
    refine (live_runs h).trans (congrArg _ ?_)
    rw [cinchRow, onlyIf, cinchAct_nowhere hcoll hsaved hcomm, ite_self]
  · intro vote down hnone hct
    refine ⟨fun hexp hpassed => ?_, cinchSetTimeout_waits h hx hc rfl rfl hnone⟩
    have hidx : (asking vote (missingSet ctype axis sender (now s)) x).idx = i :=
      (asking_idx ..).trans (by simpa using List.find?_some hx)
    obtain ⟨q, hinject, hkind, hdest, -, hrereq, -⟩ := cinchPacket_leaves s x 4 axis 0 0 1 false (0x3FFFF, 0) [] sender
      (putCtx (asking vote (missingSet ctype axis sender (now s)) x) s)
    exact ⟨_, _, q, cinchSetTimeout_asks h hx hc rfl rfl hnone hct hexp hpassed, findCtx_putCtx hx hidx, rfl, hinject, hkind,
      hdest, hrereq⟩

end Sys2Proof.Proofs

/-! The machine over any command (95 Commands; 03 Fuses; 18:R496): a step runs the front command, no command stops while operation is
defined, and what every command keeps; O1, O2, O57 to O60 from them. -/

namespace Sys2Proof.Proofs

open Sys2Proof Sys2Proof.Machine Sys2Proof.Laws

/-! ## A step -/

theorem step_front {c : Instr} {rest : List Instr} {s : State} (h : s.pending = c :: rest) :
    Machine.step s = Machine.exec c { s with pending := rest } := by
  unfold Machine.step
  rw [h]

theorem step_idle {s : State} (h : s.pending = []) : Machine.step s = .next s := by
  unfold Machine.step
  rw [h]

/-- Settles O1: by the front of the queue. -/
theorem stepRunsFrontCommand : Obligations.StepRunsFrontCommand := by
  unfold Obligations.StepRunsFrontCommand
  exact ⟨fun _ _ _ h => step_front h, fun _ h => step_idle h⟩

/-! ## Every command answers -/

/-- The guard answers a next state while operation is defined. -/
theorem guarded_next {k : Bool} {s : State} {o : Out} (h : Guarded k s o) (hu : s.undef = false) : ∃ t, o = .next t := by
  obtain ⟨f, rfl⟩ := h
  unfold liveKeeper
  rw [hu]
  split
  · contradiction
  · split <;> exact ⟨_, rfl⟩

theorem testPort_next (s : State) (f : State → State) : ∃ t, testPort s f = .next t := by
  by_cases hoff : s.kp.power = .off
  · exact ⟨s, testPort_off hoff⟩
  · exact ⟨f s, testPort_on hoff⟩

/-- The two resets act whatever the state is. -/
theorem reset_next {c : Instr} (s : State) (hc : resetRow c = true) : ∃ t, Machine.exec c s = .next t := by
  cases c
  case coldReset src saddr ok =>
    cases src with
    | pwrgoodRise => exact ⟨_, coldReset_pwrgoodRise saddr ok s⟩
    | crstLow =>
      cases hp : s.pins.pwrgood with
      | true => exact ⟨_, coldReset_crstLow hp saddr ok⟩
      | false => exact ⟨_, coldReset_crstLow_unpowered hp saddr ok⟩
  case powerLoss => exact ⟨_, rfl⟩
  all_goals cases hc

/-- Settles O2: by the guard that a command goes through, the test port's guard, or the two resets. -/
theorem noCommandStops : Obligations.NoCommandStops := by
  unfold Obligations.NoCommandStops
  intro c s hu
  cases hr : resetRow c with
  | true => exact reset_next s hr
  | false =>
    cases ht : testRow c with
    | true =>
      obtain ⟨f, hf⟩ := exec_test c s ht
      rw [hf]
      exact testPort_next s f
    | false => exact guarded_next (exec_guarded c s hr ht) hu

/-! ## What every command keeps -/

/-- Settles O57: from what every command keeps. That no command touches the queue is the model's choice (log 81). -/
theorem commandsKeep : Obligations.CommandsKeep := by
  unfold Obligations.CommandsKeep
  intro c s t he
  have hk := exec_keeps c s t he
  exact ⟨hk.pending, hk.board, hk.fuses⟩

/-- The shape says nothing of the queue of commands. -/
theorem sound_pending {s : State} (h : s.Sound) (l : List Instr) : State.Sound { s with pending := l } := by
  obtain ⟨pages, ports, port, maps, apertures, rates, sensors, thread, saved, line, bus, slots, modules, staging, flash⟩ := h
  exact ⟨pages, ports, port, maps, apertures, rates, sensors, thread, saved, line, bus, slots, modules, staging, flash⟩

/-- Settles O59: an idle step changes nothing, and the front command keeps the shape. -/
theorem stepKeepsSound : Obligations.StepKeepsSound := by
  unfold Obligations.StepKeepsSound
  intro s t hs he
  cases hq : s.pending with
  | nil =>
    rw [step_idle hq] at he
    cases he
    exact hs
  | cons c rest =>
    rw [step_front hq] at he
    exact (exec_keeps c _ t he).sound (sound_pending hs rest)

/-- Settles O60: field by field, by evaluation of the reset state. -/
theorem resetSound : Obligations.ResetSound := by
  unfold Obligations.ResetSound
  exact {
    pages := by decide
    ports := by decide
    port := fun p hp => by
      obtain rfl := List.eq_of_mem_replicate hp
      decide
    maps := by decide
    apertures := by decide
    rates := by decide
    sensors := by decide
    thread := by decide
    savedThread := by decide
    line := by decide
    busForm := rfl
    slotForm := rfl
    moduleForm := rfl
    stagingForm := rfl
    flashForm := rfl }

/-- Settles O58: each of the commands that wait finds the node in OFF, where only the two resets act. -/
theorem offStaysOff : Obligations.OffStaysOff := by
  unfold Obligations.OffStaysOff
  intro s t hu hoff hwait he
  have ht : t = { s with pending := s.pending.tail } := by
    cases hq : s.pending with
    | nil =>
      rw [step_idle hq] at he
      cases he
      rw [List.tail_nil, ← hq]
    | cons c rest =>
      have hc : resetRow c = false := hwait c (by simp [hq])
      rw [step_front hq, exec_off (by exact hoff) hc (.inl (by exact hu))] at he
      cases he
      rfl
  refine ⟨ht, fun c hc => hwait c ?_⟩
  rw [ht] at hc
  exact List.mem_of_mem_tail hc

end Sys2Proof.Proofs

/-! The keeper's registers and timers (19:R531 to R535; 02:R36, R43; 03:R74): the alarm and its event, the holds of heralds, writes of the
alarm, of the power policy, of WAKE, of RESET_CTL and of RECOVERY_GO; O5 to O8 from them. -/

namespace Sys2Proof.Proofs

open Sys2Proof Sys2Proof.Machine Sys2Proof.Laws

/-- A write over a path that is served acts (02:R31). -/
theorem path_runs {path : Path} {s : State} (h : s.PathRuns path) (f : State → State) :
    liveKeeper (path = .sideband) s f = .next (f s) := by
  obtain ⟨hdef, hon, hpath⟩ := h
  exact liveKeeper_runs hdef hon (hpath.imp_left fun hp => by simp [hp])

/-! ## The alarm and the holds -/

/-- A raised event waits at its source, with the time at which it was raised, and changes beside the events only the error summary
(04:R116, R118). -/
theorem queueEvent_waits (source code : Nat) (detail : BitVec 256) (s : State) : ∃ l err,
    queueEvent source code detail s = { s with evs := l, err := err } ∧ ∃ r ∈ l, r.source = BitVec.ofNat 16 source ∧
      ∃ e ∈ r.held ++ r.last.toList, e.code = BitVec.ofNat 16 code ∧ e.time = s.kp.timestamp := by
  unfold queueEvent
  extract_lets src r e r1 full r2 s1
  have hsource : r.source = src := by
    cases hf : s.evs.find? (fun x => x.source = src) with
    | none => simp [r, hf]
    | some x => simpa [r, hf] using List.find?_some hf
  have hevent : r2 ∈ s1.evs ∧ r2.source = src ∧ ∃ e ∈ r2.held ++ r2.last.toList, e.code = BitVec.ofNat 16 code ∧
      e.time = s.kp.timestamp := by
    refine ⟨List.mem_cons_self, ?_, e, ?_, rfl, rfl⟩
    · cases hfull : full <;> simpa [r2, r1, hfull] using hsource
    · cases hfull : full <;> simp [r2, hfull]
  split
  · exact ⟨s1.evs, (setErr errOverrun s1).err, rfl, r2, hevent⟩
  · exact ⟨s1.evs, s.err, rfl, r2, hevent⟩

/-- Of two causes in one tick the lower code stays (02 Edges). -/
theorem wakeSource_lower {s : State} (hoff : s.kp.power ≠ .off) (hp : s.kp.power ≠ .active) {c cause : BitVec 4}
    (ht : s.kp.trans = .wake c (now s)) (hcause : cause < c) : wakeSource cause s =
      { s with kp := { s.kp with idleSince := now s, trans := .wake cause (now s), lastWake := cause } } := by
  unfold wakeSource
  extract_lets k
  split
  · exact absurd ‹_› hp
  · exact absurd ‹_› hoff
  · next hwake _ _ =>
    rw [ht] at hwake
    cases hwake
    exact if_pos (by simpa using hcause)
  · next hnot => exact absurd ht (hnot _ _)

/-- Outside ACTIVE an event waits for the wake that it starts, and one that raises it with a lower cause code names the wake
(02:R36, Table 2-4 and Edges). -/
theorem raiseEvent_wakes {s : State} (hoff : s.kp.power ≠ .off) (hp : s.kp.power ≠ .active) (ht : ∀ c k, s.kp.trans ≠ .wake c k)
    (source code : Nat) (detail : BitVec 256) {cause : BitVec 4} (hcause : cause < 8) : ∃ l err,
    wakeSource cause (raiseEvent source code detail s) =
      { s with kp := { s.kp with idleSince := now s, trans := .wake cause (now s), lastWake := cause }, evs := l, err := err } ∧
    ∃ r ∈ l, r.source = BitVec.ofNat 16 source ∧
      ∃ e ∈ r.held ++ r.last.toList, e.code = BitVec.ofNat 16 code ∧ e.time = s.kp.timestamp := by
  obtain ⟨l, err, hqueue, hevent⟩ := queueEvent_waits source code detail s
  refine ⟨l, err, ?_, hevent⟩
  have hwake : wakeSource 8 (queueEvent source code detail s) =
      { s with kp := { s.kp with idleSince := now s, trans := .wake 8 (now s), lastWake := 8 }, evs := l, err := err } := by
    rw [hqueue, wakeSource_sleeping (by exact hoff) (by exact hp) (by exact ht)]
    rfl
  rw [raiseEvent, hwake, flushEvents, if_neg (by exact hp), wakeSource_lower (by exact hoff) (by exact hp) rfl hcause]
  rfl

/-- 19:R533: an alarm that is due fires. -/
theorem alarmFire_due {s : State} (h : s.KeeperRuns) (harmed : s.kp.armed = true) (hdue : s.kp.alarm.toNat ≤ now s) :
    Machine.exec .alarmFire s = .next (wakeSource 6 (raiseEvent 0x4000 0x0401 (alarmDetail s)
      { s with kp := { s.kp with armed := false } })) := by
  obtain ⟨hdef, hon⟩ := h
  refine (liveKeeper_runs hdef hon (.inl rfl)).trans ?_
  rw [onlyIf_true (by simp [harmed, hdue])]

theorem alarmFire_rests {s : State} (h : s.KeeperRuns) (hnot : s.kp.armed = false ∨ now s < s.kp.alarm.toNat) :
    Machine.exec .alarmFire s = .next s := by
  obtain ⟨hdef, hon⟩ := h
  refine (liveKeeper_runs hdef hon (.inl rfl)).trans ?_
  rw [onlyIf_false]
  rcases hnot with hoff | hearly
  · simp [hoff]
  · simp [hearly]

/-- Settles O5: the alarm by its event and its wake, the holds by their end, the writes by what they set. That the event waits for the
wake is 02 Table 2-4, and which of two causes stays 02 Edges. -/
theorem alarmAndHolds : Obligations.AlarmAndHolds := by
  unfold Obligations.AlarmAndHolds
  refine ⟨⟨fun s h harmed hdue hp ht => ?_, fun s h hnot => alarmFire_rests h hnot, fun s h => ?_⟩, fun path v w s h => ?_⟩
  · obtain ⟨l, err, hstate, r, hr, hsource, e, he, hcode, htime⟩ :=
      raiseEvent_wakes (s := { s with kp := { s.kp with armed := false } }) (by exact h.2) (by exact hp) (by exact ht)
        0x4000 0x0401 (alarmDetail s) (cause := 6) (by decide)
    refine ⟨_, alarmFire_due h harmed hdue, ?_⟩
    rw [hstate]
    exact ⟨rfl, ⟨r, hr, hsource, e, he, hcode, htime⟩, rfl⟩
  · obtain ⟨hdef, hon⟩ := h
    refine ⟨{ s with kp := { s.kp with holds := s.kp.holds.filter (holdLive s) } }, ?_, fun hold => ?_, rfl⟩
    · unfold Machine.exec execHeraldHoldExpiry
      exact liveKeeper_runs hdef hon (.inl rfl)
    · simp [List.mem_filter, holdLive]
  · refine ⟨path_runs h _, path_runs h _, fun lo hlo => ?_, fun hnone => ?_, path_runs h _⟩
    · refine (path_runs h _).trans ?_
      simp [alarmWrite, hlo]
    · refine (path_runs h _).trans ?_
      simp [alarmWrite, hnone]

/-! ## The power policy -/

/-- The timers' ranges (02 Table 2-3) as the register takes them. -/
theorem timerWrite_zero_or {f : TimerField} (hf : f ≠ .floor) {v : W32} {lo hi : Nat}
    (hok : timerOk f v.toNat = (decide (v.toNat = 0) || (decide (lo ≤ v.toNat) && decide (v.toNat ≤ hi)))) (s : State) :
    timerWrite f v s = if v = 0 ∨ (lo ≤ v.toNat ∧ v.toNat ≤ hi) then setTimer f v s else s := by
  have hzero : v.toNat = 0 ↔ v = 0 := by rw [BitVec.toNat_eq]; rfl
  simp [timerWrite, hf, hok, hzero]

/-- FLOOR takes its two bits, whatever the reserved ones are (00:R6). -/
theorem timerWrite_floor (v : W32) (s : State) : timerWrite .floor v s = setTimer .floor v s := by
  have hmask : (v &&& 3).toNat = v.toNat % 4 := by
    rw [BitVec.toNat_and]
    exact Nat.and_two_pow_sub_one_eq_mod v.toNat 2
  have hbits : (v &&& 3).setWidth 2 = v.setWidth 2 := by
    refine BitVec.eq_of_toNat_eq ?_
    rw [BitVec.toNat_setWidth, BitVec.toNat_setWidth, hmask]
    omega
  have hok : timerOk .floor (v &&& 3).toNat = true := by
    rw [hmask]
    exact decide_eq_true (by omega)
  simp only [timerWrite, if_true, hok, setTimer, Policy.put, hbits]

/-- Settles O6: each field by its range (02 Table 2-3). -/
theorem timerRegisterWrites : Obligations.TimerRegisterWrites := by
  unfold Obligations.TimerRegisterWrites
  intro path v s h put
  refine ⟨?_, ?_, ?_, ?_, ?_⟩ <;> refine (path_runs h _).trans (congrArg _ ?_)
  · exact timerWrite_zero_or (by decide) rfl s
  · exact timerWrite_zero_or (by decide) rfl s
  · exact timerWrite_zero_or (by decide) rfl s
  · simp only [timerWrite, timerOk, decide_eq_true_eq, reduceCtorEq, if_false]
    rfl
  · exact timerWrite_floor v s

/-! ## WAKE, RESET_CTL and RECOVERY_GO -/

/-- Settles O7: GO is a wake source of its path's cause. -/
theorem wakeGoStartsWake : Obligations.WakeGoStartsWake := by
  unfold Obligations.WakeGoStartsWake
  intro path v s h
  have hgo (hv : v.getLsbD 0 = true) : Machine.exec (.wakeGo path v) s =
      .next (wakeSource (if path = .sideband then 5 else 7) s) := (path_runs h _).trans (congrArg _ (if_pos hv))
  refine ⟨fun hv hp ht => ?_, fun hv hp => ?_, fun hv => ?_⟩
  · rw [hgo hv, wakeSource_sleeping h.2.1 hp ht]
  · rw [hgo hv, wakeSource_active hp]
    rfl
  · exact (path_runs h _).trans (congrArg _ (if_neg (by rw [hv]; exact Bool.false_ne_true)))

/-- Two requests for a warm reset are one (18 Edges). -/
theorem askReset_none {s : State} (h : s.tree.resetReq = none) (src : WarmSource) :
    askReset src s = { s with tree := { s.tree with resetReq := some (src, now s) } } := if_neg (by simp [h])

/-- The image that RECOVERY_GO names: the staged bytes, by offset and length (03:R74). -/
def recoveryImage (v : W32) (s : State) : Nat → Nat → Bytes := fun o k => slice o k (stgRead s 0 (natBits 0 24 v.toNat))

section
variable {v : W32} {s : State} (hphase : s.boot.phase = phRecovery)
include hphase

theorem recoveryWrite_fails (h : authImage s (recoveryImage v s) = none) : recoveryWrite v s = setPhase phRecovery 0x02 s := by
  unfold recoveryImage at h
  unfold recoveryWrite
  rw [if_neg (by simp [hphase])]
  dsimp only
  rw [h]

/-- 03:R74: an image that passes goes to flash, and a warm reset is asked for. -/
theorem recoveryWrite_passes (h : authImage s (recoveryImage v s) ≠ none) (hreq : s.tree.resetReq = none) : ∃ f,
    recoveryWrite v s = { s with flash := f, tree := { s.tree with resetReq := some (.recovery, now s) } } := by
  obtain ⟨r, hr⟩ := Option.ne_none_iff_exists'.1 h
  unfold recoveryImage at hr
  unfold recoveryWrite
  rw [if_neg (by simp [hphase])]
  dsimp only
  rw [hr]
  dsimp only
  obtain ⟨f, hf⟩ := bootAppend_frame 0 0 (bootState s).2.2 0x04 (flashWrite (slotBase false)
    (List.take 8388608 (stgRead s 0 (natBits 0 24 v.toNat))) (flashErase (slotBase false) 8388608 s))
  exact ⟨f, by rw [hf, askReset_none (by exact hreq)]; rfl⟩

end

/-- Settles O8: RESET_CTL by its key, RECOVERY_GO by the phase and the image's checks. -/
theorem resetAndRecoveryWrites : Obligations.ResetAndRecoveryWrites := by
  unfold Obligations.ResetAndRecoveryWrites
  intro path v s h
  refine ⟨fun hkey hreq => ?_, fun hkey => ?_, fun hphase => ?_, fun hphase hfail => ?_, fun hphase hreq hpass => ?_⟩
  · exact (path_runs h _).trans (congrArg _ ((if_pos hkey).trans (askReset_none hreq _)))
  · exact (path_runs h _).trans (congrArg _ (if_neg hkey))
  · exact (path_runs h _).trans (congrArg _ (if_pos hphase))
  · exact (path_runs h _).trans (congrArg _ (recoveryWrite_fails hphase hfail))
  · obtain ⟨f, hf⟩ := recoveryWrite_passes hphase hpass hreq
    exact ⟨_, (path_runs h _).trans (congrArg _ hf), rfl, rfl⟩

end Sys2Proof.Proofs

/-! The sideband (02:R51; 18:R509, R510; 19:R540, R546) and PCI Express configuration requests (18:R502; 04:R90, R91; 15:R409; 02:R39):
which words need the engine, what a write reaches, and O15 from them. That configuration space reads what was written last, and the
controls of the payload size, of L1 and of MSI-X, are PRESUMED (log 7, log 8). -/

namespace Sys2Proof.Proofs

open Sys2Proof Sys2Proof.Machine Sys2Proof.Laws

/-! ## The sideband -/

/-- A read of one word whose block needs no wake is answered with that word (18:R509, 19:R546). -/
theorem sidebandRead_answers {s : State} (h : s.KeeperRuns) {o : W16} (hno : sbNoWake o.toNat = true) {w : W32}
    (hword : sbWord o.toNat s = (w, s)) : Machine.exec (.sidebandRead o 1) s =
      .next { s with kp := { s.kp with sbBusy := false }, out := .sideband [w] :: s.out } := by
  obtain ⟨hdef, hon⟩ := h
  refine (liveKeeper_runs hdef hon (.inl rfl)).trans (congrArg _ ?_)
  have hwakes : sbWakes o.toNat 1 = false := by
    have hlt : o.toNat % 0x10000 = o.toNat := Nat.mod_eq_of_lt o.isLt
    simp [sbWakes, hlt, hno]
  rw [sbRead, hwakes, Bool.and_false, if_neg Bool.false_ne_true]
  simp only [sbAnswer, sbWords, hword]
  rfl

/-- 19:R546: words at reserved offsets read zero. -/
theorem sbWord_reserved {o : Nat} (h : 0x9000 ≤ o) (s : State) : sbWord o s = (0, s) := by
  have hnone : sbOffset o = none := by
    rw [sbOffset, if_neg (by omega), if_neg (by omega), if_neg (by omega), if_neg (by omega)]
  unfold sbWord
  rw [hnone, ite_self]

/-- BOOT_STATUS answers in every boot phase (19 Table 19-6). -/
theorem sbWord_bootStatus (s : State) : sbWord 0x0040 s = (regBoot s, s) := by
  have hblock : sbOffset 0x0040 = some 0x1040 := rfl
  unfold sbWord
  rw [hblock, if_neg (by decide)]
  dsimp only
  rw [if_pos (by simp)]
  rfl

/-- 02:R51: a word of a block that needs the engine wakes it, with cause 0x5, and waits. -/
theorem sidebandRead_wakes {s : State} (h : s.KeeperRuns) (hsleep : asleep s = true) (ht : ∀ c k, s.kp.trans ≠ .wake c k) {o : W16}
    (hwake : sbNoWake o.toNat = false) : Machine.exec (.sidebandRead o 1) s = .next { s with
      kp := { s.kp with sbBusy := true, idleSince := now s, trans := .wake 5 (now s), lastWake := 5 }
      host := { s.host with waits := s.host.waits ++ [.sbRead o 1] } } := by
  obtain ⟨hdef, hon⟩ := h
  refine (liveKeeper_runs hdef hon (.inl rfl)).trans (congrArg _ ?_)
  have hwakes : sbWakes o.toNat 1 = true := by
    have hlt : o.toNat % 0x10000 = o.toNat := Nat.mod_eq_of_lt o.isLt
    simp [sbWakes, hlt, hwake]
  rw [sbRead, hsleep, hwakes, Bool.and_self, if_pos rfl, wakeSource_asleep (by exact hsleep) (by exact ht)]
  rfl

/-- 19:R540: a write to any block but the keeper's is discarded. -/
theorem sidebandWrite_discarded {s : State} (h : s.KeeperRuns) {o : W16} (ho : 0x1000 ≤ o.toNat) (v : W32) :
    Machine.exec (.sidebandWrite o [v]) s = .next s := by
  obtain ⟨hdef, hon⟩ := h
  refine (liveKeeper_runs hdef hon (.inl rfl)).trans (congrArg _ ?_)
  have hout : ¬ o.toNat < 0x1000 := by omega
  simp [sbWriteAll, sbWrite, hout]

/-! ## Configuration requests -/

section
variable {s : State} (h : s.Runs)
include h

/-- 18:R502: configuration requests are answered while the port is not held in reset. -/
theorem configRequest_inReset (hreset : s.host.inReset = true) (req : CfgReq) :
    Machine.exec (.pcieConfigRequest req) s = .next s := by
  refine (live_runs h).trans (congrArg _ ?_)
  exact onlyIf_false (by simp [hreset])

variable (hreset : s.host.inReset = false)
include hreset

theorem configRequest_answered {req : CfgReq} {f : State → State} {t : State}
    (hreq : execPcieConfigRequest req = fun s => live s (onlyIf (!s.host.inReset) f)) (ht : f s = t) :
    Machine.exec (.pcieConfigRequest req) s = .next t := by
  subst ht
  refine (congrFun hreq s).trans ((live_runs h).trans (congrArg _ ?_))
  exact onlyIf_true (by simp [hreset])

end

/-- Configuration space reads what was written last (log 7). -/
theorem cfgGet_written (s : State) (d x : BitVec 10) (v : W32) :
    cfgGet { s with host := { s.host with cfg := (d, v) :: s.host.cfg.filter fun x => x.1 ≠ d } } x =
      if x = d then v else cfgGet s x := by
  unfold cfgGet
  rw [List.find?_cons]
  split
  · next hd => simp_all
  · next hd =>
    have hx : x ≠ d := fun e => by simp [e] at hd
    rw [if_neg hx, List.find?_filter]
    have hsame (y : BitVec 10 × W32) : (decide (y.1 ≠ d) = true ∧ decide (y.1 = x) = true) ↔ y.1 = x := by
      simp only [decide_eq_true_eq, and_iff_right_iff_imp]
      exact fun hy e => hx (hy.symm.trans e)
    simp only [hsame]

theorem msixRelease_off {s : State} (h : s.host.msixOn = false ∨ s.host.busMaster = false) : msixRelease s = s := by
  rcases h with h | h <;> simp [msixRelease, h]

theorem flushEvents_busMaster (s : State) : (flushEvents s).host.busMaster = s.host.busMaster :=
  busMaster_of_lasting (flushEvents_lasting s)

theorem msixRelease_busMaster (s : State) : (msixRelease s).host.busMaster = s.host.busMaster := by
  unfold msixRelease
  split
  · rfl
  · refine foldl_frame (π := fun s : State => s.host.busMaster) fun t v => ?_
    dsimp only
    split <;> rfl

/-- 15:R409: an aperture of a resized BAR2 has its default. -/
theorem setBar2_aperture (l : BitVec 6) (s : State) {a : Nat} (ha : a < 8) :
    getAperture (setBar2 l s) a = { bank := false, base := BitVec.ofNat 64 (a * (2 ^ l.toNat / 8)), low := none } := by
  simp [getAperture, setBar2, ha, Aperture.reset]

/-- Settles O15: the sideband by the block of a word, configuration requests one by one. -/
theorem sidebandAndConfig : Obligations.SidebandAndConfig := by
  unfold Obligations.SidebandAndConfig
  refine ⟨⟨fun o s h ho => ?_, fun s h => ?_, fun o s h hsleep ht halign hlo hhi => ?_,
    fun o v s h ho => sidebandWrite_discarded h ho v, fun v s _ => ⟨rfl, rfl, rfl, rfl⟩, fun s h => ?_⟩, fun d v on s h => ⟨fun hreset => ?_, configRequest_inReset h⟩⟩
  · exact ⟨_, sidebandRead_answers h (by simp [sbNoWake, ho]) (sbWord_reserved ho s), rfl, rfl⟩
  · exact ⟨_, sidebandRead_answers h (o := 0x0040) rfl (sbWord_bootStatus s), rfl, rfl⟩
  · refine sidebandRead_wakes h hsleep ht ?_
    have hblock : ¬ (o.toNat < 0x2000) ∧ ¬ (0x9000 ≤ o.toNat) := by omega
    simp [sbNoWake, hblock, halign]
  · obtain ⟨hdef, hon⟩ := h
    unfold Machine.exec execSidebandTimeout
    rw [liveKeeper_runs hdef hon (.inl rfl)]
    refine ⟨_, rfl, rfl, fun w => ?_, rfl⟩
    cases w <;> simp
  · have hanswers {req : CfgReq} {f : State → State} {t : State} := @configRequest_answered s h hreset req f t
    refine ⟨⟨_, hanswers rfl rfl, ?_, fun x hx => ?_, rfl⟩, hanswers rfl rfl, hanswers rfl rfl, fun l => hanswers rfl ?_,
      fun l => hanswers rfl ?_, ⟨_, hanswers rfl rfl, rfl, rfl, rfl, rfl, rfl, rfl, rfl, rfl⟩, hanswers rfl rfl,
      ⟨_, hanswers rfl rfl, ?_⟩, hanswers rfl ?_, hanswers rfl ?_,
      fun l hlo hhi => ⟨_, hanswers rfl (if_pos (by simp [hlo, hhi])), rfl, fun a ha => setBar2_aperture l s ha⟩⟩
    · exact (cfgGet_written s d d v).trans (if_pos rfl)
    · exact (cfgGet_written s d x v).trans (if_neg hx)
    · simp
    · simp
    · exact (msixRelease_busMaster _).trans (flushEvents_busMaster _)
    · exact msixRelease_off (.inr (flushEvents_busMaster _))
    · exact msixRelease_off (.inl rfl)

end Sys2Proof.Proofs

/-! Scalar lane instructions (13:R348, R352, R367, R368, Tables 13-3 and 13-4): what each writes for a thread that executes it, and O50 from
them. -/

namespace Sys2Proof.Proofs

open Sys2Proof Sys2Proof.Machine Sys2Proof.Laws

/-- 13:R367: the second operand is S[B], or with MOD 1 the sign-extended immediate. -/
theorem operandB_eq {w : InsFields} (hmd : w.md.toNat ≤ 1) (z : Thread) :
    operandB z w = if w.md = 1 then w.imm.signExtend 64 else sreg z w.b := by
  have hcases : w.md = 0 ∨ w.md = 1 := by
    rw [BitVec.toNat_eq, BitVec.toNat_eq]
    exact Nat.le_one_iff_eq_zero_or_eq_one.1 hmd
  rcases hcases with h | h <;> simp [operandB, simm, h]

theorem shiftAmount_eq (b : W64) : shiftAmount b = b.toNat % 64 := by
  rw [shiftAmount, natBits, Nat.shiftRight_zero]
  rfl

section
variable {t : Tid} {opc : Nat} {w : InsFields} {y : Thread} {x : Ctx} {c : Comm} {s : State} (h : s.Issues t opc w y x c)
include h

/-- An instruction that acts on its thread alone changes the thread, which goes on. -/
theorem onThread_runs {i : Instr} {legal : Bool} {f : Thread → Thread}
    (hrow : Machine.exec i = fun s => live s (lane t opc w legal (onThread f))) (hlegal : legal = true) :
    Machine.exec i s = .next (modThread t (fun z => stepOn (f z)) (s.issued t opc x)) := by
  rw [lane_runs h hrow hlegal, onThread, thread_of_issues h]

/-- 13:R368: opcodes 0x01 to 0x09 write the result of their two operands. -/
theorem alu_runs {i : Instr} {f : W64 → W64 → W64} (hrow : Machine.exec i = fun s => live s (alu t opc w f))
    (hmd : w.md.toNat ≤ 1) (hc : w.c = 0) (hb : w.md = 1 → w.b = 0) (himm : w.md = 0 → w.imm = 0) :
    Machine.exec i s = .next (modThread t (fun z => stepOn (z.setS w.d (f (sreg z w.a)
      (if w.md = 1 then w.imm.signExtend 64 else sreg z w.b)))) (s.issued t opc x)) := by
  have hlegal : aluLegal w = true := by
    simpa [aluLegal, unused, hmd, hc] using ⟨imp_iff_not_or.1 hb, imp_iff_not_or.1 himm⟩
  rw [onThread_runs h hrow hlegal]
  simp only [operandB_eq hmd]

end

section
variable {t : Tid} {w : InsFields} {y : Thread} {x : Ctx} {c : Comm} {s : State}

/-- 13 Table 13-4: CMP writes whether its condition holds. -/
theorem cmp_runs (h : s.Issues t 0x0A w y x c) (hmd : w.md.toNat ≤ 1) (hc : w.c = 0) (hb : w.md = 1 → w.b = 0) {k : Nat} (hk : k ≤ 5)
    (hcode : w.imm.toNat % 16 = k) {r : Thread → Bool}
    (hcond : ∀ z, condCmp k (sreg z w.a) (if w.md = 1 then 0 else sreg z w.b) = some (r z)) :
    Machine.exec (.cmp t w) s =
      .next (modThread t (fun z => stepOn (z.setS w.d (if r z then 1 else 0))) (s.issued t 0x0A x)) := by
  have hbits : natBits 0 4 w.imm.toNat = k := by
    rw [natBits, Nat.shiftRight_zero, ← hcode]
    rfl
  have hlegal : (decide (w.md.toNat ≤ 1) && unused w false false (decide (w.md = 1)) true false &&
      decide (natBits 0 4 w.imm.toNat ≤ 5)) = true := by simpa [unused, hmd, hc, hbits, hk] using imp_iff_not_or.1 hb
  rw [onThread_runs h rfl hlegal, hbits]
  simp only [cmpB, hcond, Option.getD_some]
  congr 3
  funext z
  cases r z <;> rfl

theorem movi_runs (h : s.Issues t 0x0B w y x c) (ha : w.a = 0) (hb : w.b = 0) (hc : w.c = 0) (hmd : w.md.toNat ≤ 1) :
    Machine.exec (.movi t w) s = .next (modThread t (fun z => stepOn (z.setS w.d
      (if w.md = 0 then simm w else w.imm ++ ((sreg z w.d).setWidth 32 : W32)))) (s.issued t 0x0B x)) :=
  onThread_runs h rfl (by simp [unused, hmd, ha, hb, hc])

/-- 13 Table 13-4: BR moves the program counter by the immediate where its condition holds. -/
theorem br_runs (h : s.Issues t 0x10 w y x c) (hd : w.d = 0) (hb : w.b = 0) (hc : w.c = 0) (hmd : w.md.toNat ≤ 4) {r : Bool}
    (hcond : condBr w.md.toNat (sreg y w.a) = some r) :
    Machine.exec (.br t w) s =
      .next (modThread t (fun z => if r then { z with pc := z.pc + w.imm } else stepOn z) (s.issued t 0x10 x)) := by
  refine (lane_runs h rfl (by simp [unused, hmd, hd, hb, hc])).trans ?_
  rw [hcond, Option.getD_some, thread_of_issues h]
  cases r <;> rfl

end

/-- Settles O50: the rows with two operands together, the others one by one. -/
theorem laneScalars : Obligations.LaneScalars := by
  unfold Obligations.LaneScalars
  intro t w y x c s b sh set
  refine ⟨fun row hrow => ?_, fun h hmd hc hb => ?_, fun h ha hb hc => ⟨fun hmd => ?_, fun hmd => ?_⟩,
    fun h hd hb hc row hrow hmd => ?_, fun h hw => ?_, fun h ha hb hc hmd himm => ?_, fun h hd hb hc hmd himm => ?_⟩
  · have hshift (f : W64 → Nat → W64) : (fun z => f (sreg z w.a) (shiftAmount (b z))) = fun z => f (sreg z w.a) (sh z) :=
      funext fun z => congrArg (f _) (shiftAmount_eq _)
    simp only [List.mem_cons, List.not_mem_nil, or_false] at hrow
    rcases hrow with rfl | rfl | rfl | rfl | rfl | rfl | rfl | rfl | rfl <;> intro h hmd hc hb himm
    · exact alu_runs (i := .add t w) (f := fun a b => a + b) h rfl hmd hc hb himm
    · exact alu_runs (i := .sub t w) (f := fun a b => a - b) h rfl hmd hc hb himm
    · exact alu_runs (i := .and t w) (f := fun a b => a &&& b) h rfl hmd hc hb himm
    · exact alu_runs (i := .or t w) (f := fun a b => a ||| b) h rfl hmd hc hb himm
    · exact alu_runs (i := .xor t w) (f := fun a b => a ^^^ b) h rfl hmd hc hb himm
    · exact alu_runs (i := .mul t w) (f := fun a b => a * b) h rfl hmd hc hb himm
    · exact (alu_runs (i := .shl t w) (f := fun a b => a <<< shiftAmount b) h rfl hmd hc hb himm).trans
        (congrArg (set 0x07) (hshift fun a n => a <<< n))
    · exact (alu_runs (i := .shr t w) (f := fun a b => a >>> shiftAmount b) h rfl hmd hc hb himm).trans
        (congrArg (set 0x08) (hshift fun a n => a >>> n))
    · exact (alu_runs (i := .sar t w) (f := fun a b => a.sshiftRight (shiftAmount b)) h rfl hmd hc hb himm).trans
        (congrArg (set 0x09) (hshift fun a n => a.sshiftRight n))
  · intro r row hrow hcode
    simp only [List.mem_cons, List.not_mem_nil, or_false] at hrow
    rcases hrow with rfl | rfl | rfl | rfl | rfl | rfl <;> exact cmp_runs h hmd hc hb (by simp) hcode fun z => rfl
  · rw [movi_runs h ha hb hc (by simp [hmd])]
    simp only [hmd, if_true]
    rfl
  · rw [movi_runs h ha hb hc (by simp [hmd])]
    simp only [hmd]
    rfl
  · simp only [List.mem_cons, List.not_mem_nil, or_false] at hrow
    rcases hrow with rfl | rfl | rfl | rfl | rfl <;> exact br_runs h hd hb hc (by simp [hmd]) (by rw [hmd]; rfl)
  · exact onThread_runs h rfl (by rw [hw]; rfl)
  · refine (lane_runs h rfl (by simp [unused, ha, hb, hc, hmd, himm])).trans ?_
    rw [thread_of_issues h]
    rfl
  · refine (lane_runs h rfl (by simp [unused, hd, hb, hc, hmd, himm])).trans ?_
    rw [thread_of_issues h]

end Sys2Proof.Proofs

/-! Threads of lanes (13:R348 to R352, R356, R360, R367, R368, Table 13-6): when a row leaves its thread alone and when it faults, the
instructions that end, start and join threads, and O51 from them. That END lets a thread's own local stores take place is log 102. -/

namespace Sys2Proof.Proofs

open Sys2Proof Sys2Proof.Machine Sys2Proof.Laws

/-! ## Where rows do not act -/

/-- The rows of lane instructions by their opcodes (13 Table 13-3). -/
abbrev laneRows (t : Tid) (w : InsFields) : List (Nat × Instr) :=
  [(0x01, .add t w), (0x02, .sub t w), (0x03, .and t w), (0x04, .or t w), (0x05, .xor t w), (0x06, .mul t w), (0x07, .shl t w),
    (0x08, .shr t w), (0x09, .sar t w), (0x0A, .cmp t w), (0x0B, .movi t w), (0x10, .br t w), (0x12, .yield t w), (0x13, .endThread t w),
    (0x14, .spawn t w), (0x15, .sync t w), (0x16, .time t w), (0x17, .setres t w), (0x18, .trap t w), (0x20, .ld t w), (0x21, .st t w),
    (0x22, .vld t w), (0x23, .vst t w), (0x24, .fence t w), (0x28, .sld t w), (0x28, .sst t w), (0x30, .vaddf t w), (0x31, .vmm t w),
    (0x32, .vcvt t w), (0x33, .vbit t w), (0x34, .vbcast t w), (0x40, .accx t w), (0x41, .accp t w), (0x42, .acclp t w),
    (0x43, .accesc t w), (0x44, .accDrain t w), (0x45, .tolp t w), (0x46, .slotclr t w), (0x50, .csend t w), (0x51, .crecv t w),
    (0x52, .cdone t w)]

/-- The opcodes whose MOD names a data type. -/
abbrev typed (o : Nat) : Prop := o = 0x31 ∨ o = 0x32 ∨ (0x40 ≤ o ∧ o ≤ 0x44)

/-- Every row goes through the fetch of its thread with its opcode; where MOD names no data type, 5 or more is not legal. -/
theorem exec_laneRow {t : Tid} {w : InsFields} {row : Nat × Instr} (hrow : row ∈ laneRows t w) : ∃ legal run,
    (∀ s, Machine.exec row.2 s = live s (lane t row.1 w legal run)) ∧ (5 ≤ w.md.toNat → ¬ typed row.1 → legal = false) := by
  have hmod (h : 5 ≤ w.md.toNat) (k : Nat) (hk : k < 5) : ¬ w.md = BitVec.ofNat 4 k ∧ ¬ w.md.toNat ≤ k := by
    refine ⟨fun e => ?_, by omega⟩
    rw [e, BitVec.toNat_ofNat] at h
    omega
  simp only [laneRows, List.mem_cons, List.not_mem_nil, or_false] at hrow
  rcases hrow with rfl | rfl | rfl | rfl | rfl | rfl | rfl | rfl | rfl | rfl | rfl | rfl | rfl | rfl | rfl | rfl | rfl | rfl | rfl | rfl | rfl |
    rfl | rfl | rfl | rfl | rfl | rfl | rfl | rfl | rfl | rfl | rfl | rfl | rfl | rfl | rfl | rfl | rfl | rfl | rfl | rfl
  all_goals refine ⟨_, _, fun _ => rfl, fun h5 hplain => ?_⟩
  all_goals
    revert hplain
    simp [aluLegal, hmod h5 0 (by omega), hmod h5 1 (by omega), hmod h5 2 (by omega), hmod h5 3 (by omega), hmod h5 4 (by omega)]

section
variable {t : Tid} {opc : Nat} {w : InsFields} {legal : Bool} {run : Comm → Ctx → Thread → State → State} {y : Thread} {s : State}

theorem lane_nobody (h : findThread t s = none) : lane t opc w legal run s = s := by simp [lane, h]

/-- 13:R348: a thread that waits executes nothing. -/
theorem lane_waiting (h : findThread t s = some y) (hrun : y.st ≠ .running) (hstall : y.st ≠ .stalled) :
    lane t opc w legal run s = s := by
  simp only [lane, h]
  split
  · rfl
  · split
    · rfl
    · simp [hrun, hstall]

/-- 13:R348: a thread waits for its turn in its class. -/
theorem lane_early (h : findThread t s = some y) (hrun : y.st = .running) (hturn : myTurn s y (classOf opc) = false)
    (hfetch : fetchAt s y (insWord opc w) = .row) : lane t opc w legal run s = s := by
  simp only [lane, h, hfetch]
  split
  · rfl
  · split
    · rfl
    · simp [hrun, hturn]

/-- 13:R350: a thread whose next word is another instruction does not execute the row. -/
theorem lane_other (h : findThread t s = some y) (hfetch : fetchAt s y (insWord opc w) = .other) : lane t opc w legal run s = s := by
  simp only [lane, h, hfetch]
  split
  · rfl
  · split
    · rfl
    · exact ite_self _

section
variable {x : Ctx} {c : Comm}

/-- 13:R350, R360: a fetch that fails faults. -/
theorem lane_badFetch (hserves : s.OctozServes) (h : findThread t s = some y) (hx : findCtx y.ctx s = some x)
    (hc : findComm x.handle s = some c) (hst : y.st = .running ∨ y.st = .stalled) {k : Nat}
    (hfetch : fetchAt s y (insWord opc w) = .fault k) : lane t opc w legal run s = faultThread y k s := by
  have hstate : (decide (y.st = .running) || decide (y.st = .stalled)) = true := by
    rcases hst with h | h <;> simp [h]
  simp [lane, h, hx, hc, hfetch, octozRuns_of_serves hserves, hstate]

/-- 13:R367: an illegal word faults. -/
theorem lane_illegal (h : s.Issues t opc w y x c) (hlegal : legal = false) : lane t opc w legal run s = faultThread y 0x01 s := by
  obtain ⟨hserves, hthread, hctx, hcomm, hready, hfetch⟩ := h
  have hturn : (decide (y.st = .running) && !myTurn s y (classOf opc)) = false := by
    rcases hready with ⟨-, hturn⟩ | hstalled
    · simp [hturn]
    · simp [hstalled]
  have hstate : (decide (y.st = .running) || decide (y.st = .stalled)) = true := by
    rcases hready with ⟨hrunning, -⟩ | hstalled
    · simp [hrunning]
    · simp [hstalled]
  simp [lane, hthread, hctx, hcomm, hfetch, octozRuns_of_serves hserves, hturn, hstate, hlegal]

theorem threadFault_unbound (hc : findComm x.handle s = some c) (result : W64) : findCtx x.idx (threadFault x result s) = none :=
  abortColl_unbound hc ..

/-- 13:R360: a fault ends the collective of its thread. -/
theorem faultWith_unbound (hx : findCtx y.ctx s = some x) (hc : findComm x.handle s = some c) (code arg : Nat) :
    findCtx y.ctx (faultWith y code arg s) = none := by
  have hidx : x.idx = y.ctx := by simpa using List.find?_some hx
  unfold faultWith
  split
  · next hnone => exact absurd (hx.symm.trans hnone) (by simp)
  · next z hz =>
    obtain rfl : x = z := Option.some.inj (hx.symm.trans hz)
    rw [← hidx]
    exact threadFault_unbound hc _

end
end

/-! ## Local stores and the threads -/

/-- The writes of memory leave the threads alone. -/
@[simp] theorem stgWrite_threads (o : Nat) (bs : Bytes) (s : State) : (stgWrite o bs s).threads = s.threads := by
  induction bs generalizing o s with
  | nil => rfl
  | cons b r ih => exact (ih _ _).trans rfl

@[simp] theorem tmWriteByte_threads (b : Nat) (v : Byte) (s : State) : (tmWriteByte b v s).threads = s.threads := by
  unfold tmWriteByte
  rw [apply_ite State.threads, ite_self]

theorem tmWriteGo_threads (o : Nat) (bs : Bytes) (s : State) : (tmWriteGo o bs s).threads = s.threads := by
  induction bs generalizing o s with
  | nil => rfl
  | cons b r ih =>
    unfold tmWriteGo
    rw [ih, tmWriteByte_threads]

@[simp] theorem tmWrite_threads (o : Nat) (bs : Bytes) (s : State) : (tmWrite o bs s).threads = s.threads :=
  (tmWriteGo_threads o bs s :)

theorem armedElems_threads (r : Armed) (o : Nat) (bs : Bytes) (k i : Nat) (s : State) :
    (armedElems r o bs k i s).threads = s.threads := by
  induction k generalizing i s with
  | zero => rfl
  | succ k ih =>
    unfold armedElems
    extract_lets z top v s1
    refine (ih _ _).trans ?_
    unfold s1
    split
    · exact tmWrite_threads ..
    · exact tmWrite_threads ..

theorem localWrite_threads (a : W64) (bs : Bytes) (s : State) : (localWrite a bs s).threads = s.threads := by
  unfold localWrite
  extract_lets o
  split
  · exact stgWrite_threads ..
  · exact tmWrite_threads ..
  · refine foldl_frame (π := State.threads) fun u r => ?_
    unfold busSend
    split <;> rfl
  · rfl

theorem storeBytes_threads (a : W64) (bs : Bytes) (s : State) : (storeBytes a bs false s).threads = s.threads := by
  unfold storeBytes tmStore
  split
  · split
    · exact tmWrite_threads ..
    · exact armedElems_threads ..
  · exact localWrite_threads ..

theorem ownView_threads (y : Thread) (s : State) : (ownView y s).threads = s.threads :=
  foldl_frame (π := State.threads) fun u p => storeBytes_threads p.1 p.2 u

/-! ## SYNC -/

/-- A member of an updated list is a member, changed where it satisfies the condition. -/
theorem mem_updWhere {α : Type} {p : α → Bool} {f : α → α} {l : List α} {y : α} :
    y ∈ updWhere p f l ↔ ∃ z ∈ l, (if p z then f z else z) = y := List.mem_map

/-- 13:R368: a running thread of the collective holds its SYNC back. -/
theorem syncKick_waits {i : BitVec 9} {z : Thread} {s : State} (hz : z ∈ s.threads) (hctx : z.ctx = i) (hrun : z.st = .running) :
    syncKick i s = s := by
  unfold syncKick
  split
  · rfl
  · rw [if_neg]
    intro hmet
    have hall := List.all_eq_true.1 hmet z hz
    simp [hctx, hrun] at hall

/-- 13:R368: once each thread of the collective has ended or waits at the SYNC, those that wait go on. -/
theorem syncKick_joins {i : BitVec 9} {k : W32} {s : State}
    (h : ∀ z ∈ s.threads, z.ctx = i → z.st = .ended ∨ (z.st = .inSync ∧ z.waitArg = k)) :
    ∀ z ∈ (syncKick i s).threads, z.ctx = i → z.st = .ended ∨ z.st = .running := by
  unfold syncKick
  split
  · next hnone =>
    intro z hz hctx
    refine .inl ((h z hz hctx).resolve_right fun hsync => ?_)
    simpa [hctx, hsync] using List.find?_eq_none.1 hnone z hz
  · next y hy =>
    have hwait : y.ctx = i ∧ y.st = .inSync := by simpa using List.find?_some hy
    have harg : y.waitArg = k := by
      rcases h y (List.mem_of_find?_eq_some hy) hwait.1 with hended | hsync
      · exact absurd (hended.symm.trans hwait.2) (by decide)
      · exact hsync.2
    have hmet : syncMet s i y.waitArg = true := by
      refine List.all_eq_true.2 fun z hz => ?_
      by_cases hctx : z.ctx = i
      · rcases h z hz hctx with hended | hsync
        · simp [hended]
        · simp [hsync, harg]
      · simp [hctx]
    rw [if_pos hmet]
    intro z hz hctx
    obtain ⟨v, hv, rfl⟩ := mem_updWhere.1 hz
    by_cases hsync : (decide (v.ctx = i) && decide (v.st = .inSync)) = true
    · rw [if_pos hsync]
      exact .inr rfl
    · rw [if_neg hsync] at hctx ⊢
      exact .inl ((h v hv hctx).resolve_right fun hwait => hsync (by simp [hctx, hwait]))

/-! ## END -/

section
variable {t : Tid} {w : InsFields} {y : Thread} {x : Ctx} {c : Comm} {s : State}

/-- 13:R352: END of a thread with open stores waits for them. -/
theorem endThread_runs (h : s.Issues t 0x13 w y x c) (hw : w = { d := 0, a := 0, b := 0, c := 0, md := 0, imm := 0 }) :
    Machine.exec (.endThread t w) s = .next (if y.stores ≠ 0 then modThread t (fun z => { z with st := .inEnd }) (s.issued t 0x13 x)
      else storesDone y true (s.issued t 0x13 x)) := by
  refine (lane_runs h rfl (by rw [hw]; rfl)).trans ?_
  rw [thread_of_issues h]

theorem storesDone_missed (hmissed : y.missed = true) (end_ : Bool) : storesDone y end_ s = faultThread y 0x06 s := if_pos hmissed

/-- 13:R352; log 102: a thread ends with its local stores in place. -/
theorem storesDone_ends (hmissed : y.missed = false) :
    storesDone y true s = syncKick y.ctx (modThread y.id (fun z => { z with st := .ended }) (commitStores y s)) :=
  (if_neg (by simp [hmissed])).trans (if_pos rfl)

/-- The threads behind the END of one: its record has ended, and no other has changed. -/
theorem mem_ended {z : Thread} (hz : z ∈ (modThread y.id (fun z => { z with st := .ended }) (commitStores y s)).threads) :
    z.st = .ended ∨ (z ∈ s.threads ∧ z.id ≠ y.id) := by
  obtain ⟨v, hv, rfl⟩ := mem_updWhere.1 hz
  split
  · exact .inl rfl
  · next hother =>
    obtain ⟨u, hu, rfl⟩ := mem_updWhere.1 hv
    rw [ownView_threads] at hu
    split at hother
    · next hsame => exact absurd hsame (by simpa using hother)
    · next hne =>
      rw [if_neg hne]
      exact .inr ⟨hu, by simpa using hne⟩

/-- 13:R368: the END of the last of the others joins the threads that wait at a SYNC. -/
theorem end_joins {k : W32} (hthreads : ∀ z ∈ s.threads, z.ctx = y.ctx → z.id = y.id ∨ z.st = .ended ∨ (z.st = .inSync ∧ z.waitArg = k)) :
    ∀ z ∈ (syncKick y.ctx (modThread y.id (fun z => { z with st := .ended }) (commitStores y s))).threads, z.ctx = y.ctx →
      z.st = .ended ∨ z.st = .running := by
  refine syncKick_joins (k := k) fun z hz hctx => ?_
  rcases mem_ended hz with hended | ⟨hmem, hne⟩
  · exact .inl hended
  · exact (hthreads z hmem hctx).resolve_left hne

/-! ## TRAP and SYNC -/

theorem trap_runs (h : s.Issues t 0x18 w y x c) (hw : w = { d := 0, a := 0, b := 0, c := 0, md := 0, imm := w.imm }) :
    Machine.exec (.trap t w) s = .next (faultWith y 0x08 (w.imm.toNat % 256) (s.issued t 0x18 x)) := by
  refine (lane_runs h rfl (by rw [hw]; rfl)).trans ?_
  rw [natBits, Nat.shiftRight_zero]
  rfl

theorem sync_runs (h : s.Issues t 0x15 w y x c) (hw : w = { d := 0, a := 0, b := 0, c := 0, md := 0, imm := w.imm }) :
    Machine.exec (.sync t w) s =
      .next (syncKick y.ctx (modThread t (fun z => { z with st := .inSync, waitArg := w.imm }) (s.issued t 0x15 x))) := by
  refine (lane_runs h rfl (by rw [hw]; rfl)).trans ?_
  rw [thread_of_issues h, ctx_of_issues h]

end

/-! ## SPAWN -/

/-- S1 of a spawned thread: that of its parent, with the thread's index in bits [10:8] (13:R351). -/
def childS1 (a : W64) (idx : Nat) : W64 := (a &&& ~~~ (0x700 : W64)) ||| BitVec.ofNat 64 ((idx % 8) * 256)

theorem childS1_high (a : W64) (idx : Nat) : (childS1 a idx).extractLsb' 11 53 = a.extractLsb' 11 53 := by
  refine BitVec.eq_of_getLsbD_eq fun i hi => ?_
  have hpow : 2 ^ 11 ≤ 2 ^ (11 + i) := Nat.pow_le_pow_right (by omega) (by omega)
  have hmask : (0x700 : W64).getLsbD (11 + i) = false := Nat.testBit_lt_two_pow (lt_of_lt_of_le (by decide) hpow)
  have hindex : (idx % 8 * 256).testBit (11 + i) = false := Nat.testBit_lt_two_pow (by omega)
  simp only [childS1, BitVec.getLsbD_extractLsb', BitVec.getLsbD_or, BitVec.getLsbD_and, BitVec.getLsbD_not, BitVec.getLsbD_ofNat,
    hmask, hindex, show 11 + i < 64 by omega]
  simp

theorem childS1_low (a : W64) (idx : Nat) : (childS1 a idx).setWidth 8 = a.setWidth 8 := by
  refine BitVec.eq_of_getLsbD_eq fun i hi => ?_
  have hmask : (0x700 : W64).getLsbD i = false := by
    interval_cases i <;> rfl
  have hindex : (idx % 8 * 2 ^ 8).testBit i = false := by
    rw [Nat.testBit_mul_two_pow]
    simp [hi]
  simp only [childS1, BitVec.getLsbD_setWidth, BitVec.getLsbD_or, BitVec.getLsbD_and, BitVec.getLsbD_not, BitVec.getLsbD_ofNat,
    hmask, show idx % 8 * 256 = idx % 8 * 2 ^ 8 from rfl, hindex, show i < 64 by omega]
  simp

section
variable {y : Thread} {w : InsFields} {idx : Nat}

theorem childRegs_get {j : Nat} (hj : j < 12) :
    (childRegs y w idx)[j]? = some (if j = 1 then childS1 (sreg y 1) idx else y.s.getD j 0) := by
  unfold childRegs
  extract_lets s1 copy
  have hcopy : copy.length = 12 := by simp [copy]
  rw [List.append_assoc, List.getElem?_append_left (by rw [setAt_length]; omega), setAt_get, List.getElem?_map, List.getElem?_range hj]
  split
  · rfl
  · rfl

variable {z : Thread} (hz : z.s = childRegs y w idx)
include hz

/-- The registers of a spawned thread (13:R351). -/
theorem child_s1 : sreg z 1 = childS1 (sreg y 1) idx := by
  rw [sreg, hz, List.getD_eq_getElem?_getD, childRegs_get (by decide)]
  rfl

theorem child_copies {i : BitVec 5} (h1 : i ≠ 1) (h12 : i.toNat < 12) : sreg z i = sreg y i := by
  have h1 : i.toNat ≠ 1 := fun h => h1 (BitVec.eq_of_toNat_eq h)
  rw [sreg, hz, List.getD_eq_getElem?_getD, childRegs_get h12, if_neg h1]
  rfl

theorem child_s12 : sreg z 12 = sreg y w.b := by
  simp [sreg, hz, childRegs, List.getD_eq_getElem?_getD, setAt_length]

end

/-- The logical lane that SPAWN names. -/
def spawnLogical (y : Thread) (w : InsFields) : Nat := if w.md = 1 then (sreg y w.c).toNat else y.logical.toNat

/-- The threads of a collective on a logical lane. -/
def spawnIndex (s : State) (x : Ctx) (sib : Thread) : Nat := (s.threads.filter fun z => z.ctx = x.idx && z.logical = sib.logical).length

/-- The thread that SPAWN starts beside `sib` (13:R351). -/
def spawnChild (y sib : Thread) (w : InsFields) (x : Ctx) (p : Program) (thr : BitVec 3) (s : State) : Thread :=
  { id := { lane := sib.id.lane, thr := thr }, ctx := x.idx, logical := sib.logical, prog := p.id, gen := p.gen, pc := 1
    s := childRegs y w (spawnIndex s x sib), v := List.replicate 8 0, st := .running, waitArg := 0, slotBase := sib.slotBase
    slots := sib.slots, stores := 0, missed := false, handles := [], pend := [], source := none }

/-- No thread has the place that is free. -/
theorem free_apart {s : State} {l : Byte} {thr : BitVec 3} {rest : List (BitVec 3)} (hfree : freeThreads s l = thr :: rest) {z : Thread}
    (hz : z ∈ s.threads) : z.id ≠ { lane := l, thr := thr } := by
  have hmem : thr ∈ freeThreads s l := hfree ▸ List.mem_cons_self
  have hnone := (List.mem_filter.1 hmem).2
  simp only [Bool.not_eq_true', List.any_eq_false] at hnone
  intro hid
  exact hnone z hz (by simp [hid])

/-- The state behind a SPAWN of `child` (13:R351). -/
def spawned (t : Tid) (w : InsFields) (x : Ctx) (child : Thread) (s : State) : State :=
  modThread t (fun z => stepOn (z.setS w.d 0)) { s.issued t 0x14 x with threads := s.threads ++ [child] }

theorem findThread_append {t : Tid} {y : Thread} {s : State} (hy : findThread t s = some y) (new : List Thread) :
    findThread t { s with threads := s.threads ++ new } = some y := by
  unfold findThread at hy ⊢
  rw [List.find?_append, hy]
  rfl

/-- A member whose place is another one is a member behind a change of one thread. -/
theorem mem_modThread_other {t : Tid} {f : Thread → Thread} {z : Thread} {s : State} (hz : z ∈ s.threads) (hid : z.id ≠ t) :
    z ∈ (modThread t f s).threads :=
  mem_updWhere.2 ⟨z, hz, if_neg (by simpa using hid)⟩

section
variable {t : Tid} {w : InsFields} {y : Thread} {x : Ctx} {c : Comm} {s : State} (h : s.Issues t 0x14 w y x c) (hmod : w.md.toNat ≤ 1)
  (ha : w.a = 0) (hc : w.md = 0 → w.c = 0)
include h hmod ha hc

/-- 13:R351: what SPAWN does for a thread in its turn. -/
theorem spawn_runs : Machine.exec (.spawn t w) s = .next (
    if x.lanes ≤ spawnLogical y w then faultThread y 0x0B (s.issued t 0x14 x)
    else match sibling s x (spawnLogical y w) with
      | none => modThread t (fun z => stepOn (z.setS w.d 1)) (s.issued t 0x14 x)
      | some sib => match progOn s (w.imm.setWidth 16) sib.id.lane with
        | none => faultThread y 0x07 (s.issued t 0x14 x)
        | some p => match freeThreads s sib.id.lane with
          | thr :: _ => spawned t w x (spawnChild y sib w x p thr s) s
          | [] => modThread t (fun z => stepOn (z.setS w.d 1)) (s.issued t 0x14 x)) := by
  have hlegal : (decide (w.md.toNat ≤ 1) && unused w false true false (w.md = 0) false) = true := by
    by_cases h0 : w.md = 0
    · simp [unused, ha, h0, hc h0]
    · simp [unused, ha, hmod, show ¬ w.md = 0#4 from h0]
  refine (lane_runs h rfl hlegal).trans ?_
  rw [thread_of_issues h]
  rfl

theorem spawn_outside (hl : x.lanes ≤ spawnLogical y w) :
    Machine.exec (.spawn t w) s = .next (faultThread y 0x0B (s.issued t 0x14 x)) := by
  rw [spawn_runs h hmod ha hc, if_pos hl]

variable (hl : spawnLogical y w < x.lanes)
include hl

theorem spawn_alone (hsib : sibling s x (spawnLogical y w) = none) :
    Machine.exec (.spawn t w) s = .next (modThread t (fun z => stepOn (z.setS w.d 1)) (s.issued t 0x14 x)) := by
  rw [spawn_runs h hmod ha hc, if_neg (Nat.not_le.2 hl), hsib]

variable {sib : Thread} (hsib : sibling s x (spawnLogical y w) = some sib)
include hsib

theorem spawn_unknown (hprog : progOn s (w.imm.setWidth 16) sib.id.lane = none) :
    Machine.exec (.spawn t w) s = .next (faultThread y 0x07 (s.issued t 0x14 x)) := by
  rw [spawn_runs h hmod ha hc, if_neg (Nat.not_le.2 hl), hsib]
  simp only [hprog]

variable {p : Program} (hprog : progOn s (w.imm.setWidth 16) sib.id.lane = some p)
include hprog

theorem spawn_full (hfree : freeThreads s sib.id.lane = []) :
    Machine.exec (.spawn t w) s = .next (modThread t (fun z => stepOn (z.setS w.d 1)) (s.issued t 0x14 x)) := by
  rw [spawn_runs h hmod ha hc, if_neg (Nat.not_le.2 hl), hsib]
  simp only [hprog, hfree]

/-- 13:R351: SPAWN starts a thread in the first free place, and gives 0. -/
theorem spawn_starts {thr : BitVec 3} {rest : List (BitVec 3)} (hfree : freeThreads s sib.id.lane = thr :: rest) : ∃ v z child,
    Machine.exec (.spawn t w) s = .next v ∧
    v.threads.length = s.threads.length + 1 ∧ findThread t v = some z ∧ z.pc = y.pc + 1 ∧ (y.s.length = 32 → sreg z w.d = 0) ∧
    child ∈ v.threads ∧ child.id = { lane := sib.id.lane, thr := thr } ∧ child.pc = 1 ∧ child.prog = p.id ∧ child.st = .running ∧
    child.ctx = y.ctx ∧ child.logical = sib.logical ∧ child.slotBase = sib.slotBase ∧ child.slots = sib.slots ∧
    sreg child 12 = sreg y w.b ∧ (∀ i : BitVec 5, i ≠ 1 → i.toNat < 12 → sreg child i = sreg y i) ∧
    (sreg child 1).extractLsb' 11 53 = (sreg y 1).extractLsb' 11 53 ∧ (sreg child 1).setWidth 8 = (sreg y 1).setWidth 8 := by
  obtain ⟨-, hy, -⟩ := id h
  have hid : (spawnChild y sib w x p thr s).id ≠ t := by
    obtain rfl := thread_of_issues h
    exact (free_apart hfree (List.mem_of_find?_eq_some hy)).symm
  have hs1 : sreg (spawnChild y sib w x p thr s) 1 = childS1 (sreg y 1) (spawnIndex s x sib) := child_s1 rfl
  refine ⟨spawned t w x (spawnChild y sib w x p thr s) s, stepOn (y.setS w.d 0), spawnChild y sib w x p thr s, ?_, ?_, ?_, rfl,
    fun hlen => sreg_setS_same hlen .., ?_, rfl, rfl, rfl, rfl, ctx_of_issues h, rfl, rfl, rfl, child_s12 rfl, fun i h1 h12 => child_copies rfl h1 h12, ?_, ?_⟩
  · rw [spawn_runs h hmod ha hc, if_neg (Nat.not_le.2 hl), hsib]
    simp only [hprog, hfree]
  · exact (List.length_map ..).trans (List.length_append ..)
  · exact findThread_stepped (findThread_append (s := s.issued t 0x14 x) hy _) fun _ => rfl
  · exact mem_modThread_other (List.mem_append_right _ List.mem_cons_self) hid
  · rw [hs1, childS1_high]
  · rw [hs1, childS1_low]

end

/-- 13:R348, R350, R360, R367: what a row does outside its turn, behind a failed fetch and with a word that is not legal. -/
theorem laneRow_elsewhere {t : Tid} {w : InsFields} {s : State} (hruns : s.Runs) {row : Nat × Instr} (hrow : row ∈ laneRows t w) :
    (findThread t s = none → Machine.exec row.2 s = .next s) ∧
    (∀ y, findThread t s = some y → y.st ≠ .running → y.st ≠ .stalled → Machine.exec row.2 s = .next s) ∧
    (∀ y, findThread t s = some y → y.st = .running → myTurn s y (classOf row.1) = false → fetchAt s y (insWord row.1 w) = .row →
      Machine.exec row.2 s = .next s) ∧
    (∀ y, findThread t s = some y → fetchAt s y (insWord row.1 w) = .other → Machine.exec row.2 s = .next s) ∧
    (∀ y x c k, s.OctozServes → findThread t s = some y → findCtx y.ctx s = some x → findComm x.handle s = some c →
      y.st = .running ∨ y.st = .stalled → fetchAt s y (insWord row.1 w) = .fault k →
      ∃ u, Machine.exec row.2 s = .next u ∧ findCtx y.ctx u = none) ∧
    (∀ y x c, s.Issues t row.1 w y x c → 5 ≤ w.md.toNat → ¬ typed row.1 →
      ∃ u, Machine.exec row.2 s = .next u ∧ findCtx y.ctx u = none) := by
  obtain ⟨legal, run, hexec, hlegal⟩ := exec_laneRow hrow
  rw [hexec s, live_runs hruns]
  refine ⟨fun h => congrArg _ (lane_nobody h), fun y h hrun hstall => congrArg _ (lane_waiting h hrun hstall),
    fun y h hrun hturn hfetch => congrArg _ (lane_early h hrun hturn hfetch), fun y h hfetch => congrArg _ (lane_other h hfetch),
    fun y x c k hserves h hx hc hst hfetch => ⟨_, rfl, ?_⟩, fun y x c h h5 hplain => ⟨_, rfl, ?_⟩⟩
  · rw [lane_badFetch hserves h hx hc hst hfetch]
    exact faultWith_unbound hx hc ..
  · rw [lane_illegal h (hlegal h5 hplain)]
    obtain ⟨-, -, hx, hc, -⟩ := h
    exact faultWith_unbound hx hc ..

section
variable {t : Tid} {w : InsFields} {y : Thread} {x : Ctx} {c : Comm} {s : State}

/-- The context of a thread behind the step before its row. -/
theorem findCtx_issued {o : Nat} (h : s.Issues t o w y x c) :
    findCtx y.ctx (s.issued t o x) = some { x with blockedSince := now s } := by
  obtain ⟨-, -, hx, -⟩ := h
  refine (findCtx_modCtx (i := x.idx) (f := fun v => { v with blockedSince := now s }) (fun _ hi => hi) y.ctx s).trans ?_
  rw [hx, Option.map_some, if_pos rfl]

/-- 13:R360, R368: TRAP ends the collective. -/
theorem trap_ends {o : Nat} (h : s.Issues t o w y x c) (code arg : Nat) :
    findCtx y.ctx (faultWith y code arg (s.issued t o x)) = none := by
  obtain ⟨-, -, -, hc, -⟩ := id h
  exact faultWith_unbound (findCtx_issued h) hc ..

/-- 13:R352: END of a thread whose stores have all completed. -/
theorem endThread_ends (h : s.Issues t 0x13 w y x c) (hw : w = { d := 0, a := 0, b := 0, c := 0, md := 0, imm := 0 }) (hstores : y.stores = 0)
    (hmissed : y.missed = false) : Machine.exec (.endThread t w) s =
      .next (syncKick y.ctx (modThread y.id (fun z => { z with st := .ended }) (commitStores y (s.issued t 0x13 x)))) := by
  rw [endThread_runs h hw, if_neg (not_not.2 hstores), storesDone_ends hmissed]

/-- 13:R368: a SYNC while another thread of the collective runs leaves the thread waiting. -/
theorem sync_waits {z : Thread} (hz : z ∈ s.threads) (hctx : z.ctx = y.ctx) (hid : z.id ≠ t)
    (hrun : z.st = .running) :
    syncKick y.ctx (modThread t (fun z => { z with st := .inSync, waitArg := w.imm }) (s.issued t 0x15 x)) =
      modThread t (fun z => { z with st := .inSync, waitArg := w.imm }) (s.issued t 0x15 x) :=
  syncKick_waits (mem_modThread_other hz hid) hctx hrun

/-- 13:R368: the SYNC of the last running thread joins the threads. -/
theorem sync_joins (hothers : ∀ z ∈ s.threads, z.ctx = y.ctx → z.id = t ∨ z.st = .ended ∨ (z.st = .inSync ∧ z.waitArg = w.imm)) :
    ∀ z ∈ (syncKick y.ctx (modThread t (fun z => { z with st := .inSync, waitArg := w.imm }) (s.issued t 0x15 x))).threads,
      z.ctx = y.ctx → z.st = .ended ∨ z.st = .running := by
  refine syncKick_joins (k := w.imm) fun z hz hctx => ?_
  obtain ⟨v, hv, rfl⟩ := mem_updWhere.1 hz
  split at hctx
  · next hsame => exact .inr (by rw [if_pos hsame]; exact ⟨rfl, rfl⟩)
  · next hother =>
    rw [if_neg hother]
    exact (hothers v hv hctx).resolve_left (by simpa using hother)

end

/-- Settles O51: each row goes through the fetch of its thread (`exec_laneRow`), and a thread in its turn runs its row. -/
theorem laneThreads : Obligations.LaneThreads := by
  refine ⟨fun t w s hruns row hrow => ?_, fun t w y x c s => ?_⟩
  · obtain ⟨hnobody, hwaiting, hearly, hother, hfetch, hillegal⟩ := laneRow_elsewhere hruns hrow
    exact ⟨hnobody, hwaiting, hearly, hother, hfetch, fun y x c h h5 h32 h31 hacc => hillegal y x c h h5 (by simp only [typed]; tauto)⟩
  intro u zero
  refine ⟨fun h hw => ?_, fun h hw => ?_, fun h hw => ?_, fun h hmod ha hc => ?_⟩
  · have hends (hstores : y.stores = 0) (hmissed : y.missed = false) := endThread_ends h hw hstores hmissed
    refine ⟨fun hstores hmissed => ?_, fun k hstores hmissed hothers => ⟨_, hends hstores hmissed, end_joins (k := k) ?_⟩, fun hstores => ?_,
      fun hstores hmissed => ?_⟩
    · rw [hends hstores hmissed, thread_of_issues h]
    · rwa [thread_of_issues h]
    · rw [endThread_runs h hw, if_pos hstores]
    · rw [endThread_runs h hw, if_neg (not_not.2 hstores), storesDone_missed hmissed]
  · exact ⟨trap_runs h hw, trap_ends h ..⟩
  · refine ⟨fun ⟨z, hz, hctx, hid, hrun⟩ => ?_, fun hothers => ⟨_, sync_runs h hw, sync_joins hothers⟩⟩
    rw [sync_runs h hw, sync_waits hz hctx hid hrun]
  · exact ⟨spawn_outside h hmod ha hc, spawn_alone h hmod ha hc, fun sib hl hsib => ⟨spawn_unknown h hmod ha hc hl hsib,
      fun p hprog => ⟨spawn_full h hmod ha hc hl hsib hprog, fun thr rest hfree => spawn_starts h hmod ha hc hl hsib hprog hfree⟩⟩⟩

end Sys2Proof.Proofs

/-! Memory instructions of lanes (13:R349, R353, R354, R360; 08:R202): an address that faults, local memory, requests to another node,
held chunks, fences and slots, and O52 from them. That a store to local memory stays with its thread until the thread's FENCE, and is
read back by that thread before it, is log 102. -/

namespace Sys2Proof.Proofs

open Sys2Proof Sys2Proof.Machine Sys2Proof.Laws

/-! ## Bytes of a vector register -/

/-- A slice of as many bytes as there are is the bytes. -/
theorem slice_all {n : Nat} {b : Bytes} (h : b.length = n) : slice 0 n b = b := by
  simp [slice, ← h]

theorem ofVbytes_eq {b : Bytes} (h : b.length = 64) : ofVbytes b = BitVec.ofNat 512 (leNat b) := by
  rw [ofVbytes, slice_all h]

@[simp] theorem vbytes_length (v : BitVec 512) : (vbytes v).length = 64 := leBytes_length ..

theorem localRead_length (s : State) (a : W64) (n : Nat) : (localRead s a n).length = n := by
  unfold localRead stgRead tmRead
  extract_lets o
  split <;> simp

theorem memRead_length (d : Byte) (m : Memory) (a n : Nat) : (memRead d m a n).length = n := by
  rw [memRead_eq_map]
  simp

/-! ## An access -/

/-- The address of a load or store is aligned, on this node and in a range that the checks accept. -/
def Near (c : Comm) (a : W64) (n : Nat) (s : State) : Prop :=
  faOffset a % n = 0 ∧ isLocal s c.map.toNat a = some true ∧ localCheck s a n = none

/-- The address is aligned and on another node, and a request to that node has room. -/
def Far (c : Comm) (a : W64) (n : Nat) (s : State) : Prop :=
  faOffset a % n = 0 ∧ isLocal s c.map.toNat a = some false ∧ s.ni.reqs.length < 16384 ∧ s.StreamOpen (coordOf s c.map.toNat a)

section
variable {c : Comm} {y : Thread} {a : W64} {n : Nat} {here : State → State} {far : Coord → State → State} {s : State}

theorem access_misaligned (h : faOffset a % n ≠ 0) : access c y a n here far s = faultThread y 0x04 s := if_pos h

theorem access_untranslated (halign : faOffset a % n = 0) (h : isLocal s c.map.toNat a = none) :
    access c y a n here far s = faultThread y 0x05 s := by simp [access, halign, h]

theorem access_refused (halign : faOffset a % n = 0) (hlocal : isLocal s c.map.toNat a = some true) (h : localCheck s a n ≠ none) :
    access c y a n here far s = faultThread y 0x06 s := by
  simp [access, halign, hlocal, Option.isSome_iff_ne_none.2 h]

theorem access_near (h : Near c a n s) : access c y a n here far s = here s := by
  obtain ⟨halign, hlocal, hcheck⟩ := h
  simp [access, halign, hlocal, hcheck]

theorem access_far (halign : faOffset a % n = 0) (h : isLocal s c.map.toNat a = some false) :
    access c y a n here far s = far (coordOf s c.map.toNat a) s := by simp [access, halign, h]

end

/-- A request has entered the injection queue beside the open ones. -/
def Asks (kind : BitVec 4) (dest : Coord) (body : Bytes) (s v : State) : Prop :=
  ∃ q : Packet, v.rt.inject = s.rt.inject ++ [(none, q)] ∧ q.kind = kind ∧ q.dest = dest ∧ q.payload = body ∧
    v.ni.reqs.length = s.ni.reqs.length + 1

/-- A request in an open stream has been asked for, and the threads are as they were. -/
theorem asks_issueReq {kind : Nat} {job : BitVec 4} {dest : Coord} {body : Bytes} {s : State} (hopen : s.StreamOpen dest) (owner : ReqOwner)
    (rank : BitVec 18) : Asks (BitVec.ofNat 4 kind) dest body s (issueReq owner (reqPacket s kind job dest body false false) rank 0 s) ∧
      (issueReq owner (reqPacket s kind job dest body false false) rank 0 s).threads = s.threads := by
  obtain ⟨q, tx, reqs, sent, hu, howners, hkind, hdest, -, -, hpayload⟩ := issueReq_open
    (p := reqPacket s kind job dest body false false) hopen rfl owner rank 0
  have hmore := congrArg List.length howners
  rw [hu] at hmore ⊢
  exact ⟨⟨q, rfl, hkind, hdest, hpayload, by simpa [owners] using hmore⟩, rfl⟩

section
variable {t : Tid} {o : Nat} {w : InsFields} {y : Thread} {x : Ctx} {c : Comm} {a : W64} {n : Nat} {s : State} {i : Instr}

theorem near_issued (h : Near c a n s) : Near c a n (s.issued t o x) := by
  obtain ⟨halign, hlocal, hcheck⟩ := h
  exact ⟨halign, hlocal, (issued_localCheck ..).trans hcheck⟩

/-- 13:R353: the faults of an access, and a remote one without room. -/
theorem access_clauses (here : State → State) {far : Coord → State → State}
    (hexec : Machine.exec i s = .next (access c y a n here far (s.issued t o x)))
    (hfull : ∀ d, reqRoom s d = false → far d (s.issued t o x) = stall t (s.issued t o x)) :
    (faOffset a % n ≠ 0 → Machine.exec i s = .next (faultThread y 0x04 (s.issued t o x))) ∧
    (faOffset a % n = 0 → isLocal s c.map.toNat a = none → Machine.exec i s = .next (faultThread y 0x05 (s.issued t o x))) ∧
    (faOffset a % n = 0 → isLocal s c.map.toNat a = some true → localCheck s a n ≠ none →
      Machine.exec i s = .next (faultThread y 0x06 (s.issued t o x))) ∧
    (faOffset a % n = 0 → isLocal s c.map.toNat a = some false → reqRoom s (coordOf s c.map.toNat a) = false →
      Machine.exec i s = .next (stall t (s.issued t o x))) := by
  rw [hexec]
  exact ⟨fun h => congrArg _ (access_misaligned h), fun halign h => congrArg _ (access_untranslated (s := s.issued t o x) halign h),
    fun halign hlocal h => congrArg _ (access_refused (s := s.issued t o x) halign hlocal (by rwa [issued_localCheck])),
    fun halign hfar hroom => congrArg _ ((access_far (s := s.issued t o x) halign hfar).trans (hfull _ hroom))⟩

/-- What a load or store asks of another node (13:R353): without room its thread waits. -/
def askFar (y : Thread) (g : Thread → Thread) (owner : ReqOwner) (kind : Nat) (job : BitVec 4) (a : W64) (body : Bytes) (d : Coord)
    (s : State) : State :=
  if !reqRoom s d then stall y.id s
  else modThread y.id g (issueReq owner (reqPacket s kind job d body false false) (faRank a) 0 s)

theorem askFar_full (h : s.Issues t o w y x c) (g : Thread → Thread) (owner : ReqOwner) (kind : Nat) (job : BitVec 4) (body : Bytes)
    {d : Coord} (hroom : reqRoom s d = false) :
    askFar y g owner kind job a body d (s.issued t o x) = stall t (s.issued t o x) := by
  rw [← thread_of_issues h]
  exact if_pos (by rw [show reqRoom (s.issued y.id o x) d = false from hroom]; rfl)

/-- 08:R202: an access to another node leaves a request. -/
theorem far_asks (h : s.Issues t o w y x c) {here : State → State} {g : Thread → Thread} (hg : ∀ z, (g z).id = z.id) {owner : ReqOwner}
    {kind : Nat} {body : Bytes}
    (hexec : Machine.exec i s = .next (access c y a n here (askFar y g owner kind c.map a body) (s.issued t o x))) (hfar : Far c a n s) :
    ∃ v, Machine.exec i s = .next v ∧ Asks (BitVec.ofNat 4 kind) (coordOf s c.map.toNat a) body s v ∧ findThread t v = some (g y) := by
  obtain ⟨halign, hlocal, hreqs, hopen⟩ := hfar
  obtain ⟨-, hy, -⟩ := id h
  have hroom : reqRoom (s.issued t o x) (coordOf s c.map.toNat a) = true := reqRoom_of_open (s := s) hopen hreqs
  obtain ⟨hasks, hthreads⟩ := asks_issueReq (kind := kind) (job := c.map) (body := body) (s := s.issued t o x)
    ((streamOpen_congr rfl _).2 hopen) owner (faRank a)
  refine ⟨_, hexec.trans (congrArg _ (access_far (s := s.issued t o x) halign hlocal)), ?_⟩
  unfold askFar
  rw [show coordOf (s.issued t o x) c.map.toNat a = coordOf s c.map.toNat a from rfl, hroom, thread_of_issues h]
  exact ⟨hasks, findThread_stepped ((congrArg (List.find? _) hthreads).trans hy) hg⟩

/-! ## Loads -/

section
variable {owner : ReqOwner} {f : Bytes → Thread → Thread} (h : s.Issues t o w y x c)
  (hexec : Machine.exec i s = .next (loadAt c y a n owner f (s.issued t o x)))
include h hexec

theorem load_waits (hnear : Near c a n s) (hbusy : busReady (localPieces s a n) s = false) :
    Machine.exec i s = .next (stall t (askBus (localPieces s a n) (s.issued t o x))) := by
  rw [hexec, loadAt, access_near (near_issued hnear), whenRead, issued_localPieces, issued_busReady, hbusy, thread_of_issues h]
  rfl

/-- 13:R349: a load sees the thread's own stores. -/
theorem load_near (hnear : Near c a n s) (hready : busReady (localPieces s a n) s = true) : Machine.exec i s = .next (useBus
    (localPieces s a n) (modThread t (fun z => stepOn (f (localRead (ownView y (s.issued t o x)) a n) z)) (s.issued t o x))) := by
  rw [hexec, loadAt, access_near (near_issued hnear), whenRead, issued_localPieces, issued_busReady, hready, thread_of_issues h]
  rfl

/-- 13:R353: a remote load leaves its thread waiting for the answer. -/
theorem load_far (hfar : Far c a n s) : ∃ v z, Machine.exec i s = .next v ∧
    Asks 9 (coordOf s c.map.toNat a) (bvBytes 8 a ++ leBytes 4 n ++ leBytes 4 0) s v ∧ findThread t v = some z ∧ z.st = .inLoad ∧
    z.pc = y.pc := by
  obtain ⟨v, hv, hasks, hz⟩ := far_asks h (g := fun z => { z with st := .inLoad }) (fun _ => rfl) hexec hfar
  exact ⟨v, _, hv, hasks, hz, rfl, rfl⟩

end

/-! ## Stores -/

section
variable {bytes : Bytes} (h : s.Issues t o w y x c) (hexec : Machine.exec i s = .next (storeAt c y a bytes (s.issued t o x)))
include h hexec

/-- 13:R349; log 102: a store to local memory stays with its thread. -/
theorem store_near (hnear : Near c a bytes.length s) :
    Machine.exec i s = .next (modThread t (fun z => stepOn { z with pend := z.pend ++ [(a, bytes)] }) (s.issued t o x)) := by
  rw [hexec, storeAt, access_near (near_issued hnear), thread_of_issues h]

/-- 13:R353: a remote store counts until it is acknowledged. -/
theorem store_far (hfar : Far c a bytes.length s) : ∃ v z, Machine.exec i s = .next v ∧
    Asks 8 (coordOf s c.map.toNat a) (bvBytes 8 a ++ bytes) s v ∧ findThread t v = some z ∧ z.stores = y.stores + 1 ∧ z.pc = y.pc + 1 := by
  obtain ⟨v, hv, hasks, hz⟩ := far_asks h (g := fun z => { stepOn z with stores := z.stores + 1 }) (fun _ => rfl) hexec hfar
  exact ⟨v, _, hv, hasks, hz, rfl, rfl⟩

end
end

/-! ## The rows -/

section
variable {t : Tid} {w : InsFields} {y : Thread} {x : Ctx} {c : Comm} {s : State}

theorem ld_runs (h : s.Issues t 0x20 w y x c) (hmod : w.md.toNat ≤ 3) (hb : w.b = 0) (hc : w.c = 0) : Machine.exec (.ld t w) s = .next (
    loadAt c y (memAddr y w) (2 ^ w.md.toNat) (.load t w.d (2 ^ w.md.toNat)) (fun b z => z.setS w.d (BitVec.ofNat 64 (leNat b)))
      (s.issued t 0x20 x)) := by
  rw [lane_runs h rfl (by simp [unused, hmod, hb, hc]), thread_of_issues h]

theorem st_runs (h : s.Issues t 0x21 w y x c) (hmod : w.md.toNat ≤ 3) (hd : w.d = 0) (hc : w.c = 0) : Machine.exec (.st t w) s = .next (
    storeAt c y (memAddr y w) (leBytes (2 ^ w.md.toNat) (sreg y w.b).toNat) (s.issued t 0x21 x)) :=
  (lane_runs h rfl (by simp [unused, hmod, hd, hc])).trans rfl

theorem vld_runs (h : s.Issues t 0x22 w y x c) (hmod : w.md = 0) (hv : w.d.toNat < 8) (hb : w.b = 0) (hc : w.c = 0) :
    Machine.exec (.vld t w) s = .next (
      loadAt c y (memAddr y w) 64 (.vload t w.d) (fun b z => z.setV w.d.toNat (ofVbytes b)) (s.issued t 0x22 x)) := by
  rw [lane_runs h rfl (by simp [unused, isV, hmod, hv, hb, hc]), if_pos hmod, thread_of_issues h]

theorem vst_runs (h : s.Issues t 0x23 w y x c) (hmod : w.md = 0) (hv : w.b.toNat < 8) (hd : w.d = 0) (hc : w.c = 0) :
    Machine.exec (.vst t w) s = .next (storeAt c y (memAddr y w) (vbytes (vreg y w.b.toNat)) (s.issued t 0x23 x)) :=
  (lane_runs h rfl (by simp [unused, isV, hmod, hv, hd, hc])).trans rfl

/-- 13:R353, Table 13-3: VLD with MOD 1 of a chunk that the thread does not hold. -/
theorem vld_unheld (h : s.Issues t 0x22 w y x c) (hmod : w.md = 1) (hv : w.d.toNat < 8) (hc : w.c = 0) (hheld : heldChunk y w.a = none) :
    Machine.exec (.vld t w) s = .next (faultThread y 0x09 (s.issued t 0x22 x)) := by
  rw [lane_runs h rfl (by simp [unused, isV, hmod, hv, hc]), if_neg (by simp [hmod]), hheld]

/-- 13:R353, Table 13-3: VLD with MOD 1 reads a chunk that the thread holds. -/
theorem vld_held (h : s.Issues t 0x22 w y x c) (hmod : w.md = 1) (hv : w.d.toNat < 8) (hc : w.c = 0) {k : Chunk}
    (hheld : heldChunk y w.a = some k) : Machine.exec (.vld t w) s = .next (modThread t (fun z => stepOn (z.setV w.d.toNat
      (ofVbytes (slice (sreg y w.b + simm w).toNat 64 (chunkPayload x k))))) (s.issued t 0x22 x)) := by
  rw [lane_runs h rfl (by simp [unused, isV, hmod, hv, hc]), if_neg (by simp [hmod]), hheld, thread_of_issues h]

theorem fence_runs (h : s.Issues t 0x24 w y x c) (hw : w = { d := 0, a := 0, b := 0, c := 0, md := 0, imm := 0 }) :
    Machine.exec (.fence t w) s = .next (if y.stores ≠ 0 then modThread t (fun z => { z with st := .inFence }) (s.issued t 0x24 x)
      else storesDone y false (s.issued t 0x24 x)) := by
  rw [lane_runs h rfl (by rw [hw]; rfl), thread_of_issues h]

/-- 13:R349; log 102: behind a FENCE the thread's local stores have taken place. -/
theorem storesDone_fence (hmissed : y.missed = false) : storesDone y false s = modThread y.id stepOn (commitStores y s) :=
  (if_neg (by simp [hmissed])).trans (if_neg (by simp))

/-! ## Slots -/

theorem inSlots_of_le {o n : Nat} (h : o + n ≤ y.slots * 512) : (!inSlots y o n) = false := by simp [inSlots, h]
theorem inSlots_of_lt {o n : Nat} (h : y.slots * 512 < o + n) : (!inSlots y o n) = true := by simp [inSlots, h]

theorem sld_runs (h : s.Issues t 0x28 w y x c) (hmod : w.md = 0) (hv : w.d.toNat < 8) (hb : w.b = 0) (hc : w.c = 0) :
    Machine.exec (.sld t w) s = .next (if (memAddr y w).toNat % 64 ≠ 0 then faultThread y 0x04 (s.issued t 0x28 x)
      else if !inSlots y (memAddr y w).toNat 64 then faultThread y 0x03 (s.issued t 0x28 x)
      else modThread t (fun z => stepOn (z.setV w.d.toNat (ofVbytes (slotRead s y (memAddr y w).toNat 64)))) (s.issued t 0x28 x)) := by
  rw [lane_runs h rfl (by simp [unused, isV, hmod, hv, hb, hc]), thread_of_issues h]
  rfl

theorem sst_runs (h : s.Issues t 0x28 w y x c) (hmod : w.md = 1) (hv : w.b.toNat < 8) (hd : w.d = 0) (hc : w.c = 0) :
    Machine.exec (.sst t w) s = .next (if (memAddr y w).toNat % 64 ≠ 0 then faultThread y 0x04 (s.issued t 0x28 x)
      else if !inSlots y (memAddr y w).toNat 64 then faultThread y 0x03 (s.issued t 0x28 x)
      else modThread t stepOn (slotWrite y (memAddr y w).toNat (vbytes (vreg y w.b.toNat)) (s.issued t 0x28 x))) := by
  rw [lane_runs h rfl (by simp [unused, isV, hmod, hv, hd, hc]), thread_of_issues h]

/-- 13:R354: an SLD. -/
theorem sld_clauses (h : s.Issues t 0x28 w y x c) (hmod : w.md = 0) (hv : w.d.toNat < 8) (hb : w.b = 0) (hc : w.c = 0) :
    let o := (memAddr y w).toNat
    (o % 64 ≠ 0 → Machine.exec (.sld t w) s = .next (faultThread y 0x04 (s.issued t 0x28 x))) ∧
    (o % 64 = 0 → y.slots * 512 < o + 64 → Machine.exec (.sld t w) s = .next (faultThread y 0x03 (s.issued t 0x28 x))) ∧
    (o % 64 = 0 → o + 64 ≤ y.slots * 512 → Machine.exec (.sld t w) s = .next (modThread t
      (fun z => stepOn (z.setV w.d.toNat (BitVec.ofNat 512 (leNat (slotRead s y o 64))))) (s.issued t 0x28 x))) := by
  intro o
  have hlen : (slotRead s y o 64).length = 64 := memRead_length ..
  rw [sld_runs h hmod hv hb hc, ofVbytes_eq hlen]
  refine ⟨fun halign => by rw [if_pos halign], fun halign hout => ?_, fun halign hin => ?_⟩
  · rw [if_neg (not_not.2 halign), if_pos (inSlots_of_lt hout)]
  · rw [if_neg (not_not.2 halign), inSlots_of_le hin]
    rfl

/-- 13:R354: an SST. -/
theorem sst_clauses (h : s.Issues t 0x28 w y x c) (hmod : w.md = 1) (hv : w.b.toNat < 8) (hd : w.d = 0) (hc : w.c = 0) :
    let o := (memAddr y w).toNat
    (o % 64 ≠ 0 → Machine.exec (.sst t w) s = .next (faultThread y 0x04 (s.issued t 0x28 x))) ∧
    (o % 64 = 0 → o + 64 ≤ y.slots * 512 → Machine.exec (.sst t w) s =
      .next (modThread t stepOn (slotWrite y o (vbytes (vreg y w.b.toNat)) (s.issued t 0x28 x)))) ∧
    (o % 64 = 0 → y.slots * 512 < o + 64 → Machine.exec (.sst t w) s = .next (faultThread y 0x03 (s.issued t 0x28 x))) := by
  intro o
  rw [sst_runs h hmod hv hd hc]
  refine ⟨fun halign => by rw [if_pos halign], fun halign hin => ?_, fun halign hout => ?_⟩
  · rw [if_neg (not_not.2 halign), inSlots_of_le hin]
    rfl
  · rw [if_neg (not_not.2 halign), if_pos (inSlots_of_lt hout)]

/-! ## Loads and stores -/

/-- A row is a load: of a scalar register, or of 64 bytes into a vector register. -/
def IsLoad (row : Nat × Nat × Instr) (t : Tid) (w : InsFields) (y : Thread) (x : Ctx) (c : Comm) (s : State) : Prop :=
  (row.1 = 0x20 ∨ row.1 = 0x22) ∧ ∃ owner f,
    Machine.exec row.2.2 s = .next (loadAt c y (memAddr y w) row.2.1 owner f (s.issued t row.1 x)) ∧
    (row.1 = 0x20 → f = fun b z => z.setS w.d (BitVec.ofNat 64 (leNat b))) ∧
    (row.1 = 0x22 → row.2.1 = 64 ∧ f = fun b z => z.setV w.d.toNat (ofVbytes b))

/-- A row is a store of a register's bytes. -/
def IsStore (row : Nat × Nat × Instr) (t : Tid) (w : InsFields) (y : Thread) (x : Ctx) (c : Comm) (s : State) : Prop :=
  (row.1 = 0x21 ∨ row.1 = 0x23) ∧ ∃ bytes,
    Machine.exec row.2.2 s = .next (storeAt c y (memAddr y w) bytes (s.issued t row.1 x)) ∧ bytes.length = row.2.1 ∧
    bytes = if row.1 = 0x21 then leBytes row.2.1 (sreg y w.b).toNat else vbytes (vreg y w.b.toNat)

/-- 13:R353: the four rows are two loads and two stores. -/
theorem memory_rows {row : Nat × Nat × Instr}
    (hrow : row ∈ [(0x20, 2 ^ w.md.toNat, .ld t w), (0x21, 2 ^ w.md.toNat, .st t w), (0x22, 64, .vld t w), (0x23, 64, .vst t w)])
    (h : s.Issues t row.1 w y x c) (hc : w.c = 0) (hb : row.1 = 0x20 ∨ row.1 = 0x22 → w.b = 0) (hd : row.1 = 0x21 ∨ row.1 = 0x23 → w.d = 0)
    (hsize : row.1 = 0x20 ∨ row.1 = 0x21 → w.md.toNat ≤ 3) (hmod : row.1 = 0x22 ∨ row.1 = 0x23 → w.md = 0)
    (hvd : row.1 = 0x22 → w.d.toNat < 8) (hvb : row.1 = 0x23 → w.b.toNat < 8) : IsLoad row t w y x c s ∨ IsStore row t w y x c s := by
  simp only [List.mem_cons, List.not_mem_nil, or_false] at hrow
  rcases hrow with rfl | rfl | rfl | rfl
  · exact .inl ⟨by simp, _, _, ld_runs h (hsize (by simp)) (hb (by simp)) hc, fun _ => rfl, by simp⟩
  · exact .inr ⟨by simp, _, st_runs h (hsize (by simp)) (hd (by simp)) hc, leBytes_length .., rfl⟩
  · exact .inl ⟨by simp, _, _, vld_runs h (hmod (by simp)) (hvd rfl) (hb (by simp)) hc, by simp, fun _ => ⟨rfl, rfl⟩⟩
  · exact .inr ⟨by simp, _, vst_runs h (hmod (by simp)) (hvb rfl) (hd (by simp)) hc, leBytes_length .., rfl⟩

end

/-- Settles O52: a row is a load or a store at its address (`memory_rows`), a read of a held chunk, a fence, or an access of slots. -/
theorem laneMemory : Obligations.LaneMemory := by
  intro t w y x c s u a near far asks at_
  refine ⟨fun row hrow h hc hb hd hsize hmod hvd hvb => ?_, fun h hmod hc hv => ?_, fun h hw => ?_, fun h hc =>
    ⟨fun hmod hb hv => ?_, fun hmod hd hv => ?_⟩⟩
  · intro n body v
    rcases memory_rows hrow h hc hb hd hsize hmod hvd hvb with
      ⟨hld, owner, f, hexec, hscalar, hvector⟩ | ⟨hst, bytes, hexec, hlen, hbytes⟩
    · obtain ⟨hmisaligned, hunmapped, hrefused, hfull⟩ := access_clauses _ hexec fun d hroom => askFar_full h _ owner kLaneLoad c.map _ hroom
      have hno : ¬(row.1 = 0x21 ∨ row.1 = 0x23) := by omega
      refine ⟨hmisaligned, hunmapped, hrefused, hfull, fun hnear hbusy _ => load_waits h hexec hnear hbusy, fun hnear hready h20 => ?_,
        fun hnear hready h22 => ?_, fun _ hst => absurd hst hno, fun hfar _ => load_far h hexec hfar, fun _ hst => absurd hst hno⟩
      · obtain rfl := hscalar h20
        exact load_near h hexec hnear hready
      · obtain ⟨h64, rfl⟩ := hvector h22
        have hload := load_near h hexec hnear hready
        rwa [ofVbytes_eq ((localRead_length ..).trans h64)] at hload
    · obtain ⟨hmisaligned, hunmapped, hrefused, hfull⟩ := access_clauses _ hexec fun d hroom => askFar_full h _ (.store y.id) kLaneStore c.map _ hroom
      rw [hlen] at hmisaligned hunmapped hrefused hfull
      have hno : ¬(row.1 = 0x20 ∨ row.1 = 0x22) := by omega
      refine ⟨hmisaligned, hunmapped, hrefused, hfull, fun _ _ hld => absurd hld hno, fun _ _ hld => absurd (.inl hld) hno,
        fun _ _ hld => absurd (.inr hld) hno, fun hnear _ => ?_, fun _ hld => absurd hld hno, fun hfar _ => ?_⟩
      · rw [show body = bytes from hbytes.symm]
        exact store_near h hexec (hlen ▸ hnear)
      · rw [show body = bytes from hbytes.symm]
        exact store_far h hexec (hlen ▸ hfar)
  · exact ⟨vld_unheld h hmod hv hc, fun k => vld_held h hmod hv hc⟩
  · rw [fence_runs h hw]
    refine ⟨fun hstores hmissed => ?_, fun hstores => by rw [if_pos hstores], fun hstores hmissed => ?_⟩
    · rw [if_neg (not_not.2 hstores), storesDone_fence hmissed, thread_of_issues h, commitStores, thread_of_issues h]
      rfl
    · rw [if_neg (not_not.2 hstores), storesDone_missed hmissed]
  · exact sld_clauses h hmod hv hb hc
  · exact sst_clauses h hmod hv hd hc

end Sys2Proof.Proofs

/-! Vector registers as bytes and as elements (00:R5; 13:R367): a field of a little-endian number is the number of the bytes at its place,
whence what an element of a register reads after the register, or a part of it, was written. -/

namespace Sys2Proof.Proofs

open Sys2Proof Sys2Proof.Machine Sys2Proof.Laws

/-! ## Bytes and numbers -/

/-- Numbers of `n` bytes have `8 * n` bits. -/
theorem bytes_pow (n : Nat) : 256 ^ n = 2 ^ (8 * n) := (Nat.pow_mul 2 8 n).symm

theorem leNat_leBytes (n x : Nat) : leNat (leBytes n x) = x % 256 ^ n := by
  induction n generalizing x with
  | zero => simp [leBytes, leNat, Nat.mod_one]
  | succ n ih =>
    rw [leBytes, leNat, ih, BitVec.toNat_ofNat, show 256 ^ (n + 1) = 256 * 256 ^ n from Nat.pow_succ', Nat.mod_mul (a := 256)]

theorem leBytes_leNat (b : Bytes) : leBytes b.length (leNat b) = b := by
  induction b with
  | nil => rfl
  | cons x r ih =>
    have hx := x.isLt
    rw [List.length_cons, leBytes, leNat, show (x.toNat + 256 * leNat r) / 256 = leNat r by omega, ih]
    congr 1
    refine BitVec.eq_of_toNat_eq ?_
    rw [BitVec.toNat_ofNat]
    omega

theorem leNat_lt (b : Bytes) : leNat b < 256 ^ b.length := by
  rw [← leBytes_leNat b, leNat_leBytes, leBytes_length]
  exact Nat.mod_lt _ (by positivity)

theorem leBytes_drop (n k x : Nat) : (leBytes n x).drop k = leBytes (n - k) (x / 256 ^ k) := by
  induction k generalizing n x with
  | zero => simp
  | succ k ih =>
    cases n with
    | zero => simp [leBytes]
    | succ n => rw [leBytes, List.drop_succ_cons, ih, Nat.div_div_eq_div_mul, Nat.pow_succ', Nat.succ_sub_succ]

theorem leBytes_take (n k x : Nat) : (leBytes n x).take k = leBytes (min k n) x := by
  induction k generalizing n x with
  | zero => simp [leBytes]
  | succ k ih =>
    cases n with
    | zero => simp [leBytes]
    | succ n => rw [leBytes, List.take_succ_cons, ih, Nat.succ_min_succ, leBytes]

/-- A field of a number is the number of its bytes. -/
theorem leNat_field {n k m : Nat} (h : k + m ≤ n) (x : Nat) : leNat (((leBytes n x).drop k).take m) = x / 256 ^ k % 256 ^ m := by
  rw [leBytes_drop, leBytes_take, leNat_leBytes, Nat.min_eq_left (by omega)]

theorem natBits_bytes (k m x : Nat) : natBits (8 * k) (8 * m) x = x / 256 ^ k % 256 ^ m := by
  rw [natBits, Nat.shiftRight_eq_div_pow, Nat.pow_mul, Nat.pow_mul]

/-- The bytes of the elements of a list, one after another. -/
theorem take_drop_flatMap {α β : Type} {f : α → List β} {z : Nat} (hf : ∀ a, (f a).length = z) {l : List α} {i : Nat} {a : α}
    (ha : l[i]? = some a) : ((l.flatMap f).drop (z * i)).take z = f a := by
  induction l generalizing i with
  | nil => simp at ha
  | cons x l ih =>
    cases i with
    | zero =>
      obtain rfl : x = a := by simpa using ha
      simp [← hf x]
    | succ i =>
      rw [List.flatMap_cons, Nat.mul_succ, Nat.add_comm, ← List.drop_drop, List.drop_left' (hf x)]
      exact ih (by simpa using ha)

theorem length_flatMap_bytes {α : Type} (z : Nat) (g : α → Nat) (l : List α) : (l.flatMap fun a => leBytes z (g a)).length = l.length * z := by
  simp [List.length_flatMap, leBytes_length]

/-! ## Elements -/

theorem vbytes_ofVbytes {b : Bytes} (h : b.length = 64) : vbytes (ofVbytes b) = b := by
  rw [ofVbytes_eq h, vbytes, BitVec.toNat_ofNat, Nat.mod_eq_of_lt ((leNat_lt b).trans_eq (by rw [h, bytes_pow])), ← h, leBytes_leNat]

theorem ofVbytes_vbytes (v : BitVec 512) : ofVbytes (vbytes v) = v := by
  rw [ofVbytes_eq (vbytes_length v), vbytes, leNat_leBytes, bytes_pow, Nat.mod_eq_of_lt v.isLt, BitVec.ofNat_toNat, BitVec.setWidth_eq]

/-- An element of a register is the number of its bytes. -/
theorem velem_eq {z i : Nat} (h : (i + 1) * z ≤ 64) (v : BitVec 512) : velem v z i = leNat (((vbytes v).drop (z * i)).take z) := by
  have hin : z * i + z ≤ 64 := by linarith
  rw [velem, vbytes, leNat_field hin, Nat.mul_assoc, natBits_bytes]

/-- An element of a register that its elements were written to. -/
theorem velem_ofElems {z i x : Nat} {l : List Nat} (hlen : l.length * z = 64) (hx : l[i]? = some x) :
    velem (ofElems z l) z i = x % 2 ^ (8 * z) := by
  have hi : i < l.length := (List.getElem?_eq_some_iff.1 hx).1
  have hbytes : (l.flatMap (leBytes z)).length = 64 := (length_flatMap_bytes z id l).trans hlen
  rw [velem_eq (hlen ▸ Nat.mul_le_mul_right z hi), ofElems, vbytes_ofVbytes hbytes, take_drop_flatMap (leBytes_length z) hx,
    leNat_leBytes, Nat.pow_mul]

section
variable {v : BitVec 512} {o z i : Nat} {b : Bytes} (hb : o + b.length ≤ 64)
include hb

theorem vbytes_vpatch : vbytes (vpatch v o b) = (vbytes v).take o ++ b ++ (vbytes v).drop (o + b.length) :=
  vbytes_ofVbytes (by simp; omega)

/-- An element within the part of a register that was written. -/
theorem velem_vpatch_in (hlow : o ≤ z * i) (hhigh : z * i + z ≤ o + b.length) :
    velem (vpatch v o b) z i = leNat ((b.drop (z * i - o)).take z) := by
  have htake : ((vbytes v).take o).length = o := by simp; omega
  rw [velem_eq (by linarith), vbytes_vpatch hb, List.append_assoc, List.drop_append, List.drop_of_length_le (by omega), List.nil_append, htake,
    List.drop_append_of_le_length (by omega), List.take_append_of_le_length (by simp; omega)]

/-- An element beside the part of a register that was written. -/
theorem velem_vpatch_out (hin : (i + 1) * z ≤ 64) (hout : z * i + z ≤ o ∨ o + b.length ≤ z * i) :
    velem (vpatch v o b) z i = velem v z i := by
  have hlin : z * i + z ≤ 64 := by linarith
  have htake : ((vbytes v).take o).length = o := by simp; omega
  rw [velem_eq hin, velem_eq hin, vbytes_vpatch hb]
  congr 1
  rcases hout with hlow | hhigh
  · rw [List.append_assoc, List.drop_append_of_le_length (by omega), List.take_append_of_le_length (by simp; omega), List.drop_take,
      List.take_take, Nat.min_eq_left (by omega)]
  · rw [List.drop_append, List.drop_of_length_le (by simp; omega), List.nil_append, List.drop_drop]
    congr 2
    simp
    omega

end

/-- The elements of a group of a register, behind a write of the group. -/
theorem velem_group {k z g i : Nat} (hgroup : (g + 1) * k * z ≤ 64) (hi : i < k) (v : BitVec 512) (f : Nat → Nat) :
    velem (vpatch v (k * z * g) ((List.range k).flatMap fun i => leBytes z (f i))) z (k * g + i) = f i % 2 ^ (8 * z) := by
  have hlen : ((List.range k).flatMap fun i => leBytes z (f i)).length = k * z := by rw [length_flatMap_bytes, List.length_range]
  have hfits : k * z * g + k * z ≤ 64 := by linarith
  have hplace : z * (k * g + i) = k * z * g + z * i := by ring
  have hend : z * (i + 1) ≤ z * k := Nat.mul_le_mul_left _ hi
  rw [Nat.mul_succ, Nat.mul_comm z k] at hend
  rw [velem_vpatch_in (by omega) (by omega) (by omega), hplace, Nat.add_sub_cancel_left,
    take_drop_flatMap (a := i) (fun _ => leBytes_length ..) (by simp [hi]), leNat_leBytes, bytes_pow]

/-! ## Registers of a thread -/

theorem vreg_setV_same {y : Thread} {i : Nat} (h : i < y.v.length) (x : BitVec 512) : vreg (y.setV i x) i = x := by
  rw [vreg, Thread.setV, List.getD_eq_getElem?_getD, setAt_get, if_pos rfl, List.getElem?_eq_getElem h]
  rfl

theorem vreg_setV_other {i j : Nat} (h : j ≠ i) (y : Thread) (x : BitVec 512) : vreg (y.setV i x) j = vreg y j := by
  simp [vreg, Thread.setV, List.getD_eq_getElem?_getD, setAt_get, h]

end Sys2Proof.Proofs

/-! Vector instructions of lanes (13:R368; 12:R317, R326, R330): what each leaves in its destination, and O53 from them. -/

namespace Sys2Proof.Proofs

open Sys2Proof Sys2Proof.Machine Sys2Proof.Laws

/-! ## Elements -/

theorem velem_ofElems_range {n z i : Nat} {f : Nat → Nat} (hlen : n * z = 64) (hi : i < n) :
    velem (ofElems z ((List.range n).map f)) z i = f i % 2 ^ (8 * z) :=
  velem_ofElems (by simpa using hlen) (by simp [hi])

theorem any_or {α : Type} (p q : α → Bool) (l : List α) : (l.any fun i => p i || q i) = (l.any p || l.any q) := by
  rw [Bool.eq_iff_iff]
  simp [and_or_left, exists_or]

theorem velem_lt (v : BitVec 512) (z i : Nat) : velem v z i < 2 ^ (8 * z) := Nat.mod_lt _ (by positivity)

/-- 12:R317: element-wise sums, and whether one overflowed. -/
theorem vaddBits_range (n : Nat) (f g : Nat → Nat) : vaddBits ((List.range n).map f) ((List.range n).map g) =
    ((List.range n).map fun i => (fl32add (BitVec.ofNat 32 (f i)) (BitVec.ofNat 32 (g i))).1.toNat,
      (List.range n).any fun i => (fl32add (BitVec.ofNat 32 (f i)) (BitVec.ofNat 32 (g i))).2) := by
  simp [vaddBits, List.zipWith_map, List.zipWith_self, List.any_map, Function.comp_def]

/-- A finite code with a sign has no more than the format's bits. -/
theorem signed_lt {neg : Bool} {mag : Nat} (h : mag < 2 ^ 31) : signed fp32 neg mag < 2 ^ 32 := by
  have hneg : b2n neg ≤ 1 := by cases neg <;> decide
  simp only [signed, fp32]
  omega

/-- 12:R326: a code of binary32 has 32 bits. -/
theorem fencode_fp32_lt (sat : Bool) (v : FVal) : (fencode fp32 sat v).1 < 2 ^ 32 := by
  have hround (neg : Bool) (num den : Nat) : (roundRat fp32 sat neg num den).1 < 2 ^ 32 := by
    unfold roundRat
    extract_lets mag
    split
    · exact signed_lt (by decide)
    · split
      · next hmag => exact signed_lt (hmag.trans_lt (by decide))
      · split
        · next hinf => exact signed_lt (Option.some.inj hinf ▸ (by decide))
        · exact signed_lt (by decide)
  cases v with
  | nan => exact show (0x7FC00000 : Nat) < 2 ^ 32 by decide
  | inf neg => exact signed_lt (by decide)
  | fin neg m e =>
    simp only [fencode]
    split
    · exact hround ..
    · exact hround ..

/-- 12:R330: a maximum or minimum has the bits of its type. -/
theorem maxMinCode_lt {red dt a b : Nat} (hdt : dt = 3 ∨ dt = 9 ∨ dt = 0xA) (ha : a < 2 ^ (8 * dtypeSize dt))
    (hb : b < 2 ^ (8 * dtypeSize dt)) : maxMinCode red dt a b < 2 ^ (8 * dtypeSize dt) := by
  rcases hdt with rfl | rfl | rfl
  · exact fencode_fp32_lt ..
  all_goals
    simp only [maxMinCode, fmtOf]
    split <;> split <;> assumption

/-! ## What a vector row leaves -/

/-- A row has run: its thread has gone on with its scalar registers as they were. -/
def VectorDone (t : Tid) (y : Thread) (s : State) (row : Instr) (facts : Thread → State → Prop) : Prop :=
  ∃ v z, Machine.exec row s = .next v ∧ findThread t v = some z ∧ z.pc = y.pc + 1 ∧ z.s = y.s ∧ facts z v

/-- The vector registers beside the `n` from `d` on are those of `y`. -/
def OtherRegs (y : Thread) (d : Nat) (z : Thread) (n : Nat) : Prop := ∀ i, i < 8 → i < d ∨ d + n ≤ i → vreg z i = vreg y i

/-- The overflow state of the thread's collective. -/
def Marks (y : Thread) (x : Ctx) (v : State) (o : Bool) : Prop := ∃ k, findCtx y.ctx v = some k ∧ k.overflow = (x.overflow || o)

/-- The collective with an overflow noted. -/
def noteOverflow (x : Ctx) (o : Bool) (s : State) : State := modCtx x.idx (fun v => { v with overflow := v.overflow || o }) s

section
variable {t : Tid} {o : Nat} {w : InsFields} {y : Thread} {x : Ctx} {c : Comm} {s : State} (h : s.Issues t o w y x c)
include h

theorem marks_noteOverflow (flag : Bool) (f : Thread → Thread) :
    Marks y x (modThread t f (noteOverflow x flag (s.issued t o x))) flag := by
  refine ⟨{ x with blockedSince := now s, overflow := x.overflow || flag }, ?_, rfl⟩
  refine (findCtx_modCtx (i := x.idx) (f := fun v => { v with overflow := v.overflow || flag }) (fun _ hi => hi) y.ctx
    (s.issued t o x)).trans ?_
  rw [findCtx_issued h, Option.map_some, if_pos rfl]

/-- A row that changes vector registers alone leaves a thread that has gone on. -/
theorem vectorDone_of {row : Instr} {g : Thread → Thread} {u : State} {facts : Thread → State → Prop}
    (hexec : Machine.exec row s = .next (modThread t (fun z => stepOn (g z)) u)) (hu : u.threads = s.threads)
    (hg : ∀ z, ∃ l, g z = { z with v := l })
    (hfacts : facts (stepOn (g y)) (modThread t (fun z => stepOn (g z)) u)) : VectorDone t y s row facts := by
  obtain ⟨-, hy, -⟩ := id h
  obtain ⟨l, hl⟩ := hg y
  refine ⟨_, _, hexec, findThread_stepped ((congrArg (List.find? _) hu).trans hy) (fun z => ?_), ?_, ?_, hfacts⟩
  · obtain ⟨k, hk⟩ := hg z
    rw [hk]
    rfl
  · rw [hl]
    rfl
  · rw [hl]
    rfl

end

/-- A thread with two vector registers written, one behind the other. -/
def pairSet (d : Nat) (v v' : BitVec 512) (y : Thread) : Thread := (y.setV d v).setV (d + 1) v'

section
variable {y : Thread} {d : Nat} (hlen : y.v.length = 8) (hd : d < 8)

theorem otherRegs_setV (v : BitVec 512) : OtherRegs y d (stepOn (y.setV d v)) 1 := fun i _ hi => vreg_setV_other (by omega) y v

theorem otherRegs_setPair (v v' : BitVec 512) : OtherRegs y d (stepOn (pairSet d v v' y)) 2 := fun i _ hi =>
  (vreg_setV_other (by omega) (y.setV d v) v').trans (vreg_setV_other (by omega) y v)

include hlen hd

theorem vreg_stepOn_setV (v : BitVec 512) : vreg (stepOn (y.setV d v)) d = v := vreg_setV_same (by omega) v

theorem vreg_setPair_low (v v' : BitVec 512) : vreg (stepOn (pairSet d v v' y)) d = v :=
  (vreg_setV_other (by omega) (y.setV d v) v').trans (vreg_setV_same (by omega) v)

theorem vreg_setPair_high (hd' : d + 1 < 8) (v v' : BitVec 512) : vreg (stepOn (pairSet d v v' y)) (d + 1) = v' :=
  vreg_setV_same (y := y.setV d v) (by rw [Thread.setV, setAt_length]; omega) v'

end

/-! ## The rows -/

section
variable {t : Tid} {w : InsFields} {y : Thread} {x : Ctx} {c : Comm} {s : State} (hlen : y.v.length = 8) (hd : w.d.toNat < 8)
  (ha : w.a.toNat < 8) (hb : w.b.toNat < 8)

/-- A sum of two binary32 elements. -/
def sumAt (v v' : BitVec 512) (i : Nat) : W32 × Bool := fl32add (BitVec.ofNat 32 (velem v 4 i)) (BitVec.ofNat 32 (velem v' 4 i))

/-- A sum of a binary32 element and a wider one's. -/
def wideAt (dt : Nat) (v v' : BitVec 512) (o i : Nat) : W32 × Bool :=
  fl32add (BitVec.ofNat 32 (velem v 4 i)) (widen32 dt (velem v' 2 (o + i)))

/-- The sums of 16 elements, and whether one overflowed. -/
def wideSums (dt : Nat) (v v' : BitVec 512) (o : Nat) : List Nat × Bool :=
  ((List.range 16).map fun i => (wideAt dt v v' o i).1.toNat, (List.range 16).any fun i => (wideAt dt v v' o i).2)

/-- The sums of the two registers of a pair. -/
def lowSums (y : Thread) (w : InsFields) : List Nat × Bool := wideSums w.md.toNat (vreg y w.a.toNat) (vreg y w.b.toNat) 0
def highSums (y : Thread) (w : InsFields) : List Nat × Bool := wideSums w.md.toNat (vreg y (w.a.toNat + 1)) (vreg y w.b.toNat) 16

/-- Elements `o` to `o + 15` of 32, widened, added to the 16 elements of a register. -/
theorem vaddBits_wide (dt : Nat) {o : Nat} (ho : o = 0 ∨ o = 16) (v v' : BitVec 512) :
    vaddBits (elems v 4) ((((elems v' 2).map fun e => (widen32 dt e).toNat).drop o).take 16) =
      wideSums dt v v' o := by
  have hrange : ((List.range 32).drop o).take 16 = (List.range 16).map fun i => o + i := by
    rcases ho with rfl | rfl <;> decide
  have hwide : (((elems v' 2).map fun e => (widen32 dt e).toNat).drop o).take 16 =
      (List.range 16).map fun i => (widen32 dt (velem v' 2 (o + i))).toNat := by
    rw [elems, show 64 / 2 = 32 from rfl, ← List.map_drop, ← List.map_drop, ← List.map_take, ← List.map_take, hrange, List.map_map,
      List.map_map]
    rfl
  rw [hwide, elems, show 64 / 4 = 16 from rfl, vaddBits_range]
  simp only [BitVec.ofNat_toNat, BitVec.setWidth_eq]
  rfl

include hd ha hb

include hlen in
/-- 12:R317: sums of binary32. -/
theorem vaddf_sums (h : s.Issues t 0x30 w y x c) (hc : w.c = 0) (himm : w.imm = 0) (hmod : w.md = 0) :
    VectorDone t y s (.vaddf t w) fun z v => OtherRegs y w.d.toNat z 1 ∧
      (∀ i, i < 16 → velem (vreg z w.d.toNat) 4 i = (sumAt (vreg y w.a.toNat) (vreg y w.b.toNat) i).1.toNat) ∧
      Marks y x v ((List.range 16).any fun i => (sumAt (vreg y w.a.toNat) (vreg y w.b.toNat) i).2) := by
  have hsums : vaddBits (elems (vreg y w.a.toNat) 4) (elems (vreg y w.b.toNat) 4) = _ := vaddBits_range 16 ..
  refine vectorDone_of h (g := fun z => z.setV w.d.toNat (ofElems 4 (vaddBits (elems (vreg y w.a.toNat) 4) (elems (vreg y w.b.toNat) 4)).1))
    (u := noteOverflow x (vaddBits (elems (vreg y w.a.toNat) 4) (elems (vreg y w.b.toNat) 4)).2 (s.issued t 0x30 x)) ?_ rfl
    (fun z => ⟨_, rfl⟩) ⟨otherRegs_setV _, fun i hi => ?_, ?_⟩
  · rw [lane_runs h rfl (by simp [unused, isV, hmod, hd, ha, hb, hc, himm]), if_pos hmod, thread_of_issues h]
    rfl
  · rw [vreg_stepOn_setV hlen hd, hsums, velem_ofElems_range rfl hi]
    exact Nat.mod_eq_of_lt (BitVec.isLt _)
  · rw [hsums]
    exact marks_noteOverflow h ..

theorem vaddf_wide_runs (h : s.Issues t 0x30 w y x c) (hc : w.c = 0) (himm : w.imm = 0) (hmod : w.md.toNat = 1 ∨ w.md.toNat = 2) :
    Machine.exec (.vaddf t w) s = .next (if w.d.toNat % 2 = 1 || w.a.toNat % 2 = 1 then faultThread y 0x04 (s.issued t 0x30 x)
      else modThread t (fun z => stepOn (pairSet w.d.toNat (ofElems 4 (lowSums y w).1) (ofElems 4 (highSums y w).1) z))
        (noteOverflow x ((lowSums y w).2 || (highSums y w).2) (s.issued t 0x30 x))) := by
  have hlow := vaddBits_wide w.md.toNat (.inl rfl) (vreg y w.a.toNat) (vreg y w.b.toNat)
  have hhigh := vaddBits_wide w.md.toNat (.inr rfl) (vreg y (w.a.toNat + 1)) (vreg y w.b.toNat)
  rw [List.drop_zero] at hlow
  rw [List.take_of_length_le (by simp [elems])] at hhigh
  have hwide : ¬ w.md = 0 := fun h0 => by rw [h0] at hmod; simp at hmod
  rw [lane_runs h rfl (by simp [unused, isV, hd, ha, hb, hc, himm]; omega), if_neg hwide, thread_of_issues h, lowSums, highSums, ← hlow, ← hhigh]
  rfl

include hlen in
/-- 12:R317: sums of binary32 and a wider type's elements, in a pair of registers. -/
theorem vaddf_wide (h : s.Issues t 0x30 w y x c) (hc : w.c = 0) (himm : w.imm = 0) (hmod : w.md.toNat = 1 ∨ w.md.toNat = 2)
    (heven : w.d.toNat % 2 = 0) (haeven : w.a.toNat % 2 = 0) :
    VectorDone t y s (.vaddf t w) fun z v => OtherRegs y w.d.toNat z 2 ∧
      (∀ i, i < 16 →
        velem (vreg z w.d.toNat) 4 i = (wideAt w.md.toNat (vreg y w.a.toNat) (vreg y w.b.toNat) 0 i).1.toNat ∧
        velem (vreg z (w.d.toNat + 1)) 4 i = (wideAt w.md.toNat (vreg y (w.a.toNat + 1)) (vreg y w.b.toNat) 16 i).1.toNat) ∧
      Marks y x v ((List.range 16).any fun i => (wideAt w.md.toNat (vreg y w.a.toNat) (vreg y w.b.toNat) 0 i).2 ||
        (wideAt w.md.toNat (vreg y (w.a.toNat + 1)) (vreg y w.b.toNat) 16 i).2) := by
  have hexec := vaddf_wide_runs hd ha hb h hc himm hmod
  rw [if_neg (by simp [heven, haeven])] at hexec
  refine vectorDone_of h hexec rfl (fun z => ⟨_, rfl⟩) ⟨otherRegs_setPair _ _, fun i hi => ⟨?_, ?_⟩, ?_⟩
  · rw [vreg_setPair_low hlen hd, lowSums, wideSums, velem_ofElems_range rfl hi]
    exact Nat.mod_eq_of_lt (BitVec.isLt _)
  · rw [vreg_setPair_high hlen hd (by omega), highSums, wideSums, velem_ofElems_range rfl hi]
    exact Nat.mod_eq_of_lt (BitVec.isLt _)
  · rw [any_or]
    exact marks_noteOverflow h ..
theorem vaddf_odd (h : s.Issues t 0x30 w y x c) (hc : w.c = 0) (himm : w.imm = 0) (hmod : w.md.toNat = 1 ∨ w.md.toNat = 2)
    (hodd : w.d.toNat % 2 = 1 ∨ w.a.toNat % 2 = 1) : Machine.exec (.vaddf t w) s = .next (faultThread y 0x04 (s.issued t 0x30 x)) := by
  rw [vaddf_wide_runs hd ha hb h hc himm hmod, if_pos (by simpa using hodd)]

include hlen in
/-- 12:R330: VMM of a type with elements of `z` bytes. -/
theorem vmm_runs {red dt z : Nat} (h : s.Issues t 0x31 w y x c) (hc : w.c = 0) (himm : w.imm = 0) (hkind : natBits 1 3 w.md.toNat ≤ 2)
    (hred : (if w.md.getLsbD 0 then 3 else 2) = red)
    (hdt : (if natBits 1 3 w.md.toNat = 0 then 3 else if natBits 1 3 w.md.toNat = 1 then 9 else 0xA) = dt) (hz : dtypeSize dt = z)
    (hfit : 64 / z * z = 64) :
    VectorDone t y s (.vmm t w) fun q _ => OtherRegs y w.d.toNat q 1 ∧ ∀ i, i < 64 / z →
      velem (vreg q w.d.toNat) z i = maxMinCode red dt (velem (vreg y w.a.toNat) z i) (velem (vreg y w.b.toNat) z i) := by
  have hexec : Machine.exec (.vmm t w) s = .next (modThread t (fun q => stepOn (q.setV w.d.toNat (ofElems z (List.zipWith (maxMinCode red dt)
      (elems (vreg q w.a.toNat) z) (elems (vreg q w.b.toNat) z))))) (s.issued t 0x31 x)) := by
    rw [onThread_runs h rfl (by simp [unused, isV, hkind, hd, ha, hb, hc, himm]), hred, hdt, hz]
  have hdt' : dt = 3 ∨ dt = 9 ∨ dt = 0xA := by
    rw [← hdt]
    split
    · exact .inl rfl
    · split
      · exact .inr (.inl rfl)
      · exact .inr (.inr rfl)
  refine vectorDone_of h hexec rfl (fun q => ⟨_, rfl⟩) ⟨otherRegs_setV _, fun i hi => ?_⟩
  rw [vreg_stepOn_setV hlen hd, elems, elems, List.zipWith_map, List.zipWith_self, velem_ofElems_range hfit hi, ← hz]
  exact Nat.mod_eq_of_lt (maxMinCode_lt hdt' (velem_lt ..) (velem_lt ..))

include hlen in
theorem vbit_runs (h : s.Issues t 0x33 w y x c) (hc : w.c = 0) (himm : w.imm = 0) (hmod : w.md.toNat ≤ 2) :
    VectorDone t y s (.vbit t w) fun z _ => OtherRegs y w.d.toNat z 1 ∧ vreg z w.d.toNat =
      if w.md = 0 then vreg y w.a.toNat &&& vreg y w.b.toNat else if w.md = 1 then vreg y w.a.toNat ||| vreg y w.b.toNat
      else vreg y w.a.toNat ^^^ vreg y w.b.toNat :=
  vectorDone_of h (onThread_runs h rfl (by simp [unused, isV, hmod, hd, ha, hb, hc, himm])) rfl (fun q => ⟨_, rfl⟩)
    ⟨otherRegs_setV _, vreg_stepOn_setV hlen hd _⟩

omit ha hb

include hlen in
theorem vbcast_runs (h : s.Issues t 0x34 w y x c) (hb : w.b = 0) (hc : w.c = 0) (himm : w.imm = 0) (hmod : w.md = 0) :
    VectorDone t y s (.vbcast t w) fun z _ => OtherRegs y w.d.toNat z 1 ∧
      ∀ i, i < 8 → velem (vreg z w.d.toNat) 8 i = (sreg y w.a).toNat := by
  refine vectorDone_of h (onThread_runs h rfl (by simp [unused, isV, hmod, hd, hb, hc, himm])) rfl (fun q => ⟨_, rfl⟩)
    ⟨otherRegs_setV _, fun i hi => ?_⟩
  rw [vreg_stepOn_setV hlen hd, velem_ofElems (x := (sreg y w.a).toNat) rfl (by rw [List.getElem?_replicate, if_pos hi])]
  exact Nat.mod_eq_of_lt (BitVec.isLt _)

/-! ## VCVT -/

/-- A converted element. -/
def cvtAt (f : Fmt) (x : Ctx) (v : BitVec 512) (i : Nat) : Nat × Bool := fencode f (ctxSat x) (f32val (BitVec.ofNat 32 (velem v 4 i)))

include ha in
theorem vcvt_exec {f : Fmt} (h : s.Issues t 0x32 w y x c) (hb : w.b = 0) (himm : w.imm = 0) (hf : fmtOf w.md.toNat = some f)
    (hfloat : isFloatType w.md.toNat = true) (hpos : 0 < dtypeSize w.md.toNat) (hgroup : (w.c.toNat + 1) * 16 * dtypeSize w.md.toNat ≤ 64) :
    Machine.exec (.vcvt t w) s = .next (modThread t (fun q => stepOn (q.setV w.d.toNat (vpatch (vreg y w.d.toNat)
        (16 * dtypeSize w.md.toNat * w.c.toNat) ((List.range 16).flatMap fun i =>
          leBytes (dtypeSize w.md.toNat) (cvtAt f x (vreg y w.a.toNat) i).1))))
      (noteOverflow x ((List.range 16).any fun i => (cvtAt f x (vreg y w.a.toNat) i).2) (s.issued t 0x32 x))) := by
  rw [lane_runs h rfl (by simp [unused, isV, groupOk, hd, ha, hb, himm, hfloat, hpos, hgroup]), thread_of_issues h]
  simp only [hf, elems, List.map_map, List.flatMap_map, List.any_map]
  rfl

include hlen ha in
/-- 12:R326: VCVT fills its group of elements. -/
theorem vcvt_runs {f : Fmt} (h : s.Issues t 0x32 w y x c) (hb : w.b = 0) (himm : w.imm = 0) (hf : fmtOf w.md.toNat = some f)
    (hfloat : isFloatType w.md.toNat = true) {zs : Nat} (hzs : dtypeSize w.md.toNat = zs) (hpos : 0 < zs)
    (hgroup : (w.c.toNat + 1) * 16 * zs ≤ 64) :
    VectorDone t y s (.vcvt t w) fun z v => OtherRegs y w.d.toNat z 1 ∧
      (∀ i, i < 16 → velem (vreg z w.d.toNat) zs (16 * w.c.toNat + i) = (cvtAt f x (vreg y w.a.toNat) i).1 % 2 ^ (8 * zs)) ∧
      (∀ i, i < 64 / zs → i < 16 * w.c.toNat ∨ 16 * w.c.toNat + 16 ≤ i →
        velem (vreg z w.d.toNat) zs i = velem (vreg y w.d.toNat) zs i) ∧
      Marks y x v ((List.range 16).any fun i => (cvtAt f x (vreg y w.a.toNat) i).2) := by
  subst hzs
  have hlen16 := length_flatMap_bytes (dtypeSize w.md.toNat) (fun i => (cvtAt f x (vreg y w.a.toNat) i).1) (List.range 16)
  rw [List.length_range] at hlen16
  have hfits : 16 * dtypeSize w.md.toNat * w.c.toNat + 16 * dtypeSize w.md.toNat ≤ 64 := by linarith
  refine vectorDone_of h (vcvt_exec hd ha h hb himm hf hfloat hpos hgroup) rfl (fun q => ⟨_, rfl⟩)
    ⟨otherRegs_setV _, fun i hi => ?_, fun i hi hout => ?_, marks_noteOverflow h ..⟩
  · rw [vreg_stepOn_setV hlen hd, velem_group hgroup hi]
  · have hi' : (i + 1) * dtypeSize w.md.toNat ≤ 64 := (Nat.le_div_iff_mul_le hpos).1 hi
    rw [vreg_stepOn_setV hlen hd, velem_vpatch_out (by omega) hi']
    rcases hout with hlow | hhigh
    · exact .inl (by nlinarith)
    · exact .inr (by nlinarith)

end

/-- Settles O53: each row leaves its result in its destination (`VectorDone`), element by element. -/
theorem laneVectors : Obligations.LaneVectors := by
  intro t w y x c s hlen hd ha hb d va vb done others marks
  refine ⟨fun h hc himm => ?_, fun h hc himm row hrow hmod => ?_, fun h hc himm hmod => vbit_runs hlen hd ha hb h hc himm hmod,
    fun h hb hc himm hmod => vbcast_runs hlen hd h hb hc himm hmod, fun f h hb himm hf hfloat => ?_⟩
  · intro sum low high
    refine ⟨fun hmod => vaddf_sums hlen hd ha hb h hc himm hmod, fun hmod heven haeven => ?_, fun hmod hodd => vaddf_odd hd ha hb h hc himm hmod hodd⟩
    have hwide := vaddf_wide hlen hd ha hb h hc himm hmod heven haeven
    simp only [wideAt, Nat.zero_add] at hwide
    exact hwide
  · have hmd : w.md = BitVec.ofNat 4 w.md.toNat := by simp
    rw [hmod] at hmd
    simp only [List.mem_cons, List.not_mem_nil, or_false] at hrow
    rcases hrow with rfl | rfl | rfl | rfl | rfl | rfl
    all_goals
      exact vmm_runs hlen hd ha hb h hc himm (by rw [hmd]; decide) (by rw [hmd]; decide) (by rw [hmd]; decide) rfl rfl
  · intro zs hpos hgroup
    exact vcvt_runs hlen hd ha h hb himm hf hfloat rfl hpos hgroup

end Sys2Proof.Proofs

/-! The entries of a thread's accumulator slots (13:R354; 12 Table 12-4): what an entry reads after it, or another one, was written,
and after four entries were changed in turn. -/

namespace Sys2Proof.Proofs

open Sys2Proof Sys2Proof.Machine Sys2Proof.Laws

/-! ## Slot bytes -/

section
variable {y : Thread} {s : State} (hwf : Memory.wf 0 s.slots = true)
include hwf

theorem slotWrite_wf (o : Nat) (b : Bytes) : Memory.wf 0 (slotWrite y o b s).slots = true := memWrite_wf b _ hwf

theorem slotRead_slotWrite {o n : Nat} {b : Bytes} (hn : b.length = n) : slotRead (slotWrite y o b s) y o n = b := by
  subst hn
  exact memRead_memWrite hwf ..

theorem slotRead_slotWrite_other {o p n k : Nat} {b : Bytes} (hk : b.length = k) (h : p + n ≤ o ∨ o + k ≤ p) :
    slotRead (slotWrite y o b s) y p n = slotRead s y p n := by
  subst hk
  unfold slotRead slotWrite
  rw [memRead_eq_map, memRead_eq_map]
  refine List.map_congr_left fun i hi => memGet_memWrite_other b hwf ?_
  have hin := List.mem_range.1 hi
  unfold slotKey
  omega

end

/-! ## EXACT entries -/

/-- Parts of `z` bytes, `k` to a slot, lie in the order of their numbers. -/
theorem part_before {k z m n : Nat} (hk : 0 < k) (hz : k * z ≤ 512) (h : m < n) : m / k * 512 + m % k * z + z ≤ n / k * 512 + n % k * z := by
  have hm := Nat.div_add_mod m k
  have hn := Nat.div_add_mod n k
  rcases (Nat.div_le_div_right (c := k) h.le).lt_or_eq with hlt | heq
  · have hslot : (m / k + 1) * 512 ≤ n / k * 512 := Nat.mul_le_mul_right _ hlt
    have hpart : (m % k + 1) * z ≤ k * z := Nat.mul_le_mul_right _ (Nat.mod_lt m hk)
    linarith [Nat.zero_le (n % k * z)]
  · rw [heq] at hm
    have hpart : (m % k + 1) * z ≤ n % k * z := Nat.mul_le_mul_right _ (by omega)
    rw [heq]
    linarith

/-- Parts of different numbers lie apart. -/
theorem part_apart {k z m n : Nat} (hk : 0 < k) (hz : k * z ≤ 512) (h : m ≠ n) :
    m / k * 512 + m % k * z + z ≤ n / k * 512 + n % k * z ∨ n / k * 512 + n % k * z + z ≤ m / k * 512 + m % k * z :=
  (Nat.lt_or_gt_of_ne h).imp (part_before hk hz) (part_before hk hz)

/-- The value of an EXACT entry lies apart from the flags of each. -/
theorem value_flags_apart (m n : Nat) : m / 6 * 512 + m % 6 * 80 + 80 ≤ n / 6 * 512 + 480 + 4 * (n % 6) ∨
    n / 6 * 512 + 480 + 4 * (n % 6) + 4 ≤ m / 6 * 512 + m % 6 * 80 := by
  rcases Nat.lt_or_ge (n / 6) (m / 6) with hlt | hge <;> omega

theorem flags_apart {m n : Nat} (h : m ≠ n) : m / 6 * 512 + 480 + 4 * (m % 6) + 4 ≤ n / 6 * 512 + 480 + 4 * (n % 6) ∨
    n / 6 * 512 + 480 + 4 * (n % 6) + 4 ≤ m / 6 * 512 + 480 + 4 * (m % 6) := by
  have hparts := part_apart (k := 6) (z := 4) (by decide) (by decide) h
  exact hparts.imp (fun hm => by linarith) (fun hn => by linarith)

section
variable {y : Thread} {s : State} {m n : Nat}

theorem lacGet_eq : lacGet s y n = (BitVec.ofNat 640 (leNat (slotRead s y (n / 6 * 512 + n % 6 * 80) 80)),
    BitVec.ofNat 5 (leNat (slotRead s y (n / 6 * 512 + 480 + 4 * (n % 6)) 4))) := rfl

/-- A write of an EXACT entry's value and flags. -/
def lacSet (y : Thread) (n : Nat) (v : BitVec 640 × BitVec 5) (s : State) : State :=
  slotWrite y (n / 6 * 512 + 480 + 4 * (n % 6)) (leBytes 4 v.2.toNat)
    (slotWrite y (n / 6 * 512 + n % 6 * 80) (leBytes 80 v.1.toNat) s)

theorem ofNat_leNat_leBytes {w : Nat} (n : Nat) (v : BitVec w) (hw : w ≤ 8 * n) : BitVec.ofNat w (leNat (leBytes n v.toNat)) = v := by
  rw [leNat_leBytes, bytes_pow, Nat.mod_eq_of_lt (v.isLt.trans_le (Nat.pow_le_pow_right (by omega) hw)), BitVec.ofNat_toNat, BitVec.setWidth_eq]

variable (hwf : Memory.wf 0 s.slots = true)
include hwf

theorem lacSet_wf (v : BitVec 640 × BitVec 5) : Memory.wf 0 (lacSet y n v s).slots = true := slotWrite_wf (slotWrite_wf hwf _ _) _ _

/-- 12 Table 12-4: an EXACT entry reads what was written to it, and the others what they held. -/
theorem lacGet_lacSet (v : BitVec 640 × BitVec 5) : lacGet (lacSet y n v s) y m = if m = n then v else lacGet s y m := by
  have hvalue := slotWrite_wf (y := y) hwf (n / 6 * 512 + n % 6 * 80) (leBytes 80 v.1.toNat)
  have h4 := leBytes_length 4 v.2.toNat
  have h80 := leBytes_length 80 v.1.toNat
  rw [lacGet_eq, lacSet]
  split
  · next heq =>
    subst heq
    rw [slotRead_slotWrite_other hvalue h4 (value_flags_apart m m), slotRead_slotWrite hwf h80, slotRead_slotWrite hvalue h4,
      ofNat_leNat_leBytes 80 v.1 (by decide), ofNat_leNat_leBytes 4 v.2 (by decide)]
  · next hne =>
    have hvalues := part_apart (k := 6) (z := 80) (by decide) (by decide) hne
    rw [slotRead_slotWrite_other hvalue h4 (value_flags_apart m n), slotRead_slotWrite_other hwf h80 hvalues, slotRead_slotWrite_other hvalue h4 (flags_apart hne),
      slotRead_slotWrite_other hwf h80 (value_flags_apart n m).symm, lacGet_eq]

/-- IN_USE is no part of an entry. -/
theorem lacGet_markUse (i k : Nat) : lacGet (markUse y i k s) y m = lacGet s y m := by
  have hvalue : m / 6 * 512 + m % 6 * 80 + 80 ≤ i * 512 + 505 ∨ i * 512 + 505 + 1 ≤ m / 6 * 512 + m % 6 * 80 := by
    rcases Nat.lt_or_ge i (m / 6) with hlt | hge <;> omega
  have hflags : m / 6 * 512 + 480 + 4 * (m % 6) + 4 ≤ i * 512 + 505 ∨ i * 512 + 505 + 1 ≤ m / 6 * 512 + 480 + 4 * (m % 6) := by
    rcases Nat.lt_or_ge i (m / 6) with hlt | hge <;> omega
  unfold markUse
  extract_lets old
  rw [lacGet_eq, lacGet_eq, slotRead_slotWrite_other hwf rfl hvalue, slotRead_slotWrite_other hwf rfl hflags]

theorem lacGet_lacPut (v : BitVec 640 × BitVec 5) : lacGet (lacPut y n v s) y m = if m = n then v else lacGet s y m :=
  (lacGet_markUse (lacSet_wf hwf v) ..).trans (lacGet_lacSet hwf v)

theorem lacPut_wf (v : BitVec 640 × BitVec 5) : Memory.wf 0 (lacPut y n v s).slots = true := slotWrite_wf (lacSet_wf hwf v) _ _

omit hwf in
theorem lacClear_eq : lacClear y n s = lacSet y n (0, lacNegZero) s := by
  have hzero : ((0 : BitVec 640), lacNegZero).1.toNat = 0 := BitVec.toNat_zero
  rw [lacSet, hzero]
  rfl

theorem lacGet_lacClear : lacGet (lacClear y n s) y m = if m = n then (0, lacNegZero) else lacGet s y m :=
  lacClear_eq (s := s) ▸ lacGet_lacSet hwf (0, lacNegZero)

theorem lacClear_wf : Memory.wf 0 (lacClear y n s).slots = true := lacClear_eq (s := s) ▸ lacSet_wf hwf (0, lacNegZero)

end

/-! ## INT entries -/

theorem twos_lt (n : Nat) (v : Int) : twos n v < 2 ^ n := by
  have hpos : (0 : Int) < ((2 ^ n : Nat) : Int) := by positivity
  have := Int.emod_lt_of_pos v hpos
  have := Int.emod_nonneg v hpos.ne'
  unfold twos
  omega

/-- A number of 128 bits is what its two's complement stands for. -/
theorem sext_twos_128 {v : Int} (hlow : -(2 ^ 127 : Int) ≤ v) (hhigh : v < 2 ^ 127) : sext 128 (twos 128 v) = v := by
  unfold sext twos
  dsimp only
  split <;> omega

/-- The value of an INT entry lies apart from each flag, and from the values of the others. -/
theorem int_value_flags_apart (m n : Nat) : m / 30 * 512 + 16 * (m % 30) + 16 ≤ n / 30 * 512 + 480 + 4 * (n % 30 / 5) ∨
    n / 30 * 512 + 480 + 4 * (n % 30 / 5) + 4 ≤ m / 30 * 512 + 16 * (m % 30) := by
  rcases Nat.lt_or_ge (n / 30) (m / 30) with hlt | hge <;> omega

theorem int_values_apart {m n : Nat} (h : m ≠ n) : m / 30 * 512 + 16 * (m % 30) + 16 ≤ n / 30 * 512 + 16 * (n % 30) ∨
    n / 30 * 512 + 16 * (n % 30) + 16 ≤ m / 30 * 512 + 16 * (m % 30) := by
  have hparts := part_apart (k := 30) (z := 16) (by decide) (by decide) h
  exact hparts.imp (fun hm => by linarith) (fun hn => by linarith)

section
variable {y : Thread} {s : State} {m n : Nat}

theorem intGet_eq : intGet s y n = (sext 128 (leNat (slotRead s y (n / 30 * 512 + 16 * (n % 30)) 16)),
    natBit 4 (leNat (slotRead s y (n / 30 * 512 + 480 + 4 * (n % 30 / 5)) 4))) := rfl

theorem intGet_fst : (intGet s y n).1 = sext 128 (leNat (slotRead s y (n / 30 * 512 + 16 * (n % 30)) 16)) := by
  rw [intGet_eq]

theorem intClear_eq : intClear y n s = slotWrite y (n / 30 * 512 + 480 + 4 * (n % 30 / 5)) (leBytes 4 0)
    (slotWrite y (n / 30 * 512 + 16 * (n % 30)) (leBytes 16 0) s) := rfl

variable (hwf : Memory.wf 0 s.slots = true)
include hwf

theorem intGet_markUse (i k : Nat) : intGet (markUse y i k s) y m = intGet s y m := by
  have hvalue : m / 30 * 512 + 16 * (m % 30) + 16 ≤ i * 512 + 505 ∨ i * 512 + 505 + 1 ≤ m / 30 * 512 + 16 * (m % 30) := by
    rcases Nat.lt_or_ge i (m / 30) with hlt | hge <;> omega
  have hflags : m / 30 * 512 + 480 + 4 * (m % 30 / 5) + 4 ≤ i * 512 + 505 ∨
      i * 512 + 505 + 1 ≤ m / 30 * 512 + 480 + 4 * (m % 30 / 5) := by
    rcases Nat.lt_or_ge i (m / 30) with hlt | hge <;> omega
  unfold markUse
  extract_lets old
  rw [intGet_eq, intGet_eq, slotRead_slotWrite_other hwf rfl hvalue, slotRead_slotWrite_other hwf rfl hflags]

/-- 12:R328: a sum within 128 bits is exact, and the flags stay. -/
theorem intGet_intAdd {v : Int} (hlow : -(2 ^ 127 : Int) ≤ (intGet s y n).1 + v) (hhigh : (intGet s y n).1 + v < 2 ^ 127) :
    intGet (intAdd y n v s) y m = if m = n then ((intGet s y n).1 + v, (intGet s y n).2) else intGet s y m := by
  have h16 := leBytes_length 16 (twos 128 ((intGet s y n).1 + v))
  unfold intAdd
  extract_lets p sum fits s1
  have hfits : fits := ⟨hlow, hhigh⟩
  have hs1 : s1 = slotWrite y (n / 30 * 512 + 16 * (n % 30)) (leBytes 16 (twos 128 ((intGet s y n).1 + v))) s := if_pos hfits
  rw [hs1, intGet_markUse (slotWrite_wf hwf _ _), intGet_eq,
    slotRead_slotWrite_other hwf h16 (int_value_flags_apart n m).symm]
  split
  · next heq =>
    subst heq
    have hsum : sext 128 (leNat (leBytes 16 (twos 128 ((intGet s y m).1 + v)))) = (intGet s y m).1 + v := by
      rw [leNat_leBytes, bytes_pow, Nat.mod_eq_of_lt (twos_lt ..), sext_twos_128 hlow hhigh]
    rw [slotRead_slotWrite hwf h16, hsum]
    rfl
  · next hne =>
    rw [slotRead_slotWrite_other hwf h16 (int_values_apart hne)]
    rfl

theorem intAdd_wf (v : Int) : Memory.wf 0 (intAdd y n v s).slots = true := by
  unfold intAdd
  extract_lets p sum fits s1
  refine slotWrite_wf ?_ _ _
  unfold s1
  split
  · exact slotWrite_wf hwf _ _
  · exact slotWrite_wf hwf _ _

/-- 12:R334: an INT entry is zero behind its reset, and the others keep their values. -/
theorem intGet_intClear : (intGet (intClear y n s) y m).1 = if m = n then 0 else (intGet s y m).1 := by
  have hvalue := slotWrite_wf (y := y) hwf (n / 30 * 512 + 16 * (n % 30)) (leBytes 16 0)
  rw [intGet_fst, intClear_eq, slotRead_slotWrite_other hvalue (leBytes_length 4 0) (int_value_flags_apart m n)]
  split
  · next heq =>
    subst heq
    rw [slotRead_slotWrite hwf (leBytes_length ..), leNat_leBytes]
    decide
  · next hne => rw [slotRead_slotWrite_other hwf (leBytes_length ..) (int_values_apart hne), intGet_fst]

theorem intClear_wf : Memory.wf 0 (intClear y n s).slots = true := slotWrite_wf (slotWrite_wf hwf _ _) _ _

end
end Sys2Proof.Proofs

/-! Accumulate instructions of lanes (13:R354, R355, Table 13-3; 12:R320, R323 to R328, R334): what each leaves in its entries and
registers, and O54 from them. -/

namespace Sys2Proof.Proofs

open Sys2Proof Sys2Proof.Machine Sys2Proof.Laws

/-! ## Entries changed in turn -/

/-- Entries `e` to `e + n - 1` that are changed one after another, each from what the first state holds in it. -/
theorem fold_entries {α : Type} {get : State → Nat → α} {f : State → Nat → State} {val : Nat → α} {P : State → Prop} {s : State} {e n : Nat}
    (hP : ∀ u i, P u → P (f u i)) (hs : P s)
    (hf : ∀ u i, P u → i < n → get u (e + i) = get s (e + i) → ∀ m, get (f u i) m = if m = e + i then val i else get u m) :
    ∀ i, i < n → get ((List.range n).foldl f s) (e + i) = val i := by
  have hprefix (k : Nat) (hk : k ≤ n) : P ((List.range k).foldl f s) ∧
      ∀ m, get ((List.range k).foldl f s) m = if e ≤ m ∧ m < e + k then val (m - e) else get s m := by
    induction k with
    | zero => exact ⟨hs, fun m => (if_neg (by omega)).symm⟩
    | succ k ih =>
      obtain ⟨hPk, hget⟩ := ih (by omega)
      rw [List.range_succ, List.foldl_append, List.foldl_cons, List.foldl_nil]
      refine ⟨hP _ _ hPk, fun m => ?_⟩
      rw [hf _ k hPk (by omega) ((hget (e + k)).trans (if_neg (by omega))) m, hget m]
      by_cases hm : m = e + k
      · rw [if_pos hm, if_pos (by omega), hm, Nat.add_sub_cancel_left]
      · rw [if_neg hm]
        exact if_congr (by omega) rfl rfl
  intro i hi
  rw [(hprefix n le_rfl).2, if_pos (by omega), Nat.add_sub_cancel_left]

/-! ## What an accumulate row leaves -/

/-- A row has run: its thread has gone on. -/
def AccDone (t : Tid) (y : Thread) (s : State) (row : Instr) (facts : Thread → State → Prop) : Prop :=
  ∃ v z, Machine.exec row s = .next v ∧ findThread t v = some z ∧ z.pc = y.pc + 1 ∧ facts z v

theorem accDone_of {t : Tid} {o : Nat} {w : InsFields} {y : Thread} {x : Ctx} {c : Comm} {s : State} (h : s.Issues t o w y x c) {row : Instr}
    {g : Thread → Thread} {u : State} {facts : Thread → State → Prop}
    (hexec : Machine.exec row s = .next (modThread t (fun z => stepOn (g z)) u)) (hu : u.threads = s.threads)
    (hg : ∀ z, ∃ k l, g z = { z with v := k, s := l }) (hfacts : facts (stepOn (g y)) (modThread t (fun z => stepOn (g z)) u)) :
    AccDone t y s row facts := by
  obtain ⟨-, hy, -⟩ := id h
  obtain ⟨k, l, hkl⟩ := hg y
  refine ⟨_, _, hexec, findThread_stepped ((congrArg (List.find? _) hu).trans hy) (fun z => ?_), ?_, hfacts⟩
  · obtain ⟨k, l, hkl⟩ := hg z
    rw [hkl]
    rfl
  · rw [hkl]
    rfl

/-! ## ACCX and ACCP -/

section
variable {y : Thread} {w : InsFields} {dt : Nat} {term : Nat → FVal} {iterm : Nat → Int} {s : State}

/-- One term added to an entry. -/
def addTerm (y : Thread) (w : InsFields) (dt : Nat) (term : Nat → FVal) (iterm : Nat → Int) (u : State) (i : Nat) : State :=
  if isIntType dt then intAdd y (entryBase y w + i) (iterm i) u
  else lacPut y (entryBase y w + i) (lacAdd (lacGet u y (entryBase y w + i)).1 (lacGet u y (entryBase y w + i)).2 (term i)) u

theorem accumulate_outside (h : ¬ (entryBase y w + 3) / (if isIntType dt then 30 else 6) < y.slots) :
    accumulate dt term iterm w y s = faultThread y 0x03 s := if_pos (by simpa [entriesIn] using h)

theorem accumulate_inside (h : (entryBase y w + 3) / (if isIntType dt then 30 else 6) < y.slots) :
    accumulate dt term iterm w y s = modThread y.id stepOn ((List.range 4).foldl (addTerm y w dt term iterm) s) :=
  if_neg (by simpa [entriesIn] using h)

theorem addTerm_of_exact (hexact : isIntType dt = false) (u : State) (i : Nat) : addTerm y w dt term iterm u i =
    lacPut y (entryBase y w + i) (lacAdd (lacGet u y (entryBase y w + i)).1 (lacGet u y (entryBase y w + i)).2 (term i)) u := by
  simp [addTerm, hexact]

theorem addTerm_of_int (hint : isIntType dt = true) (u : State) (i : Nat) :
    addTerm y w dt term iterm u i = intAdd y (entryBase y w + i) (iterm i) u := by simp [addTerm, hint]

theorem intAdd_threads (n : Nat) (v : Int) (u : State) : (intAdd y n v u).threads = u.threads := by
  unfold intAdd markUse slotWrite bumpFree
  dsimp only
  split <;> rfl

theorem lacPut_threads (n : Nat) (v : BitVec 640 × BitVec 5) (u : State) : (lacPut y n v u).threads = u.threads := by
  unfold lacPut markUse slotWrite
  dsimp only

theorem addTerm_threads (n : Nat) : ((List.range n).foldl (addTerm y w dt term iterm) s).threads = s.threads := by
  refine foldl_frame (π := State.threads) fun u i => ?_
  cases hint : isIntType dt
  · rw [addTerm_of_exact hint, lacPut_threads]
  · rw [addTerm_of_int hint, intAdd_threads]

variable (hwf : Memory.wf 0 s.slots = true)
include hwf

/-- 13:R355; 12:R320: four terms added exactly. -/
theorem addTerm_exact (hexact : isIntType dt = false) : ∀ i, i < 4 →
    lacGet ((List.range 4).foldl (addTerm y w dt term iterm) s) y (entryBase y w + i) =
      lacAdd (lacGet s y (entryBase y w + i)).1 (lacGet s y (entryBase y w + i)).2 (term i) := by
  refine fold_entries (get := fun u m => lacGet u y m) (P := fun u => Memory.wf 0 u.slots = true) (fun u i hu => ?_) hwf fun u i hu _ hsame m => ?_
  · rw [addTerm_of_exact hexact]
    exact lacPut_wf hu _
  · rw [← hsame, addTerm_of_exact hexact, lacGet_lacPut hu]

/-- 12:R328: four integers added, where the sums have 128 bits. -/
theorem addTerm_int (hint : isIntType dt = true) (hfits : ∀ i, i < 4 → -(2 ^ 127 : Int) ≤ (intGet s y (entryBase y w + i)).1 + iterm i ∧
      (intGet s y (entryBase y w + i)).1 + iterm i < 2 ^ 127) : ∀ i, i < 4 →
    intGet ((List.range 4).foldl (addTerm y w dt term iterm) s) y (entryBase y w + i) =
      ((intGet s y (entryBase y w + i)).1 + iterm i, (intGet s y (entryBase y w + i)).2) := by
  refine fold_entries (get := fun u m => intGet u y m) (P := fun u => Memory.wf 0 u.slots = true) (fun u i hu => ?_) hwf fun u i hu hi hsame m => ?_
  · rw [addTerm_of_int hint]
    exact intAdd_wf hu _
  · obtain ⟨hlow, hhigh⟩ := hfits i hi
    rw [← hsame] at hlow hhigh ⊢
    rw [addTerm_of_int hint, intGet_intAdd hu hlow hhigh]

end
/-- 13:R354: the check of entries `e` to `e + k - 1`. -/
theorem entriesIn_true {y : Thread} {int : Bool} {e k : Nat} (h : (e + k - 1) / (if int then 30 else 6) < y.slots) :
    ¬ (!entriesIn y int e k) = true := by simp [entriesIn, h]

theorem entriesIn_false {y : Thread} {int : Bool} {e k : Nat} (h : ¬ (e + k - 1) / (if int then 30 else 6) < y.slots) :
    (!entriesIn y int e k) = true := by simp [entriesIn, h]

/-- What entries read follows from the slots. -/
theorem lacGet_congr {s u : State} (h : u.slots = s.slots) (y : Thread) (n : Nat) : lacGet u y n = lacGet s y n := by
  rw [lacGet_eq, lacGet_eq, slotRead, slotRead, h]
  rfl

theorem intGet_congr {s u : State} (h : u.slots = s.slots) (y : Thread) (n : Nat) : intGet u y n = intGet s y n := by
  rw [intGet_eq, intGet_eq, slotRead, slotRead, h]
  rfl

@[simp] theorem lacGet_modThread (t : Tid) (f : Thread → Thread) (s : State) (y : Thread) (n : Nat) :
    lacGet (modThread t f s) y n = lacGet s y n := lacGet_congr rfl y n

@[simp] theorem intGet_modThread (t : Tid) (f : Thread → Thread) (s : State) (y : Thread) (n : Nat) :
    intGet (modThread t f s) y n = intGet s y n := intGet_congr rfl y n

@[simp] theorem lacGet_noteOverflow (x : Ctx) (o : Bool) (s : State) (y : Thread) (n : Nat) :
    lacGet (noteOverflow x o s) y n = lacGet s y n := lacGet_congr rfl y n

@[simp] theorem intGet_noteOverflow (x : Ctx) (o : Bool) (s : State) (y : Thread) (n : Nat) :
    intGet (noteOverflow x o s) y n = intGet s y n := intGet_congr rfl y n

@[simp] theorem issued_lacGet (t : Tid) (o : Nat) (x : Ctx) (s : State) (y : Thread) (n : Nat) :
    lacGet (s.issued t o x) y n = lacGet s y n := lacGet_congr rfl y n

@[simp] theorem issued_intGet (t : Tid) (o : Nat) (x : Ctx) (s : State) (y : Thread) (n : Nat) :
    intGet (s.issued t o x) y n = intGet s y n := intGet_congr rfl y n

section
variable {t : Tid} {o : Nat} {w : InsFields} {y : Thread} {x : Ctx} {c : Comm} {s : State} (hwf : Memory.wf 0 s.slots = true)
include hwf

/-- 13:R354, R355; 12:R320, R328: four terms that a row adds to four entries. -/
theorem accumulate_clauses (h : s.Issues t o w y x c) {row : Instr} {dt : Nat} {term : Nat → FVal} {iterm : Nat → Int}
    (hexec : isAccType dt = true → Machine.exec row s = .next (accumulate dt term iterm w y (s.issued t o x))) :
    (isFloatType dt = true → isIntType dt = false → ¬ (entryBase y w + 3) / 6 < y.slots →
      Machine.exec row s = .next (faultThread y 0x03 (s.issued t o x))) ∧
    (isIntType dt = true → ¬ (entryBase y w + 3) / 30 < y.slots → Machine.exec row s = .next (faultThread y 0x03 (s.issued t o x))) ∧
    (isFloatType dt = true → isIntType dt = false → (entryBase y w + 3) / 6 < y.slots → AccDone t y s row fun _ v => ∀ i, i < 4 →
      lacGet v y (entryBase y w + i) = lacAdd (lacGet s y (entryBase y w + i)).1 (lacGet s y (entryBase y w + i)).2 (term i)) ∧
    (isIntType dt = true → (entryBase y w + 3) / 30 < y.slots → (∀ i, i < 4 → -(2 ^ 127 : Int) ≤ (intGet s y (entryBase y w + i)).1 + iterm i ∧
        (intGet s y (entryBase y w + i)).1 + iterm i < 2 ^ 127) → AccDone t y s row fun _ v => ∀ i, i < 4 →
      intGet v y (entryBase y w + i) = ((intGet s y (entryBase y w + i)).1 + iterm i, (intGet s y (entryBase y w + i)).2)) := by
  refine ⟨fun hfloat hint hout => ?_, fun hint hout => ?_, fun hfloat hint hin => ?_, fun hint hin hfits => ?_⟩
  · rw [hexec (by simp [isAccType, hfloat]), accumulate_outside (by simpa [hint] using hout)]
  · rw [hexec (by simp [isAccType, hint]), accumulate_outside (by simpa [hint] using hout)]
  · have hdone := hexec (by simp [isAccType, hfloat])
    rw [accumulate_inside (by simpa [hint] using hin), thread_of_issues h] at hdone
    refine accDone_of h hdone (addTerm_threads 4) (fun z => ⟨_, _, rfl⟩) fun i hi => ?_
    rw [lacGet_modThread, addTerm_exact (s := s.issued t o x) hwf hint i hi, issued_lacGet]
  · have hdone := hexec (by simp [isAccType, hint])
    rw [accumulate_inside (by simpa [hint] using hin), thread_of_issues h] at hdone
    refine accDone_of h hdone (addTerm_threads 4) (fun z => ⟨_, _, rfl⟩) fun i hi => ?_
    rw [intGet_modThread, addTerm_int (s := s.issued t o x) hwf hint (fun k hk => by rw [issued_intGet]; exact hfits k hk) i hi,
      issued_intGet]

omit hwf

/-- Element `i` of group C of a register. -/
def groupElem (y : Thread) (w : InsFields) (r : BitVec 5) (i : Nat) : Nat :=
  velem (vreg y r.toNat) (dtypeSize w.md.toNat) (4 * w.c.toNat + i)

theorem accx_runs (h : s.Issues t 0x40 w y x c) (ha : w.a.toNat < 8) (hb : w.b = 0) (hz : 0 < dtypeSize w.md.toNat)
    (hgroup : (w.c.toNat + 1) * 4 * dtypeSize w.md.toNat ≤ 64) (hacc : isAccType w.md.toNat = true) :
    Machine.exec (.accx t w) s = .next (accumulate w.md.toNat (fun i => codeVal w.md.toNat (groupElem y w w.a i))
      (fun i => sext (8 * dtypeSize w.md.toNat) (groupElem y w w.a i)) w y (s.issued t 0x40 x)) :=
  (lane_runs h rfl (by simp [unused, isV, groupOk, ha, hb, hz, hgroup, hacc])).trans rfl

theorem accp_runs (h : s.Issues t 0x41 w y x c) (ha : w.a.toNat < 8) (hb : w.b.toNat < 8) (hz : 0 < dtypeSize w.md.toNat)
    (hgroup : (w.c.toNat + 1) * 4 * dtypeSize w.md.toNat ≤ 64) (hacc : isAccType w.md.toNat = true) :
    Machine.exec (.accp t w) s = .next (accumulate w.md.toNat
      (fun i => fmul (codeVal w.md.toNat (groupElem y w w.a i)) (codeVal w.md.toNat (groupElem y w w.b i)))
      (fun i => sext (8 * dtypeSize w.md.toNat) (groupElem y w w.a i) * sext (8 * dtypeSize w.md.toNat) (groupElem y w w.b i)) w y
        (s.issued t 0x41 x)) :=
  (lane_runs h rfl (by simp [unused, isV, groupOk, ha, hb, hz, hgroup, hacc])).trans rfl

/-! ## ACCLP and ACCESC -/

/-- One value merged into an entry. -/
def mergeEntry (y : Thread) (w : InsFields) (r : Nat → BitVec 640 × BitVec 5) (u : State) (i : Nat) : State :=
  lacPut y (entryBase y w + i) (lacMerge (lacGet u y (entryBase y w + i)).1 (lacGet u y (entryBase y w + i)).2 (r i).1 (r i).2) u

theorem addLp_some {r : BitVec 640 × BitVec 5} {n : Nat} {b : Bytes} {u : State} (h : ofLp128 b = some r) :
    addLp y n b u = lacPut y n (lacMerge (lacGet u y n).1 (lacGet u y n).2 r.1 r.2) u := by
  unfold addLp
  rw [h]

include hwf

theorem mergeEntry_merges {r : Nat → BitVec 640 × BitVec 5} : ∀ i, i < 4 →
    lacGet ((List.range 4).foldl (mergeEntry y w r) s) y (entryBase y w + i) =
      lacMerge (lacGet s y (entryBase y w + i)).1 (lacGet s y (entryBase y w + i)).2 (r i).1 (r i).2 := by
  refine fold_entries (get := fun u m => lacGet u y m) (P := fun u => Memory.wf 0 u.slots = true) (fun u i hu => lacPut_wf hu _) hwf
    fun u i hu _ hsame m => ?_
  rw [← hsame, mergeEntry, lacGet_lacPut hu]

/-- 13:R355; 12:R325: four LP128 entries merged. -/
theorem acclp_clauses (h : s.Issues t 0x42 w y x c) (hmod : w.md = 0) (ha : w.a.toNat < 8) (hb : w.b = 0) (hc : w.c = 0) :
    (¬ (entryBase y w + 3) / 6 < y.slots → Machine.exec (.acclp t w) s = .next (faultThread y 0x03 (s.issued t 0x42 x))) ∧
    (∀ r : Nat → BitVec 640 × BitVec 5, (entryBase y w + 3) / 6 < y.slots →
      (∀ i, i < 4 → ofLp128 (slice (16 * i) 16 (vbytes (vreg y w.a.toNat))) = some (r i)) →
      AccDone t y s (.acclp t w) fun _ v => ∀ i, i < 4 → lacGet v y (entryBase y w + i) =
        lacMerge (lacGet s y (entryBase y w + i)).1 (lacGet s y (entryBase y w + i)).2 (r i).1 (r i).2) := by
  have hexec : Machine.exec (.acclp t w) s = .next (if !entriesIn y false (entryBase y w) 4 then faultThread y 0x03 (s.issued t 0x42 x)
      else modThread t stepOn ((List.range 4).foldl (fun u i => addLp y (entryBase y w + i) (slice (16 * i) 16 (vbytes (vreg y w.a.toNat))) u)
        (s.issued t 0x42 x))) := by
    rw [lane_runs h rfl (by simp [unused, isV, hmod, ha, hb, hc]), thread_of_issues h]
  refine ⟨fun hout => ?_, fun r hin hr => ?_⟩
  · rw [hexec, if_pos (entriesIn_false hout)]
  · rw [if_neg (entriesIn_true hin), List.foldl_ext (g := mergeEntry y w r) (H := fun u i hi => addLp_some (hr i (List.mem_range.1 hi)))]
      at hexec
    refine accDone_of h hexec (foldl_frame (π := State.threads) fun u i => lacPut_threads ..) (fun z => ⟨_, _, rfl⟩) fun i hi => ?_
    rw [lacGet_modThread, mergeEntry_merges (s := s.issued t 0x42 x) hwf i hi, issued_lacGet]

/-- 13:R355: an escape merged. -/
theorem accesc_clauses (h : s.Issues t 0x43 w y x c) (hmod : w.md = 0) (ha : w.a.toNat < 8) (hb : w.b = 0) (hc : w.c = 0) :
    (w.a.toNat % 2 = 1 → Machine.exec (.accesc t w) s = .next (faultThread y 0x04 (s.issued t 0x43 x))) ∧
    (w.a.toNat % 2 = 0 → y.slots ≤ entryBase y w / 6 → Machine.exec (.accesc t w) s = .next (faultThread y 0x03 (s.issued t 0x43 x))) ∧
    (w.a.toNat % 2 = 0 → entryBase y w / 6 < y.slots → AccDone t y s (.accesc t w) fun _ v =>
      lacGet v y (entryBase y w) = lacMerge (lacGet s y (entryBase y w)).1 (lacGet s y (entryBase y w)).2 (escapeOf y w.a.toNat) 0) := by
  have hexec : Machine.exec (.accesc t w) s = .next (if w.a.toNat % 2 = 1 then faultThread y 0x04 (s.issued t 0x43 x)
      else if !entriesIn y false (entryBase y w) 1 then faultThread y 0x03 (s.issued t 0x43 x)
      else modThread t stepOn (lacPut y (entryBase y w) (lacMerge (lacGet (s.issued t 0x43 x) y (entryBase y w)).1
        (lacGet (s.issued t 0x43 x) y (entryBase y w)).2 (escapeOf y w.a.toNat) 0) (s.issued t 0x43 x))) := by
    rw [lane_runs h rfl (by simp [unused, isV, hmod, ha, hb, hc]), thread_of_issues h]
  refine ⟨fun hodd => ?_, fun heven hout => ?_, fun heven hin => ?_⟩
  · rw [hexec, if_pos hodd]
  · rw [hexec, if_neg (by omega), if_pos (entriesIn_false (Nat.not_lt.2 hout))]
  · rw [if_neg (by omega), if_neg (entriesIn_true hin), issued_lacGet] at hexec
    refine accDone_of h hexec (lacPut_threads ..) (fun z => ⟨_, _, rfl⟩) ?_
    rw [lacGet_modThread, lacGet_lacPut (s := s.issued t 0x43 x) hwf, if_pos rfl]

/-! ## ACC_DRAIN -/

omit hwf

/-- The drain of one entry as an escape, into a pair of registers (12:R326, R334). -/
theorem drainEscape_runs (h : s.Issues t 0x44 w y x c) (hmod : w.md.toNat = 0) (ha : w.a.toNat < 8) (hb : w.b = 0) (hc : w.c = 0) :
    Machine.exec (.accDrain t w) s = .next (if w.a.toNat % 2 = 1 then faultThread y 0x04 (s.issued t 0x44 x)
      else if !entriesIn y false (entryBase y w) 1 then faultThread y 0x03 (s.issued t 0x44 x)
      else modThread t (fun q => stepOn (pairSet w.a.toNat (ofVbytes ((leBytes 80 (lacGet s y (entryBase y w)).1.toNat).take 64))
          (vpatch (vreg y (w.a.toNat + 1)) 0 ((leBytes 80 (lacGet s y (entryBase y w)).1.toNat).drop 64)) q))
        (noteOverflow x ((lacGet s y (entryBase y w)).2.getLsbD 4) (lacClear y (entryBase y w) (s.issued t 0x44 x)))) := by
  rw [lane_runs h rfl (by simp [unused, isV, hmod, ha, hb, hc]), if_pos hmod, thread_of_issues h]
  simp only [issued_lacGet]
  rfl

/-- One drained entry reset. -/
def clearEntry (y : Thread) (w : InsFields) (dt : Nat) (u : State) (i : Nat) : State :=
  if isIntType dt then intClear y (entryBase y w + i) u else lacClear y (entryBase y w + i) u

theorem drainEntry_issued (o : Nat) (dt n : Nat) : drainEntry (s.issued t o x) x y dt n = drainEntry s x y dt n := by
  simp only [drainEntry, issued_lacGet, issued_intGet]

/-- The drain of four entries into a group of elements (12:R326 to R328). -/
theorem drainGroup_runs (h : s.Issues t 0x44 w y x c) (hmod : w.md.toNat ≠ 0) (ha : w.a.toNat < 8) (hb : w.b = 0)
    (hacc : isAccType w.md.toNat = true) (hz : 0 < dtypeSize w.md.toNat) (hgroup : (w.c.toNat + 1) * 4 * dtypeSize w.md.toNat ≤ 64) :
    Machine.exec (.accDrain t w) s = .next (if !entriesIn y (isIntType w.md.toNat) (entryBase y w) 4 then faultThread y 0x03 (s.issued t 0x44 x)
      else modThread t (fun q => stepOn (q.setV w.a.toNat (vpatch (vreg y w.a.toNat) (4 * dtypeSize w.md.toNat * w.c.toNat)
          ((List.range 4).flatMap fun i => (drainEntry s x y w.md.toNat (entryBase y w + i)).1))))
        (noteOverflow x ((List.range 4).any fun i => (drainEntry s x y w.md.toNat (entryBase y w + i)).2)
          ((List.range 4).foldl (clearEntry y w w.md.toNat) (s.issued t 0x44 x)))) := by
  rw [lane_runs h rfl (by simp [unused, isV, groupOk, hmod, ha, hb, hacc, hz, hgroup]), if_neg hmod, thread_of_issues h]
  simp only [drainEntry_issued, List.flatMap_map, List.any_map]
  rfl

theorem noteOverflow_threads (flag : Bool) (u : State) : (noteOverflow x flag u).threads = u.threads := rfl

theorem lacClear_threads (n : Nat) (u : State) : (lacClear y n u).threads = u.threads := by
  unfold lacClear slotWrite
  dsimp only

theorem intClear_threads (n : Nat) (u : State) : (intClear y n u).threads = u.threads := by
  unfold intClear slotWrite
  dsimp only

theorem clearEntry_threads (dt : Nat) (u : State) : ((List.range 4).foldl (clearEntry y w dt) u).threads = u.threads := by
  refine foldl_frame (π := State.threads) fun v i => ?_
  unfold clearEntry
  split
  · exact intClear_threads ..
  · exact lacClear_threads ..

include hwf in
theorem clearEntry_exact {dt : Nat} (hexact : isIntType dt = false) : ∀ i, i < 4 →
    lacGet ((List.range 4).foldl (clearEntry y w dt) s) y (entryBase y w + i) = (0, lacNegZero) := by
  have hclear (u : State) (i : Nat) : clearEntry y w dt u i = lacClear y (entryBase y w + i) u := by simp [clearEntry, hexact]
  refine fold_entries (get := fun u m => lacGet u y m) (P := fun u => Memory.wf 0 u.slots = true)
    (fun u i hu => by rw [hclear]; exact lacClear_wf hu) hwf fun u i hu _ _ m => ?_
  rw [hclear, lacGet_lacClear hu]

include hwf in
theorem clearEntry_int {dt : Nat} (hint : isIntType dt = true) : ∀ i, i < 4 →
    (intGet ((List.range 4).foldl (clearEntry y w dt) s) y (entryBase y w + i)).1 = 0 := by
  have hclear (u : State) (i : Nat) : clearEntry y w dt u i = intClear y (entryBase y w + i) u := by simp [clearEntry, hint]
  refine fold_entries (get := fun u m => (intGet u y m).1) (val := fun _ => 0) (P := fun u => Memory.wf 0 u.slots = true)
    (fun u i hu => by rw [hclear]; exact intClear_wf hu) hwf fun u i hu _ _ m => ?_
  rw [hclear, intGet_intClear hu]

theorem drainEntry_exact {dt : Nat} {f : Fmt} (hf : fmtOf dt = some f) (hexact : isIntType dt = false) (n : Nat) :
    (drainEntry s x y dt n).1 = leBytes (dtypeSize dt) (fencode f (ctxSat x) (lacVal (lacGet s y n).1 (lacGet s y n).2)).1 := by
  simp [drainEntry, hexact, hf]

theorem drainEntry_int {dt : Nat} (hint : isIntType dt = true) (n : Nat) :
    (drainEntry s x y dt n).1 = leBytes (dtypeSize dt) (twos (8 * dtypeSize dt) (satInt (dtypeSize dt) (intGet s y n).1).1) := by
  simp [drainEntry, hint]

variable (hlen : y.v.length = 8)
include hwf hlen

/-- 12:R326, R334: an entry drained as an escape is in the pair of registers, and zero behind it. -/
theorem drainEscape_drains (h : s.Issues t 0x44 w y x c) (hmod : w.md.toNat = 0) (ha : w.a.toNat < 8) (hb : w.b = 0) (hc : w.c = 0)
    (heven : w.a.toNat % 2 = 0) (hin : entryBase y w / 6 < y.slots) : AccDone t y s (.accDrain t w) fun z v =>
      lacGet v y (entryBase y w) = (0, lacNegZero) ∧
      vbytes (vreg z w.a.toNat) ++ (vbytes (vreg z (w.a.toNat + 1))).take 16 = leBytes 80 (lacGet s y (entryBase y w)).1.toNat := by
  have hexec := drainEscape_runs h hmod ha hb hc
  rw [if_neg (by omega), if_neg (entriesIn_true hin)] at hexec
  refine accDone_of h hexec ((noteOverflow_threads ..).trans (lacClear_threads ..)) (fun z => ⟨_, _, rfl⟩) ⟨?_, ?_⟩
  · rw [lacGet_modThread, lacGet_noteOverflow, lacGet_lacClear (s := s.issued t 0x44 x) hwf, if_pos rfl]
  · have h80 := leBytes_length 80 (lacGet s y (entryBase y w)).1.toNat
    generalize leBytes 80 (lacGet s y (entryBase y w)).1.toNat = b at h80 ⊢
    have hlow : (b.take 64).length = 64 := by rw [List.length_take, h80]; rfl
    have hhigh : (b.drop 64).length = 16 := by rw [List.length_drop, h80]
    rw [vreg_setPair_low hlen ha, vreg_setPair_high hlen ha (by omega), vbytes_ofVbytes hlow, vbytes_vpatch (by rw [hhigh]; decide),
      List.take_zero, List.nil_append, List.take_left' hhigh, List.take_append_drop]

/-- 12:R326: four entries drained into a group of float elements are in it, and zero behind it. -/
theorem drain_exact {f : Fmt} (h : s.Issues t 0x44 w y x c) (ha : w.a.toNat < 8) (hb : w.b = 0) (hf : fmtOf w.md.toNat = some f)
    (hfloat : isFloatType w.md.toNat = true) (hexact : isIntType w.md.toNat = false) (hz : 0 < dtypeSize w.md.toNat)
    (hgroup : (w.c.toNat + 1) * 4 * dtypeSize w.md.toNat ≤ 64) (hin : (entryBase y w + 3) / 6 < y.slots) :
    AccDone t y s (.accDrain t w) fun z v => ∀ i, i < 4 →
      velem (vreg z w.a.toNat) (dtypeSize w.md.toNat) (4 * w.c.toNat + i) = (fencode f (ctxSat x)
        (lacVal (lacGet s y (entryBase y w + i)).1 (lacGet s y (entryBase y w + i)).2)).1 % 2 ^ (8 * dtypeSize w.md.toNat) ∧
      lacGet v y (entryBase y w + i) = (0, lacNegZero) := by
  have hmod : w.md.toNat ≠ 0 := fun h0 => by rw [h0] at hf; cases hf
  have hexec := drainGroup_runs h hmod ha hb (by simp [isAccType, hfloat]) hz hgroup
  rw [if_neg (entriesIn_true (by simpa [hexact] using hin))] at hexec
  simp only [drainEntry_exact hf hexact] at hexec
  refine accDone_of h hexec ((noteOverflow_threads ..).trans (clearEntry_threads ..)) (fun z => ⟨_, _, rfl⟩) fun i hi => ⟨?_, ?_⟩
  · rw [vreg_stepOn_setV hlen ha, velem_group hgroup hi]
  · rw [lacGet_modThread, lacGet_noteOverflow, clearEntry_exact (s := s.issued t 0x44 x) hwf hexact i hi]

/-- 12:R328: four entries drained into a group of integers are in it, saturated, and zero behind it. -/
theorem drain_int (h : s.Issues t 0x44 w y x c) (ha : w.a.toNat < 8) (hb : w.b = 0) (hint : isIntType w.md.toNat = true)
    (hz : 0 < dtypeSize w.md.toNat) (hgroup : (w.c.toNat + 1) * 4 * dtypeSize w.md.toNat ≤ 64) (hin : (entryBase y w + 3) / 30 < y.slots) :
    AccDone t y s (.accDrain t w) fun z v => ∀ i, i < 4 →
      velem (vreg z w.a.toNat) (dtypeSize w.md.toNat) (4 * w.c.toNat + i) = twos (8 * dtypeSize w.md.toNat)
        (satInt (dtypeSize w.md.toNat) (intGet s y (entryBase y w + i)).1).1 ∧ (intGet v y (entryBase y w + i)).1 = 0 := by
  have hmod : w.md.toNat ≠ 0 := fun h0 => by rw [h0] at hint; cases hint
  have hexec := drainGroup_runs h hmod ha hb (by simp [isAccType, hint]) hz hgroup
  rw [if_neg (entriesIn_true (by simpa [hint] using hin))] at hexec
  simp only [drainEntry_int hint] at hexec
  refine accDone_of h hexec ((noteOverflow_threads ..).trans (clearEntry_threads ..)) (fun z => ⟨_, _, rfl⟩) fun i hi => ⟨?_, ?_⟩
  · rw [vreg_stepOn_setV hlen ha, velem_group hgroup hi, Nat.mod_eq_of_lt (twos_lt ..)]
  · rw [intGet_modThread, intGet_noteOverflow, clearEntry_int (s := s.issued t 0x44 x) hwf hint i hi]

end

/-! ## TOLP -/

/-- Bit `i` of the number of a list of bits. -/
theorem testBit_bitsNat (l : List Bool) (i : Nat) : (bitsNat l).testBit i = l.getD i false := by
  induction l generalizing i with
  | nil => simp [bitsNat]
  | cons b r ih =>
    have hb : b2n b < 2 := by cases b <;> decide
    cases i with
    | zero =>
      rw [bitsNat, Nat.testBit_zero, Nat.add_mul_mod_self_left, Nat.mod_eq_of_lt hb]
      cases b <;> rfl
    | succ i => rw [bitsNat, Nat.testBit_succ, show (b2n b + 2 * bitsNat r) / 2 = bitsNat r by omega, ih, List.getD_cons_succ]

section
variable {t : Tid} {w : InsFields} {y : Thread} {x : Ctx} {c : Comm} {s : State}

/-- The canonical form of entry `i`; `none` when it needs an escape. -/
def lpOf (s : State) (y : Thread) (w : InsFields) (i : Nat) : Option Bytes :=
  toLp128 (lacGet s y (entryBase y w + i)).1 (lacGet s y (entryBase y w + i)).2

/-- An entry that its canonical form has left, where it has one. -/
def lpEntry (s : State) (y : Thread) (w : InsFields) (u : State) (i : Nat) : State :=
  if (lpOf s y w i).isSome then lacClear y (entryBase y w + i) u else u

/-- The register and the bits of a TOLP. -/
def lpBytes (s : State) (y : Thread) (w : InsFields) : Bytes := (List.range 4).flatMap fun i => (lpOf s y w i).getD (leBytes 16 0)
def lpEscapes (s : State) (y : Thread) (w : InsFields) : Nat := bitsNat ((List.range 4).map fun i => (lpOf s y w i).isNone)

theorem tolp_runs (h : s.Issues t 0x45 w y x c) (hmod : w.md = 0) (ha : w.a.toNat < 8) (hc : w.c = 0) :
    Machine.exec (.tolp t w) s = .next (if !entriesIn y false (entryBase y w) 4 then faultThread y 0x03 (s.issued t 0x45 x)
      else modThread t (fun q => stepOn ((q.setV w.a.toNat (ofVbytes (lpBytes s y w))).setS w.b (BitVec.ofNat 64 (lpEscapes s y w))))
        (noteOverflow x ((List.range 4).any fun i => (lacGet s y (entryBase y w + i)).2.getLsbD 4)
          ((List.range 4).foldl (lpEntry s y w) (s.issued t 0x45 x)))) := by
  rw [lane_runs h rfl (by simp [unused, isV, hmod, ha, hc]), thread_of_issues h]
  simp only [issued_lacGet, List.map_map, List.flatMap_map, List.any_map]
  rfl

theorem lpEntry_threads (u : State) : ((List.range 4).foldl (lpEntry s y w) u).threads = u.threads := by
  refine foldl_frame (π := State.threads) fun v i => ?_
  unfold lpEntry
  split
  · exact lacClear_threads ..
  · rfl

theorem lpEntry_leaves (hwf : Memory.wf 0 s.slots = true) : ∀ i, i < 4 →
    lacGet ((List.range 4).foldl (lpEntry s y w) (s.issued t 0x45 x)) y (entryBase y w + i) =
      if (lpOf s y w i).isSome then (0, lacNegZero) else lacGet s y (entryBase y w + i) := by
  refine fold_entries (get := fun u m => lacGet u y m) (P := fun u => Memory.wf 0 u.slots = true) (fun u i hu => ?_) hwf
    fun u i hu _ hsame m => ?_
  · unfold lpEntry
    split
    · exact lacClear_wf hu
    · exact hu
  · rw [issued_lacGet] at hsame
    unfold lpEntry
    split
    · exact lacGet_lacClear hu
    · split
      · next heq => rw [heq, hsame]
      · rfl

theorem sreg_tolp (hregs : y.s.length = 32) (v : BitVec 512) (b : W64) : sreg (stepOn ((y.setV w.a.toNat v).setS w.b b)) w.b = b :=
  sreg_setS_same (y := y.setV w.a.toNat v) hregs w.b b

variable (hwf : Memory.wf 0 s.slots = true) (hlen : y.v.length = 8) (hregs : y.s.length = 32)
include hwf hregs

/-- 12:R323, R324: the bits of a TOLP name the entries that need escapes, which stay. -/
theorem tolp_escapes (h : s.Issues t 0x45 w y x c) (hmod : w.md = 0) (ha : w.a.toNat < 8) (hc : w.c = 0)
    (hin : (entryBase y w + 3) / 6 < y.slots) : AccDone t y s (.tolp t w) fun z v => ∀ i, i < 4 →
      if (toLp128 (lacGet s y (entryBase y w + i)).1 (lacGet s y (entryBase y w + i)).2).isSome
      then (sreg z w.b).getLsbD i = false ∧ lacGet v y (entryBase y w + i) = (0, lacNegZero)
      else (sreg z w.b).getLsbD i = true ∧ lacGet v y (entryBase y w + i) = lacGet s y (entryBase y w + i) := by
  have hexec := tolp_runs h hmod ha hc
  rw [if_neg (entriesIn_true hin)] at hexec
  refine accDone_of h hexec ((noteOverflow_threads ..).trans (lpEntry_threads ..)) (fun z => ⟨_, _, rfl⟩) fun i hi => ?_
  have hbit : (BitVec.ofNat 64 (lpEscapes s y w)).getLsbD i = (lpOf s y w i).isNone := by
    rw [BitVec.getLsbD_ofNat, lpEscapes, testBit_bitsNat, List.getD_eq_getElem?_getD, List.getElem?_map, List.getElem?_range hi]
    simp
    omega
  rw [sreg_tolp hregs, hbit, lacGet_modThread, lacGet_noteOverflow, lpEntry_leaves hwf i hi]
  change if (lpOf s y w i).isSome = true then _ else _
  split
  · next hsome => exact ⟨by simpa using hsome, rfl⟩
  · next hnone => exact ⟨by simpa using hnone, rfl⟩

include hlen

/-- 12:R323: a TOLP of four entries with canonical forms. -/
theorem tolp_all (h : s.Issues t 0x45 w y x c) (hmod : w.md = 0) (ha : w.a.toNat < 8) (hc : w.c = 0) {b : Nat → Bytes}
    (hin : (entryBase y w + 3) / 6 < y.slots)
    (hsome : ∀ i, i < 4 → toLp128 (lacGet s y (entryBase y w + i)).1 (lacGet s y (entryBase y w + i)).2 = some (b i))
    (h16 : ∀ i, i < 4 → (b i).length = 16) : AccDone t y s (.tolp t w) fun z v => sreg z w.b = 0 ∧
      vbytes (vreg z w.a.toNat) = b 0 ++ b 1 ++ b 2 ++ b 3 ∧ ∀ i, i < 4 → lacGet v y (entryBase y w + i) = (0, lacNegZero) := by
  have hexec := tolp_runs h hmod ha hc
  rw [if_neg (entriesIn_true hin)] at hexec
  have hlp (i : Nat) (hi : i < 4) : lpOf s y w i = some (b i) := hsome i hi
  have hbytes : lpBytes s y w = b 0 ++ b 1 ++ b 2 ++ b 3 := by
    simp [lpBytes, List.range_succ, hlp]
  have hescapes : lpEscapes s y w = 0 := by
    simp [lpEscapes, List.range_succ, hlp, bitsNat, b2n]
  refine accDone_of h hexec ((noteOverflow_threads ..).trans (lpEntry_threads ..)) (fun z => ⟨_, _, rfl⟩) ⟨?_, ?_, fun i hi => ?_⟩
  · rw [sreg_tolp hregs, hescapes]
    rfl
  · have hreg : vreg (stepOn ((y.setV w.a.toNat (ofVbytes (lpBytes s y w))).setS w.b (BitVec.ofNat 64 (lpEscapes s y w)))) w.a.toNat =
        ofVbytes (lpBytes s y w) := vreg_setV_same (by omega) _
    rw [hreg, hbytes, vbytes_ofVbytes (by simp [h16])]
  · rw [lacGet_modThread, lacGet_noteOverflow, lpEntry_leaves hwf i hi, hlp i hi]
    rfl

omit hwf hlen hregs in
/-- 12:R334: SLOTCLR. -/
theorem slotclr_clauses (h : s.Issues t 0x46 w y x c) (hmod : w.md = 0) (hd : w.d = 0) (hb : w.b = 0) (hc : w.c = 0) :
    (y.slots < (sreg y w.a).toNat + w.imm.toNat → Machine.exec (.slotclr t w) s = .next (faultThread y 0x03 (s.issued t 0x46 x))) ∧
    ((sreg y w.a).toNat + w.imm.toNat ≤ y.slots → Machine.exec (.slotclr t w) s = .next (modThread t stepOn
      (resetSlots y.id.lane (y.slotBase + (sreg y w.a).toNat) w.imm.toNat x.mode (s.issued t 0x46 x)))) := by
  rw [lane_runs h rfl (by simp [unused, hmod, hd, hb, hc]), thread_of_issues h]
  exact ⟨fun hout => congrArg _ (if_pos hout), fun hin => congrArg _ (if_neg (Nat.not_lt.2 hin))⟩

end

/-- Settles O54: each row leaves its entries and registers as its lemmas above say (`AccDone`). -/
theorem laneAccumulators : Obligations.LaneAccumulators := by
  intro t w y x c s hlen hregs hwf u e dt zs lacs ints done el
  refine ⟨fun row hrow h ha hb1 hb0 hz hgroup => ?_, fun h hmod ha hb hc => acclp_clauses hwf h hmod ha hb hc,
    fun h hmod ha hb hc => accesc_clauses hwf h hmod ha hb hc, fun h ha hb => ?_, fun h hmod ha hc => ?_, fun h hmod hd hb hc =>
      slotclr_clauses h hmod hd hb hc⟩
  · simp only [List.mem_cons, List.not_mem_nil, or_false] at hrow
    rcases hrow with rfl | rfl
    · exact accumulate_clauses hwf h (accx_runs h ha (hb0 rfl) hz hgroup)
    · exact accumulate_clauses hwf h (accp_runs h ha (hb1 rfl) hz hgroup)
  · refine ⟨fun hmod hc hodd => ?_, fun hmod hc heven hout => ?_, fun f hf hfloat hexact hgroup hz => ⟨fun hout => ?_, fun hin => ?_⟩,
      fun hmod hc heven hin => drainEscape_drains hwf hlen h hmod ha hb hc heven hin,
      fun hint hgroup hz hin => drain_int hwf hlen h ha hb hint hz hgroup hin⟩
    · rw [drainEscape_runs h hmod ha hb hc, if_pos hodd]
    · rw [drainEscape_runs h hmod ha hb hc, if_neg (by omega), if_pos (entriesIn_false (Nat.not_lt.2 hout))]
    · have hmod : w.md.toNat ≠ 0 := fun h0 => by rw [show dt = 0 from h0] at hf; cases hf
      rw [drainGroup_runs h hmod ha hb (by simp [isAccType, show isFloatType w.md.toNat = true from hfloat]) hz hgroup,
        if_pos (entriesIn_false (by rw [show isIntType w.md.toNat = false from hexact]; exact hout))]
    · exact drain_exact hwf hlen h ha hb hf hfloat hexact hz hgroup hin
  · refine ⟨fun hout => ?_, fun hin => tolp_escapes hwf hregs h hmod ha hc hin, fun b hin hsome h16 =>
      tolp_all hwf hlen hregs h hmod ha hc hin hsome h16⟩
    rw [tolp_runs h hmod ha hc, if_pos (entriesIn_false hout)]

end Sys2Proof.Proofs

/-! TM_OP, ACCUM_ARM, ACCUM_DISARM and TM_FENCE (15:R411, R414 to R416, R426, R431; 01:R28): what refuses an operation, how it joins the
module queues, fences, and O31 from them. That LIMIT without a running Tannery comes before any value that a field holds is log 98. -/

namespace Sys2Proof.Proofs

open Sys2Proof Sys2Proof.Machine Sys2Proof.Laws

/-! ## Taking a ticket -/

/-- The state behind an operation that has taken its ticket and joined the queues of its modules (15:R414). -/
def tmQueued (o : TmQueued) (s : State) : State :=
  let v := tmPrepare { o with ticket := some s.tm.next } s
  { v with tm := { v.tm with
      queue := v.tm.queue ++ [{ o with
        op := s.tm.nextOp, ticket := some s.tm.next
        todo := tmTouches s o &&& ~~~ s.tm.down, failed := (tmTouches s o &&& s.tm.down) != 0 }]
      next := s.tm.next + 1
      nextOp := s.tm.nextOp + 1 } }

theorem tmEnqueue_eq (o : TmQueued) (s : State) : tmEnqueue { o with ticket := some s.tm.next } { s with tm := { s.tm with next := s.tm.next + 1 } } =
    tmQueued o s := rfl

theorem tmSettle_idle {s : State} (h : s.cmds = []) : tmSettle s = s := by
  rw [tmSettle, h]
  rfl

/-- Nothing leaves the module queues while each operation has modules left. -/
theorem tmRetireAll_idle {s : State} (hqueue : ∀ x ∈ s.tm.queue, x.todo ≠ 0) (hcmds : s.cmds = []) (k : Nat) : tmRetireAll k s = s := by
  have hnone : s.tm.queue.find? (fun o => o.todo = 0) = none := List.find?_eq_none.2 fun x hx => by simpa using hqueue x hx
  cases k with
  | zero => exact tmSettle_idle hcmds
  | succ k => rw [tmRetireAll, hnone, tmSettle_idle hcmds]

/-- 15:R414: an operation takes the next ticket, which completes its command, and joins the queues. -/
theorem tmStart_queues {q : BitVec 6} {e : Entry} {o : TmQueued} {s : State} (htouches : tmTouches s o &&& ~~~ s.tm.down ≠ 0)
    (hqueue : ∀ x ∈ s.tm.queue, x.todo ≠ 0) (hcmds : s.cmds = []) : tmStart q e o s = endResult q e s.tm.next (tmQueued o s) := by
  have hstart : tmStart q e o s = tmRetireAll (tmQueued o s).tm.queue.length (endResult q e s.tm.next (tmQueued o s)) := rfl
  have hposted : unposted (endResult q e s.tm.next (tmQueued o s)) = unposted (tmQueued o s) := postCompletion_unposted ..
  have htm : (endResult q e s.tm.next (tmQueued o s)).tm = (tmQueued o s).tm := (congrArg State.tm hposted :)
  rw [hstart, tmRetireAll_idle ?_ ((cmds_of_unposted hposted).trans hcmds)]
  intro x hx
  rw [htm] at hx
  rcases List.mem_append.1 hx with hold | hnew
  · exact hqueue x hold
  · obtain rfl := List.mem_singleton.1 hnew
    exact htouches

/-! ## Rows -/

section
variable {q : BitVec 6} {e : Entry} {fields : List (Nat × Nat)} {s t : State} {run : State → Option State} {ok : Bool} {c : Instr}
  (hrow : Machine.exec c = fun s => live s (octozRow q e ok fields run)) (hok : ok = true) (h : s.AtHead q e)
  (hk : opcodeKnown (entOpcode e) = true) (hres : noReserved fields e = true)
include hrow hok h hk hres

/-- A command that has to wait. -/
theorem row_waits (hrun : run (popHead q s) = none) : Machine.exec c s = .next s := by
  rw [hrow]
  exact (live_runs (runs_of_awake h.1.1)).trans (congrArg _ (octozRow_waits hok h hk hres hrun))

/-- A command that starts, and leaves the fetched entries. -/
theorem row_starts (hrun : run (popHead q s) = some t) (hlast : (getPage q.toNat t).fetched = (getPage q.toNat (popHead q s)).fetched) :
    Machine.exec c s = .next t := by
  rw [hrow]
  exact (live_runs (runs_of_awake h.1.1)).trans (congrArg _ (octozRow_starts hok h hk hres hrun hlast))

end

section
variable (q : BitVec 6) (e : Entry) (s : State)

@[simp] theorem popHead_tm : (popHead q s).tm = s.tm := modPage_tm ..

/-- What Tannery commands look at beside the Tannery's own record are the running modules. -/
theorem popHead_tmCheck : tmOpCheck (popHead q s) e = tmOpCheck s e ∧ (∀ codes, controlCheck (popHead q s) e codes = controlCheck s e codes) ∧
    (∀ o, tmTouches (popHead q s) o = tmTouches s o) ∧ (∀ m, tmFull (popHead q s) m = tmFull s m) ∧
    tmRunning (popHead q s) = tmRunning s ∧ (∀ a n, armedOverlap (popHead q s) a n = armedOverlap s a n) ∧
    runningPorts (popHead q s) = runningPorts s ∧ tmDone (popHead q s) = tmDone s := by
  obtain ⟨l, hl⟩ := popHead_frame q s
  rw [hl]
  exact ⟨rfl, fun _ => rfl, fun _ => rfl, fun _ => rfl, rfl, fun _ _ => rfl, rfl, rfl⟩

end

/-- What the TM_OP row does once it starts. -/
def tmOpRun (q : BitVec 6) (e : Entry) (s : State) : Option State :=
  match tmOpCheck s e with
  | some st => some (endEntry q e st s)
  | none => if tmFull s (tmTouches s (tmOpOf e)) then none else some (tmStart q e (tmOpOf e) s)

theorem tmOp_exec (q : BitVec 6) (e : Entry) : Machine.exec (.tmOp q e) =
    fun s => live s (octozRow q e (entOpcode e = 0x30 && bodyField e 0 1 ≠ 0x20 && bodyField e 0 1 ≠ 0x21) tmOpFields (tmOpRun q e)) := rfl

/-- The codes of an ACCUM_ARM: an element type, and one of three operations (15:R426). -/
def armCodes (e : Entry) : Bool :=
  decide ((tmOpOf e).dtype = 3 ∨ (tmOpOf e).dtype = 9 ∨ (tmOpOf e).dtype = 0xA) &&
    decide (1 ≤ natBits 0 8 (tmOpOf e).imm.toNat ∧ natBits 0 8 (tmOpOf e).imm.toNat ≤ 3)

/-- The record of a range that is armed. -/
def armedNew (e : Entry) : Armed :=
  { dst := (tmOpOf e).dst, len := (tmOpOf e).len, dtype := (tmOpOf e).dtype, op := (tmOpOf e).imm.setWidth 8, armed := false, disarm := false }

/-- What the ACCUM_ARM row does once it starts. -/
def armRun (q : BitVec 6) (e : Entry) (codes : Bool) (s : State) : Option State :=
  match controlCheck s e codes with
  | some st => some (endEntry q e st s)
  | none =>
    if armedOverlap s (tmOpOf e).dst (tmOpOf e).len then some (endEntry q e stBadDesc s)
    else if 16 ≤ s.tm.armed.length then some (endEntry q e stLimit s)
    else if tmFull s (tmRunning s) then none
    else some (tmStart q e (tmOpOf e) { s with tm := { s.tm with armed := s.tm.armed ++ [armedNew e] } })

theorem accumArm_row_codes (q : BitVec 6) (e : Entry) : ∃ codes, codes = armCodes e ∧ Machine.exec (.accumArm q e) =
    fun s => live s (octozRow q e (entOpcode e = 0x30 && bodyField e 0 1 = 0x20) tmOpFields (armRun q e codes)) := by
  refine ⟨_, ?_, rfl⟩
  have hcode (d : Byte) (k : Nat) (hk : k < 256) : d.toNat = k ↔ d = BitVec.ofNat 8 k := by
    rw [← BitVec.toNat_inj, BitVec.toNat_ofNat, Nat.mod_eq_of_lt hk]
  have himm : ((tmOpOf e).imm.setWidth 8).toNat = natBits 0 8 (tmOpOf e).imm.toNat := by
    rw [BitVec.toNat_setWidth, natBits, Nat.shiftRight_zero]
  rw [himm, armCodes, Bool.eq_iff_iff]
  simp only [hcode _ 3 (by omega), hcode _ 9 (by omega), hcode _ 0xA (by omega)]
  simp [or_assoc, and_assoc]

theorem accumArm_exec (q : BitVec 6) (e : Entry) : Machine.exec (.accumArm q e) =
    fun s => live s (octozRow q e (entOpcode e = 0x30 && bodyField e 0 1 = 0x20) tmOpFields (armRun q e (armCodes e))) := by
  obtain ⟨codes, rfl, hexec⟩ := accumArm_row_codes q e
  exact hexec

/-- A range marked to be disarmed. -/
def markDisarm (e : Entry) (x : Armed) : Armed :=
  if (decide (x.dst = (tmOpOf e).dst) && !x.disarm) = true then { x with disarm := true } else x

/-- 15 Table 15-5: a control operation touches every running module. -/
theorem tmTouches_control {e : Entry} {s : State} {codes : Bool} (h : controlCheck s e codes = none) :
    tmTouches s (tmOpOf e) = tmRunning s := by
  have hview : bodyField e 1 1 = 0 := by
    by_contra hne
    unfold controlCheck at h
    extract_lets o at h
    split at h
    · cases h
    · rw [if_pos (by simp [hne])] at h
      cases h
  simp [tmTouches, tmOpOf, hview]

/-- What the ACCUM_DISARM row does once it starts. -/
def disarmRun (q : BitVec 6) (e : Entry) (s : State) : Option State :=
  match controlCheck s e (decide ((tmOpOf e).dtype = 0)) with
  | some st => some (endEntry q e st s)
  | none =>
    match s.tm.armed.find? (fun r => decide (r.dst = (tmOpOf e).dst) && !r.disarm) with
    | none => some (endEntry q e stBadDesc s)
    | some r =>
      if (tmOpOf e).len ≠ 0 && (tmOpOf e).len ≠ r.len then some (endEntry q e stBadDesc s)
      else if tmFull s (tmRunning s) then none
      else some (tmStart q e (tmOpOf e) { s with tm := { s.tm with armed := s.tm.armed.map (markDisarm e) } })

theorem accumDisarm_exec (q : BitVec 6) (e : Entry) : Machine.exec (.accumDisarm q e) =
    fun s => live s (octozRow q e (entOpcode e = 0x30 && bodyField e 0 1 = 0x21) tmOpFields (disarmRun q e)) := rfl

section
variable {q : BitVec 6} {e : Entry} {s : State} (h : s.AtHead q e)
include h

/-- An operation whose start changes at most the record of armed ranges. -/
theorem queued_results {fields : List (Nat × Nat)} {run : State → Option State} {ok : Bool} {c : Instr} {armed : List Armed}
    (hrow : Machine.exec c = fun s => live s (octozRow q e ok fields run)) (hok : ok = true) (hk : opcodeKnown (entOpcode e) = true)
    (hres : noReserved fields e = true) (htouches : tmTouches s (tmOpOf e) &&& ~~~ s.tm.down ≠ 0) (hqueue : ∀ x ∈ s.tm.queue, x.todo ≠ 0)
    (hcmds : s.cmds = [])
    (hrun : run (popHead q s) = some (tmStart q e (tmOpOf e) { popHead q s with tm := { s.tm with armed := armed } })) :
    Machine.exec c s = .next (endResult q e s.tm.next (tmQueued (tmOpOf e) { popHead q s with tm := { s.tm with armed := armed } })) := by
  have htouched : ∀ o, tmTouches (popHead q s) o = tmTouches s o := by
    obtain ⟨-, -, hpop, -⟩ := popHead_tmCheck q e s
    exact hpop
  refine row_results hrow hok h hk hres (hrun.trans (congrArg some (tmStart_queues ?_ hqueue ((popHead_cmds q s).trans hcmds)))) rfl
    (congrArg HostPort.busMaster (popHead_host q s))
  exact (congrArg (· &&& ~~~ s.tm.down) (htouched (tmOpOf e))).trans_ne htouches

variable (hop : entOpcode e = 0x30) (hres : noReserved tmOpFields e = true)
include hop hres

section
variable (harm : bodyField e 0 1 ≠ 0x20) (hdis : bodyField e 0 1 ≠ 0x21)
include harm hdis

/-- 15:R411; 01:R28: the checks of a TM_OP. -/
theorem tmOp_refused {st : Byte} (hcheck : tmOpCheck s e = some st) :
    Machine.exec (.tmOp q e) s = .next (endEntry q e st (popHead q s)) := by
  refine row_ends (tmOp_exec q e) (by simp [hop, harm, hdis]) h (by rw [hop]; rfl) hres ?_
  rw [tmOpRun, (popHead_tmCheck q e s).1, hcheck]

theorem tmOp_waits (hcheck : tmOpCheck s e = none) (hfull : tmFull s (tmTouches s (tmOpOf e)) = true) :
    Machine.exec (.tmOp q e) s = .next s := by
  obtain ⟨hpop, -, htouch, hdepth, -⟩ := popHead_tmCheck q e s
  refine row_waits (tmOp_exec q e) (by simp [hop, harm, hdis]) h (by rw [hop]; rfl) hres ?_
  rw [tmOpRun, hpop, hcheck, htouch, hdepth, hfull]
  rfl

/-- 15:R414: a TM_OP completes with its ticket. -/
theorem tmOp_queues (hcheck : tmOpCheck s e = none) (hroom : tmFull s (tmTouches s (tmOpOf e)) = false)
    (htouches : tmTouches s (tmOpOf e) &&& ~~~ s.tm.down ≠ 0) (hqueue : ∀ x ∈ s.tm.queue, x.todo ≠ 0) (hcmds : s.cmds = []) :
    Machine.exec (.tmOp q e) s = .next (endResult q e s.tm.next (tmQueued (tmOpOf e) (popHead q s))) := by
  obtain ⟨hpop, -, htouch, hdepth, -⟩ := popHead_tmCheck q e s
  have hsame : { popHead q s with tm := { s.tm with armed := s.tm.armed } } = popHead q s := by
    rw [← popHead_tm q s]
  have hqueued := queued_results h (tmOp_exec q e) (by simp [hop, harm, hdis]) (by rw [hop]; rfl) hres htouches hqueue hcmds
    (armed := s.tm.armed) (by rw [hsame, tmOpRun, hpop, hcheck, htouch, hdepth, hroom]; rfl)
  rwa [hsame] at hqueued

end

section
variable (hact : bodyField e 0 1 = 0x20)
include hact

theorem accumArm_refused {st : Byte} (hcheck : controlCheck s e (armCodes e) = some st) :
    Machine.exec (.accumArm q e) s = .next (endEntry q e st (popHead q s)) := by
  refine row_ends (accumArm_exec q e) (by simp [hop, hact]) h (by rw [hop]; rfl) hres ?_
  rw [armRun, (popHead_tmCheck q e s).2.1, hcheck]

variable (hcheck : controlCheck s e (armCodes e) = none)
include hcheck

/-- 15:R426: a range that overlaps an armed one. -/
theorem accumArm_overlaps (hover : armedOverlap s (tmOpOf e).dst (tmOpOf e).len = true) :
    Machine.exec (.accumArm q e) s = .next (endEntry q e stBadDesc (popHead q s)) := by
  obtain ⟨-, hpop, -, -, -, hoverlap, -⟩ := popHead_tmCheck q e s
  refine row_ends (accumArm_exec q e) (by simp [hop, hact]) h (by rw [hop]; rfl) hres ?_
  rw [armRun, hpop, hcheck, hoverlap, hover]
  rfl

variable (hover : armedOverlap s (tmOpOf e).dst (tmOpOf e).len = false)
include hover

/-- 15:R426: a 17th range. -/
theorem accumArm_limit (hmany : 16 ≤ s.tm.armed.length) : Machine.exec (.accumArm q e) s = .next (endEntry q e stLimit (popHead q s)) := by
  obtain ⟨-, hpop, -, -, -, hoverlap, -⟩ := popHead_tmCheck q e s
  refine row_ends (accumArm_exec q e) (by simp [hop, hact]) h (by rw [hop]; rfl) hres ?_
  rw [armRun, hpop, hcheck, hoverlap, hover, popHead_tm]
  exact if_pos hmany

variable (hfew : s.tm.armed.length < 16)
include hfew

theorem accumArm_waits (hfull : tmFull s (tmRunning s) = true) : Machine.exec (.accumArm q e) s = .next s := by
  obtain ⟨-, hpop, -, hdepth, hrunning, hoverlap, -⟩ := popHead_tmCheck q e s
  refine row_waits (accumArm_exec q e) (by simp [hop, hact]) h (by rw [hop]; rfl) hres ?_
  rw [armRun, hpop, hcheck, hoverlap, hover, popHead_tm, hdepth, hrunning, hfull]
  exact if_neg (Nat.not_le.2 hfew)

/-- 15:R426: a range that is armed. -/
theorem accumArm_queues (hroom : tmFull s (tmRunning s) = false) (htouches : tmTouches s (tmOpOf e) &&& ~~~ s.tm.down ≠ 0)
    (hqueue : ∀ x ∈ s.tm.queue, x.todo ≠ 0) (hcmds : s.cmds = []) : Machine.exec (.accumArm q e) s = .next (endResult q e s.tm.next
      (tmQueued (tmOpOf e) { popHead q s with tm := { s.tm with armed := s.tm.armed ++ [armedNew e] } })) := by
  obtain ⟨-, hpop, -, hdepth, hrunning, hoverlap, -⟩ := popHead_tmCheck q e s
  refine queued_results h (accumArm_exec q e) (by simp [hop, hact]) (by rw [hop]; rfl) hres htouches hqueue hcmds ?_
  rw [armRun, hpop, hcheck, hoverlap, hover, popHead_tm, hdepth, hrunning, hroom]
  exact if_neg (Nat.not_le.2 hfew)

end

section
variable (hact : bodyField e 0 1 = 0x21)
include hact

theorem accumDisarm_refused {st : Byte} (hcheck : controlCheck s e (decide ((tmOpOf e).dtype = 0)) = some st) :
    Machine.exec (.accumDisarm q e) s = .next (endEntry q e st (popHead q s)) := by
  refine row_ends (accumDisarm_exec q e) (by simp [hop, hact]) h (by rw [hop]; rfl) hres ?_
  rw [disarmRun, (popHead_tmCheck q e s).2.1, hcheck]

variable (hcheck : controlCheck s e (decide ((tmOpOf e).dtype = 0)) = none)
include hcheck

/-- 15:R426: a range that is not armed. -/
theorem accumDisarm_unarmed (hnone : ∀ r ∈ s.tm.armed, r.dst = (tmOpOf e).dst → r.disarm = true) :
    Machine.exec (.accumDisarm q e) s = .next (endEntry q e stBadDesc (popHead q s)) := by
  have hfind : s.tm.armed.find? (fun r => decide (r.dst = (tmOpOf e).dst) && !r.disarm) = none :=
    List.find?_eq_none.2 fun r hr => by simpa using hnone r hr
  refine row_ends (accumDisarm_exec q e) (by simp [hop, hact]) h (by rw [hop]; rfl) hres ?_
  rw [disarmRun, (popHead_tmCheck q e s).2.1, hcheck, popHead_tm]
  simp only [hfind]

variable {r : Armed} (hfind : s.tm.armed.find? (fun r => decide (r.dst = (tmOpOf e).dst) && !r.disarm) = some r)
include hfind

/-- 15:R426: another length than that of the armed range. -/
theorem accumDisarm_length (hlen : (tmOpOf e).len ≠ 0) (hother : (tmOpOf e).len ≠ r.len) :
    Machine.exec (.accumDisarm q e) s = .next (endEntry q e stBadDesc (popHead q s)) := by
  refine row_ends (accumDisarm_exec q e) (by simp [hop, hact]) h (by rw [hop]; rfl) hres ?_
  rw [disarmRun, (popHead_tmCheck q e s).2.1, hcheck, popHead_tm]
  simp only [hfind]
  exact if_pos (by simp [hlen, hother])

/-- 15:R426: a range that is disarmed. -/
theorem accumDisarm_queues (hlen : (tmOpOf e).len = 0 ∨ (tmOpOf e).len = r.len) (hroom : tmFull s (tmRunning s) = false)
    (htouches : tmTouches s (tmOpOf e) &&& ~~~ s.tm.down ≠ 0) (hqueue : ∀ x ∈ s.tm.queue, x.todo ≠ 0) (hcmds : s.cmds = []) :
    Machine.exec (.accumDisarm q e) s = .next (endResult q e s.tm.next
      (tmQueued (tmOpOf e) { popHead q s with tm := { s.tm with armed := s.tm.armed.map (markDisarm e) } })) := by
  obtain ⟨-, hpop, -, hdepth, hrunning, -⟩ := popHead_tmCheck q e s
  refine queued_results h (accumDisarm_exec q e) (by simp [hop, hact]) (by rw [hop]; rfl) hres htouches hqueue hcmds ?_
  rw [disarmRun, hpop, hcheck, popHead_tm]
  simp only [hfind, hdepth, hrunning, hroom]
  exact (if_neg (by simpa [imp_iff_not_or] using hlen)).trans (if_neg (by simp))

end

end

/-! ## TM_FENCE -/

/-- The ticket that a fence covers: with 0 the last one (15:R416). -/
def fenceCover (e : Entry) (s : State) : Nat := if bodyField e 0 8 = 0 then s.tm.next.toNat - 1 else bodyField e 0 8

/-- What the TM_FENCE row does once it starts. -/
def fenceRun (q : BitVec 6) (e : Entry) (s : State) : Option State :=
  if (runningPorts s).isEmpty then some (endEntry q e stLimit s)
  else if s.tm.next.toNat - 1 < bodyField e 0 8 then some (endEntry q e stBadDesc s)
  else some (tmSettle (addCmd q e (.tmFence (BitVec.ofNat 64 (fenceCover e s))) s))

theorem tmFence_exec (q : BitVec 6) (e : Entry) : Machine.exec (.tmFence q e) =
    fun s => live s (octozRow q e (entOpcode e = 0x31) [(0, 64)] (fenceRun q e)) := rfl

theorem tmSettle_fence {c : Cmd} {k : W64} {s : State} (hcmds : s.cmds = [c]) (hkind : c.kind = .tmFence k) :
    tmSettle s = if k.toNat ≤ (tmDone s).toNat then fenceDone c k s else s := by
  simp only [tmSettle, hcmds, List.foldl_cons, List.foldl_nil, hkind]

/-- 15:R416, R431: a fence with no failed ticket. -/
theorem fenceDone_ends {c : Cmd} {t : W64} {s : State} (hcmds : s.cmds = [c]) (hfailed : s.tm.failedTickets = []) :
    (fenceDone c t s).cmds = [] ∧ (fenceDone c t s).tm = { s.tm with stale := s.tm.stale.filter fun x => decide (t.toNat < x.2.2.toNat) } := by
  have hdone : fenceDone c t s = endCmd c stOK 0 0 { s with tm := { s.tm with
      stale := s.tm.stale.filter fun x => decide (t.toNat < x.2.2.toNat) } } := by
    simp only [fenceDone, hfailed, List.filter_nil]
  rw [hdone]
  refine ⟨endCmd_alone ?_ _ _ _, (congrArg State.tm (endCmd_unposted ..) :)⟩
  exact hcmds

section
variable {q : BitVec 6} {e : Entry} {s : State} (h : s.AtHead q e) (hop : entOpcode e = 0x31) (hres : noReserved [(0, 64)] e = true)
include h hop hres

theorem tmFence_limit (hnone : runningPorts s = []) : Machine.exec (.tmFence q e) s = .next (endEntry q e stLimit (popHead q s)) := by
  obtain ⟨-, -, -, -, -, -, hports, -⟩ := popHead_tmCheck q e s
  refine row_ends (tmFence_exec q e) (by simp [hop]) h (by rw [hop]; rfl) hres ?_
  rw [fenceRun, hports, hnone]
  rfl

variable (hports : runningPorts s ≠ [])
include hports

/-- 15:R416: a fence above the last ticket. -/
theorem tmFence_above (habove : s.tm.next.toNat - 1 < bodyField e 0 8) :
    Machine.exec (.tmFence q e) s = .next (endEntry q e stBadDesc (popHead q s)) := by
  obtain ⟨-, -, -, -, -, -, hpop, -⟩ := popHead_tmCheck q e s
  refine row_ends (tmFence_exec q e) (by simp [hop]) h (by rw [hop]; rfl) hres ?_
  rw [fenceRun, hpop, if_neg (by simpa using hports), popHead_tm, if_pos habove]

variable (hlast : bodyField e 0 8 ≤ s.tm.next.toNat - 1)
include hlast

omit h hop hres in
theorem fenceRun_starts : fenceRun q e (popHead q s) =
    some (tmSettle (addCmd q e (.tmFence (BitVec.ofNat 64 (fenceCover e s))) (popHead q s))) := by
  obtain ⟨-, -, -, -, -, -, hpop, -⟩ := popHead_tmCheck q e s
  rw [fenceRun, hpop, if_neg (by simpa using hports), fenceCover, popHead_tm, if_neg (Nat.not_lt.2 hlast)]
  rfl

omit h hop hres hports in
theorem fenceCover_toNat : (BitVec.ofNat 64 (fenceCover e s)).toNat = fenceCover e s := by
  have hnext := s.tm.next.isLt
  rw [BitVec.toNat_ofNat]
  refine Nat.mod_eq_of_lt ?_
  unfold fenceCover
  split <;> omega

/-- 15:R416: a fence whose tickets have not all executed waits. -/
theorem tmFence_waits (hcmds : s.cmds = []) (hmore : (tmDone s).toNat < fenceCover e s) :
    Machine.exec (.tmFence q e) s = .next (addCmd q e (.tmFence (BitVec.ofNat 64 (fenceCover e s))) (popHead q s)) := by
  obtain ⟨-, -, -, -, -, -, -, hdone⟩ := popHead_tmCheck q e s
  have hstarts := fenceRun_starts (q := q) hports hlast
  rw [tmSettle_fence (addCmd_new ((popHead_cmds q s).trans hcmds) ..) rfl, fenceCover_toNat hlast,
    show tmDone (addCmd q e (.tmFence (BitVec.ofNat 64 (fenceCover e s))) (popHead q s)) = tmDone s from hdone, if_neg (Nat.not_le.2 hmore)]
    at hstarts
  exact row_starts (tmFence_exec q e) (by simp [hop]) h (by rw [hop]; rfl) hres hstarts rfl

/-- 15:R416: a fence whose tickets have all executed completes at once. -/
theorem tmFence_ends (hcmds : s.cmds = []) (hall : fenceCover e s ≤ (tmDone s).toNat) (hfailed : s.tm.failedTickets = []) :
    ∃ t, Machine.exec (.tmFence q e) s = .next t ∧ t.cmds = [] ∧
      t.tm = { s.tm with stale := s.tm.stale.filter fun x => decide (fenceCover e s < x.2.2.toNat) } := by
  obtain ⟨-, -, -, -, -, -, -, hdone⟩ := popHead_tmCheck q e s
  have hstarts := fenceRun_starts (q := q) hports hlast
  have hnew := addCmd_new ((popHead_cmds q s).trans hcmds) q e (.tmFence (BitVec.ofNat 64 (fenceCover e s)))
  rw [tmSettle_fence hnew rfl, fenceCover_toNat hlast,
    show tmDone (addCmd q e (.tmFence (BitVec.ofNat 64 (fenceCover e s))) (popHead q s)) = tmDone s from hdone, if_pos hall] at hstarts
  obtain ⟨hended, htm⟩ := fenceDone_ends (t := BitVec.ofNat 64 (fenceCover e s)) hnew
    (show (addCmd q e (.tmFence (BitVec.ofNat 64 (fenceCover e s))) (popHead q s)).tm.failedTickets = [] by
      rw [addCmd_tm, popHead_tm, hfailed])
  refine ⟨_, row_runs (tmFence_exec q e) (by simp [hop]) h (by rw [hop]; rfl) hres hstarts, ?_, ?_⟩
  · rw [cmds_of_unposted (settleHead_unposted ..), hended]
  · refine ((congrArg State.tm (settleHead_unposted ..) :).trans htm).trans ?_
    rw [addCmd_tm, popHead_tm, fenceCover_toNat hlast]

end

/-- Settles O31: a row of a Tannery command is refused, waits at the head, or starts (`tmOpRun`, `armRun`, `disarmRun`, `fenceRun`). -/
theorem tanneryCommands : Obligations.TanneryCommands := by
  intro q e s h u o queued
  obtain ⟨-, -, htouch, -⟩ := popHead_tmCheck q e s
  have hqueued (armed : List Armed) : queued { u with tm := { s.tm with armed := armed } } o =
      tmQueued o { popHead q s with tm := { s.tm with armed := armed } } := by
    unfold tmQueued
    rw [show tmTouches { popHead q s with tm := { s.tm with armed := armed } } o = tmTouches s o from htouch o]
  have hsame : { u with tm := { s.tm with armed := s.tm.armed } } = u := by rw [← popHead_tm q s]
  refine ⟨fun hop hres => ⟨fun hports harm hdis => tmOp_refused h hop hres harm hdis ?_, fun hports hact => accumArm_refused h hop hres hact ?_,
    fun hports hact => accumDisarm_refused h hop hres hact ?_, fun harm hdis => ⟨fun st => tmOp_refused h hop hres harm hdis,
      tmOp_waits h hop hres harm hdis, fun hcheck hroom htouches hqueue hcmds => ?_⟩, fun hact hcheck =>
        ⟨accumArm_overlaps h hop hres hact hcheck, accumArm_limit h hop hres hact hcheck, accumArm_waits h hop hres hact hcheck,
          fun hover hfew hroom htouches hqueue hcmds => ?_⟩, fun hact hcheck => ⟨accumDisarm_unarmed h hop hres hact hcheck, fun r hfind =>
            ⟨accumDisarm_length h hop hres hact hcheck hfind, fun hlen hroom htouches hqueue hcmds => ?_⟩⟩⟩, fun hop hres => ?_⟩
  · simp [tmOpCheck, hports]
  · simp [controlCheck, hports]
  · simp [controlCheck, hports]
  · rw [tmOp_queues h hop hres harm hdis hcheck hroom htouches hqueue hcmds, ← hsame, hqueued, hsame]
  · rw [accumArm_queues h hop hres hact hcheck hover hfew hroom (by rwa [tmTouches_control hcheck]) hqueue hcmds, ← hqueued]
    rfl
  · have hmark : markDisarm e = fun x => if x.dst = o.dst ∧ x.disarm = false then { x with disarm := true } else x := by
      funext x
      exact if_congr (by simp [o]) rfl rfl
    rw [accumDisarm_queues h hop hres hact hcheck hfind hlen hroom (by rwa [tmTouches_control hcheck]) hqueue hcmds, ← hqueued, hmark]
  · intro k last cover
    exact ⟨tmFence_limit h hop hres, tmFence_above h hop hres, tmFence_ends h hop hres, tmFence_waits h hop hres⟩

end Sys2Proof.Proofs


/-! What the ends of commands and of collectives leave of the NI's knowledge of other nodes (16:R467 to R472): the lost set, the start of
degraded routing, and the error bits, which only software clears. One lemma for each function behind the loss of a node. -/

namespace Sys2Proof.Proofs

open Sys2Proof Sys2Proof.Machine Sys2Proof.Laws

/-! ## Error bits -/

/-- Every error bit that is set stays set. -/
structure ErrsKept (s t : State) : Prop where
  bits : ∀ i : Nat, s.err.status.getLsbD i = true → t.err.status.getLsbD i = true

namespace ErrsKept

variable {s t u : State}

theorem refl (s : State) : ErrsKept s s := ⟨fun _ h => h⟩

theorem trans (h₁ : ErrsKept s t) (h₂ : ErrsKept t u) : ErrsKept s u := ⟨fun i h => h₂.bits i (h₁.bits i h)⟩

theorem of_eq (h : t.err = s.err) : ErrsKept s t := ⟨fun _ hi => by rwa [h]⟩

theorem after (h : ErrsKept t u) (ht : t.err = s.err) : ErrsKept s u := (of_eq ht).trans h

end ErrsKept

theorem setErr_errsKept (bit : Nat) (s : State) : ErrsKept s (setErr bit s) := ⟨fun i h => by
  rw [setErr_status, BitVec.getLsbD_or, h, Bool.true_or]⟩

/-- 19:R536: the bit that an error sets. -/
theorem setErr_sets {bit : Nat} (hbit : bit < 11) (s : State) : (setErr bit s).err.status.getLsbD bit = true := by
  rw [setErr_status, BitVec.getLsbD_or, show (1 : BitVec 11) = 1#11 from rfl, BitVec.getLsbD_shiftLeft]
  simp [hbit]

theorem busWrite_err (a : Nat) (bs : Bytes) (s : State) : (busWrite a bs s).err = s.err := by
  unfold busWrite busSend
  split <;> rfl

theorem sendMsix_err (v : BitVec 7) (s : State) : (sendMsix v s).err = s.err := by
  unfold sendMsix
  extract_lets e
  split
  · rfl
  · split <;> rfl

theorem signalEntry_err (p : Nat) (noIrq : Bool) (s : State) : (signalEntry p noIrq s).err = s.err := by
  unfold signalEntry
  extract_lets g
  split
  · rfl
  · split
    · rw [sendMsix_err, modPage_err]
    · exact modPage_err ..

theorem setQerr_errsKept (p bit : Nat) (s : State) : ErrsKept s (setQerr p bit s) :=
  (ErrsKept.of_eq (modPage_err ..)).trans (setErr_errsKept ..)

theorem queueEvent_errsKept (source code : Nat) (detail : BitVec 256) (s : State) : ErrsKept s (queueEvent source code detail s) := by
  unfold queueEvent
  extract_lets src r e r1 full r2 s1
  split
  · exact (setErr_errsKept errOverrun s1).after rfl
  · exact ErrsKept.of_eq rfl

theorem writeEvent_errsKept (e : Event) (missed : Bool) (coalesced : W32) (s : State) :
    ErrsKept s (writeEvent e missed coalesced s) := by
  unfold writeEvent
  split
  · exact ErrsKept.of_eq (by rw [signalEntry_err, modPage_err, busWrite_err])
  · exact (ErrsKept.of_eq (modPage_err ..)).trans ((setQerr_errsKept ..).trans (queueEvent_errsKept ..))

theorem flushOne_errsKept (r : EvSource) (s : State) : ErrsKept s (flushOne r s) := by
  unfold flushOne
  split
  · exact (writeEvent_errsKept ..).after rfl
  · split
    · exact ErrsKept.refl s
    · exact (writeEvent_errsKept ..).after rfl

theorem flushGo_errsKept (n : Nat) (s : State) : ErrsKept s (flushGo n s) := by
  induction n generalizing s with
  | zero => exact ErrsKept.refl s
  | succ n ih =>
    unfold flushGo
    split
    · split
      · exact ErrsKept.refl s
      · exact (flushOne_errsKept ..).trans (ih _)
    · exact ErrsKept.refl s

theorem flushEvents_errsKept (s : State) : ErrsKept s (flushEvents s) := by
  unfold flushEvents
  split
  · exact flushGo_errsKept 4096 s
  · exact ErrsKept.refl s

theorem wakeSource_err (cause : BitVec 4) (s : State) : (wakeSource cause s).err = s.err := by
  unfold wakeSource
  extract_lets k
  split
  · rfl
  · rfl
  · split <;> rfl
  · rfl

theorem raiseEvent_errsKept (source code : Nat) (detail : BitVec 256) (s : State) : ErrsKept s (raiseEvent source code detail s) :=
  (queueEvent_errsKept ..).trans ((ErrsKept.of_eq (wakeSource_err ..)).trans (flushEvents_errsKept _))

theorem postCompletion_errsKept (q : Nat) (c : Completion) (s : State) : ErrsKept s (postCompletion q c s) := by
  unfold postCompletion
  extract_lets s0 g
  have h0 : ErrsKept s s0 := ErrsKept.of_eq (modPage_err ..)
  split
  · exact h0.trans (ErrsKept.of_eq (by rw [signalEntry_err, modPage_err, busWrite_err]))
  · exact h0.trans ((ErrsKept.of_eq (modPage_err ..)).trans ((setQerr_errsKept ..).trans (raiseEvent_errsKept ..)))

theorem settleGo_errsKept (q : BitVec 6) (n : Nat) (s : State) : ErrsKept s (settleGo q n s) := by
  induction n generalizing s with
  | zero => exact ErrsKept.refl s
  | succ n ih =>
    have hpop : ErrsKept s (popHead q s) := ErrsKept.of_eq (modPage_err ..)
    unfold settleGo
    split
    · exact ErrsKept.refl s
    · split
      · exact ErrsKept.refl s
      · split
        · exact hpop.trans ((postCompletion_errsKept ..).trans (ih _))
        · split
          · exact hpop.trans ((postCompletion_errsKept ..).trans (ih _))
          · exact ErrsKept.refl s

theorem endCmd_errsKept (c : Cmd) (status flags : Byte) (result : W64) (s : State) : ErrsKept s (endCmd c status flags result s) :=
  (postCompletion_errsKept ..).after rfl

theorem endHeld_errsKept (c : Cmd) (status flags : Byte) (result : W64) (s : State) : ErrsKept s (endHeld c status flags result s) := by
  unfold endHeld releaseQueue
  extract_lets t
  have ht : ErrsKept s t := (endCmd_errsKept ..).trans (ErrsKept.of_eq (modPage_err ..))
  split
  · exact ht.trans (settleGo_errsKept ..)
  · exact ht

end Sys2Proof.Proofs


/-! Node loss (16:R467 to R472): what each function behind the loss of a node keeps of the lost set, of degraded routing and of the error
bits, the notices that spread it, and O47 from them. -/

namespace Sys2Proof.Proofs

open Sys2Proof Sys2Proof.Machine Sys2Proof.Laws

/-- The lost set and the start of degraded routing are kept, and every error bit that is set stays set. -/
structure KeepsLoss (s t : State) : Prop where
  lost : t.ni.lost = s.ni.lost
  degradedAt : t.ni.degradedAt = s.ni.degradedAt
  errs : ErrsKept s t

namespace KeepsLoss

variable {s t u : State}

theorem refl (s : State) : KeepsLoss s s := ⟨rfl, rfl, ErrsKept.refl s⟩

theorem trans (h₁ : KeepsLoss s t) (h₂ : KeepsLoss t u) : KeepsLoss s u :=
  ⟨h₂.lost.trans h₁.lost, h₂.degradedAt.trans h₁.degradedAt, h₁.errs.trans h₂.errs⟩

theorem of_ni (hn : t.ni = s.ni) (he : ErrsKept s t) : KeepsLoss s t := ⟨by rw [hn], by rw [hn], he⟩

theorem of_unposted (h : unposted t = unposted s) (he : ErrsKept s t) : KeepsLoss s t := of_ni (ni_of_unposted h) he

/-- A step before it that reaches neither the lost set, degraded routing nor an error. -/
theorem after (h : KeepsLoss t u) (hl : t.ni.lost = s.ni.lost := by rfl) (hd : t.ni.degradedAt = s.ni.degradedAt := by rfl)
    (he : t.err = s.err := by rfl) : KeepsLoss s u := trans ⟨hl, hd, ErrsKept.of_eq he⟩ h

/-- The same of a step behind it. -/
theorem before (h : KeepsLoss s t) (hl : u.ni.lost = t.ni.lost := by rfl) (hd : u.ni.degradedAt = t.ni.degradedAt := by rfl)
    (he : u.err = t.err := by rfl) : KeepsLoss s u := h.trans ⟨hl, hd, ErrsKept.of_eq he⟩

theorem foldl {α : Type} {f : State → α → State} (hf : ∀ t x, KeepsLoss t (f t x)) (l : List α) (s : State) :
    KeepsLoss s (l.foldl f s) := by
  induction l generalizing s with
  | nil => exact refl s
  | cons x l ih => exact (hf s x).trans (ih _)

end KeepsLoss

/-! ## Packets -/

theorem txPump_keepsLoss (c : Coord) (s : State) : KeepsLoss s (txPump c s) :=
  (KeepsLoss.foldl (fun t _ => (KeepsLoss.refl t).before) _ _).after

theorem sendStream_keepsLoss (p : Packet) (s : State) : KeepsLoss s (sendStream p s) := by
  obtain ⟨sent, hwaits⟩ := sendStream_waits p s
  rw [hwaits]
  exact (txPump_keepsLoss ..).after

theorem floodMgmt_keepsLoss (except : Option Nat) (mtype : Nat) (coord origin : W32) (ts : W64) (s : State) :
    KeepsLoss s (floodMgmt except mtype coord origin ts s) :=
  KeepsLoss.foldl (fun t _ => sendStream_keepsLoss _ t) _ s

theorem startRound_keepsLoss (epoch : Bool) (s : State) : KeepsLoss s (startRound epoch s).2 := by
  unfold startRound
  extract_lets n num opened dests round _ s1 tag s2
  have h2 : KeepsLoss s s2 := (KeepsLoss.foldl (fun t _ => sendStream_keepsLoss _ t) dests s1).after
  dsimp only
  split
  · exact h2.before
  · exact h2

theorem logAppend_err (kind cls index : Nat) (detail : Bytes) (s : State) : (logAppend kind cls index detail s).err = s.err := by
  have hflush (draft : Bytes) : (logFlush draft s).err = s.err := by
    unfold logFlush
    extract_lets n lost body s1
    have h1 : s1.err = s.err := by
      unfold s1
      split <;> rfl
    exact h1
  unfold logAppend
  extract_lets d
  split
  · split <;> rfl
  · exact hflush d

theorem logAppend_keepsLoss (kind cls index : Nat) (detail : Bytes) (s : State) : KeepsLoss s (logAppend kind cls index detail s) :=
  KeepsLoss.of_ni (congrArg State.ni (logAppend_unlogged kind cls index detail s) :) (ErrsKept.of_eq (logAppend_err ..))

/-! ## The ends of commands -/

theorem endCmd_keepsLoss (c : Cmd) (status flags : Byte) (result : W64) (s : State) : KeepsLoss s (endCmd c status flags result s) :=
  KeepsLoss.of_ni (ni_of_unposted (endCmd_unposted c status flags result s) :) (endCmd_errsKept ..)

theorem endHeld_keepsLoss (c : Cmd) (status flags : Byte) (result : W64) (s : State) : KeepsLoss s (endHeld c status flags result s) :=
  KeepsLoss.of_ni (ni_of_unposted (endHeld_unposted c status flags result s) :) (endHeld_errsKept ..)

theorem drainsKick_keepsLoss (s : State) : KeepsLoss s (drainsKick s) := by
  refine KeepsLoss.foldl (fun t c => ?_) _ s
  split
  · split
    · exact KeepsLoss.refl t
    · extract_lets r
      have hr : KeepsLoss t r.2 := startRound_keepsLoss t.ni.epoch t
      split
      · exact hr.before
      · exact hr.trans (endHeld_keepsLoss ..)
  · exact KeepsLoss.refl t

theorem unmapKick_keepsLoss (s : State) : KeepsLoss s (unmapKick s) := by
  unfold unmapKick
  extract_lets opened s1
  have h1 : KeepsLoss s s1 := KeepsLoss.foldl (fun t c => by
    split
    · split
      · exact KeepsLoss.refl t
      · exact endHeld_keepsLoss ..
    · exact KeepsLoss.refl t) _ s
  exact h1.before

theorem destroyKick_keepsLoss (s : State) : KeepsLoss s (destroyKick s) := by
  refine KeepsLoss.foldl (fun t c => ?_) _ s
  split
  · split
    · exact KeepsLoss.refl t
    · exact (endHeld_keepsLoss ..).after
  · exact KeepsLoss.refl t

theorem drainKick_keepsLoss (s : State) : KeepsLoss s (drainKick s) :=
  (drainsKick_keepsLoss s).trans ((unmapKick_keepsLoss _).trans (destroyKick_keepsLoss _))

/-! ## Memory -/

theorem stgWrite_err (o : Nat) (bs : Bytes) (s : State) : (stgWrite o bs s).err = s.err := by
  induction bs generalizing o s with
  | nil => rfl
  | cons x r ih => exact ih _ _

theorem tmWriteByte_err (b : Nat) (x : Byte) (s : State) : (tmWriteByte b x s).err = s.err := by
  unfold tmWriteByte
  split <;> rfl

theorem tmWriteGo_err (o : Nat) (bs : Bytes) (s : State) : (tmWriteGo o bs s).err = s.err := by
  induction bs generalizing o s with
  | nil => rfl
  | cons x r ih =>
    unfold tmWriteGo
    rw [ih, tmWriteByte_err]

theorem busSend_err (relaxed poisoned : Bool) (a : Nat) (bs : Bytes) (s : State) : (busSend relaxed poisoned a bs s).err = s.err := by
  unfold busSend
  split <;> rfl

theorem localWrite_err (a : W64) (bs : Bytes) (s : State) : (localWrite a bs s).err = s.err := by
  unfold localWrite
  extract_lets o
  split
  · exact stgWrite_err ..
  · exact tmWriteGo_err ..
  · exact foldl_frame (π := State.err) fun t _ => busSend_err _ _ _ _ t
  · rfl

theorem localWrite_keepsLoss (a : W64) (bs : Bytes) (s : State) : KeepsLoss s (localWrite a bs s) :=
  KeepsLoss.of_ni ((localWrite_apart a bs).ni s) (ErrsKept.of_eq (localWrite_err ..))

/-! ## The ends of collectives -/

theorem spoilDest_keepsLoss (x : Ctx) (status : Byte) (s : State) : KeepsLoss s (spoilDest x status s) := by
  unfold spoilDest
  split
  · exact KeepsLoss.refl s
  · extract_lets prot keep
    split
    · exact KeepsLoss.refl s
    · exact KeepsLoss.foldl (fun t _ => (localWrite_keepsLoss ..).before) _ s

theorem countLaggard_keepsLoss (x : Ctx) (s : State) : KeepsLoss s (countLaggard x s) := by
  unfold countLaggard
  split
  · exact KeepsLoss.refl s
  · extract_lets own l s1
    have h1 : KeepsLoss s s1 := (KeepsLoss.refl s).before
    split
    · exact h1
    · exact h1.trans (KeepsLoss.of_unposted (busWrite_unposted ..) (ErrsKept.of_eq (busWrite_err ..)))

theorem routeFail_keepsLoss (x : Ctx) (status : Byte) (s : State) : KeepsLoss s (routeFail x status s) := by
  unfold routeFail
  split
  · exact KeepsLoss.refl s
  · extract_lets s1 prot
    split
    · exact (localWrite_keepsLoss ..).after
    · exact (KeepsLoss.refl s).before

theorem completeCtx_keepsLoss (x : Ctx) (status : Byte) (result : W64) (valid : Bool) (s : State) :
    KeepsLoss s (completeCtx x status result valid s) := by
  unfold completeCtx
  extract_lets many lagOk c s1
  have hdrop : KeepsLoss s (dropCtx x s) := (KeepsLoss.refl s).before
  have h1 : KeepsLoss s s1 := hdrop.trans ((routeFail_keepsLoss ..).trans
    (KeepsLoss.of_unposted (postCompletion_unposted ..) (postCompletion_errsKept ..)))
  refine KeepsLoss.trans ?_ (drainKick_keepsLoss _)
  split
  · exact h1.trans (countLaggard_keepsLoss x s1)
  · exact h1

theorem failCtx_keepsLoss (x : Ctx) (status : Byte) (result : W64) (s : State) : KeepsLoss s (failCtx x status result s) :=
  (spoilDest_keepsLoss ..).trans (completeCtx_keepsLoss ..)

/-! ## What the loss of a node ends -/

theorem lostCollectives_keepsLoss (lost : List Coord) (s : State) : KeepsLoss s (lostCollectives lost s) := by
  unfold lostCollectives
  extract_lets s1
  have h1 : KeepsLoss s s1 := KeepsLoss.foldl (fun t x => by
    split
    · exact KeepsLoss.refl t
    · split
      · exact KeepsLoss.refl t
      · split
        · exact KeepsLoss.refl t
        · exact failCtx_keepsLoss ..) _ s
  refine h1.trans (KeepsLoss.foldl (fun t y => ?_) _ s1)
  split
  · exact KeepsLoss.refl t
  · split
    · exact KeepsLoss.refl t
    · exact (KeepsLoss.refl t).before

theorem forgetReqs_keepsLoss (l : List Req) (s : State) : KeepsLoss s (l.foldl (fun t r => forgetReq r.num t) s) :=
  KeepsLoss.foldl (fun t _ => (KeepsLoss.refl t).before) l s

theorem settleXfer_keepsLoss (id : Nat) (s : State) : KeepsLoss s (settleXfer id s) := by
  have hend (c : Cmd) (status flags : Byte) (result : W64) : KeepsLoss s (unmapKick (endCmd c status flags result s)) :=
    (endCmd_keepsLoss ..).trans (unmapKick_keepsLoss _)
  unfold settleXfer
  split
  · exact KeepsLoss.refl s
  · split
    · exact KeepsLoss.refl s
    · extract_lets fin
      have hfin (x : Xfer) : KeepsLoss s (fin x) := by
        unfold fin
        split
        · exact KeepsLoss.refl s
        · split
          · exact hend ..
          · split
            · exact hend ..
            · split <;> exact hend ..
      split
      · exact hfin _
      · exact hfin _
      · exact KeepsLoss.refl s

theorem lostCmd_keepsLoss (c : Coord) (s : State) (m : Cmd) : KeepsLoss s (lostCmd c s m) := by
  unfold lostCmd
  extract_lets rankEnd
  have hend (rank : BitVec 18) : KeepsLoss s (rankEnd rank) :=
    (forgetReqs_keepsLoss _ s).trans ((endCmd_keepsLoss ..).trans (unmapKick_keepsLoss _))
  split
  · split
    · exact hend _
    · exact KeepsLoss.refl s
  · extract_lets dataOut sig
    split
    · exact hend _
    · split
      · exact (forgetReqs_keepsLoss _ s).before.trans (settleXfer_keepsLoss ..)
      · exact KeepsLoss.refl s
  · split
    · exact (forgetReqs_keepsLoss _ s).trans (endCmd_keepsLoss ..)
    · exact KeepsLoss.refl s
  · exact KeepsLoss.refl s

theorem roundOver_keepsLoss (num : W32) (s : State) : KeepsLoss s (roundOver num s) :=
  (KeepsLoss.foldl (fun _ _ => endHeld_keepsLoss ..) _ _).after

theorem lostRounds_keepsLoss (c : Coord) (s : State) : KeepsLoss s (lostRounds c s) :=
  (KeepsLoss.foldl (fun t (r : Round) => roundOver_keepsLoss r.num t) _ _).after

theorem lostWork_keepsLoss (c : Coord) (lost : List Coord) (s : State) :
    KeepsLoss s (lostRounds c ((lostCollectives lost s).cmds.foldl (lostCmd c) (lostCollectives lost s))) :=
  (lostCollectives_keepsLoss ..).trans ((KeepsLoss.foldl (lostCmd_keepsLoss c) _ _).trans (lostRounds_keepsLoss ..))

/-! ## The lost set -/

/-- 16:R469, R472: a coordinate that the lost set has room for is in it; its error bit is set, and degraded routing starts anew. -/
theorem addLost_adds {s : State} (c : Coord) (hroom : s.ni.lost.length < 1024) : (addLost c s).ni.lost = c :: s.ni.lost ∧
    (addLost c s).err.status.getLsbD errNodeLost = true ∧ (addLost c s).ni.degradedAt = some (now s) := by
  unfold addLost
  extract_lets s1 _ s2 s3
  have h2 : s2 = setErr errNodeLost { s1 with ni := { s1.ni with lost := c :: s1.ni.lost } } := if_pos hroom
  have hwork : KeepsLoss s2 (lostRounds c (s3.cmds.foldl (lostCmd c) s3)) := lostWork_keepsLoss c (c :: s2.ni.lost) s2
  refine ⟨hwork.lost.trans (by rw [h2]; rfl), hwork.errs.bits _ ?_, hwork.degradedAt.trans (by rw [h2]; rfl)⟩
  rw [h2]
  exact setErr_sets (by decide) _

end Sys2Proof.Proofs


/-! The rows of node loss (16:R467 to R470, R472): probes and their answers, the notices of a loss and of a rejoin, a probe's time-out and
the end of degraded routing; O47 from them. -/

namespace Sys2Proof.Proofs

open Sys2Proof Sys2Proof.Machine Sys2Proof.Laws

/-! ## MGMT packets -/

section
variable {p : Packet} {r : RxStream} {s : State} {mtype : Nat}

/-- A MGMT packet that the NI takes acts, and is counted; the packet that repeats it does nothing. -/
theorem mgmt_taken (h : s.Accepts p r) (htree : treeRuns s = true) (hm : isMgmt mtype p = true) (act : State → State) :
    live s (onlyIf (treeRuns s && isMgmt mtype p) (niArrive p act id)) = .next (ackNote p (act (setRx r s))) := by
  obtain ⟨hruns, -, hin, hcrc, hflag, -, -, hcase, hroom⟩ := h
  rw [live_runs hruns, onlyIf_true (by rw [htree, hm]; rfl), niArrive_takes hin hcrc hroom hcase (by simp [hflag])]

/-- 16 Table 16-3: what a MGMT packet carries. -/
theorem mgmtPacket_carries (u : State) (dst : Coord) {num : Nat} (ht : mtype < 256) (hn : num < 2 ^ 24) (coord origin : W32) (ts : W64) :
    isMgmt mtype (mgmtPacket u dst mtype num coord origin ts) = true ∧
    natBits 8 24 (mgmtPacket u dst mtype num coord origin ts).tag.toNat = num ∧
    payField (mgmtPacket u dst mtype num coord origin ts) 0 4 = coord.toNat ∧
    payField (mgmtPacket u dst mtype num coord origin ts) 4 4 = origin.toNat := by
  have htag : (mgmtPacket u dst mtype num coord origin ts).tag.toNat = mtype + num * 256 := by
    refine (BitVec.toNat_ofNat ..).trans (Nat.mod_eq_of_lt ?_)
    omega
  have hcoord : leNat (bvBytes 4 coord) = coord.toNat := (leNat_leBytes ..).trans (Nat.mod_eq_of_lt coord.isLt)
  have horigin : leNat (bvBytes 4 origin) = origin.toNat := (leNat_leBytes ..).trans (Nat.mod_eq_of_lt origin.isLt)
  have hlen {w : Nat} (n : Nat) (x : BitVec w) : (bvBytes n x).length = n := leBytes_length ..
  refine ⟨?_, ?_, ?_, ?_⟩
  · unfold isMgmt
    rw [htag]
    simp only [mgmtPacket, mkPacket, natBits, List.length_append, hlen, Nat.shiftRight_zero]
    simp
    omega
  · rw [htag, natBits, Nat.shiftRight_eq_div_pow]
    omega
  · rw [← hcoord]
    simp [payField, fieldAt, slice, mgmtPacket, mkPacket, hlen]
  · rw [← horigin]
    simp [payField, fieldAt, slice, mgmtPacket, mkPacket, hlen]

end

/-! ## Probes -/

section
variable {p : Packet} {r : RxStream} {s : State}

/-- 16:R467: a probe is answered under its number. -/
theorem probe_answers (h : s.Accepts p r) (htree : treeRuns s = true) (hm : isMgmt 1 p = true) (hopen : s.StreamOpen p.src) :
    ∃ t q, Machine.exec (.probe p) s = .next t ∧ t.rt.inject = s.rt.inject ++ [(none, q)] ∧ isMgmt 2 q = true ∧ q.dest = p.src ∧
      natBits 8 24 q.tag.toNat = natBits 8 24 p.tag.toNat ∧ payField q 0 4 = payField p 0 4 ∧ payField q 4 4 = s.cfg.coord.toNat := by
  have hfew := accepted_record h
  have htaken := mgmt_taken h htree hm (probeAct p)
  obtain ⟨-, -, -, -, hflag, hmark, -⟩ := h
  generalize hv : mgmtPacket (setRx r s) p.src 2 (natBits 8 24 p.tag.toNat) (BitVec.ofNat 32 (payField p 0 4)) s.cfg.coord 0 = v
  obtain ⟨hmgmt, hnum, hcoord, horigin⟩ := mgmtPacket_carries (mtype := 2) (setRx r s) p.src (by decide)
    (num := natBits 8 24 p.tag.toNat) (Nat.mod_lt _ (by decide)) (BitVec.ofNat 32 (payField p 0 4)) s.cfg.coord 0
  rw [hv] at hmgmt hnum hcoord horigin
  obtain ⟨tx, reqs, sent, hsent⟩ := sendStream_open (p := v) (s := setRx r s) (by rw [← hv]; exact hopen) (by rw [← hv]; rfl)
  have hact : probeAct p (setRx r s) = sendStream v (setRx r s) := by rw [← hv]; rfl
  obtain ⟨rx, hcounted⟩ := ackNote_counts (s := sendStream v (setRx r s)) hflag hmark
    (by rw [rxOf_accepted (s := setRx r s) (by rw [hsent])]; exact hfew)
  refine ⟨_, numbered v (setRx r s), htaken, ?_, hmgmt, ?_, hnum, hcoord.trans ?_, horigin⟩
  · rw [hact, hcounted, hsent]
    rfl
  · rw [← hv]
    rfl
  · rw [BitVec.toNat_ofNat]
    exact Nat.mod_eq_of_lt (leNat_lt (slice 0 4 p.payload) |>.trans_eq (by rw [slice_length]; rfl))

/-- 16:R467: an answer ends the probe of its number. -/
theorem probeAnswer_ends (h : s.Accepts p r) (htree : treeRuns s = true) (hm : isMgmt 2 p = true) :
    ∃ t, Machine.exec (.probeAnswer p) s = .next t ∧
      t.ni.probes = s.ni.probes.filter (fun b => !(decide (b.1 = p.src) && decide (b.2.1.toNat = natBits 8 24 p.tag.toNat))) ∧
      t.ni.lost = s.ni.lost := by
  obtain ⟨rx, l, hcounted⟩ := ackNote_frame p (answerAct p (setRx r s))
  exact ⟨_, mgmt_taken h htree hm (answerAct p), by rw [hcounted]; rfl, by rw [hcounted]; rfl⟩

end

/-! ## Notices -/

/-- The coordinate that a notice names (16 Table 16-3). -/
def noticeCoord (p : Packet) : Coord := BitVec.ofNat 17 (payField p 0 4)

theorem txPump_kp (c : Coord) (s : State) : (txPump c s).kp = s.kp := foldl_frame (π := State.kp) fun _ _ => rfl

theorem sendStream_kp (p : Packet) (s : State) : (sendStream p s).kp = s.kp := by
  obtain ⟨sent, hwaits⟩ := sendStream_waits p s
  rw [hwaits, txPump_kp]
  rfl

theorem floodMgmt_kp (except : Option Nat) (mtype : Nat) (coord origin : W32) (ts : W64) (s : State) :
    (floodMgmt except mtype coord origin ts s).kp = s.kp := foldl_frame (π := State.kp) fun _ _ => sendStream_kp ..

section
variable {p : Packet} {r : RxStream} {s : State} {port : BitVec 4}

/-- 16:R468, R469, R472: the notice of a loss that the node does not know of. -/
theorem lossNotice_adds (h : s.Accepts p r) (htree : treeRuns s = true) (hm : isMgmt 3 p = true) (hnew : noticeCoord p ∉ s.ni.lost)
    (hroom : s.ni.lost.length < 1024) : ∃ t, Machine.exec (.lossNotice port p) s = .next t ∧ noticeCoord p ∈ t.ni.lost ∧
      t.err.status.getLsbD errNodeLost = true ∧ t.ni.degradedAt = some (now s) := by
  obtain ⟨rx, l, hcounted⟩ := ackNote_frame p (lossAct port.toNat p (setRx r s))
  generalize hu : floodMgmt (some (port.toNat % 6)) 3 ((noticeCoord p).setWidth 32) (BitVec.ofNat 32 (payField p 4 4))
    (BitVec.ofNat 64 (payField p 8 8)) (setRx r s) = u
  have hact : lossAct port.toNat p (setRx r s) = addLost (noticeCoord p) u := by
    rw [← hu]
    exact if_neg (by simpa [noticeCoord, setRx] using hnew)
  have hlost : u.ni.lost = s.ni.lost := by
    rw [← hu]
    exact (floodMgmt_keepsLoss ..).lost
  have hnow : now u = now s := by
    rw [← hu, now, floodMgmt_kp]
    rfl
  obtain ⟨hadd, herr, hdeg⟩ := addLost_adds (s := u) (noticeCoord p) (by rw [hlost]; exact hroom)
  refine ⟨_, mgmt_taken h htree hm (lossAct port.toNat p), ?_⟩
  rw [hcounted, hact]
  exact ⟨by rw [hadd]; exact List.mem_cons_self, herr, by rw [hdeg, hnow]⟩

/-- 16:R472: the notice of a loss that the node knows of starts degraded routing anew. -/
theorem lossNotice_known (h : s.Accepts p r) (htree : treeRuns s = true) (hm : isMgmt 3 p = true) (hknown : noticeCoord p ∈ s.ni.lost) :
    ∃ t, Machine.exec (.lossNotice port p) s = .next t ∧ t.ni.lost = s.ni.lost ∧ t.ni.degradedAt = some (now s) := by
  obtain ⟨rx, l, hcounted⟩ := ackNote_frame p (lossAct port.toNat p (setRx r s))
  have hact : lossAct port.toNat p (setRx r s) = degradeRouting (setRx r s) := if_pos (by simpa [noticeCoord, setRx] using hknown)
  refine ⟨_, mgmt_taken h htree hm (lossAct port.toNat p), ?_⟩
  rw [hcounted, hact]
  exact ⟨rfl, rfl⟩

/-- 16:R470: the notice of a rejoin takes its coordinate out of the lost set. -/
theorem rejoinNotice_removes (h : s.Accepts p r) (htree : treeRuns s = true) (hm : isMgmt 4 p = true) :
    ∃ t, Machine.exec (.rejoinNotice port p) s = .next t ∧ t.ni.lost = s.ni.lost.filter (fun x => decide (x ≠ noticeCoord p)) := by
  obtain ⟨rx, l, hcounted⟩ := ackNote_frame p (rejoinAct port.toNat p (setRx r s))
  refine ⟨_, mgmt_taken h htree hm (rejoinAct port.toNat p), ?_⟩
  rw [hcounted]
  change (rejoinAct port.toNat p (setRx r s)).ni.lost = _
  by_cases hknown : noticeCoord p ∈ s.ni.lost
  · have hact : rejoinAct port.toNat p (setRx r s) = rejoinLocal (noticeCoord p) (floodMgmt (some (port.toNat % 6)) 4
        ((noticeCoord p).setWidth 32) (BitVec.ofNat 32 (payField p 4 4)) (BitVec.ofNat 64 (payField p 8 8)) (setRx r s)) :=
      if_neg (by simpa [noticeCoord, setRx] using hknown)
    rw [hact, rejoinLocal]
    dsimp only
    rw [(floodMgmt_keepsLoss ..).lost]
    rfl
  · have hact : rejoinAct port.toNat p (setRx r s) = setRx r s := if_pos (by simpa [noticeCoord, setRx] using hknown)
    rw [hact]
    refine (List.filter_eq_self.2 fun x hx => ?_).symm
    exact decide_eq_true fun heq => hknown (heq ▸ hx)

end

/-! ## The time-out of a probe -/

section
variable {c : Coord} {s : State} {b : Coord × W32 × Nat}

/-- The node without the probes of a coordinate (16:R467). -/
def unprobed (c : Coord) (s : State) : State := { s with ni := { s.ni with probes := s.ni.probes.filter fun b => b.1 ≠ c } }

/-- 16:R467, R468: a probe that is overdue ends; a neighbour that is gone and not known to be lost is lost, behind the log and the
notices. -/
theorem probeTimeout_runs (h : s.Runs) (htree : treeRuns s = true) (hb : b ∈ s.ni.probes) (hc : b.1 = c) (hdue : b.2.2 + 5000 ≤ now s) :
    ∃ u, KeepsLoss s u ∧
      Machine.exec (.probeTimeout c) s = .next (if (goneDir s c).isNone || s.ni.lost.contains c then unprobed c s else addLost c u) := by
  have hany : (s.ni.probes.any fun b => decide (b.1 = c) && decide (b.2.2 + Config.tick200us ≤ now s)) = true :=
    List.any_eq_true.2 ⟨b, hb, by simp [hc, Config.tick200us, hdue]⟩
  have hlog (d : Bytes) : KeepsLoss s (logAppend 0x07 5 c.toNat d (unprobed c s)) :=
    (logAppend_keepsLoss ..).after
  exact ⟨_, (hlog _).trans (floodMgmt_keepsLoss ..),
    (live_runs h).trans (congrArg Host.Outcome.next (onlyIf_true (by rw [htree, hany]; rfl)))⟩

/-- 16:R467: the answer is not overdue. -/
theorem probeTimeout_early (h : s.Runs) (hearly : ∀ b ∈ s.ni.probes, b.1 = c → now s < b.2.2 + 5000) :
    Machine.exec (.probeTimeout c) s = .next s := by
  have hany : (s.ni.probes.any fun b => decide (b.1 = c) && decide (b.2.2 + Config.tick200us ≤ now s)) = false := by
    refine List.any_eq_false.2 fun b hb hdue => ?_
    obtain ⟨hc, ht⟩ := Bool.and_eq_true_iff.1 hdue
    exact absurd (of_decide_eq_true ht) (Nat.not_le.2 (hearly b hb (of_decide_eq_true hc)))
  exact (live_runs h).trans (congrArg Host.Outcome.next (onlyIf_false (by rw [hany, Bool.and_false])))

/-- 16:R467, R469: of a coordinate that is no neighbour that is gone, or that is known to be lost, only the probe ends. -/
theorem probeTimeout_only (h : s.Runs) (htree : treeRuns s = true) (hb : b ∈ s.ni.probes) (hc : b.1 = c) (hdue : b.2.2 + 5000 ≤ now s)
    (hrest : goneDir s c = none ∨ c ∈ s.ni.lost) : Machine.exec (.probeTimeout c) s = .next (unprobed c s) := by
  obtain ⟨u, -, hexec⟩ := probeTimeout_runs h htree hb hc hdue
  rw [hexec, if_pos (by simpa using hrest)]

/-- 16:R467 to R469: a neighbour that is gone and does not answer is lost. -/
theorem probeTimeout_loses (h : s.Runs) (htree : treeRuns s = true) (hb : b ∈ s.ni.probes) (hc : b.1 = c) (hdue : b.2.2 + 5000 ≤ now s)
    (hgone : (goneDir s c).isSome = true) (hnew : c ∉ s.ni.lost) (hroom : s.ni.lost.length < 1024) :
    ∃ t, Machine.exec (.probeTimeout c) s = .next t ∧ c ∈ t.ni.lost ∧ t.err.status.getLsbD errNodeLost = true := by
  obtain ⟨u, hkeeps, hexec⟩ := probeTimeout_runs h htree hb hc hdue
  have hnone : (goneDir s c).isNone = false := by rw [← Option.not_isSome, hgone]; rfl
  obtain ⟨hadd, herr, -⟩ := addLost_adds (s := u) c (by rw [hkeeps.lost]; exact hroom)
  rw [if_neg (by simpa [hnone] using hnew)] at hexec
  exact ⟨_, hexec, by rw [hadd]; exact List.mem_cons_self, herr⟩

end

/-! ## The end of degraded routing -/

section
variable {s : State} {k : Nat}

/-- The end of degraded routing (16:R472). -/
def routingRestored (s : State) : State :=
  s.ni.tx.foldl (fun u x => txPump x.dst u) { s with ni := { s.ni with degradedAt := none } }

theorem degradedRoutingEnd_runs (h : s.Runs) : Machine.exec .degradedRoutingEnd s =
    .next (if ∃ k, s.ni.degradedAt = some k ∧ k + 25000 ≤ now s then routingRestored s else s) := by
  change execDegradedRoutingEnd s = _
  rw [execDegradedRoutingEnd, live_runs h]
  refine congrArg Host.Outcome.next ?_
  cases hd : s.ni.degradedAt with
  | none => simp
  | some k => by_cases hdue : k + 25000 ≤ now s <;> simp [Config.tick1ms, routingRestored, hdue]

theorem degradedRoutingEnd_off (h : s.Runs) (hoff : s.ni.degradedAt = none) : Machine.exec .degradedRoutingEnd s = .next s := by
  rw [degradedRoutingEnd_runs h, if_neg (by simp [hoff])]

theorem degradedRoutingEnd_early (h : s.Runs) (hon : s.ni.degradedAt = some k) (hearly : now s < k + 25000) :
    Machine.exec .degradedRoutingEnd s = .next s := by
  rw [degradedRoutingEnd_runs h, if_neg (by simpa [hon] using hearly)]

/-- 16:R472: degraded routing ends; what it held back goes. -/
theorem degradedRoutingEnd_due (h : s.Runs) (hon : s.ni.degradedAt = some k) (hdue : k + 25000 ≤ now s) :
    ∃ t, Machine.exec .degradedRoutingEnd s = .next t ∧ t.ni.degradedAt = none := by
  refine ⟨routingRestored s, by rw [degradedRoutingEnd_runs h, if_pos ⟨k, hon, hdue⟩], ?_⟩
  exact (KeepsLoss.foldl (fun t (x : TxStream) => txPump_keepsLoss x.dst t) _ _).degradedAt

end

/-- Settles O47: the packet rows act on the lost set alone beside what they send; what the loss of a node ends leaves it. -/
theorem nodeLoss : Obligations.NodeLoss := by
  unfold Obligations.NodeLoss
  refine ⟨fun p r s h htree => ?_, fun c s h htree => ?_, fun s h => ?_⟩
  case refine_1 =>
    exact ⟨fun hm hopen => probe_answers h htree hm hopen, fun hm => probeAnswer_ends h htree hm,
      fun port hm => ⟨fun hnew hroom => lossNotice_adds h htree hm hnew hroom, fun hknown => lossNotice_known h htree hm hknown⟩,
      fun port hm => rejoinNotice_removes h htree hm⟩
  case refine_2 =>
    exact ⟨probeTimeout_early h, fun b hb hc hdue => ⟨probeTimeout_only h htree hb hc hdue,
      fun hgone hnew hroom => probeTimeout_loses h htree hb hc hdue hgone hnew hroom⟩⟩
  case refine_3 =>
    exact ⟨degradedRoutingEnd_off h, fun k hon => ⟨degradedRoutingEnd_early h hon, degradedRoutingEnd_due h hon⟩⟩

end Sys2Proof.Proofs


/-! The report of an error in a unit (16:R443, R446, R473; Table 16-1): the record, the event, the error bit and the test that starts leave
the units, the commands and the collectives alone. -/

namespace Sys2Proof.Proofs

open Sys2Proof Sys2Proof.Machine Sys2Proof.Laws

/-! ## Reports -/

/-- The state but for what the report of an error reaches: what an event reaches, flash, the count of records, the free values, and of the
Tree all but which pair is active, its standby and the tests that run. -/
def unreported (s : State) : State :=
  { unposted s with
      flash := [], free := 0, boot := { s.boot with nextRecord := 0 }
      tree := { Tree.reset with active := s.tree.active, standby := s.tree.standby, tests := s.tree.tests } }

theorem unreported_of_unposted {s t : State} (h : unposted t = unposted s) : unreported t = unreported s :=
  (congrArg unreported h :)

theorem setErr_unreported (bit : Nat) (s : State) : unreported (setErr bit s) = unreported s := rfl

theorem logAppend_unreported (kind cls index : Nat) (detail : Bytes) (s : State) :
    unreported (logAppend kind cls index detail s) = unreported s := by
  have hflush (draft : Bytes) : unreported (logFlush draft s) = unreported s := by
    unfold logFlush
    extract_lets n lost body s1
    have h1 : unreported s1 = unreported s := by
      unfold s1
      split <;> rfl
    exact h1
  unfold logAppend
  extract_lets d
  split
  · split <;> rfl
  · exact hflush d

theorem mapStore_unreported (s : State) : unreported (mapStore s) = unreported s := by
  obtain ⟨f, hf⟩ := mapStore_frame s
  rw [hf]
  rfl

section
variable {s t : State} (h : unreported t = unreported s)
include h

theorem spares_of_unreported : t.boot.spares = s.boot.spares := (congrArg (fun u => u.boot.spares) h :)
theorem laneMap_of_unreported : t.boot.laneMap = s.boot.laneMap := (congrArg (fun u => u.boot.laneMap) h :)
theorem lanesRetired_of_unreported : t.boot.lanesRetired = s.boot.lanesRetired := (congrArg (fun u => u.boot.lanesRetired) h :)
theorem tests_of_unreported : t.tree.tests = s.tree.tests := (congrArg (fun u => u.tree.tests) h :)
theorem active_of_unreported : t.tree.active = s.tree.active := (congrArg (fun u => u.tree.active) h :)
theorem standby_of_unreported : t.tree.standby = s.tree.standby := (congrArg (fun u => u.tree.standby) h :)
theorem stg_of_unreported : t.stg = s.stg := (congrArg State.stg h :)
theorem cmds_of_unreported : t.cmds = s.cmds := (congrArg State.cmds h :)
theorem ctxs_of_unreported : t.ctxs = s.ctxs := (congrArg State.ctxs h :)
theorem threads_of_unreported : t.threads = s.threads := (congrArg State.threads h :)
theorem progs_of_unreported : t.progs = s.progs := (congrArg State.progs h :)

end

/-! ## Tests -/

/-- The state with other tests under way. -/
def testing (l : List UnitTest) (s : State) : State := { s with tree := { s.tree with tests := l } }

/-- 16:R443, R445: the test of a unit runs once it has started; its start reaches the list of tests and the keeper alone. -/
theorem startTest_starts (u : TestUnit) (byError threshold : Bool) (row : W32) (waiter : Option Nat) (s : State) : ∃ l,
    unreported (startTest u byError threshold row waiter s) = unreported (testing l s) ∧ (l.any fun t => t.unit = u) = true := by
  unfold startTest
  extract_lets fresh tests
  refine ⟨tests, unreported_of_unposted (wakeSource_unposted ..), ?_⟩
  unfold tests
  split
  · next hruns =>
    obtain ⟨t, ht, hunit⟩ := List.any_eq_true.1 hruns
    refine List.any_eq_true.2 ⟨_, List.mem_map_of_mem ht, ?_⟩
    rw [if_pos hunit]
    exact hunit
  · exact List.any_eq_true.2 ⟨fresh, List.mem_cons_self, decide_eq_true rfl⟩

theorem startTest_err (u : TestUnit) (byError threshold : Bool) (row : W32) (waiter : Option Nat) (s : State) :
    (startTest u byError threshold row waiter s).err = s.err := wakeSource_err ..

/-- The error that a unit reports: its record, and its test. -/
def reported (u : TestUnit) (code : Nat) (d : Bytes) (s : State) : State := startTest u true false 0 none (logError u code d s)

theorem reported_starts (u : TestUnit) (code : Nat) (d : Bytes) (s : State) : ∃ l,
    unreported (reported u code d s) = unreported (testing l s) ∧ (l.any fun t => t.unit = u) = true := by
  obtain ⟨l, hl, hruns⟩ := startTest_starts u true false 0 none (logError u code d s)
  exact ⟨l, hl.trans (congrArg (fun v => unreported (testing l v)) (logAppend_unreported ..) :), hruns⟩

theorem reported_err (u : TestUnit) (code : Nat) (d : Bytes) (s : State) : (reported u code d s).err = s.err :=
  (startTest_err ..).trans (logAppend_err ..)

end Sys2Proof.Proofs


/-! Failing lanes and staging banks (13:R364; 16:R450, R451): beside its report, what becomes of the unit. -/

namespace Sys2Proof.Proofs

open Sys2Proof Sys2Proof.Machine Sys2Proof.Laws

/-! ## Lanes -/

section
variable {s : State} {lane q : Byte} {kind : LaneErrorKind}

theorem laneCtxs_idle (hidle : s.threads = []) (p : Byte) : laneCtxs s p = [] := by
  rw [laneCtxs, hidle]
  rfl

/-- What an erring lane's uncorrectable word ends, of the collectives on the lane (16 Table 16-1). -/
def laneWords (lane : Byte) (kind : LaneErrorKind) (s : State) : State :=
  if kind = .memUncorrectable then
    ((laneCtxs s lane).zipIdx.filter fun i => Config.freeBool (s.free + i.2)).foldl (fun t i => laneWordLost i.1 t)
      (bumpFree (laneCtxs s lane).length s)
  else s

theorem laneWords_idle (hidle : s.threads = []) (lane : Byte) (kind : LaneErrorKind) :
    laneWords lane kind s = if kind = .memUncorrectable then bumpFree 0 s else s := by
  rw [laneWords, laneCtxs_idle hidle]
  rfl

theorem moveAll_idle (hidle : s.threads = []) (src dst : Byte) : moveAll src dst s = some s := by
  rw [moveAll, hidle]
  rfl

theorem spareFor_of_unreported {t : State} (h : unreported t = unreported s) (p : Byte) : spareFor t p = spareFor s p := by
  unfold spareFor libraryHolds
  rw [spares_of_unreported h, threads_of_unreported h, progs_of_unreported h]

/-- 13:R364: a spare lane that errs leaves the spares. -/
theorem clearLane_spare (hspare : lane ∈ s.boot.spares) :
    clearLane lane s = { s with boot := { s.boot with spares := s.boot.spares.filter fun l => l ≠ lane } } :=
  if_pos (by simpa using hspare)

/-- 13:R364: the spare takes the logical index of a lane that runs nothing. -/
theorem clearLane_idle (hidle : s.threads = []) (hactive : lane ∉ s.boot.spares) (hq : spareFor s lane = some q) :
    clearLane lane s = { s with boot := { s.boot with laneMap := s.boot.laneMap.map fun l => if l = lane then q else l
                                                      spares := s.boot.spares.filter fun l => l ≠ q } } := by
  unfold clearLane moveLane
  rw [if_neg (by simpa using hactive), hq]
  simp only [moveAll_idle hidle]
  rfl

theorem laneError_elsewhere (h : s.Runs) (hmap : lane ∉ s.boot.laneMap) (hspare : lane ∉ s.boot.spares) :
    Machine.exec (.laneError lane kind) s = .next s :=
  (live_runs h).trans (congrArg Host.Outcome.next (onlyIf_false (by simp [hmap, hspare])))

/-- A lane that errs while nothing runs reports it, its test starts, and it is cleared. -/
theorem laneError_clears (h : s.Runs) (htree : treeRuns s = true) (hready : s.boot.phase = phReady) (hidle : s.threads = [])
    (hlane : lane ∈ s.boot.laneMap ∨ lane ∈ s.boot.spares) : ∃ v l, Machine.exec (.laneError lane kind) s = .next (clearLane lane v) ∧
      unreported v = unreported (testing l s) ∧ (l.any fun t => t.unit = .lane lane) = true ∧
      v.err.status.getLsbD errLane = true := by
  obtain ⟨l, hl, hruns⟩ := reported_starts (.lane lane) 0 [] (setErr errLane s)
  have herr : (reported (.lane lane) 0 [] (setErr errLane s)).err.status.getLsbD errLane = true := by
    rw [reported_err]
    exact setErr_sets (by decide) s
  generalize hv : reported (.lane lane) 0 [] (setErr errLane s) = v at hl herr
  have hcond : (treeRuns s && decide (s.boot.phase = phReady) && (s.boot.laneMap.contains lane || s.boot.spares.contains lane)) = true := by
    simp [htree, hready, hlane]
  have hexec : Machine.exec (.laneError lane kind) s = .next (clearLane lane (laneWords lane kind v)) := by
    rw [← hv]
    exact (live_runs h).trans (congrArg Host.Outcome.next (onlyIf_true hcond))
  rw [laneWords_idle ((threads_of_unreported hl).trans hidle)] at hexec
  refine ⟨_, l, hexec, ?_, hruns, ?_⟩
  · rw [apply_ite unreported, show unreported (bumpFree 0 v) = unreported v from rfl, ite_self]
    exact hl
  · rw [apply_ite State.err, bumpFree_err, ite_self]
    exact herr

theorem laneError_spare (h : s.Runs) (htree : treeRuns s = true) (hready : s.boot.phase = phReady) (hidle : s.threads = [])
    (hspare : lane ∈ s.boot.spares) : ∃ t, Machine.exec (.laneError lane kind) s = .next t ∧
      t.boot.spares = s.boot.spares.filter (fun l => l ≠ lane) ∧ t.boot.laneMap = s.boot.laneMap ∧
      t.err.status.getLsbD errLane = true ∧ testRunning t (.lane lane) = true := by
  obtain ⟨v, l, hexec, hv, hruns, herr⟩ := laneError_clears (kind := kind) h htree hready hidle (.inr hspare)
  have hspares : v.boot.spares = s.boot.spares := (spares_of_unreported hv).trans rfl
  rw [clearLane_spare (by rw [hspares]; exact hspare)] at hexec
  refine ⟨_, hexec, by rw [← hspares], (laneMap_of_unreported hv).trans rfl, herr, ?_⟩
  change (v.tree.tests.any fun t => t.unit = .lane lane) = true
  rw [tests_of_unreported hv]
  exact hruns

theorem laneError_active (h : s.Runs) (htree : treeRuns s = true) (hready : s.boot.phase = phReady) (hidle : s.threads = [])
    (hmap : lane ∈ s.boot.laneMap) (hactive : lane ∉ s.boot.spares) (hq : spareFor s lane = some q) :
    ∃ t, Machine.exec (.laneError lane kind) s = .next t ∧ t.boot.laneMap = s.boot.laneMap.map (fun l => if l = lane then q else l) ∧
      t.boot.spares = s.boot.spares.filter (fun l => l ≠ q) ∧ testRunning t (.lane lane) = true := by
  obtain ⟨v, l, hexec, hv, hruns, -⟩ := laneError_clears (kind := kind) h htree hready hidle (.inl hmap)
  have hspares : v.boot.spares = s.boot.spares := (spares_of_unreported hv).trans rfl
  have hlanes : v.boot.laneMap = s.boot.laneMap := (laneMap_of_unreported hv).trans rfl
  have hfor : spareFor v lane = some q := (spareFor_of_unreported hv lane).trans hq
  rw [clearLane_idle ((threads_of_unreported hv).trans hidle) (by rw [hspares]; exact hactive) hfor] at hexec
  refine ⟨_, hexec, by rw [← hlanes], by rw [← hspares], ?_⟩
  change (v.tree.tests.any fun t => t.unit = .lane lane) = true
  rw [tests_of_unreported hv]
  exact hruns

end

/-! ## Staging banks -/

section
variable {s : State} {bank : BitVec 4} {word : W32} {unc : Bool}

/-- What an uncorrectable word does (16:R451): in the open area it is poisoned, elsewhere Octoz loses it. -/
def wordLost (o : Nat) (s : State) : State := if o < Config.stagingOpen then stgMarkPoison o 8 s else octozWord s

/-- Where a word of a logical bank lies. -/
def wordAt (bank : BitVec 4) (word : W32) : Nat := bank.toNat * 6291456 + word.toNat * 8

theorem stagingError_beyond (h : s.Runs) (hword : 6291456 ≤ word.toNat * 8) :
    Machine.exec (.stagingError bank word unc) s = .next s := by
  have hnot : ¬word.toNat * 8 < Config.stagingBank := Nat.not_lt.2 hword
  exact (live_runs h).trans (congrArg Host.Outcome.next (onlyIf_false (by simp [hnot])))

theorem stagingError_runs (h : s.Runs) (htree : treeRuns s = true) (hready : s.boot.phase = phReady)
    (hword : word.toNat * 8 < 6291456) : Machine.exec (.stagingError bank word unc) s =
      .next (bankError bank (if unc then wordLost (wordAt bank word) (setErr errStaging s) else setErr errStaging s)) := by
  have hin : word.toNat * 8 < Config.stagingBank := hword
  exact (live_runs h).trans (congrArg Host.Outcome.next (onlyIf_true (by simp [htree, hready, hin])))

theorem octozWord_frame (s : State) : (octozWord s).stg = s.stg ∧ (octozWord s).tree.tests = s.tree.tests ∧ (octozWord s).err = s.err := by
  unfold octozWord
  extract_lets s1
  split
  · split <;> exact ⟨rfl, rfl, rfl⟩
  · unfold askReset
    split <;> exact ⟨rfl, rfl, rfl⟩

/-- 16:R451: a lost word changes no byte and no bank of the staging memory. -/
theorem wordLost_frame (o : Nat) (s : State) : (wordLost o s).stg.map = s.stg.map ∧ (wordLost o s).stg.mem = s.stg.mem ∧
    (wordLost o s).stg.spare = s.stg.spare ∧ (wordLost o s).tree.tests = s.tree.tests ∧ (wordLost o s).err = s.err := by
  unfold wordLost
  split
  · exact ⟨rfl, rfl, rfl, rfl, rfl⟩
  · obtain ⟨hstg, htests, herr⟩ := octozWord_frame s
    exact ⟨by rw [hstg], by rw [hstg], by rw [hstg], htests, herr⟩

/-- A fold that adds elements to a list keeps those that are there, and holds those that it adds. -/
theorem mem_foldl_add {α : Type} [DecidableEq α] {x : α} (l m : List α) (h : x ∈ m ∨ x ∈ l) :
    x ∈ l.foldl (fun r g => if r.contains g then r else g :: r) m := by
  induction l generalizing m with
  | nil => simpa using h
  | cons y l ih =>
    refine ih _ ?_
    change x ∈ (if m.contains y then m else y :: m) ∨ x ∈ l
    by_cases hy : y ∈ m
    · rw [if_pos (by simpa using hy)]
      rcases h with h | h
      · exact .inl h
      · rcases List.mem_cons.1 h with rfl | h
        · exact .inl hy
        · exact .inr h
    · rw [if_neg (by simpa using hy)]
      rcases h with h | h
      · exact .inl (List.mem_cons_of_mem y h)
      · rcases List.mem_cons.1 h with rfl | h
        · exact .inl List.mem_cons_self
        · exact .inr h

theorem stgReadPoison_marked {o n : Nat} (hn : 0 < n) (s : State) : stgReadPoison (stgMarkPoison o n s) o n = true := by
  refine List.any_eq_true.2 ⟨0, List.mem_range.2 hn, ?_⟩
  rw [List.contains_iff_mem]
  exact mem_foldl_add _ _ (.inr (List.mem_map_of_mem (List.mem_range.2 hn)))

/-- 16:R451: with the spare retired the bank stays in service; an uncorrectable word of the open area is poisoned. -/
theorem stagingError_stays (h : s.Runs) (htree : treeRuns s = true) (hready : s.boot.phase = phReady)
    (hword : word.toNat * 8 < 6291456) (hspare : s.stg.spare = none) (htest : stagingTest s = false) :
    ∃ t, Machine.exec (.stagingError bank word unc) s = .next t ∧ t.stg.map = s.stg.map ∧ t.stg.mem = s.stg.mem ∧
      t.err.status.getLsbD errStaging = true ∧ (unc = false → t.stg = s.stg) ∧
      (unc = true → wordAt bank word < 0x04000000 → stgReadPoison t (wordAt bank word) 8 = true) := by
  have hstays {u : State} (hs : u.stg.spare = s.stg.spare) (ht : u.tree.tests = s.tree.tests) : bankError bank u = u := by
    have htest' : stagingTest u = false := by rw [stagingTest, ht]; exact htest
    unfold bankError
    rw [hs, hspare, htest']
    rfl
  have herr : (setErr errStaging s).err.status.getLsbD errStaging = true := setErr_sets (by decide) s
  have hexec := stagingError_runs (bank := bank) (unc := unc) h htree hready hword
  obtain ⟨hmap, hmem, hsp, htests, hkept⟩ := wordLost_frame (wordAt bank word) (setErr errStaging s)
  cases unc with
  | false =>
    rw [if_neg Bool.false_ne_true, hstays (u := setErr errStaging s) rfl rfl] at hexec
    exact ⟨_, hexec, rfl, rfl, herr, fun _ => rfl, fun hn => absurd hn (by decide)⟩
  | true =>
    rw [if_pos rfl, hstays hsp htests] at hexec
    refine ⟨_, hexec, hmap, hmem, by rw [hkept]; exact herr, fun hn => absurd hn (by decide), fun _ hopen => ?_⟩
    rw [wordLost, if_pos (show wordAt bank word < Config.stagingOpen from hopen)]
    exact stgReadPoison_marked (by decide) _

/-- 16:R450: a corrected error moves the bank to the spare, and its old bank is tested. -/
theorem stagingError_moves {sp : BitVec 5} (h : s.Runs) (htree : treeRuns s = true) (hready : s.boot.phase = phReady)
    (hword : word.toNat * 8 < 6291456) (hspare : s.stg.spare = some sp) :
    ∃ t, Machine.exec (.stagingError bank word false) s = .next t ∧ t.stg.map = setAt bank.toNat sp s.stg.map ∧ t.stg.spare = none ∧
      testRunning t (.staging (s.stg.map.getD bank.toNat 0)) = true := by
  have hexec := stagingError_runs (bank := bank) (unc := false) h htree hready hword
  obtain ⟨l, hl, hruns⟩ := reported_starts (.staging (s.stg.map.getD bank.toNat 0)) 0 [] (setErr errStaging s)
  have hmoves : bankError bank (setErr errStaging s) = copyBank bank.toNat sp.toNat
      (reported (.staging (s.stg.map.getD bank.toNat 0)) 0 [] (setErr errStaging s)) := by
    unfold bankError
    rw [setErr_stg, hspare]
    rfl
  rw [if_neg Bool.false_ne_true, hmoves] at hexec
  generalize reported (.staging (s.stg.map.getD bank.toNat 0)) 0 [] (setErr errStaging s) = v at hl hexec
  have hstg : v.stg = s.stg := (stg_of_unreported hl).trans rfl
  refine ⟨_, hexec, ?_, rfl, ?_⟩
  · change setAt bank.toNat (BitVec.ofNat 5 sp.toNat) v.stg.map = _
    rw [hstg, BitVec.ofNat_toNat, BitVec.setWidth_eq]
  · change (v.tree.tests.any fun t => t.unit = _) = true
    rw [tests_of_unreported hl]
    exact hruns

end

end Sys2Proof.Proofs


/-! Tree pairs that stop (16:R452), the ends of lane tests (16:R444 to R446; 05:R144), and O48 from the reports of errors. -/

namespace Sys2Proof.Proofs

open Sys2Proof Sys2Proof.Machine Sys2Proof.Laws

/-! ## Tree pairs -/

section
variable {s : State} {row : Instr}

/-- Both rows of a Tree pair that stops hand over to the standby. -/
theorem treeRow_fails (h : s.Runs) (hup : treeUp s = true)
    (hrow : row = .lockstepMismatch ∨ (row = .treeWatchdog ∧ s.tree.wdAt + 125000 ≤ now s)) :
    ∃ cause, Machine.exec row s = .next (failover cause s) := by
  rcases hrow with rfl | ⟨rfl, hdue⟩
  · exact ⟨1, (live_runs h).trans (congrArg Host.Outcome.next (onlyIf_true hup))⟩
  · exact ⟨2, (live_runs h).trans (congrArg Host.Outcome.next (onlyIf_true (by simp [hup, hdue])))⟩

theorem treeWatchdog_early (h : s.Runs) (hearly : now s < s.tree.wdAt + 125000) : Machine.exec .treeWatchdog s = .next s := by
  have hnot : ¬s.tree.wdAt + 125000 ≤ now s := Nat.not_le.2 hearly
  exact (live_runs h).trans (congrArg Host.Outcome.next (onlyIf_false (by simp [hnot])))

/-- The standby goes on with every started command, degraded (16:R452, R459). -/
def takenOver (s : State) : State :=
  degradeAll (bumpFree 2 { s with tree := { s.tree with
    active := s.tree.active ^^^ 1, standby := false, wdAt := now s, tests := s.tree.tests.map fun t => { t with since := now s } } })

theorem takenOver_degrades (s : State) : (∀ x ∈ (takenOver s).ctxs, x.degraded = true) ∧ ∀ c ∈ (takenOver s).cmds, c.degraded = true :=
  ⟨by simp [takenOver, degradeAll], by simp [takenOver, degradeAll]⟩

/-- 16:R452: without a standby a warm reset is asked for. -/
theorem failover_alone (hnone : s.tree.standby = false) (cause : Nat) : failover cause s = askReset .treeNoStandby s := by
  rw [failover, hnone]
  rfl

/-- 16:R452: beside the takeover, its event, its record, its error bit and the test of the failed pair. -/
theorem failover_takes (hstandby : s.tree.standby = true) (hready : s.boot.phase = phReady) (cause : Nat) : ∃ l,
    unreported (failover cause s) = unreported (testing l (takenOver s)) ∧
    (l.any fun t => t.unit = .treePair s.tree.active) = true ∧ (failover cause s).err.status.getLsbD errTree = true := by
  generalize hd : failoverDetail s cause = d
  generalize hu : setErr errTree (raiseEvent 0 5 (detailOf d) (takenOver s)) = u
  have hfail : failover cause s = reported (.treePair s.tree.active) 5 d (logAppend 0x06 3 (unitIndex (.treePair s.tree.active)) d u) := by
    rw [← hu, ← hd]
    unfold failover
    rw [if_neg (by simp [hstandby])]
    exact if_pos hready
  have hkept : unreported u = unreported (takenOver s) := by
    rw [← hu]
    exact unreported_of_unposted (raiseEvent_unposted ..)
  have herr : u.err.status.getLsbD errTree = true := by
    rw [← hu]
    exact setErr_sets (by decide) _
  obtain ⟨l, hl, hruns⟩ := reported_starts (.treePair s.tree.active) 5 d (logAppend 0x06 3 (unitIndex (.treePair s.tree.active)) d u)
  refine ⟨l, ?_, hruns, ?_⟩
  · rw [hfail]
    exact hl.trans (congrArg (fun v => unreported (testing l v)) ((logAppend_unreported ..).trans hkept) :)
  · rw [hfail, reported_err, logAppend_err]
    exact herr

theorem treePair_fails (h : s.Runs) (hup : treeUp s = true)
    (hrow : row = .lockstepMismatch ∨ (row = .treeWatchdog ∧ s.tree.wdAt + 125000 ≤ now s)) (hstandby : s.tree.standby = true)
    (hready : s.boot.phase = phReady) : ∃ t, Machine.exec row s = .next t ∧ t.tree.active = s.tree.active ^^^ 1 ∧
      t.tree.standby = false ∧ t.err.status.getLsbD errTree = true ∧ (∀ x ∈ t.ctxs, x.degraded = true) ∧
      (∀ c ∈ t.cmds, c.degraded = true) ∧ testRunning t (.treePair s.tree.active) = true := by
  obtain ⟨cause, hexec⟩ := treeRow_fails h hup hrow
  obtain ⟨l, hl, hruns, herr⟩ := failover_takes hstandby hready cause
  obtain ⟨hctxs, hcmds⟩ := takenOver_degrades s
  refine ⟨_, hexec, (active_of_unreported hl).trans rfl, (standby_of_unreported hl).trans rfl, herr, ?_, ?_, ?_⟩
  · rw [ctxs_of_unreported hl]
    exact hctxs
  · rw [cmds_of_unreported hl]
    exact hcmds
  · rw [testRunning, tests_of_unreported hl]
    exact hruns

end

/-! ## The ends of lane tests -/

section
variable {s : State} {u : TestUnit} {p : Byte} {x : UnitTest} {c : Cmd} {pass : Bool}

theorem targetedSelftestEnd_idle (h : s.Runs) (hidle : testRunning s u = false) :
    Machine.exec (.targetedSelftestEnd u pass) s = .next s := by
  have hnone : s.tree.tests.find? (fun t => t.unit = u) = none := by
    rw [List.find?_eq_none]
    exact List.any_eq_false.1 hidle
  refine (live_runs h).trans (congrArg Host.Outcome.next ?_)
  unfold onlyIf
  split
  · dsimp only
    rw [hnone]
  · rfl

/-- The node once its one test has ended: the transients that still count stay (16:R444). -/
def untested (s : State) : State :=
  { s with tree := { s.tree with tests := [], transients := s.tree.transients.filter fun y => decide (now s < y.2 + Config.tick600s) } }

theorem testAnswers_single (hwaits : x.waiters = [c.id]) (hcmds : s.cmds = [c]) (pass : Bool) :
    testAnswers x pass s = endHeld c stOK 1 (if pass then 0 else 1) s := by
  have hfind : findCmd c.id s = some c := by simp [findCmd, hcmds]
  rw [testAnswers, hwaits]
  simp only [List.foldl_cons, List.foldl_nil, hfind]

/-- 05:R144: a SELFTEST command that waits for a test ends with it, and leaves the units. -/
theorem testAnswers_ends (hwaits : x.waiters = [c.id]) (hcmds : s.cmds = [c]) (pass : Bool) :
    unreported (testAnswers x pass s) = unreported { s with cmds := [] } := by
  rw [testAnswers_single hwaits hcmds]
  refine (unreported_of_unposted (endHeld_unposted ..)).trans ?_
  rw [hcmds]
  simp

/-- 16:R444, R446: the end of a SELFTEST's test of a lane, with the record of a lasting fault before the answer. -/
theorem laneTest_ends (h : s.Runs) (htree : treeRuns s = true) (htests : s.tree.tests = [x]) (hunit : x.unit = .lane p)
    (hself : x.byError = false) (hwaits : x.waiters = [c.id]) (hcmds : s.cmds = [c]) (hin : s.boot.lanesRetired.getLsbD p.toNat = false) :
    Machine.exec (.targetedSelftestEnd (.lane p) true) s = .next (unitPassed x (testAnswers x true (untested s))) ∧
    ∃ d, Machine.exec (.targetedSelftestEnd (.lane p) false) s =
      .next (unitRetired x 1 (testAnswers x false (logAppend 3 (unitClass (.lane p)) (unitIndex (.lane p)) d (untested s)))) := by
  have hfind : s.tree.tests.find? (fun t => t.unit = .lane p) = some x := by simp [htests, hunit]
  have hrest : (s.tree.tests.filter fun y => y.unit ≠ .lane p) = [] := by simp [htests, hunit]
  have hcmd : findCmd c.id s = some c := by simp [findCmd, hcmds]
  have hkept (d : Bytes) : (testAnswers x false (logAppend 3 (unitClass (.lane p)) (unitIndex (.lane p)) d
      (untested s))).boot.lanesRetired.getLsbD p.toNat = false := by
    have hlog := logAppend_unreported 3 (unitClass (.lane p)) (unitIndex (.lane p)) d (untested s)
    rw [lanesRetired_of_unreported (testAnswers_ends hwaits ((cmds_of_unreported hlog).trans hcmds) false)]
    exact (congrArg (fun r => BitVec.getLsbD r p.toNat) (lanesRetired_of_unreported hlog)).trans hin
  constructor
  · refine (live_runs h).trans (congrArg Host.Outcome.next ((onlyIf_true htree).trans ?_))
    dsimp only
    rw [hfind, hrest]
    simp [hself, hwaits, hcmd, untested]
  · refine ⟨?_, (live_runs h).trans (congrArg Host.Outcome.next ((onlyIf_true htree).trans ?_))⟩
    · exact doneDetail (untested s) x false (transientsOf (untested s) (.lane p))
    dsimp only
    rw [hfind, hrest]
    simp only [hself, hwaits, hcmd, isRetired, hin, Bool.false_and, Bool.not_false, Bool.or_true, Bool.and_true, Bool.or_false,
      List.any_cons, List.any_nil, Option.isSome_some, Bool.not_true, Bool.and_false,
      if_true, Bool.false_eq_true, if_false]
    exact if_neg (Bool.eq_false_iff.1 (hkept _))

theorem unitPassed_lane (hunit : x.unit = .lane p) (hin : s.boot.lanesRetired.getLsbD p.toNat = false) :
    unitPassed x s = { s with boot := { s.boot with spares := s.boot.spares ++ [p] } } := by
  have hnot : isRetired s x.unit = false := by rw [hunit]; exact hin
  unfold unitPassed
  rw [hnot, hunit]
  rfl

theorem unitRetired_lane (hunit : x.unit = .lane p) (verdict : Nat) :
    unitRetired x verdict s = retireUnit (.lane p) verdict x.row.toNat s := by
  unfold unitRetired
  rw [hunit]
  rfl

/-- 16:R446: a lane with a lasting fault is marked in the retirement map; the rest of it is the report. -/
theorem retireUnit_lane (p : Byte) (verdict row : Nat) (s : State) :
    unreported (retireUnit (.lane p) verdict row s) = unreported (markRetired (.lane p) true s) ∧
    (retireUnit (.lane p) verdict row s).err.status.getLsbD errRetired = true := by
  unfold retireUnit
  extract_lets s1 d s2
  refine ⟨?_, setErr_sets (by decide) _⟩
  have hstore : unreported (mapStore s2) = unreported s1 := (mapStore_unreported s2).trans (logAppend_unreported ..)
  have hevent : unreported (raiseEvent 0 6 (detailOf d) (mapStore s2)) = unreported (mapStore s2) :=
    unreported_of_unposted (raiseEvent_unposted ..)
  exact (setErr_unreported ..).trans (hevent.trans hstore)

theorem putBit_sets {w i : Nat} (hi : i < w) (r : BitVec w) : (putBit r i true).getLsbD i = true := by
  rw [putBit, if_pos rfl, BitVec.getLsbD_or, show (1 : BitVec w) = 1#w from rfl, BitVec.getLsbD_shiftLeft]
  simp [hi, Nat.zero_lt_of_lt hi]

theorem laneTest_passes (h : s.Runs) (htree : treeRuns s = true) (htests : s.tree.tests = [x]) (hunit : x.unit = .lane p)
    (hself : x.byError = false) (hwaits : x.waiters = [c.id]) (hcmds : s.cmds = [c]) (hin : s.boot.lanesRetired.getLsbD p.toNat = false) :
    ∃ t, Machine.exec (.targetedSelftestEnd (.lane p) true) s = .next t ∧ t.cmds = [] ∧ t.tree.tests = [] ∧
      t.boot.spares = s.boot.spares ++ [p] ∧ t.boot.lanesRetired = s.boot.lanesRetired := by
  obtain ⟨hexec, -⟩ := laneTest_ends h htree htests hunit hself hwaits hcmds hin
  have hw := testAnswers_ends (s := untested s) hwaits hcmds true
  generalize testAnswers x true (untested s) = v at hexec hw
  have hretired : v.boot.lanesRetired = s.boot.lanesRetired := (lanesRetired_of_unreported hw).trans rfl
  have hspares : v.boot.spares = s.boot.spares := (spares_of_unreported hw).trans rfl
  rw [unitPassed_lane hunit (by rw [hretired]; exact hin)] at hexec
  exact ⟨_, hexec, (cmds_of_unreported hw).trans rfl, (tests_of_unreported hw).trans rfl, by rw [← hspares], hretired⟩

theorem laneTest_fails (h : s.Runs) (htree : treeRuns s = true) (htests : s.tree.tests = [x]) (hunit : x.unit = .lane p)
    (hself : x.byError = false) (hwaits : x.waiters = [c.id]) (hcmds : s.cmds = [c]) (hin : s.boot.lanesRetired.getLsbD p.toNat = false)
    (hp : p.toNat < 168) : ∃ t, Machine.exec (.targetedSelftestEnd (.lane p) false) s = .next t ∧ t.cmds = [] ∧ t.tree.tests = [] ∧
      t.boot.spares = s.boot.spares ∧ t.boot.lanesRetired.getLsbD p.toNat = true ∧ t.err.status.getLsbD errRetired = true := by
  obtain ⟨-, d, hexec⟩ := laneTest_ends h htree htests hunit hself hwaits hcmds hin
  have hlog := logAppend_unreported 3 (unitClass (.lane p)) (unitIndex (.lane p)) d (untested s)
  generalize logAppend 3 (unitClass (.lane p)) (unitIndex (.lane p)) d (untested s) = u at hexec hlog
  have hspares : u.boot.spares = s.boot.spares := (spares_of_unreported hlog).trans rfl
  have hw := testAnswers_ends (s := u) hwaits ((cmds_of_unreported hlog).trans hcmds) false
  generalize testAnswers x false u = v at hexec hw
  obtain ⟨hr, herr⟩ := retireUnit_lane p 1 x.row.toNat v
  rw [unitRetired_lane hunit] at hexec
  refine ⟨_, hexec, ?_, ?_, ?_, ?_, herr⟩
  · exact (cmds_of_unreported hr).trans (cmds_of_unreported hw)
  · exact (tests_of_unreported hr).trans ((tests_of_unreported hw).trans (tests_of_unreported hlog))
  · exact (spares_of_unreported hr).trans ((spares_of_unreported hw).trans hspares)
  · rw [lanesRetired_of_unreported hr]
    exact putBit_sets hp _

end

/-- Settles O48: a unit's error is its report and what becomes of the unit; the end of a lane's test is an answer and the lane's place. -/
theorem unitsFail : Obligations.UnitsFail := by
  unfold Obligations.UnitsFail
  refine ⟨fun lane kind s h htree hready hidle _ => ?_, fun bank word unc s h htree hready => ?_, fun row s h hup hrow => ?_,
    fun s h hearly => treeWatchdog_early h hearly, fun u pass s h hidle => targetedSelftestEnd_idle h hidle,
    fun p x c s h htree htests hunit hself hwaits hcmds hin hp => ?_⟩
  case refine_1 =>
    exact ⟨fun hmap hspare => laneError_elsewhere h hmap hspare, fun hspare => laneError_spare h htree hready hidle hspare,
      fun q hmap hactive hq => laneError_active h htree hready hidle hmap hactive hq⟩
  case refine_2 =>
    intro o
    refine ⟨fun hword => stagingError_beyond h hword,
      fun hword hspare htest => stagingError_stays h htree hready hword hspare htest, fun sp hword hcorr hspare => ?_⟩
    subst hcorr
    exact stagingError_moves h htree hready hword hspare
  case refine_3 =>
    refine ⟨fun halone => ?_, fun hstandby hready => treePair_fails h hup hrow hstandby hready⟩
    obtain ⟨cause, hexec⟩ := treeRow_fails h hup hrow
    rw [hexec, failover_alone halone]
  case refine_4 =>
    exact ⟨laneTest_passes h htree htests hunit hself hwaits hcmds hin, laneTest_fails h htree htests hunit hself hwaits hcmds hin hp⟩

end Sys2Proof.Proofs
